-- ==== Sys2Proof/Word.lean ====
section
/-! DEFINITION. The word types of the machine: bytes, 32-bit register words and 64-bit pairs. -/

namespace Sys2Proof

/-- One byte of memory. -/
abbrev Byte := BitVec 8

/-- One 32-bit vector register of one lane (05/R112). -/
abbrev Word := BitVec 32

/-- One 64-bit register pair, address or system register. -/
abbrev DWord := BitVec 64

/-- Bits [31:0] of a pair are in the even register, bits [63:32] in the odd one (08/R181). -/
def pairOf (lo hi : Word) : DWord := BitVec.ofNat 64 (lo.toNat + 4294967296 * hi.toNat)

/-- Bits [31:0] of a 64-bit value. -/
def loWord (x : DWord) : Word := BitVec.ofNat 32 x.toNat

/-- Bits [63:32] of a 64-bit value. -/
def hiWord (x : DWord) : Word := BitVec.ofNat 32 (x.toNat / 4294967296)

/-- Bits [lo + n - 1 : lo] of a natural number. -/
def bitsAt (x lo n : Nat) : Nat := x / 2 ^ lo % 2 ^ n

end Sys2Proof
end

