-- ==== Sys2Proof/Syntax.lean ====
section
/-! DEFINITION. The operand types and the one inductive `Instr`: every row of spec/opcode_table.json is a
constructor, the encoded instructions (14/R317) with their decoded operands, and the device steps with the data
the outside world or an engine supplies to them. -/

namespace Sys2Proof

/-- The fourteen number formats and the two other tags (08/R180). -/
inductive Tag where
  | raw | f32 | f16 | bf16 | s8 | n8 | s16 | n16 | s32 | n32 | s64 | n64 | xb8 | xb4 | xsc | foreign
  deriving DecidableEq, Repr

/-- The length of an instruction item (14/R304). -/
inductive Len where
  | l64 | l96 | l128
  deriving DecidableEq, Repr

/-- The memory spaces of 05/R107. -/
inductive Space where
  | g | s | p | w | c
  deriving DecidableEq, Repr

/-- The ordering sub-field (14/R307). -/
inductive MemOrd where
  | none | acq | rel | full
  deriving DecidableEq, Repr

/-- The scopes of 00/R3. -/
inductive Scope where
  | th | gr | tm | cl | pn | dv | sy
  deriving DecidableEq, Repr

/-- The rounding modes of 08/R186. -/
inductive Rnd where
  | rne | rtz | rup | rdn | sr
  deriving DecidableEq, Repr

/-- The permutation kinds of 14/R315. -/
inductive PermKind where
  | none | rot | bcast | bfly | mirror
  deriving DecidableEq, Repr

/-- One permutation field: kind and parameter (14/R315). -/
structure Perm where
  kind : PermKind
  k : Nat
  deriving DecidableEq, Repr

/-- The fields every instruction carries: its length, flag select, guard, subgroup size code and the three
permutation fields (14/R305, R306). -/
structure Pre where
  len : Len
  fs : Bool
  ge : Bool
  gn : Bool
  gb : Nat
  sg : Nat
  pa : Perm
  pb : Perm
  pc : Perm
  deriving DecidableEq, Repr

/-- An operand that is a register or the unsigned or signed C byte, as the IMM bit says. -/
inductive RegImm where
  | reg (n : Nat)
  | imm (k : Nat)
  deriving DecidableEq, Repr

/-- The comparison codes of ICMP and WAITV. -/
inductive Cond where
  | eq | ne | lt | le | gt | ge
  deriving DecidableEq, Repr

/-- The comparison codes of FCMP (16/R346). -/
inductive FCond where
  | eq | ne | lt | le | gt | ge | uno | num
  deriving DecidableEq, Repr

/-- How a comparison is combined with the old predicate bit (15/R323). -/
inductive Comb where
  | set | and | or
  deriving DecidableEq, Repr

/-- The L1 hints (14/R307). -/
inductive Hint where
  | none | evf | evl
  deriving DecidableEq, Repr

/-- The atomic operations (17/R373). -/
inductive AtOp where
  | add | min | max | and | or | xor | exch | cas
  deriving DecidableEq, Repr

/-- The engine classes (10/R221). -/
inductive Cls where
  | copy | fab | gath | mat | coll | dec
  deriving DecidableEq, Repr

/-- SHFL modes (16/R359). -/
inductive ShflMode where
  | idx | up | down | xor
  deriving DecidableEq, Repr

/-- VOTE modes (16/R361). -/
inductive VoteMode where
  | all | any | uni
  deriving DecidableEq, Repr

/-- LREDUCE and LSCAN operations (16/R363). -/
inductive LaneOp where
  | add | min | max | and | or | xor
  deriving DecidableEq, Repr

/-- MREDUCE modes (16/R357). -/
inductive MredMode where
  | sum | mean | scale
  deriving DecidableEq, Repr

/-- A thread is named by its core, its group slot and its lane (04/R87). -/
structure Tid where
  core : Nat
  slot : Nat
  lane : Nat
  deriving DecidableEq, Repr

/-- A fabric packet as it is received or sent (02/R37): the header fields and the payload bytes. -/
structure Packet where
  dst : Nat
  src : Nat
  typ : Nat
  cls : Nat
  len : Nat
  hot : Bool
  rsv : Bool
  tag : Nat
  addr : Nat
  ctx : Nat
  bmask : Nat
  aux : Nat
  etag : Nat
  data : List Byte
  deriving DecidableEq, Repr

/-- The runtime's three answers to a fault report (06/R146). -/
inductive Answer where
  | replay | forward | finish
  deriving DecidableEq, Repr

/-- What names an open fault report: cluster, context, 64 KiB page number and cause (06/R146). -/
structure ReportKey where
  cluster : Nat
  ctx : Nat
  page : Nat
  cause : Nat
  deriving DecidableEq, Repr

/-- Where an arrival word lies: at a physical address, or at a scratchpad offset of a placed team (10/R226). -/
inductive WordLoc where
  | mem (pa : Nat)
  | scr (team off : Nat)
  deriving DecidableEq, Repr

/-- A firmware image in a boot-flash slot (03/R70). -/
structure Firmware where
  key : List Byte
  version : Nat
  image : List Byte
  sig : List Byte
  deriving DecidableEq, Repr

/-- One 64 × 64 unit that a decode engine has decoded (10/R242, R243), in the order of decoding: its shown frame, its place in the
crop, the number of its tile in the frame, whether a syntax or range error was found in the tile up to it, whether one was found in its
frame's header, the units (frame, row and column) of earlier frames from which its blocks are predicted, whether a block is predicted
from a damaged unit that is not output, whether the stream is outside R240, the samples of Y, Cb and Cr row by row (64 × 64 and
32 × 32), and its frame's film-grain parameter set. The bitstream standard itself is not given by the spec, so these are the step's
operand. -/
structure DecodedUnit where
  frame : Nat
  row : Nat
  col : Nat
  tile : Nat
  error : Bool
  header : Bool
  refs : List (Nat × Nat × Nat)
  lost : Bool
  outside : Bool
  planes : List (List Nat)
  side : List Byte
  deriving DecidableEq, Repr

/-- What the runtime found on the management-core path (12/R277): the instruction was executed in software, with
these registers written, these status bits set and these bytes stored at physical addresses of local memory, or it cannot be
executed. -/
inductive MgmtResult where
  | executed (writes : List (Nat × Word × Tag)) (stat : BitVec 6) (stores : List (Nat × List Byte))
  | cannot
  deriving DecidableEq, Repr

/-- A clause header's fields (14/R308). -/
structure Header where
  wait : Nat
  seta : Nat
  setb : Nat
  pred : Nat
  count : Nat
  yield : Bool
  deriving DecidableEq, Repr

/-- The raw fields of word 0 and word 1 of an item that is not a defined instruction (14/R318), with its length. -/
structure RawItem where
  len : Len
  op : Nat
  ge : Bool
  gn : Bool
  gb : Nat
  cause : Nat
  deriving DecidableEq, Repr

/-- Every row of spec/opcode_table.json. The encoded instructions come first, in the table's order; the device
steps follow. Register numbers are 0 to 255. -/
inductive Instr where
  -- integer, address and control (15)
  | nop (p : Pre)
  | mov (p : Pre) (w64 : Bool) (d a : Nat)
  | movx (p : Pre) (d a b : Nat)
  | movxw (p : Pre) (d a b : Nat)
  | tag (p : Pre) (w64 : Bool) (code : Tag) (d a : Nat)
  | tagq (p : Pre) (d a : Nat)
  | idq (p : Pre) (d sel : Nat)
  | iadd (p : Pre) (ty : Tag) (sat : Bool) (d a b : Nat)
  | isub (p : Pre) (ty : Tag) (sat : Bool) (d a b : Nat)
  | ineg (p : Pre) (ty : Tag) (sat : Bool) (d a : Nat)
  | iabs (p : Pre) (ty : Tag) (sat : Bool) (d a : Nat)
  | imin (p : Pre) (ty : Tag) (d a b : Nat)
  | imax (p : Pre) (ty : Tag) (d a b : Nat)
  | imul (p : Pre) (ty : Tag) (sat : Bool) (d a b : Nat)
  | imulh (p : Pre) (ty : Tag) (d a b : Nat)
  | imad (p : Pre) (ty : Tag) (sat : Bool) (d a b c : Nat)
  | imadw (p : Pre) (ty : Tag) (sat : Bool) (d a b c : Nat)
  | iaddc (p : Pre) (d a b c : Nat)
  | isubb (p : Pre) (d a b c : Nat)
  | iadd64 (p : Pre) (ty : Tag) (sat : Bool) (d a b : Nat)
  | isub64 (p : Pre) (ty : Tag) (sat : Bool) (d a b : Nat)
  | icmp (p : Pre) (ty : Tag) (cond : Cond) (comb : Comb) (d a b k : Nat)
  | isel (p : Pre) (d a b c k : Nat)
  | shl (p : Pre) (d a : Nat) (n : RegImm)
  | shr (p : Pre) (d a : Nat) (n : RegImm)
  | sar (p : Pre) (d a : Nat) (n : RegImm)
  | rotl (p : Pre) (d a : Nat) (n : RegImm)
  | shl64 (p : Pre) (d a : Nat) (n : RegImm)
  | shr64 (p : Pre) (d a : Nat) (n : RegImm)
  | and (p : Pre) (d a : Nat) (b : RegImm)
  | or (p : Pre) (d a : Nat) (b : RegImm)
  | xor (p : Pre) (d a : Nat) (b : RegImm)
  | andn (p : Pre) (d a : Nat) (b : RegImm)
  | lut3 (p : Pre) (d a b c table : Nat)
  | bfx (p : Pre) (ty : Tag) (d a pos len1 : Nat)
  | bfi (p : Pre) (d a b pos len1 : Nat)
  | popc (p : Pre) (d a : Nat)
  | clz (p : Pre) (d a : Nat)
  | ctz (p : Pre) (d a : Nat)
  | brev (p : Pre) (d a : Nat)
  | bperm (p : Pre) (d a b c : Nat)
  | bset (p : Pre) (d a : Nat) (n : RegImm)
  | bclr (p : Pre) (d a : Nat) (n : RegImm)
  | movi (p : Pre) (ty : Tag) (d : Nat) (imm : Int)
  | movi64 (p : Pre) (ty : Tag) (d : Nat) (imm : Int)
  | bra (p : Pre) (off : Int)
  | brx (p : Pre) (a : Nat)
  | call (p : Pre) (d : Nat) (off : Int)
  | callx (p : Pre) (d a : Nat)
  | ret (p : Pre) (a : Nat)
  | seam (p : Pre)
  | bar (p : Pre)
  | yield (p : Pre)
  | pause (p : Pre) (n : Nat)
  | spawn (p : Pre) (a b : Nat)
  | exit (p : Pre)
  -- floating point, conversion and cross-lane (16)
  | fadd (p : Pre) (rnd : Rnd) (d a b c : Nat)
  | fsub (p : Pre) (rnd : Rnd) (d a b c : Nat)
  | fmul (p : Pre) (rnd : Rnd) (d a b c : Nat)
  | ffma (p : Pre) (rnd : Rnd) (d a b c : Nat)
  | fscale (p : Pre) (rnd : Rnd) (d a b : Nat)
  | fmin (p : Pre) (d a b : Nat)
  | fmax (p : Pre) (d a b : Nat)
  | fcmp (p : Pre) (cond : FCond) (comb : Comb) (d a b k : Nat)
  | fround (p : Pre) (rnd : Rnd) (d a : Nat)
  | fclass (p : Pre) (d a : Nat)
  | frcp (p : Pre) (rnd : Rnd) (d a : Nat)
  | frsq (p : Pre) (rnd : Rnd) (d a : Nat)
  | fsqrt (p : Pre) (rnd : Rnd) (d a : Nat)
  | fdiv (p : Pre) (rnd : Rnd) (d a b : Nat)
  | fexp2 (p : Pre) (d a : Nat)
  | flog2 (p : Pre) (d a : Nat)
  | fsin (p : Pre) (d a : Nat)
  | fcos (p : Pre) (d a : Nat)
  | ftanh (p : Pre) (d a : Nat)
  | hadd2 (p : Pre) (ty : Tag) (rnd : Rnd) (d a b c : Nat)
  | hmul2 (p : Pre) (ty : Tag) (rnd : Rnd) (d a b c : Nat)
  | hfma2 (p : Pre) (ty : Tag) (rnd : Rnd) (d a b c : Nat)
  | hmin2 (p : Pre) (ty : Tag) (d a b : Nat)
  | hmax2 (p : Pre) (ty : Tag) (d a b : Nat)
  | dot2 (p : Pre) (ty : Tag) (rnd : Rnd) (d a b c : Nat)
  | dot4 (p : Pre) (ty : Tag) (sat : Bool) (d a b c : Nat)
  | cvt (p : Pre) (ty : Tag) (rnd : Rnd) (sty : Tag) (sat : Bool) (d a b e : Nat)
  | cvtxb (p : Pre) (ty : Tag) (rnd : Rnd) (h : Bool) (d a b c : Nat)
  | xbunp (p : Pre) (ty : Tag) (sty : Tag) (h : Bool) (d a b : Nat)
  | xbexp (p : Pre) (ty : Tag) (rnd : Rnd) (h : Bool) (d a c : Nat)
  | mreduce (p : Pre) (rnd : Rnd) (mode : MredMode) (d a b n : Nat)
  -- memory, atomics and synchronisation (17)
  | ld (p : Pre) (sp : Space) (ty : Tag) (ord : MemOrd) (sc : Scope) (hint : Hint) (elt : Bool) (d a : Nat) (off : Int)
  | st (p : Pre) (sp : Space) (ty : Tag) (ord : MemOrd) (sc : Scope) (hint : Hint) (elt : Bool) (a b : Nat) (off : Int)
  | ldv (p : Pre) (sp : Space) (ty : Tag) (ord : MemOrd) (sc : Scope) (hint : Hint) (vn : Nat) (d a : Nat) (off : Int)
  | stv (p : Pre) (sp : Space) (ty : Tag) (ord : MemOrd) (sc : Scope) (hint : Hint) (vn : Nat) (a b : Nat) (off : Int)
  | ldc (p : Pre) (ty : Tag) (d a : Nat) (off : Int)
  | pref (p : Pre) (sp : Space) (hint : Hint) (l2 : Bool) (a : Nat) (off : Int)
  | flushl (p : Pre) (sp : Space) (drop : Bool) (a : Nat) (off : Int)
  | atom (p : Pre) (sp : Space) (ty : Tag) (ord : MemOrd) (sc : Scope) (op : AtOp) (d a b c : Nat) (off : Int)
  | red (p : Pre) (sp : Space) (ty : Tag) (hint : Hint) (op : AtOp) (a b : Nat) (off : Int)
  | fence (p : Pre) (ord : MemOrd) (sc : Scope)
  | cinv (p : Pre) (sc : Scope)
  | waitv (p : Pre) (sp : Space) (ty : Tag) (sc : Scope) (cond : Cond) (d a b : Nat) (off : Int)
  | awset (p : Pre) (sp : Space) (d a b c : Nat) (off : Int)
  | arrive (p : Pre) (sp : Space) (sc : Scope) (a b : Nat) (off : Int)
  | await (p : Pre) (sp : Space) (sc : Scope) (d a b : Nat) (off : Int)
  | srinit (p : Pre) (a b c : Nat)
  | srwait (p : Pre) (empty : Bool) (a b c : Nat)
  | srfree (p : Pre) (a b : Nat)
  | waitc (p : Pre) (cls : Cls) (d : Nat) (n : RegImm)
  | tld (p : Pre) (ord : MemOrd) (sc : Scope) (hint : Hint) (d a ts : Nat)
  | tst (p : Pre) (ord : MemOrd) (sc : Scope) (hint : Hint) (a b ts : Nat)
  | shfl (p : Pre) (mode : ShflMode) (w64 : Bool) (d a : Nat) (b : RegImm)
  | ballot (p : Pre) (d a k : Nat)
  | vote (p : Pre) (mode : VoteMode) (d a k j : Nat)
  | matchv (p : Pre) (w64 : Bool) (d a : Nat)
  | lreduce (p : Pre) (ty : Tag) (sat : Bool) (op : LaneOp) (d a : Nat)
  | lscan (p : Pre) (ty : Tag) (sat : Bool) (op : LaneOp) (excl : Bool) (d a : Nat)
  -- patterns, matrices and engines (18)
  | tsinit (p : Pre) (s : Bool) (d a : Nat)
  | tsinitFrag (p : Pre) (frag : Nat) (d a b g : Nat)
  | tsset (p : Pre) (d a w : Nat)
  | tsget (p : Pre) (d a w : Nat)
  | recut (p : Pre) (aws lossy : Bool) (sc : Option Scope) (d a b c : Nat) (off : Int)
  | recutq (p : Pre) (lossy : Bool) (d a b : Nat)
  | gather (p : Pre) (rsp : Bool) (sc : Option Scope) (a : Nat)
  | scatter (p : Pre) (rsp : Bool) (sc : Option Scope) (a : Nat)
  | mma (p : Pre) (ap : Bool) (fmt : Tag) (sat : Bool) (d a b tk sa sb : Nat)
  | mlru (p : Pre) (d a b tk : Nat)
  | mlrmul (p : Pre) (d a b : Nat)
  | mlradd (p : Pre) (d a : Nat)
  | mrecomp (p : Pre) (set : Bool) (d a : Nat)
  | mdense (p : Pre) (d : Nat)
  | mzero (p : Pre) (d : Nat)
  | mcopy (p : Pre) (d a : Nat)
  | mswap (p : Pre) (d a : Nat)
  | mstat (p : Pre) (d a : Nat)
  | mclrs (p : Pre) (d mask : Nat)
  | mpol (p : Pre) (d : Nat) (densify nvt : Bool)
  | mdrain (p : Pre) (add ssp : Bool) (sc : Option Scope) (d a b : Nat) (off : Int)
  | mfill (p : Pre) (ty : Tag) (d a : Nat) (off : Int)
  | mspill (p : Pre) (d a : Nat) (off : Int)
  | tkset (p : Pre) (d g n : Nat)
  | coll (p : Pre) (sc : Option Scope) (a : Nat)
  | decode (p : Pre) (sc : Option Scope) (a : Nat)
  | decq (p : Pre) (d a : Nat)
  -- system, trap and emulation (19)
  | srd (p : Pre) (n d : Nat)
  | swr (p : Pre) (n a : Nat)
  | trap (p : Pre) (n a : Nat)
  | eret (p : Pre)
  | owrd (p : Pre) (d k : Nat)
  | owwr (p : Pre) (k b : Nat)
  | xrd (p : Pre) (d : Nat) (n : RegImm)
  | xwr (p : Pre) (tag : Option Tag) (b : Nat) (n : RegImm)
  | xmrd (p : Pre) (d a b : Nat)
  | xmwr (p : Pre) (tag : Tag) (init : Bool) (d a b : Nat)
  | xflg (p : Pre) (done : Bool) (d b : Nat)
  | clock (p : Pre) (cyc : Bool) (d : Nat)
  | perfq (p : Pre) (clr : Bool) (d sel : Nat)
  | launch (p : Pre) (d a : Nat)
  | capmark (p : Pre) (imm : Int)
  -- device steps: package, power, side-band (01, 03)
  | coldReset
  | warmReset
  | railsGood (order : List Nat)
  | bringUp
  | powerCapTick (watts : Nat)
  | thermalThrottleTick (temp panel : Nat)
  | thermalTrip (temp panel : Nat)
  | adaptiveVoltageRequest (panel mv : Nat)
  | pldmMonitorRequest (ptype cmd : Nat)
  | pldmFirmwareUpdate (slot : Nat) (fw : Firmware) (raiseTo : Nat)
  | attestationQuote (nonce : List Byte)
  | memoryLinkFlitRetry (link : Nat)
  | memoryLinkRetrain (link : Nat) (ok : Bool)
  | fabricFlitRetry (port : Nat)
  | fabricPortDown (port : Nat)
  -- device steps: fabric and bolts (02)
  | bufferReleaseFlit (port : Nat) (flit : Nat)
  | readReceive (port : Nat) (k : Packet)
  | writeReceive (port : Nat) (k : Packet)
  | atomicReceive (port : Nat) (k : Packet)
  | creditReceive (port : Nat) (k : Packet)
  | lossyWriteReceive (port : Nat) (k : Packet)
  | launchRequest (port : Nat) (k : Packet)
  | mgmtReceive (port : Nat) (k : Packet)
  | responseReceive (port : Nat) (k : Packet)
  | nackReceive (port : Nat) (k : Packet)
  | lcompReceive (port : Nat) (k : Packet)
  | requestTimeout (dst tag : Nat)
  | requestRecordExpiry (src tag : Nat)
  | boltForward (bolt pos egress : Nat)
  | boltDiscard (bolt pos : Nat)
  | lossyDeadline (pa : Nat)
  -- device steps: engines and the matrix unit (10, 18)
  | arrivalCredit (loc : WordLoc) (bytes cmd : Nat)
  | engineCommandFinish (cmd : Nat)
  | recutPass (cmd : Nat)
  | recutRetire (cmd : Nat)
  | gatherScatterComplete (cmd : Nat)
  | collectiveComplete (cmd : Nat) (peers : List (List Byte))
  | decodeUnitOutput (engine : Nat) (u : DecodedUnit)
  | budgetPeriod
  | engineFaultReplay (cmd : Nat)
  | engineFaultForward (cmd : Nat)
  | engineFaultEnd (cmd : Nat)
  | matrixOpComplete (core : Nat)
  -- device steps: threads and scheduling (04, 12, 14)
  | longLatencyComplete (op : Nat)
  | clauseStart (h : Header)
  | blockingWake (t : Tid)
  | windowWriteApply (t : Tid)
  | issueFormation (core : Nat)
  | issueSlotChoice (core slot : Nat)
  | priorityAging (core : Nat)
  | fairnessSwitch (core slot : Nat)
  | rotationQuantum (core : Nat)
  | rotationBlocked (core : Nat)
  | contextMoveComplete (core slot : Nat)
  | teamPlacement (panel : Nat)
  | bobbinTimer (cluster index : Nat)
  | eviction (core : Nat)
  | reinstatement (core : Nat)
  | idempotentDiscard (team : Nat)
  | gridComplete (grid : Nat)
  | completionWordAnswer (grid : Nat) (ans : Answer)
  | jobStop (ctx job : Nat)
  | stopLimit (ctx job : Nat)
  | handlerEntry (t : Tid)
  | mgmtCorePath (t : Tid) (r : MgmtResult)
  -- device steps: memory system (05, 06)
  | l1Eviction (core ctx line : Nat)
  | updateLineMerge (core ctx line : Nat)
  | l2Miss (line : Nat)
  | ddrWriteAck (line : Nat)
  | l2LineMove (line : Nat)
  | tableWalk (cluster ctx va : Nat)
  | reportReplay (r : ReportKey)
  | reportForward (r : ReportKey)
  | reportEnd (r : ReportKey)
  | uncorrectableWriteReport (pa ctx : Nat)
  | tlbinvPage (size ctx vpn : Nat)
  | tlbinvContext (ctx : Nat)
  | tlbinvAll
  | tlbinvRetire
  | hotselWrite (v : DWord)
  | oplogstatWrite (v : DWord)
  | registerWrite (n ctx : Nat) (v : DWord)
  | bindService (t : Tid) (word : Nat) (target : DWord)
  | undefinedEncoding (r : RawItem)
  | tagReuseExpiry (dst tag : Nat)
  | replayInjection (core : Nat)
  | railsDown (order : List Nat)
  deriving DecidableEq, Repr

end Sys2Proof
end

