-- ==== Sys2Proof/Decode.lean ====
section
/-! DEFINITION. The decoder, total on any bytes and rejecting by name (14/R304 to R308, R317, R318), and after it the
encoder, both written from the encoding tables of the spec. -/

namespace Sys2Proof

/-! ## Codes of the sub-fields -/

/-- The tag codes of 08/R180. -/
def Tag.code : Tag → Nat
  | .raw => 0 | .f32 => 1 | .f16 => 2 | .bf16 => 3 | .s8 => 4 | .n8 => 5 | .s16 => 6 | .n16 => 7
  | .s32 => 8 | .n32 => 9 | .s64 => 10 | .n64 => 11 | .xb8 => 12 | .xb4 => 13 | .xsc => 14 | .foreign => 15

/-- The tag of a code below 16. -/
def Tag.ofCode : Nat → Tag
  | 1 => .f32 | 2 => .f16 | 3 => .bf16 | 4 => .s8 | 5 => .n8 | 6 => .s16 | 7 => .n16 | 8 => .s32
  | 9 => .n32 | 10 => .s64 | 11 => .n64 | 12 => .xb8 | 13 => .xb4 | 14 => .xsc | 15 => .foreign | _ => .raw

/-- `some x` when the test holds: a reserved value makes the whole decoding fail (14/R307). -/
def okIf {α : Type} (c : Bool) (x : α) : Option α := if c then some x else none

/-- A tag sub-field that an entry restricts to the tags of `ok`. -/
def Tag.pick (ok : Tag → Bool) (n : Nat) : Option Tag := okIf (ok (Tag.ofCode n)) (Tag.ofCode n)

/-- Any of the sixteen codes (15/R332). -/
def Tag.isAny (_ : Tag) : Bool := true
/-- The 64-bit formats, whose operands are pairs. -/
def Tag.is64 : Tag → Bool | .s64 | .n64 => true | _ => false
/-- The TYPE of IADD and its row mates (15/R320). -/
def Tag.isIntSmall : Tag → Bool | .s8 | .n8 | .s16 | .n16 | .s32 | .n32 => true | _ => false
/-- The TYPE of INEG and IABS (15/R320). -/
def Tag.isSignedSmall : Tag → Bool | .s8 | .s16 | .s32 => true | _ => false
/-- S32 and N32. -/
def Tag.isInt32 : Tag → Bool | .s32 | .n32 => true | _ => false
/-- S64 and N64. -/
def Tag.isInt64 : Tag → Bool | .s64 | .n64 => true | _ => false
/-- S32, N32, S64 and N64. -/
def Tag.isInt3264 : Tag → Bool | .s32 | .n32 | .s64 | .n64 => true | _ => false
/-- The TYPE of MOVI: codes 10, 11 and 15 are reserved (15/R331). -/
def Tag.isMovi : Tag → Bool | .s64 | .n64 | .foreign => false | _ => true
/-- The TYPE of MOVI64 (15/R331). -/
def Tag.isMovi64 : Tag → Bool | .raw | .s64 | .n64 => true | _ => false
/-- F16 and BF16 (16/R350). -/
def Tag.isHalf : Tag → Bool | .f16 | .bf16 => true | _ => false
/-- S8 and N8 (16/R352). -/
def Tag.isByteInt : Tag → Bool | .s8 | .n8 => true | _ => false
/-- Codes 1 to 11, the formats CVT converts between (16/R353). -/
def Tag.isConv : Tag → Bool | .raw | .xb8 | .xb4 | .xsc | .foreign => false | _ => true
/-- F32, F16 and BF16. -/
def Tag.isFloat : Tag → Bool | .f32 | .f16 | .bf16 => true | _ => false
/-- XB8 and XB4. -/
def Tag.isXB : Tag → Bool | .xb8 | .xb4 => true | _ => false
/-- The destinations of XBUNP (16/R356). -/
def Tag.isUnp : Tag → Bool | .f32 | .bf16 => true | _ => false
/-- The TYPE of a load or store: FOREIGN is reserved (17/R366). -/
def Tag.isMem : Tag → Bool | .foreign => false | _ => true
/-- The types of ATOM and RED (17/R373). -/
def Tag.isAtom : Tag → Bool | .s32 | .n32 | .s64 | .n64 | .f32 => true | _ => false
/-- The types of LREDUCE and LSCAN (16/R363). -/
def Tag.isLane : Tag → Bool | .s32 | .n32 | .s64 | .n64 | .f32 => true | _ => false
/-- The fragment formats of MMA (18/R402). -/
def Tag.isFrag : Tag → Bool | .f16 | .bf16 | .s8 | .xb8 | .xb4 => true | _ => false
/-- The kinds MFILL names (18/R409). -/
def Tag.isFillTy : Tag → Bool | .f32 | .s32 => true | _ => false
/-- The tags XMWR may name (19/R423). -/
def Tag.isXmTag : Tag → Bool | .f32 | .s32 | .foreign => true | _ => false

/-- The scope codes of 14/R307. -/
def Scope.code : Scope → Nat | .th => 0 | .gr => 1 | .tm => 2 | .cl => 3 | .pn => 4 | .dv => 5 | .sy => 6
/-- Code 7 is reserved. -/
def Scope.ofCode? : Nat → Option Scope
  | 0 => some .th | 1 => some .gr | 2 => some .tm | 3 => some .cl | 4 => some .pn | 5 => some .dv | 6 => some .sy
  | _ => none
/-- CINV names scopes 2 to 6 (17/R377). -/
def scopeC : Scope → Bool | .th | .gr => false | _ => true

/-- The space codes of 14/R307. -/
def Space.code : Space → Nat | .g => 0 | .s => 1 | .p => 2 | .w => 3 | .c => 4
/-- Codes 5 to 7 are reserved. -/
def Space.ofCode? : Nat → Option Space
  | 0 => some .g | 1 => some .s | 2 => some .p | 3 => some .w | 4 => some .c | _ => none
/-- The address register is a pair for G and C (17/R364). -/
def Space.wideAddr : Space → Bool | .g | .c => true | _ => false
/-- The spaces of loads, stores, ATOM and RED. -/
def Space.spGSPW : Space → Bool | .c => false | _ => true
/-- The spaces of words that are waited on. -/
def Space.spGS : Space → Bool | .g | .s => true | _ => false
/-- The spaces of PREF and FLUSHL. -/
def Space.spGP : Space → Bool | .g | .p => true | _ => false
/-- A space sub-field that an entry restricts. -/
def Space.pick (ok : Space → Bool) (n : Nat) : Option Space :=
  (Space.ofCode? n).bind fun x => okIf (ok x) x

/-- The ordering codes of 14/R307. -/
def MemOrd.code : MemOrd → Nat | .none => 0 | .acq => 1 | .rel => 2 | .full => 3
/-- The ordering of a code below 4. -/
def MemOrd.ofCode : Nat → MemOrd | 1 => .acq | 2 => .rel | 3 => .full | _ => .none
/-- Loads: none or acquire. -/
def MemOrd.ordA : MemOrd → Bool | .none | .acq => true | _ => false
/-- Stores: none or release. -/
def MemOrd.ordR : MemOrd → Bool | .none | .rel => true | _ => false
/-- ATOM: none, acquire or release. -/
def MemOrd.ordAR : MemOrd → Bool | .full => false | _ => true
/-- FENCE: acquire, release or full. -/
def MemOrd.ordF : MemOrd → Bool | .none => false | _ => true
/-- An ordering sub-field that an entry restricts. -/
def MemOrd.pick (ok : MemOrd → Bool) (n : Nat) : Option MemOrd := okIf (ok (MemOrd.ofCode n)) (MemOrd.ofCode n)

/-- The rounding codes of 08/R186. -/
def Rnd.code : Rnd → Nat | .rne => 0 | .rtz => 1 | .rup => 2 | .rdn => 3 | .sr => 4
/-- Codes 5 to 7 are undefined encodings. -/
def Rnd.ofCode? : Nat → Option Rnd
  | 0 => some .rne | 1 => some .rtz | 2 => some .rup | 3 => some .rdn | 4 => some .sr | _ => none
/-- Entries with a seed operand take every mode. -/
def Rnd.rnd5 (_ : Rnd) : Bool := true
/-- Entries without a seed operand. -/
def Rnd.rnd4 : Rnd → Bool | .sr => false | _ => true
/-- CVTXB and XBEXP round to nearest or stochastically (16/R354). -/
def Rnd.rndxb : Rnd → Bool | .rne | .sr => true | _ => false
/-- A rounding sub-field that an entry restricts. -/
def Rnd.pick (ok : Rnd → Bool) (n : Nat) : Option Rnd := (Rnd.ofCode? n).bind fun x => okIf (ok x) x

/-- The comparison codes. -/
def Cond.code : Cond → Nat | .eq => 0 | .ne => 1 | .lt => 2 | .le => 3 | .gt => 4 | .ge => 5
/-- Codes 6 and 7 are reserved. -/
def Cond.ofCode? : Nat → Option Cond
  | 0 => some .eq | 1 => some .ne | 2 => some .lt | 3 => some .le | 4 => some .gt | 5 => some .ge | _ => none
/-- The comparison codes of FCMP. -/
def FCond.code : FCond → Nat
  | .eq => 0 | .ne => 1 | .lt => 2 | .le => 3 | .gt => 4 | .ge => 5 | .uno => 6 | .num => 7
/-- Every 3-bit code is a condition of FCMP. -/
def FCond.ofCode? : Nat → Option FCond
  | 0 => some .eq | 1 => some .ne | 2 => some .lt | 3 => some .le | 4 => some .gt | 5 => some .ge
  | 6 => some .uno | 7 => some .num | _ => none
/-- The combination codes. -/
def Comb.code : Comb → Nat | .set => 0 | .and => 1 | .or => 2
/-- Code 3 is reserved. -/
def Comb.ofCode? : Nat → Option Comb | 0 => some .set | 1 => some .and | 2 => some .or | _ => none
/-- The hint codes. -/
def Hint.code : Hint → Nat | .none => 0 | .evf => 1 | .evl => 2
/-- Code 3 is reserved. -/
def Hint.ofCode? : Nat → Option Hint | 0 => some .none | 1 => some .evf | 2 => some .evl | _ => Option.none
/-- The atomic operation codes (17/R373). -/
def AtOp.code : AtOp → Nat
  | .add => 0 | .min => 1 | .max => 2 | .and => 3 | .or => 4 | .xor => 5 | .exch => 6 | .cas => 7
/-- Every 3-bit code is an atomic operation. -/
def AtOp.ofCode? : Nat → Option AtOp
  | 0 => some .add | 1 => some .min | 2 => some .max | 3 => some .and | 4 => some .or | 5 => some .xor
  | 6 => some .exch | 7 => some .cas | _ => none
/-- The engine class codes of WAITC (17/R385). -/
def Cls.code : Cls → Nat | .copy => 0 | .fab => 1 | .gath => 2 | .mat => 3 | .coll => 4 | .dec => 5
/-- Codes 6 and 7 are reserved. -/
def Cls.ofCode? : Nat → Option Cls
  | 0 => some .copy | 1 => some .fab | 2 => some .gath | 3 => some .mat | 4 => some .coll | 5 => some .dec | _ => none
/-- SHFL mode codes. -/
def ShflMode.code : ShflMode → Nat | .idx => 0 | .up => 1 | .down => 2 | .xor => 3
/-- Codes 4 to 7 are reserved. -/
def ShflMode.ofCode? : Nat → Option ShflMode
  | 0 => some .idx | 1 => some .up | 2 => some .down | 3 => some .xor | _ => none
/-- VOTE mode codes. -/
def VoteMode.code : VoteMode → Nat | .all => 0 | .any => 1 | .uni => 2
/-- Code 3 is reserved. -/
def VoteMode.ofCode? : Nat → Option VoteMode | 0 => some .all | 1 => some .any | 2 => some .uni | _ => none
/-- LREDUCE and LSCAN operation codes. -/
def LaneOp.code : LaneOp → Nat | .add => 0 | .min => 1 | .max => 2 | .and => 3 | .or => 4 | .xor => 5
/-- Codes 6 and 7 are reserved. -/
def LaneOp.ofCode? : Nat → Option LaneOp
  | 0 => some .add | 1 => some .min | 2 => some .max | 3 => some .and | 4 => some .or | 5 => some .xor | _ => none
/-- MREDUCE mode codes. -/
def MredMode.code : MredMode → Nat | .sum => 0 | .mean => 1 | .scale => 2
/-- Code 3 is reserved. -/
def MredMode.ofCode? : Nat → Option MredMode | 0 => some .sum | 1 => some .mean | 2 => some .scale | _ => none
/-- The length codes of bits [1:0]. -/
def Len.code : Len → Nat | .l64 => 0 | .l96 => 1 | .l128 => 2
/-- The length in bytes. -/
def Len.bytes : Len → Nat | .l64 => 8 | .l96 => 12 | .l128 => 16
/-- The permutation kind codes of 14/R315. -/
def PermKind.code : PermKind → Nat | .none => 0 | .rot => 1 | .bcast => 2 | .bfly => 3 | .mirror => 4

/-- A permutation byte: kinds 5 to 7, a parameter without a kind and a mirror with a parameter are reserved
(14/R315). Whether k is below the subgroup size is judged where the size is known, at execution. -/
def perm? (n : Nat) : Option Perm :=
  match n / 32 with
  | 0 => okIf (n % 32 == 0) ⟨.none, 0⟩
  | 1 => some ⟨.rot, n % 32⟩
  | 2 => some ⟨.bcast, n % 32⟩
  | 3 => some ⟨.bfly, n % 32⟩
  | 4 => okIf (n % 32 == 0) ⟨.mirror, 0⟩
  | _ => none

/-- The byte of a permutation. -/
def Perm.code (q : Perm) : Nat := 32 * q.kind.code + q.k

/-- No permutation. -/
def noPerm : Perm := ⟨.none, 0⟩

/-- The SCP and SCOPE sub-fields of the engine commands (18/R388). -/
def scp? (n : Nat) : Option (Option Scope) :=
  if n < 8 then okIf (n == 0) none else (Scope.ofCode? (n % 8)).map some

/-- The code of an optional scope. -/
def scpCode : Option Scope → Nat
  | none => 0
  | some s => 8 + s.code

/-- A sub-field of more than one bit that holds 0 or 1. -/
def bool? (n : Nat) : Option Bool := okIf (decide (n < 2)) (n == 1)

/-- TSET and TAG of XWR: TAG is zero unless TSET is 1 (19/R421). -/
def tagOpt? (n : Nat) : Option (Option Tag) :=
  if n < 16 then okIf (n == 0) none else some (some (Tag.ofCode (n - 16)))

/-- The code of TSET and TAG. -/
def tagOptCode : Option Tag → Nat
  | none => 0
  | some t => 16 + t.code

/-! ## Tests of operand fields -/

/-- A register number. -/
def isReg (n : Nat) : Bool := decide (n < 256)
/-- A pair field is even and at most 252, or 255 (14/R307). -/
def isPair (n : Nat) : Bool := (decide (n ≤ 252) && n % 2 == 0) || n == 255
/-- A field that is a pair in some forms. -/
def regOrPair (pair : Bool) (n : Nat) : Bool := if pair then isPair n else isReg n
/-- The system registers of 19/R416: every other number is a reserved value. -/
def isSysReg (n : Nat) : Bool :=
  (decide (0x020 ≤ n) && decide (n ≤ 0x026)) || (decide (0x030 ≤ n) && decide (n ≤ 0x036)) ||
  (decide (0x040 ≤ n) && decide (n ≤ 0x047)) || (decide (0x050 ≤ n) && decide (n ≤ 0x052)) ||
  (decide (0x060 ≤ n) && decide (n ≤ 0x062)) || (decide (0x070 ≤ n) && decide (n ≤ 0x072)) ||
  n == 0x080 || (decide (0x090 ≤ n) && decide (n ≤ 0x093))
/-- The counters of 19/R426. -/
def isPerfSel (n : Nat) : Bool := decide (n ≤ 4) || (decide (8 ≤ n) && decide (n ≤ 15))
/-- A scope stands only with an ordering (17/R364). -/
def ordScopeOk (o : MemOrd) (s : Scope) : Bool := o != .none || s == .th
/-- The formats that have an element form (17/R366). -/
def Tag.hasElt : Tag → Bool | .f16 | .bf16 | .s16 | .n16 | .s8 | .n8 | .xb8 => true | _ => false
/-- `.ELT` only where the table gives an element size, and never in space P (17/R366). -/
def eltOk (sp : Space) (ty : Tag) (elt : Bool) : Bool := !elt || (ty.hasElt && sp != .p)
/-- The number of registers of LDV and STV (17/R367). -/
def vecCount (vn : Nat) : Nat := 2 * 2 ^ vn
/-- VN and the register run of LDV and STV (17/R367). -/
def vecOk (vn d : Nat) : Bool := decide (vn < 3) && d % 2 == 0 && decide (d + vecCount vn ≤ 255)
/-- AND, OR and XOR have no F32 form (17/R373). -/
def atomOk (ty : Tag) (op : AtOp) : Bool :=
  match op with
  | .and | .or | .xor => ty != .f32
  | _ => true
/-- RED takes operations 0 to 5, and F32 takes ADD only (17/R374). -/
def redOk (ty : Tag) (op : AtOp) : Bool :=
  match op with
  | .exch | .cas => false
  | .add => true
  | _ => ty != .f32
/-- SAT stands with integer ADD only, and the bitwise operations have no F32 form (16/R363). -/
def laneOpOk (ty : Tag) (sat : Bool) (op : LaneOp) : Bool :=
  (!sat || (op == .add && ty != .f32)) &&
  (match op with | .and | .or | .xor => ty != .f32 | _ => true)
/-- The element width of a format in bits (07/R155); 32 where a format has no element size. -/
def Tag.width : Tag → Nat
  | .xb4 => 4 | .s8 | .n8 | .xb8 => 8 | .f16 | .bf16 | .s16 | .n16 => 16 | .s64 | .n64 => 64 | _ => 32
/-- The width W of 16/R353. -/
def cvtW (s d : Nat) : Nat := min (max s d) 32
/-- The conditions CVT puts on RND, SAT and e (16/R353). -/
def cvtOk (ty : Tag) (rnd : Rnd) (sty : Tag) (sat : Bool) (e : Nat) : Bool :=
  let ints := !ty.isFloat && !sty.isFloat
  let w := cvtW sty.width ty.width
  let n := min sty.width ty.width
  (!ints || rnd == .rne) && (ints || !sat) &&
  (if n < w then decide (e < w / n) else e == 0)
/-- Registers x to x + n - 1 and y to y + m - 1 share a register. -/
def runsMeet (x n y m : Nat) : Bool := decide (x < y + m) && decide (y < x + n)
/-- The destination run of CVTXB stays below 255 and meets no source (16/R354) (one point DEDUCED, log entry 83). -/
def cvtxbOk (ty : Tag) (rnd : Rnd) (d a b c : Nat) : Bool :=
  let n := if ty = .xb8 then 4 else 2
  decide (d + n ≤ 255) && !runsMeet d n a 16 && !runsMeet d n b 1 && !(rnd == .sr && runsMeet d n c 1)
/-- FRAGID 0 to 9, with no scale register below 6 (18/R390). -/
def fragOk (frag b : Nat) : Bool := decide (frag < 10) && (decide (6 ≤ frag) || b == 0)
/-- The field rules of a lossy recut, and C zero in a plain one (18/R394). -/
def recutOk (aws lossy : Bool) (b c : Nat) : Bool := if lossy then !aws && b == 255 else c == 0
/-- Word 2 of RECUT is zero when it names no arrival word (18/R394). -/
def recutOffOk (lossy : Bool) (b : Nat) (off : Int) : Bool := !(lossy || b == 255) || off == 0
/-- Word 2 of MDRAIN is zero when it names no status word (18/R408). -/
def mdrainOffOk (b : Nat) (off : Int) : Bool := b != 255 || off == 0
/-- SAT stands with S8 only (18/R402). -/
def mmaSatOk (fmt : Tag) (sat : Bool) : Bool := !sat || fmt == .s8
/-- The scale registers are zero for formats other than XB (18/R402). -/
def mmaScaleOk (fmt : Tag) (sa sb : Nat) : Bool := fmt.isXB || (sa == 0 && sb == 0)
/-- A is zero unless SET (18/R405). -/
def mrecompOk (set : Bool) (a : Nat) : Bool := set || a == 0
/-- B is zero when the register number is immediate (19/R421). -/
def xrdOk (n : RegImm) (b : Nat) : Bool :=
  match n with
  | .reg _ => true
  | .imm _ => b == 0

/-- A register-or-immediate operand in range. -/
def RegImm.ok : RegImm → Bool
  | .reg n => isReg n
  | .imm k => isReg k
/-- The IMM bit. -/
def RegImm.immBit : RegImm → Nat
  | .reg _ => 0
  | .imm _ => 1
/-- The register field, zero for an immediate. -/
def RegImm.regField : RegImm → Nat
  | .reg n => n
  | .imm _ => 0
/-- The C byte, zero for a register. -/
def RegImm.immField : RegImm → Nat
  | .reg _ => 0
  | .imm k => k
/-- The one field that holds either. -/
def RegImm.field : RegImm → Nat
  | .reg n => n
  | .imm k => k
/-- The operand is an immediate. -/
def RegImm.isImm : RegImm → Bool
  | .reg _ => false
  | .imm _ => true

/-! ## Immediates -/

/-- An n-bit field read as two's complement. -/
def sext (n x : Nat) : Int := if x < 2 ^ (n - 1) then (x : Int) else (x : Int) - (2 ^ n : Nat)
/-- The n-bit field that holds a number in two's complement. -/
def unsext (n : Nat) (x : Int) : Nat := (x % ((2 ^ n : Nat) : Int)).toNat
/-- A number that fits n bits in two's complement. -/
def fitsS (n : Nat) (x : Int) : Bool :=
  decide (-((2 ^ (n - 1) : Nat) : Int) ≤ x) && decide (x < ((2 ^ (n - 1) : Nat) : Int))
/-- The immediate of a kind-I instruction that takes the C byte at 64 bits (14/R306). -/
def immOk (l : Len) (x : Int) : Bool :=
  match l with
  | .l64 => fitsS 8 x
  | .l96 => fitsS 24 x
  | .l128 => fitsS 32 x
/-- The immediate of a kind-I instruction that has none at 64 bits (17/R365) (one point DEDUCED, log entry 51). -/
def imm0Ok (l : Len) (x : Int) : Bool :=
  match l with
  | .l64 => x == 0
  | .l96 => fitsS 24 x
  | .l128 => fitsS 32 x
/-- MOD2 is zero in the 64-bit form (14/R306). -/
def mod2Ok (l : Len) (m : Nat) : Bool := l != .l64 || m == 0
/-- A natural number below a bound. -/
def natBelow? (b : Nat) (x : Int) : Option Nat := okIf (decide (0 ≤ x) && decide (x < b)) x.toNat

/-! ## The fields of an item -/

/-- The fields of an instruction item (14/R305, R306). In a 64-bit item word 1 reads as zero. -/
structure Fields where
  len : Len
  op : Nat
  fs : Bool
  ge : Bool
  gn : Bool
  gb : Nat
  d : Nat
  a : Nat
  b : Nat
  c : Nat
  mod : Nat
  w1 : Nat
  w2 : Nat
  deriving DecidableEq, Repr

/-- The words of an item. -/
structure Words where
  len : Len
  w0 : Nat
  w1 : Nat
  w2 : Nat
  deriving DecidableEq, Repr

/-- Words to fields. -/
def Words.fields (w : Words) : Fields where
  len := w.len
  op := bitsAt w.w0 2 10
  fs := bitsAt w.w0 12 1 == 1
  ge := bitsAt w.w0 13 1 == 1
  gn := bitsAt w.w0 14 1 == 1
  gb := bitsAt w.w0 15 5
  d := bitsAt w.w0 20 8
  a := bitsAt w.w0 28 8
  b := bitsAt w.w0 36 8
  c := bitsAt w.w0 44 8
  mod := bitsAt w.w0 52 12
  w1 := w.w1
  w2 := w.w2

/-- MOD bits [lo + n - 1 : lo]. -/
def Fields.m (f : Fields) (lo n : Nat) : Nat := bitsAt f.mod lo n
/-- MOD2 bits [lo + n - 1 : lo]; MOD2 is word 1 bits [31:27]. -/
def Fields.m2 (f : Fields) (lo n : Nat) : Nat := bitsAt f.w1 (27 + lo) n
/-- The IMM bit at a place of MOD chooses between register B and the C byte. -/
def Fields.regImm (f : Fields) (lo : Nat) : RegImm := if f.m lo 1 == 1 then .imm f.c else .reg f.b
/-- IMM24 or IMM32 by length, and zero at 64 bits. -/
def Fields.imm0 (f : Fields) : Int :=
  match f.len with
  | .l64 => 0
  | .l96 => sext 24 (bitsAt f.w1 0 24)
  | .l128 => sext 32 f.w2
/-- The C byte, IMM24 or IMM32 by length. -/
def Fields.immC (f : Fields) : Int :=
  match f.len with
  | .l64 => sext 8 f.c
  | _ => f.imm0
/-- Permutations, SG and MOD2 are all zero. -/
def Fields.noWord1 (f : Fields) : Bool := f.w1 == 0
/-- A permutation byte that must be none where the operand is no vector register (14/R315). -/
def permAt? (may : Bool) (n : Nat) : Option Perm := (perm? n).bind fun q => okIf (may || q == noPerm) q
/-- SG stands only in class 10 or with a permuted operand (14/R314). -/
def sgOk (cls10 : Bool) (sg : Nat) (pa pb pc : Perm) : Bool :=
  sg == 0 || cls10 || pa != noPerm || pb != noPerm || pc != noPerm
/-- The common fields of a kind-P instruction whose A, B and C may be permuted as the masks say. -/
def Fields.preP? (f : Fields) (cls10 ma mb mc : Bool) : Option Pre := do
  let pa ← permAt? ma (bitsAt f.w1 16 8)
  let pb ← permAt? mb (bitsAt f.w1 8 8)
  let pc ← permAt? mc (bitsAt f.w1 0 8)
  let sg := bitsAt f.w1 24 3
  okIf (sgOk cls10 sg pa pb pc) ⟨f.len, f.fs, f.ge, f.gn, f.gb, sg, pa, pb, pc⟩
/-- The common fields of a kind-I instruction: it has no permutation, and SG is zero. -/
def Fields.preI? (f : Fields) : Option Pre :=
  okIf (bitsAt f.w1 24 3 == 0) ⟨f.len, f.fs, f.ge, f.gn, f.gb, 0, noPerm, noPerm, noPerm⟩

/-- A permutation in range for an operand that may have one. -/
def Perm.ok (may : Bool) (q : Perm) : Bool :=
  match q.kind with
  | .none => q.k == 0
  | .mirror => may && q.k == 0
  | _ => may && decide (q.k < 32)
/-- The common fields of a well-formed kind-P instruction. -/
def Pre.okP (p : Pre) (cls10 ma mb mc : Bool) : Bool :=
  decide (p.gb < 32) && decide (p.sg < 8) && p.pa.ok ma && p.pb.ok mb && p.pc.ok mc &&
  sgOk cls10 p.sg p.pa p.pb p.pc &&
  (p.len != .l64 || (p.sg == 0 && p.pa == noPerm && p.pb == noPerm && p.pc == noPerm))
/-- The common fields of a well-formed kind-I instruction. -/
def Pre.okI (p : Pre) : Bool :=
  decide (p.gb < 32) && p.sg == 0 && p.pa == noPerm && p.pb == noPerm && p.pc == noPerm
/-- Every field but the length is zero (NOP, 15/R334). -/
def Pre.isPlain (p : Pre) : Bool :=
  !p.fs && !p.ge && !p.gn && p.gb == 0 && p.sg == 0 && p.pa == noPerm && p.pb == noPerm && p.pc == noPerm

/-! ## The opcode map -/

/-- The assigned opcodes (14/R317). TSINIT has two modes, which are two rows of the table. -/
inductive Op where
  | nop | mov | movx | movxw | tag | tagq | idq | iadd | isub | ineg | iabs | imin
  | imax | imul | imulh | imad | imadw | iaddc | isubb | iadd64 | isub64 | icmp | isel | shl
  | shr | sar | rotl | shl64 | shr64 | and | or | xor | andn | lut3 | bfx | bfi
  | popc | clz | ctz | brev | bperm | bset | bclr | movi | movi64 | bra | brx | call
  | callx | ret | seam | bar | yield | pause | spawn | exit | fadd | fsub | fmul | ffma
  | fmin | fmax | fcmp | fround | fclass | fscale | frcp | frsq | fsqrt | fdiv | fexp2 | flog2
  | fsin | fcos | ftanh | hadd2 | hmul2 | hfma2 | hmin2 | hmax2 | dot2 | dot4 | cvt | cvtxb
  | xbunp | xbexp | mreduce | ld | st | ldv | stv | ldc | pref | flushl | atom | red
  | fence | cinv | waitv | awset | arrive | await | srinit | srwait | srfree | waitc | tld | tst
  | shfl | ballot | vote | matchv | lreduce | lscan | tsinit | tsset | tsget | recut | recutq | gather
  | scatter | mma | mlru | mlrmul | mlradd | mrecomp | mdense | mzero | mcopy | mswap | mstat | mclrs
  | mpol | mdrain | mfill | mspill | tkset | coll | decode | decq | srd | swr | trap | eret
  | owrd | owwr | xrd | xwr | xmrd | xmwr | xflg | clock | perfq | launch | capmark
  deriving DecidableEq, Repr

/-- The word-1 kind of an opcode: P, I, or P with operands in word 2. -/
inductive OpKind where
  | p | i | e
  deriving DecidableEq, Repr

/-- The lengths an opcode allows. -/
inductive OpLens where
  | all | not64 | only128
  deriving DecidableEq, Repr

/-- One row of the opcode map. -/
structure OpRow where
  code : Nat
  op : Op
  kind : OpKind
  lens : OpLens
  deriving DecidableEq, Repr

/-- The value of OP for each assigned opcode (14/R317). -/
def Op.code : Op → Nat
  | .nop => 0x000
  | .mov => 0x001
  | .movx => 0x002
  | .movxw => 0x003
  | .tag => 0x004
  | .tagq => 0x005
  | .idq => 0x006
  | .iadd => 0x010
  | .isub => 0x011
  | .ineg => 0x012
  | .iabs => 0x013
  | .imin => 0x014
  | .imax => 0x015
  | .imul => 0x016
  | .imulh => 0x017
  | .imad => 0x018
  | .imadw => 0x019
  | .iaddc => 0x01A
  | .isubb => 0x01B
  | .iadd64 => 0x01C
  | .isub64 => 0x01D
  | .icmp => 0x01E
  | .isel => 0x01F
  | .shl => 0x020
  | .shr => 0x021
  | .sar => 0x022
  | .rotl => 0x023
  | .shl64 => 0x024
  | .shr64 => 0x025
  | .and => 0x028
  | .or => 0x029
  | .xor => 0x02A
  | .andn => 0x02B
  | .lut3 => 0x02C
  | .bfx => 0x030
  | .bfi => 0x031
  | .popc => 0x032
  | .clz => 0x033
  | .ctz => 0x034
  | .brev => 0x035
  | .bperm => 0x036
  | .bset => 0x037
  | .bclr => 0x038
  | .movi => 0x03C
  | .movi64 => 0x03D
  | .bra => 0x040
  | .brx => 0x041
  | .call => 0x042
  | .callx => 0x043
  | .ret => 0x044
  | .seam => 0x045
  | .bar => 0x046
  | .yield => 0x047
  | .pause => 0x048
  | .spawn => 0x049
  | .exit => 0x04A
  | .fadd => 0x080
  | .fsub => 0x081
  | .fmul => 0x082
  | .ffma => 0x083
  | .fmin => 0x084
  | .fmax => 0x085
  | .fcmp => 0x086
  | .fround => 0x087
  | .fclass => 0x088
  | .fscale => 0x089
  | .frcp => 0x090
  | .frsq => 0x091
  | .fsqrt => 0x092
  | .fdiv => 0x093
  | .fexp2 => 0x094
  | .flog2 => 0x095
  | .fsin => 0x096
  | .fcos => 0x097
  | .ftanh => 0x098
  | .hadd2 => 0x0A0
  | .hmul2 => 0x0A1
  | .hfma2 => 0x0A2
  | .hmin2 => 0x0A3
  | .hmax2 => 0x0A4
  | .dot2 => 0x0A5
  | .dot4 => 0x0A6
  | .cvt => 0x0B0
  | .cvtxb => 0x0B1
  | .xbunp => 0x0B2
  | .xbexp => 0x0B3
  | .mreduce => 0x0B4
  | .ld => 0x100
  | .st => 0x101
  | .ldv => 0x102
  | .stv => 0x103
  | .ldc => 0x104
  | .pref => 0x105
  | .flushl => 0x106
  | .atom => 0x107
  | .red => 0x108
  | .fence => 0x109
  | .cinv => 0x10A
  | .waitv => 0x110
  | .awset => 0x111
  | .arrive => 0x112
  | .await => 0x113
  | .srinit => 0x114
  | .srwait => 0x115
  | .srfree => 0x116
  | .waitc => 0x117
  | .tld => 0x120
  | .tst => 0x121
  | .shfl => 0x200
  | .ballot => 0x201
  | .vote => 0x202
  | .matchv => 0x203
  | .lreduce => 0x204
  | .lscan => 0x205
  | .tsinit => 0x300
  | .tsset => 0x301
  | .tsget => 0x302
  | .recut => 0x303
  | .recutq => 0x304
  | .gather => 0x305
  | .scatter => 0x306
  | .mma => 0x310
  | .mlru => 0x311
  | .mlrmul => 0x312
  | .mlradd => 0x313
  | .mrecomp => 0x314
  | .mdense => 0x315
  | .mzero => 0x316
  | .mcopy => 0x317
  | .mswap => 0x318
  | .mstat => 0x319
  | .mclrs => 0x31A
  | .mpol => 0x31B
  | .mdrain => 0x31C
  | .mfill => 0x31D
  | .mspill => 0x31E
  | .tkset => 0x31F
  | .coll => 0x320
  | .decode => 0x321
  | .decq => 0x322
  | .srd => 0x380
  | .swr => 0x381
  | .trap => 0x382
  | .eret => 0x383
  | .owrd => 0x384
  | .owwr => 0x385
  | .xrd => 0x386
  | .xwr => 0x387
  | .xmrd => 0x388
  | .xmwr => 0x389
  | .xflg => 0x38A
  | .clock => 0x38B
  | .perfq => 0x38C
  | .launch => 0x38D
  | .capmark => 0x38E

/-- Rows of the opcode map (14/R317), part 1. -/
def opRows1 : List OpRow := [
  ⟨0x000, .nop, .p, .all⟩,
  ⟨0x001, .mov, .p, .all⟩,
  ⟨0x002, .movx, .p, .all⟩,
  ⟨0x003, .movxw, .p, .all⟩,
  ⟨0x004, .tag, .p, .all⟩,
  ⟨0x005, .tagq, .p, .all⟩,
  ⟨0x006, .idq, .p, .all⟩,
  ⟨0x010, .iadd, .p, .all⟩,
  ⟨0x011, .isub, .p, .all⟩,
  ⟨0x012, .ineg, .p, .all⟩,
  ⟨0x013, .iabs, .p, .all⟩,
  ⟨0x014, .imin, .p, .all⟩,
  ⟨0x015, .imax, .p, .all⟩,
  ⟨0x016, .imul, .p, .all⟩,
  ⟨0x017, .imulh, .p, .all⟩,
  ⟨0x018, .imad, .p, .all⟩,
  ⟨0x019, .imadw, .p, .all⟩,
  ⟨0x01A, .iaddc, .p, .all⟩,
  ⟨0x01B, .isubb, .p, .all⟩,
  ⟨0x01C, .iadd64, .p, .all⟩,
  ⟨0x01D, .isub64, .p, .all⟩,
  ⟨0x01E, .icmp, .p, .all⟩,
  ⟨0x01F, .isel, .p, .all⟩,
  ⟨0x020, .shl, .p, .all⟩,
  ⟨0x021, .shr, .p, .all⟩,
  ⟨0x022, .sar, .p, .all⟩,
  ⟨0x023, .rotl, .p, .all⟩,
  ⟨0x024, .shl64, .p, .all⟩,
  ⟨0x025, .shr64, .p, .all⟩,
  ⟨0x028, .and, .p, .all⟩]

/-- Rows of the opcode map (14/R317), part 2. -/
def opRows2 : List OpRow := [
  ⟨0x029, .or, .p, .all⟩,
  ⟨0x02A, .xor, .p, .all⟩,
  ⟨0x02B, .andn, .p, .all⟩,
  ⟨0x02C, .lut3, .p, .all⟩,
  ⟨0x030, .bfx, .p, .all⟩,
  ⟨0x031, .bfi, .p, .all⟩,
  ⟨0x032, .popc, .p, .all⟩,
  ⟨0x033, .clz, .p, .all⟩,
  ⟨0x034, .ctz, .p, .all⟩,
  ⟨0x035, .brev, .p, .all⟩,
  ⟨0x036, .bperm, .p, .all⟩,
  ⟨0x037, .bset, .p, .all⟩,
  ⟨0x038, .bclr, .p, .all⟩,
  ⟨0x03C, .movi, .i, .all⟩,
  ⟨0x03D, .movi64, .i, .all⟩,
  ⟨0x040, .bra, .i, .not64⟩,
  ⟨0x041, .brx, .p, .all⟩,
  ⟨0x042, .call, .i, .not64⟩,
  ⟨0x043, .callx, .p, .all⟩,
  ⟨0x044, .ret, .p, .all⟩,
  ⟨0x045, .seam, .p, .all⟩,
  ⟨0x046, .bar, .p, .all⟩,
  ⟨0x047, .yield, .p, .all⟩,
  ⟨0x048, .pause, .p, .all⟩,
  ⟨0x049, .spawn, .p, .all⟩,
  ⟨0x04A, .exit, .p, .all⟩,
  ⟨0x080, .fadd, .p, .all⟩,
  ⟨0x081, .fsub, .p, .all⟩,
  ⟨0x082, .fmul, .p, .all⟩,
  ⟨0x083, .ffma, .p, .all⟩]

/-- Rows of the opcode map (14/R317), part 3. -/
def opRows3 : List OpRow := [
  ⟨0x084, .fmin, .p, .all⟩,
  ⟨0x085, .fmax, .p, .all⟩,
  ⟨0x086, .fcmp, .p, .all⟩,
  ⟨0x087, .fround, .p, .all⟩,
  ⟨0x088, .fclass, .p, .all⟩,
  ⟨0x089, .fscale, .p, .all⟩,
  ⟨0x090, .frcp, .p, .all⟩,
  ⟨0x091, .frsq, .p, .all⟩,
  ⟨0x092, .fsqrt, .p, .all⟩,
  ⟨0x093, .fdiv, .p, .all⟩,
  ⟨0x094, .fexp2, .p, .all⟩,
  ⟨0x095, .flog2, .p, .all⟩,
  ⟨0x096, .fsin, .p, .all⟩,
  ⟨0x097, .fcos, .p, .all⟩,
  ⟨0x098, .ftanh, .p, .all⟩,
  ⟨0x0A0, .hadd2, .p, .all⟩,
  ⟨0x0A1, .hmul2, .p, .all⟩,
  ⟨0x0A2, .hfma2, .p, .all⟩,
  ⟨0x0A3, .hmin2, .p, .all⟩,
  ⟨0x0A4, .hmax2, .p, .all⟩,
  ⟨0x0A5, .dot2, .p, .all⟩,
  ⟨0x0A6, .dot4, .p, .all⟩,
  ⟨0x0B0, .cvt, .p, .all⟩,
  ⟨0x0B1, .cvtxb, .p, .all⟩,
  ⟨0x0B2, .xbunp, .p, .all⟩,
  ⟨0x0B3, .xbexp, .p, .all⟩,
  ⟨0x0B4, .mreduce, .p, .all⟩,
  ⟨0x100, .ld, .i, .all⟩,
  ⟨0x101, .st, .i, .all⟩,
  ⟨0x102, .ldv, .i, .all⟩]

/-- Rows of the opcode map (14/R317), part 4. -/
def opRows4 : List OpRow := [
  ⟨0x103, .stv, .i, .all⟩,
  ⟨0x104, .ldc, .i, .all⟩,
  ⟨0x105, .pref, .i, .all⟩,
  ⟨0x106, .flushl, .i, .all⟩,
  ⟨0x107, .atom, .i, .all⟩,
  ⟨0x108, .red, .i, .all⟩,
  ⟨0x109, .fence, .p, .all⟩,
  ⟨0x10A, .cinv, .p, .all⟩,
  ⟨0x110, .waitv, .i, .all⟩,
  ⟨0x111, .awset, .i, .all⟩,
  ⟨0x112, .arrive, .i, .all⟩,
  ⟨0x113, .await, .i, .all⟩,
  ⟨0x114, .srinit, .p, .all⟩,
  ⟨0x115, .srwait, .p, .all⟩,
  ⟨0x116, .srfree, .p, .all⟩,
  ⟨0x117, .waitc, .p, .all⟩,
  ⟨0x120, .tld, .p, .all⟩,
  ⟨0x121, .tst, .p, .all⟩,
  ⟨0x200, .shfl, .p, .all⟩,
  ⟨0x201, .ballot, .p, .all⟩,
  ⟨0x202, .vote, .p, .all⟩,
  ⟨0x203, .matchv, .p, .all⟩,
  ⟨0x204, .lreduce, .p, .all⟩,
  ⟨0x205, .lscan, .p, .all⟩,
  ⟨0x300, .tsinit, .p, .all⟩,
  ⟨0x301, .tsset, .p, .all⟩,
  ⟨0x302, .tsget, .p, .all⟩,
  ⟨0x303, .recut, .e, .only128⟩,
  ⟨0x304, .recutq, .p, .all⟩,
  ⟨0x305, .gather, .p, .all⟩]

/-- Rows of the opcode map (14/R317), part 5. -/
def opRows5 : List OpRow := [
  ⟨0x306, .scatter, .p, .all⟩,
  ⟨0x310, .mma, .e, .only128⟩,
  ⟨0x311, .mlru, .e, .only128⟩,
  ⟨0x312, .mlrmul, .p, .all⟩,
  ⟨0x313, .mlradd, .p, .all⟩,
  ⟨0x314, .mrecomp, .p, .all⟩,
  ⟨0x315, .mdense, .p, .all⟩,
  ⟨0x316, .mzero, .p, .all⟩,
  ⟨0x317, .mcopy, .p, .all⟩,
  ⟨0x318, .mswap, .p, .all⟩,
  ⟨0x319, .mstat, .p, .all⟩,
  ⟨0x31A, .mclrs, .p, .all⟩,
  ⟨0x31B, .mpol, .p, .all⟩,
  ⟨0x31C, .mdrain, .e, .only128⟩,
  ⟨0x31D, .mfill, .i, .all⟩,
  ⟨0x31E, .mspill, .i, .all⟩,
  ⟨0x31F, .tkset, .p, .all⟩,
  ⟨0x320, .coll, .p, .all⟩,
  ⟨0x321, .decode, .p, .all⟩,
  ⟨0x322, .decq, .p, .all⟩,
  ⟨0x380, .srd, .p, .all⟩,
  ⟨0x381, .swr, .p, .all⟩,
  ⟨0x382, .trap, .i, .all⟩,
  ⟨0x383, .eret, .p, .all⟩,
  ⟨0x384, .owrd, .p, .all⟩,
  ⟨0x385, .owwr, .p, .all⟩,
  ⟨0x386, .xrd, .p, .all⟩,
  ⟨0x387, .xwr, .p, .all⟩,
  ⟨0x388, .xmrd, .p, .all⟩,
  ⟨0x389, .xmwr, .p, .all⟩]

/-- Rows of the opcode map (14/R317), part 6. -/
def opRows6 : List OpRow := [
  ⟨0x38A, .xflg, .p, .all⟩,
  ⟨0x38B, .clock, .p, .all⟩,
  ⟨0x38C, .perfq, .p, .all⟩,
  ⟨0x38D, .launch, .p, .all⟩,
  ⟨0x38E, .capmark, .i, .all⟩]

/-- The opcode map (14/R317). -/
def opRows : List OpRow := opRows1 ++ opRows2 ++ opRows3 ++ opRows4 ++ opRows5 ++ opRows6

/-- The row of an OP value. -/
def opRow? (n : Nat) : Option OpRow := opRows.find? fun r => r.code == n

/-- An opcode allows a length. -/
def OpLens.allows : OpLens → Len → Bool
  | .all, _ => true
  | .not64, l => l != .l64
  | .only128, l => l == .l128

/-- The control transfers, which must end their clause (14/R309). -/
def Op.isTransfer : Op → Bool
  | .bra | .brx | .call | .callx | .ret | .exit | .eret => true
  | _ => false

/-- The bits of word 1 and word 2 that R306 requires to be zero at 128 bits are zero. -/
def formOk (r : OpRow) (f : Fields) : Bool :=
  match f.len with
  | .l128 =>
    match r.kind with
    | .i => bitsAt f.w1 0 24 == 0
    | .p => f.w2 == 0
    | .e =>
      match r.op with
      | .recut => f.w2 == 0 || (f.m 4 1 == 0 && f.b != 255)
      | .mdrain => f.w2 == 0 || f.b != 255
      | .mma =>
        bitsAt f.w2 24 8 == 0 && bitsAt f.w2 4 4 == 0 &&
        ((Tag.ofCode (f.m 7 4)).isXB || bitsAt f.w2 8 16 == 0)
      | _ => bitsAt f.w2 4 28 == 0
  | _ => true

/-! ## The decoder -/

/-- The instruction of an assigned opcode, from its fields; `none` where a sub-field holds a reserved value. -/
def decodeFields (o : Op) (f : Fields) : Option Instr :=
  match o with
  | .nop => do
    let p ← f.preP? false false false false
    okIf (f.m 0 12 == 0 && f.m2 0 5 == 0 && f.d == 0 && f.a == 0 && f.b == 0 && f.c == 0 && !f.fs && !f.ge && !f.gn && f.gb == 0 && f.noWord1) (.nop p)
  | .mov => do
    let w64 := f.m 0 1 == 1
    let d := f.d
    let a := f.a
    let p ← f.preP? false true false false
    okIf (f.m 1 11 == 0 && f.m2 0 5 == 0 && regOrPair w64 d && regOrPair w64 a) (.mov p w64 d a)
  | .movx => do
    let d := f.d
    let a := f.a
    let b := f.b
    let p ← f.preP? false false true false
    okIf (f.m 0 12 == 0 && f.m2 0 5 == 0) (.movx p d a b)
  | .movxw => do
    let d := f.d
    let a := f.a
    let b := f.b
    let p ← f.preP? false true true false
    okIf (f.m 0 12 == 0 && f.m2 0 5 == 0) (.movxw p d a b)
  | .tag => do
    let w64 := f.m 4 1 == 1
    let code ← Tag.pick Tag.isAny (f.m 0 4)
    let d := f.d
    let a := f.a
    let p ← f.preP? false true false false
    okIf (f.m 5 7 == 0 && f.m2 0 5 == 0 && regOrPair w64 d && regOrPair w64 a) (.tag p w64 code d a)
  | .tagq => do
    let d := f.d
    let a := f.a
    let p ← f.preP? false true false false
    okIf (f.m 0 12 == 0 && f.m2 0 5 == 0) (.tagq p d a)
  | .idq => do
    let d := f.d
    let sel := f.c
    let p ← f.preP? false false false false
    okIf (f.m 0 12 == 0 && f.m2 0 5 == 0 && decide (sel < 18)) (.idq p d sel)
  | .iadd => do
    let ty ← Tag.pick Tag.isIntSmall (f.m 8 4)
    let sat := f.m 7 1 == 1
    let d := f.d
    let a := f.a
    let b := f.b
    let p ← f.preP? false true true false
    okIf (f.m 0 7 == 0 && f.m2 0 5 == 0) (.iadd p ty sat d a b)
  | .isub => do
    let ty ← Tag.pick Tag.isIntSmall (f.m 8 4)
    let sat := f.m 7 1 == 1
    let d := f.d
    let a := f.a
    let b := f.b
    let p ← f.preP? false true true false
    okIf (f.m 0 7 == 0 && f.m2 0 5 == 0) (.isub p ty sat d a b)
  | .ineg => do
    let ty ← Tag.pick Tag.isSignedSmall (f.m 8 4)
    let sat := f.m 7 1 == 1
    let d := f.d
    let a := f.a
    let p ← f.preP? false true false false
    okIf (f.m 0 7 == 0 && f.m2 0 5 == 0) (.ineg p ty sat d a)
  | .iabs => do
    let ty ← Tag.pick Tag.isSignedSmall (f.m 8 4)
    let sat := f.m 7 1 == 1
    let d := f.d
    let a := f.a
    let p ← f.preP? false true false false
    okIf (f.m 0 7 == 0 && f.m2 0 5 == 0) (.iabs p ty sat d a)
  | .imin => do
    let ty ← Tag.pick Tag.isIntSmall (f.m 8 4)
    let d := f.d
    let a := f.a
    let b := f.b
    let p ← f.preP? false true true false
    okIf (f.m 0 8 == 0 && f.m2 0 5 == 0) (.imin p ty d a b)
  | .imax => do
    let ty ← Tag.pick Tag.isIntSmall (f.m 8 4)
    let d := f.d
    let a := f.a
    let b := f.b
    let p ← f.preP? false true true false
    okIf (f.m 0 8 == 0 && f.m2 0 5 == 0) (.imax p ty d a b)
  | .imul => do
    let ty ← Tag.pick Tag.isInt32 (f.m 8 4)
    let sat := f.m 7 1 == 1
    let d := f.d
    let a := f.a
    let b := f.b
    let p ← f.preP? false true true false
    okIf (f.m 0 7 == 0 && f.m2 0 5 == 0) (.imul p ty sat d a b)
  | .imulh => do
    let ty ← Tag.pick Tag.isInt32 (f.m 8 4)
    let d := f.d
    let a := f.a
    let b := f.b
    let p ← f.preP? false true true false
    okIf (f.m 0 8 == 0 && f.m2 0 5 == 0) (.imulh p ty d a b)
  | .imad => do
    let ty ← Tag.pick Tag.isInt32 (f.m 8 4)
    let sat := f.m 7 1 == 1
    let d := f.d
    let a := f.a
    let b := f.b
    let c := f.c
    let p ← f.preP? false true true true
    okIf (f.m 0 7 == 0 && f.m2 0 5 == 0) (.imad p ty sat d a b c)
  | .imadw => do
    let ty ← Tag.pick Tag.isInt32 (f.m 8 4)
    let sat := f.m 7 1 == 1
    let d := f.d
    let a := f.a
    let b := f.b
    let c := f.c
    let p ← f.preP? false true true true
    okIf (f.m 0 7 == 0 && f.m2 0 5 == 0 && isPair d && isPair c) (.imadw p ty sat d a b c)
  | .iaddc => do
    let d := f.d
    let a := f.a
    let b := f.b
    let c := f.c
    let p ← f.preP? false true true true
    okIf (f.m 8 4 == 9 && f.m 0 8 == 0 && f.m2 0 5 == 0 && isPair d) (.iaddc p d a b c)
  | .isubb => do
    let d := f.d
    let a := f.a
    let b := f.b
    let c := f.c
    let p ← f.preP? false true true true
    okIf (f.m 8 4 == 9 && f.m 0 8 == 0 && f.m2 0 5 == 0 && isPair d) (.isubb p d a b c)
  | .iadd64 => do
    let ty ← Tag.pick Tag.isInt64 (f.m 8 4)
    let sat := f.m 7 1 == 1
    let d := f.d
    let a := f.a
    let b := f.b
    let p ← f.preP? false true true false
    okIf (f.m 0 7 == 0 && f.m2 0 5 == 0 && isPair d && isPair a && isPair b) (.iadd64 p ty sat d a b)
  | .isub64 => do
    let ty ← Tag.pick Tag.isInt64 (f.m 8 4)
    let sat := f.m 7 1 == 1
    let d := f.d
    let a := f.a
    let b := f.b
    let p ← f.preP? false true true false
    okIf (f.m 0 7 == 0 && f.m2 0 5 == 0 && isPair d && isPair a && isPair b) (.isub64 p ty sat d a b)
  | .icmp => do
    let ty ← Tag.pick Tag.isInt3264 (f.m 8 4)
    let cond ← Cond.ofCode? (f.m 5 3)
    let comb ← Comb.ofCode? (f.m 3 2)
    let d := f.d
    let a := f.a
    let b := f.b
    let k := f.c
    let p ← f.preP? false true true false
    okIf (f.m 0 3 == 0 && f.m2 0 5 == 0 && regOrPair ty.is64 a && regOrPair ty.is64 b && decide (k < 32)) (.icmp p ty cond comb d a b k)
  | .isel => do
    let k := f.m 0 5
    let d := f.d
    let a := f.a
    let b := f.b
    let c := f.c
    let p ← f.preP? false true true true
    okIf (f.m 5 7 == 0 && f.m2 0 5 == 0) (.isel p d a b c k)
  | .shl => do
    let d := f.d
    let a := f.a
    let n := f.regImm 6
    let p ← f.preP? false true (!n.isImm) false
    okIf (f.m 0 6 == 0 && f.m 7 5 == 0 && f.m2 0 5 == 0) (.shl p d a n)
  | .shr => do
    let d := f.d
    let a := f.a
    let n := f.regImm 6
    let p ← f.preP? false true (!n.isImm) false
    okIf (f.m 0 6 == 0 && f.m 7 5 == 0 && f.m2 0 5 == 0) (.shr p d a n)
  | .sar => do
    let d := f.d
    let a := f.a
    let n := f.regImm 6
    let p ← f.preP? false true (!n.isImm) false
    okIf (f.m 0 6 == 0 && f.m 7 5 == 0 && f.m2 0 5 == 0) (.sar p d a n)
  | .rotl => do
    let d := f.d
    let a := f.a
    let n := f.regImm 6
    let p ← f.preP? false true (!n.isImm) false
    okIf (f.m 0 6 == 0 && f.m 7 5 == 0 && f.m2 0 5 == 0) (.rotl p d a n)
  | .shl64 => do
    let d := f.d
    let a := f.a
    let n := f.regImm 6
    let p ← f.preP? false true (!n.isImm) false
    okIf (f.m 0 6 == 0 && f.m 7 5 == 0 && f.m2 0 5 == 0 && isPair d && isPair a) (.shl64 p d a n)
  | .shr64 => do
    let d := f.d
    let a := f.a
    let n := f.regImm 6
    let p ← f.preP? false true (!n.isImm) false
    okIf (f.m 0 6 == 0 && f.m 7 5 == 0 && f.m2 0 5 == 0 && isPair d && isPair a) (.shr64 p d a n)
  | .and => do
    let d := f.d
    let a := f.a
    let b := f.regImm 6
    let p ← f.preP? false true (!b.isImm) false
    okIf (f.m 0 6 == 0 && f.m 7 5 == 0 && f.m2 0 5 == 0) (.and p d a b)
  | .or => do
    let d := f.d
    let a := f.a
    let b := f.regImm 6
    let p ← f.preP? false true (!b.isImm) false
    okIf (f.m 0 6 == 0 && f.m 7 5 == 0 && f.m2 0 5 == 0) (.or p d a b)
  | .xor => do
    let d := f.d
    let a := f.a
    let b := f.regImm 6
    let p ← f.preP? false true (!b.isImm) false
    okIf (f.m 0 6 == 0 && f.m 7 5 == 0 && f.m2 0 5 == 0) (.xor p d a b)
  | .andn => do
    let d := f.d
    let a := f.a
    let b := f.regImm 6
    let p ← f.preP? false true (!b.isImm) false
    okIf (f.m 0 6 == 0 && f.m 7 5 == 0 && f.m2 0 5 == 0) (.andn p d a b)
  | .lut3 => do
    let table := f.m 0 8
    let d := f.d
    let a := f.a
    let b := f.b
    let c := f.c
    let p ← f.preP? false true true true
    okIf (f.m 8 4 == 0 && f.m2 0 5 == 0) (.lut3 p d a b c table)
  | .bfx => do
    let ty ← Tag.pick Tag.isInt32 (f.m 8 4)
    let len1 := f.m 0 5
    let d := f.d
    let a := f.a
    let pos := f.c
    let p ← f.preP? false true false false
    okIf (f.m 5 3 == 0 && f.m2 0 5 == 0 && decide (pos < 32)) (.bfx p ty d a pos len1)
  | .bfi => do
    let len1 := f.m 0 5
    let d := f.d
    let a := f.a
    let b := f.b
    let pos := f.c
    let p ← f.preP? false true true false
    okIf (f.m 5 7 == 0 && f.m2 0 5 == 0 && decide (pos < 32)) (.bfi p d a b pos len1)
  | .popc => do
    let d := f.d
    let a := f.a
    let p ← f.preP? false true false false
    okIf (f.m 0 12 == 0 && f.m2 0 5 == 0) (.popc p d a)
  | .clz => do
    let d := f.d
    let a := f.a
    let p ← f.preP? false true false false
    okIf (f.m 0 12 == 0 && f.m2 0 5 == 0) (.clz p d a)
  | .ctz => do
    let d := f.d
    let a := f.a
    let p ← f.preP? false true false false
    okIf (f.m 0 12 == 0 && f.m2 0 5 == 0) (.ctz p d a)
  | .brev => do
    let d := f.d
    let a := f.a
    let p ← f.preP? false true false false
    okIf (f.m 0 12 == 0 && f.m2 0 5 == 0) (.brev p d a)
  | .bperm => do
    let d := f.d
    let a := f.a
    let b := f.b
    let c := f.c
    let p ← f.preP? false true true true
    okIf (f.m 0 12 == 0 && f.m2 0 5 == 0) (.bperm p d a b c)
  | .bset => do
    let d := f.d
    let a := f.a
    let n := f.regImm 6
    let p ← f.preP? false true (!n.isImm) false
    okIf (f.m 0 6 == 0 && f.m 7 5 == 0 && f.m2 0 5 == 0) (.bset p d a n)
  | .bclr => do
    let d := f.d
    let a := f.a
    let n := f.regImm 6
    let p ← f.preP? false true (!n.isImm) false
    okIf (f.m 0 6 == 0 && f.m 7 5 == 0 && f.m2 0 5 == 0) (.bclr p d a n)
  | .movi => do
    let ty ← Tag.pick Tag.isMovi (f.m 8 4)
    let d := f.d
    let imm := f.immC
    let p ← f.preI?
    okIf (f.m 0 8 == 0 && f.m2 0 5 == 0) (.movi p ty d imm)
  | .movi64 => do
    let ty ← Tag.pick Tag.isMovi64 (f.m 8 4)
    let d := f.d
    let imm := f.immC
    let p ← f.preI?
    okIf (f.m 0 8 == 0 && f.m2 0 5 == 0 && isPair d) (.movi64 p ty d imm)
  | .bra => do
    let off := f.imm0
    let p ← f.preI?
    okIf (f.m 0 12 == 0 && f.m2 0 5 == 0) (.bra p off)
  | .brx => do
    let a := f.a
    let p ← f.preP? false true false false
    okIf (f.m 0 12 == 0 && f.m2 0 5 == 0 && isPair a) (.brx p a)
  | .call => do
    let d := f.d
    let off := f.imm0
    let p ← f.preI?
    okIf (f.m 0 12 == 0 && f.m2 0 5 == 0 && isPair d) (.call p d off)
  | .callx => do
    let d := f.d
    let a := f.a
    let p ← f.preP? false true false false
    okIf (f.m 0 12 == 0 && f.m2 0 5 == 0 && isPair d && isPair a) (.callx p d a)
  | .ret => do
    let a := f.a
    let p ← f.preP? false true false false
    okIf (f.m 0 12 == 0 && f.m2 0 5 == 0 && isPair a) (.ret p a)
  | .seam => do
    let p ← f.preP? false false false false
    okIf (f.m 0 12 == 0 && f.m2 0 5 == 0) (.seam p)
  | .bar => do
    let p ← f.preP? false false false false
    okIf (f.m 0 12 == 0 && f.m2 0 5 == 0) (.bar p)
  | .yield => do
    let p ← f.preP? false false false false
    okIf (f.m 0 12 == 0 && f.m2 0 5 == 0) (.yield p)
  | .pause => do
    let n := f.c
    let p ← f.preP? false false false false
    okIf (f.m 0 12 == 0 && f.m2 0 5 == 0) (.pause p n)
  | .spawn => do
    let a := f.a
    let b := f.b
    let p ← f.preP? false true true false
    okIf (f.m 0 12 == 0 && f.m2 0 5 == 0 && isPair a && isPair b) (.spawn p a b)
  | .exit => do
    let p ← f.preP? false false false false
    okIf (f.m 0 12 == 0 && f.m2 0 5 == 0) (.exit p)
  | .fadd => do
    let rnd ← Rnd.pick Rnd.rnd5 (f.m 5 3)
    let d := f.d
    let a := f.a
    let b := f.b
    let c := if rnd = .sr then f.c else 0
    let p ← f.preP? false true true (rnd == .sr)
    okIf (f.m 8 4 == 1 && f.m 0 5 == 0 && f.m2 0 5 == 0) (.fadd p rnd d a b c)
  | .fsub => do
    let rnd ← Rnd.pick Rnd.rnd5 (f.m 5 3)
    let d := f.d
    let a := f.a
    let b := f.b
    let c := if rnd = .sr then f.c else 0
    let p ← f.preP? false true true (rnd == .sr)
    okIf (f.m 8 4 == 1 && f.m 0 5 == 0 && f.m2 0 5 == 0) (.fsub p rnd d a b c)
  | .fmul => do
    let rnd ← Rnd.pick Rnd.rnd5 (f.m 5 3)
    let d := f.d
    let a := f.a
    let b := f.b
    let c := if rnd = .sr then f.c else 0
    let p ← f.preP? false true true (rnd == .sr)
    okIf (f.m 8 4 == 1 && f.m 0 5 == 0 && f.m2 0 5 == 0) (.fmul p rnd d a b c)
  | .ffma => do
    let rnd ← Rnd.pick Rnd.rnd4 (f.m 5 3)
    let d := f.d
    let a := f.a
    let b := f.b
    let c := f.c
    let p ← f.preP? false true true true
    okIf (f.m 8 4 == 1 && f.m 0 5 == 0 && f.m2 0 5 == 0) (.ffma p rnd d a b c)
  | .fmin => do
    let d := f.d
    let a := f.a
    let b := f.b
    let p ← f.preP? false true true false
    okIf (f.m 8 4 == 1 && f.m 0 8 == 0 && f.m2 0 5 == 0) (.fmin p d a b)
  | .fmax => do
    let d := f.d
    let a := f.a
    let b := f.b
    let p ← f.preP? false true true false
    okIf (f.m 8 4 == 1 && f.m 0 8 == 0 && f.m2 0 5 == 0) (.fmax p d a b)
  | .fcmp => do
    let cond ← FCond.ofCode? (f.m 5 3)
    let comb ← Comb.ofCode? (f.m 3 2)
    let d := f.d
    let a := f.a
    let b := f.b
    let k := f.c
    let p ← f.preP? false true true false
    okIf (f.m 8 4 == 1 && f.m 0 3 == 0 && f.m2 0 5 == 0 && decide (k < 32)) (.fcmp p cond comb d a b k)
  | .fround => do
    let rnd ← Rnd.pick Rnd.rnd4 (f.m 5 3)
    let d := f.d
    let a := f.a
    let p ← f.preP? false true false false
    okIf (f.m 8 4 == 1 && f.m 0 5 == 0 && f.m2 0 5 == 0) (.fround p rnd d a)
  | .fclass => do
    let d := f.d
    let a := f.a
    let p ← f.preP? false true false false
    okIf (f.m 8 4 == 1 && f.m 0 8 == 0 && f.m2 0 5 == 0) (.fclass p d a)
  | .fscale => do
    let rnd ← Rnd.pick Rnd.rnd4 (f.m 5 3)
    let d := f.d
    let a := f.a
    let b := f.b
    let p ← f.preP? false true true false
    okIf (f.m 8 4 == 1 && f.m 0 5 == 0 && f.m2 0 5 == 0) (.fscale p rnd d a b)
  | .frcp => do
    let rnd ← Rnd.pick Rnd.rnd4 (f.m 5 3)
    let d := f.d
    let a := f.a
    let p ← f.preP? false true false false
    okIf (f.m 8 4 == 1 && f.m 0 5 == 0 && f.m2 0 5 == 0) (.frcp p rnd d a)
  | .frsq => do
    let rnd ← Rnd.pick Rnd.rnd4 (f.m 5 3)
    let d := f.d
    let a := f.a
    let p ← f.preP? false true false false
    okIf (f.m 8 4 == 1 && f.m 0 5 == 0 && f.m2 0 5 == 0) (.frsq p rnd d a)
  | .fsqrt => do
    let rnd ← Rnd.pick Rnd.rnd4 (f.m 5 3)
    let d := f.d
    let a := f.a
    let p ← f.preP? false true false false
    okIf (f.m 8 4 == 1 && f.m 0 5 == 0 && f.m2 0 5 == 0) (.fsqrt p rnd d a)
  | .fdiv => do
    let rnd ← Rnd.pick Rnd.rnd4 (f.m 5 3)
    let d := f.d
    let a := f.a
    let b := f.b
    let p ← f.preP? false true true false
    okIf (f.m 8 4 == 1 && f.m 0 5 == 0 && f.m2 0 5 == 0) (.fdiv p rnd d a b)
  | .fexp2 => do
    let d := f.d
    let a := f.a
    let p ← f.preP? false true false false
    okIf (f.m 8 4 == 1 && f.m 0 8 == 0 && f.m2 0 5 == 0) (.fexp2 p d a)
  | .flog2 => do
    let d := f.d
    let a := f.a
    let p ← f.preP? false true false false
    okIf (f.m 8 4 == 1 && f.m 0 8 == 0 && f.m2 0 5 == 0) (.flog2 p d a)
  | .fsin => do
    let d := f.d
    let a := f.a
    let p ← f.preP? false true false false
    okIf (f.m 8 4 == 1 && f.m 0 8 == 0 && f.m2 0 5 == 0) (.fsin p d a)
  | .fcos => do
    let d := f.d
    let a := f.a
    let p ← f.preP? false true false false
    okIf (f.m 8 4 == 1 && f.m 0 8 == 0 && f.m2 0 5 == 0) (.fcos p d a)
  | .ftanh => do
    let d := f.d
    let a := f.a
    let p ← f.preP? false true false false
    okIf (f.m 8 4 == 1 && f.m 0 8 == 0 && f.m2 0 5 == 0) (.ftanh p d a)
  | .hadd2 => do
    let ty ← Tag.pick Tag.isHalf (f.m 8 4)
    let rnd ← Rnd.pick Rnd.rnd5 (f.m 5 3)
    let d := f.d
    let a := f.a
    let b := f.b
    let c := if rnd = .sr then f.c else 0
    let p ← f.preP? false true true (rnd == .sr)
    okIf (f.m 0 5 == 0 && f.m2 0 5 == 0) (.hadd2 p ty rnd d a b c)
  | .hmul2 => do
    let ty ← Tag.pick Tag.isHalf (f.m 8 4)
    let rnd ← Rnd.pick Rnd.rnd5 (f.m 5 3)
    let d := f.d
    let a := f.a
    let b := f.b
    let c := if rnd = .sr then f.c else 0
    let p ← f.preP? false true true (rnd == .sr)
    okIf (f.m 0 5 == 0 && f.m2 0 5 == 0) (.hmul2 p ty rnd d a b c)
  | .hfma2 => do
    let ty ← Tag.pick Tag.isHalf (f.m 8 4)
    let rnd ← Rnd.pick Rnd.rnd4 (f.m 5 3)
    let d := f.d
    let a := f.a
    let b := f.b
    let c := f.c
    let p ← f.preP? false true true true
    okIf (f.m 0 5 == 0 && f.m2 0 5 == 0) (.hfma2 p ty rnd d a b c)
  | .hmin2 => do
    let ty ← Tag.pick Tag.isHalf (f.m 8 4)
    let d := f.d
    let a := f.a
    let b := f.b
    let p ← f.preP? false true true false
    okIf (f.m 0 8 == 0 && f.m2 0 5 == 0) (.hmin2 p ty d a b)
  | .hmax2 => do
    let ty ← Tag.pick Tag.isHalf (f.m 8 4)
    let d := f.d
    let a := f.a
    let b := f.b
    let p ← f.preP? false true true false
    okIf (f.m 0 8 == 0 && f.m2 0 5 == 0) (.hmax2 p ty d a b)
  | .dot2 => do
    let ty ← Tag.pick Tag.isHalf (f.m 8 4)
    let rnd ← Rnd.pick Rnd.rnd4 (f.m 5 3)
    let d := f.d
    let a := f.a
    let b := f.b
    let c := f.c
    let p ← f.preP? false true true true
    okIf (f.m 0 5 == 0 && f.m2 0 5 == 0) (.dot2 p ty rnd d a b c)
  | .dot4 => do
    let ty ← Tag.pick Tag.isByteInt (f.m 8 4)
    let sat := f.m 7 1 == 1
    let d := f.d
    let a := f.a
    let b := f.b
    let c := f.c
    let p ← f.preP? false true true true
    okIf (f.m 0 7 == 0 && f.m2 0 5 == 0) (.dot4 p ty sat d a b c)
  | .cvt => do
    let ty ← Tag.pick Tag.isConv (f.m 8 4)
    let rnd ← Rnd.pick Rnd.rnd5 (f.m 5 3)
    let sty ← Tag.pick Tag.isConv (f.m 1 4)
    let sat := f.m 0 1 == 1
    let d := f.d
    let a := f.a
    let b := if rnd = .sr then f.b else 0
    let e := f.c
    let p ← f.preP? false true (rnd == .sr) false
    okIf (f.m2 0 5 == 0 && regOrPair ty.is64 d && regOrPair sty.is64 a && cvtOk ty rnd sty sat e) (.cvt p ty rnd sty sat d a b e)
  | .cvtxb => do
    let ty ← Tag.pick Tag.isXB (f.m 8 4)
    let rnd ← Rnd.pick Rnd.rndxb (f.m 5 3)
    let h := f.m 4 1 == 1
    let d := f.d
    let a := f.a
    let b := f.b
    let c := if rnd = .sr then f.c else 0
    let p ← f.preP? false true true (rnd == .sr)
    okIf (f.m 0 4 == 0 && f.m2 0 5 == 0 && cvtxbOk ty rnd d a b c) (.cvtxb p ty rnd h d a b c)
  | .xbunp => do
    let ty ← Tag.pick Tag.isUnp (f.m 8 4)
    let sty ← Tag.pick Tag.isXB (f.m 4 4)
    let h := f.m 3 1 == 1
    let d := f.d
    let a := f.a
    let b := f.b
    let p ← f.preP? false true true false
    okIf (f.m 0 3 == 0 && f.m2 0 5 == 0) (.xbunp p ty sty h d a b)
  | .xbexp => do
    let ty ← Tag.pick Tag.isXB (f.m 8 4)
    let rnd ← Rnd.pick Rnd.rndxb (f.m 5 3)
    let h := f.m 4 1 == 1
    let d := f.d
    let a := f.a
    let c := if rnd = .sr then f.c else 0
    let p ← f.preP? false true false (rnd == .sr)
    okIf (f.m 0 4 == 0 && f.m2 0 5 == 0) (.xbexp p ty rnd h d a c)
  | .mreduce => do
    let rnd ← Rnd.pick Rnd.rnd4 (f.m 5 3)
    let mode ← MredMode.ofCode? (f.m 3 2)
    let d := f.d
    let a := f.a
    let b := f.b
    let n := f.c
    let p ← f.preP? false true true false
    okIf (f.m 8 4 == 1 && f.m 0 3 == 0 && f.m2 0 5 == 0 && decide (1 ≤ n) && decide (n ≤ 16)) (.mreduce p rnd mode d a b n)
  | .ld => do
    let sp ← Space.pick Space.spGSPW (f.m 9 3)
    let ty ← Tag.pick Tag.isMem (f.m 5 4)
    let ord ← MemOrd.pick MemOrd.ordA (f.m 3 2)
    let sc ← Scope.ofCode? (f.m 0 3)
    let hint ← Hint.ofCode? (f.m2 3 2)
    let elt ← bool? (f.m2 0 3)
    let d := f.d
    let a := f.a
    let off := f.immC
    let p ← f.preI?
    okIf (regOrPair ty.is64 d && regOrPair sp.wideAddr a && ordScopeOk ord sc && eltOk sp ty elt) (.ld p sp ty ord sc hint elt d a off)
  | .st => do
    let sp ← Space.pick Space.spGSPW (f.m 9 3)
    let ty ← Tag.pick Tag.isMem (f.m 5 4)
    let ord ← MemOrd.pick MemOrd.ordR (f.m 3 2)
    let sc ← Scope.ofCode? (f.m 0 3)
    let hint ← Hint.ofCode? (f.m2 3 2)
    let elt ← bool? (f.m2 0 3)
    let a := f.a
    let b := f.b
    let off := f.immC
    let p ← f.preI?
    okIf (regOrPair sp.wideAddr a && regOrPair ty.is64 b && ordScopeOk ord sc && eltOk sp ty elt) (.st p sp ty ord sc hint elt a b off)
  | .ldv => do
    let sp ← Space.pick Space.spGSPW (f.m 9 3)
    let ty ← Tag.pick Tag.isMem (f.m 5 4)
    let ord ← MemOrd.pick MemOrd.ordA (f.m 3 2)
    let sc ← Scope.ofCode? (f.m 0 3)
    let hint ← Hint.ofCode? (f.m2 3 2)
    let vn := f.m2 0 3
    let d := f.d
    let a := f.a
    let off := f.immC
    let p ← f.preI?
    okIf (regOrPair sp.wideAddr a && ordScopeOk ord sc && vecOk vn d) (.ldv p sp ty ord sc hint vn d a off)
  | .stv => do
    let sp ← Space.pick Space.spGSPW (f.m 9 3)
    let ty ← Tag.pick Tag.isMem (f.m 5 4)
    let ord ← MemOrd.pick MemOrd.ordR (f.m 3 2)
    let sc ← Scope.ofCode? (f.m 0 3)
    let hint ← Hint.ofCode? (f.m2 3 2)
    let vn := f.m2 0 3
    let a := f.a
    let b := f.b
    let off := f.immC
    let p ← f.preI?
    okIf (regOrPair sp.wideAddr a && ordScopeOk ord sc && vecOk vn b) (.stv p sp ty ord sc hint vn a b off)
  | .ldc => do
    let ty ← Tag.pick Tag.isMem (f.m 5 4)
    let d := f.d
    let a := f.a
    let off := f.immC
    let p ← f.preI?
    okIf (f.m 0 5 == 0 && f.m 9 3 == 0 && f.m2 0 5 == 0 && regOrPair ty.is64 d && isPair a) (.ldc p ty d a off)
  | .pref => do
    let sp ← Space.pick Space.spGP (f.m 9 3)
    let hint ← Hint.ofCode? (f.m2 3 2)
    let l2 := f.m2 0 1 == 1
    let a := f.a
    let off := f.immC
    let p ← f.preI?
    okIf (f.m 0 9 == 0 && f.m2 1 2 == 0 && regOrPair sp.wideAddr a) (.pref p sp hint l2 a off)
  | .flushl => do
    let sp ← Space.pick Space.spGP (f.m 9 3)
    let drop := f.m2 0 1 == 1
    let a := f.a
    let off := f.immC
    let p ← f.preI?
    okIf (f.m 0 9 == 0 && f.m2 1 4 == 0 && regOrPair sp.wideAddr a) (.flushl p sp drop a off)
  | .atom => do
    let sp ← Space.pick Space.spGSPW (f.m 9 3)
    let ty ← Tag.pick Tag.isAtom (f.m 5 4)
    let ord ← MemOrd.pick MemOrd.ordAR (f.m 3 2)
    let sc ← Scope.ofCode? (f.m 0 3)
    let op ← AtOp.ofCode? (f.m2 0 3)
    let d := f.d
    let a := f.a
    let b := f.b
    let c := if op = .cas then f.c else 0
    let off := f.imm0
    let p ← f.preI?
    okIf (f.m2 3 2 == 0 && regOrPair ty.is64 d && regOrPair sp.wideAddr a && regOrPair ty.is64 b && (op != .cas || regOrPair ty.is64 c) && ordScopeOk ord sc && atomOk ty op) (.atom p sp ty ord sc op d a b c off)
  | .red => do
    let sp ← Space.pick Space.spGSPW (f.m 9 3)
    let ty ← Tag.pick Tag.isAtom (f.m 5 4)
    let hint ← Hint.ofCode? (f.m2 3 2)
    let op ← AtOp.ofCode? (f.m2 0 3)
    let a := f.a
    let b := f.b
    let off := f.immC
    let p ← f.preI?
    okIf (f.m 0 5 == 0 && regOrPair sp.wideAddr a && regOrPair ty.is64 b && redOk ty op) (.red p sp ty hint op a b off)
  | .fence => do
    let ord ← MemOrd.pick MemOrd.ordF (f.m 3 2)
    let sc ← Scope.ofCode? (f.m 0 3)
    let p ← f.preP? false false false false
    okIf (f.m 5 7 == 0 && f.m2 0 5 == 0) (.fence p ord sc)
  | .cinv => do
    let sc ← Scope.ofCode? (f.m 0 3)
    let p ← f.preP? false false false false
    okIf (f.m 3 9 == 0 && f.m2 0 5 == 0 && scopeC sc) (.cinv p sc)
  | .waitv => do
    let sp ← Space.pick Space.spGS (f.m 9 3)
    let ty ← Tag.pick Tag.isInt3264 (f.m 5 4)
    let sc ← Scope.ofCode? (f.m 0 3)
    let cond ← Cond.ofCode? (f.m2 0 3)
    let d := f.d
    let a := f.a
    let b := f.b
    let off := f.imm0
    let p ← f.preI?
    okIf (f.m 3 2 == 1 && f.m2 3 2 == 0 && regOrPair ty.is64 d && regOrPair sp.wideAddr a && regOrPair ty.is64 b) (.waitv p sp ty sc cond d a b off)
  | .awset => do
    let sp ← Space.pick Space.spGS (f.m 9 3)
    let d := f.d
    let a := f.a
    let b := f.b
    let c := f.c
    let off := f.imm0
    let p ← f.preI?
    okIf (f.m 0 9 == 0 && f.m2 0 5 == 0 && regOrPair sp.wideAddr a) (.awset p sp d a b c off)
  | .arrive => do
    let sp ← Space.pick Space.spGS (f.m 9 3)
    let sc ← Scope.ofCode? (f.m 0 3)
    let a := f.a
    let b := f.b
    let off := f.immC
    let p ← f.preI?
    okIf (f.m 3 2 == 2 && f.m 5 4 == 0 && f.m2 0 5 == 0 && regOrPair sp.wideAddr a) (.arrive p sp sc a b off)
  | .await => do
    let sp ← Space.pick Space.spGS (f.m 9 3)
    let sc ← Scope.ofCode? (f.m 0 3)
    let d := f.d
    let a := f.a
    let b := f.b
    let off := f.immC
    let p ← f.preI?
    okIf (f.m 3 2 == 1 && f.m 5 4 == 0 && f.m2 0 5 == 0 && regOrPair sp.wideAddr a) (.await p sp sc d a b off)
  | .srinit => do
    let a := f.a
    let b := f.b
    let c := f.c
    let p ← f.preP? false false false false
    okIf (f.m 0 12 == 0 && f.m2 0 5 == 0 && isPair b) (.srinit p a b c)
  | .srwait => do
    let empty := f.m 0 1 == 1
    let a := f.a
    let b := f.b
    let c := f.c
    let p ← f.preP? false false false false
    okIf (f.m 1 11 == 0 && f.m2 0 5 == 0) (.srwait p empty a b c)
  | .srfree => do
    let a := f.a
    let b := f.b
    let p ← f.preP? false false false false
    okIf (f.m 0 12 == 0 && f.m2 0 5 == 0) (.srfree p a b)
  | .waitc => do
    let cls ← Cls.ofCode? (f.m 0 3)
    let d := f.d
    let n := f.regImm 3
    let p ← f.preP? false false false false
    okIf (f.m 4 8 == 0 && f.m2 0 5 == 0) (.waitc p cls d n)
  | .tld => do
    let ord ← MemOrd.pick MemOrd.ordA (f.m 3 2)
    let sc ← Scope.ofCode? (f.m 0 3)
    let hint ← Hint.ofCode? (f.m2 3 2)
    let d := f.d
    let a := f.a
    let ts := f.c
    let p ← f.preP? false false false false
    okIf (f.m 5 7 == 0 && f.m2 0 3 == 0 && isPair a && decide (ts < 32) && ordScopeOk ord sc) (.tld p ord sc hint d a ts)
  | .tst => do
    let ord ← MemOrd.pick MemOrd.ordR (f.m 3 2)
    let sc ← Scope.ofCode? (f.m 0 3)
    let hint ← Hint.ofCode? (f.m2 3 2)
    let a := f.a
    let b := f.b
    let ts := f.c
    let p ← f.preP? false false false false
    okIf (f.m 5 7 == 0 && f.m2 0 3 == 0 && isPair a && decide (ts < 32) && ordScopeOk ord sc) (.tst p ord sc hint a b ts)
  | .shfl => do
    let mode ← ShflMode.ofCode? (f.m 9 3)
    let w64 := f.m 8 1 == 1
    let d := f.d
    let a := f.a
    let b := f.regImm 7
    let p ← f.preP? true true (!b.isImm) false
    okIf (f.m 0 7 == 0 && f.m2 0 5 == 0 && regOrPair w64 d && regOrPair w64 a) (.shfl p mode w64 d a b)
  | .ballot => do
    let d := f.d
    let a := f.a
    let k := f.c
    let p ← f.preP? true true false false
    okIf (f.m 0 12 == 0 && f.m2 0 5 == 0 && decide (k < 32)) (.ballot p d a k)
  | .vote => do
    let mode ← VoteMode.ofCode? (f.m 10 2)
    let j := f.m 0 5
    let d := f.d
    let a := f.a
    let k := f.c
    let p ← f.preP? true true false false
    okIf (f.m 5 5 == 0 && f.m2 0 5 == 0 && decide (k < 32)) (.vote p mode d a k j)
  | .matchv => do
    let w64 := f.m 0 1 == 1
    let d := f.d
    let a := f.a
    let p ← f.preP? true true false false
    okIf (f.m 1 11 == 0 && f.m2 0 5 == 0 && regOrPair w64 a) (.matchv p w64 d a)
  | .lreduce => do
    let ty ← Tag.pick Tag.isLane (f.m 8 4)
    let sat := f.m 7 1 == 1
    let op ← LaneOp.ofCode? (f.m 4 3)
    let d := f.d
    let a := f.a
    let p ← f.preP? true true false false
    okIf (f.m 0 4 == 0 && f.m2 0 5 == 0 && regOrPair ty.is64 d && regOrPair ty.is64 a && laneOpOk ty sat op) (.lreduce p ty sat op d a)
  | .lscan => do
    let ty ← Tag.pick Tag.isLane (f.m 8 4)
    let sat := f.m 7 1 == 1
    let op ← LaneOp.ofCode? (f.m 4 3)
    let excl := f.m 3 1 == 1
    let d := f.d
    let a := f.a
    let p ← f.preP? true true false false
    okIf (f.m 0 3 == 0 && f.m2 0 5 == 0 && regOrPair ty.is64 d && regOrPair ty.is64 a && laneOpOk ty sat op) (.lscan p ty sat op excl d a)
  | .tsinit =>
    if f.m 8 1 == 1 then do
      let frag := f.m 0 8
      let d := f.d
      let a := f.a
      let b := f.b
      let g := f.c
      let p ← f.preP? false false false false
      okIf (f.m 8 1 == 1 && f.m 9 3 == 0 && f.m2 0 5 == 0 && decide (d < 32) && decide (g < 64) && fragOk frag b) (.tsinitFrag p frag d a b g)
    else do
      let s ← bool? (f.m 9 3)
      let d := f.d
      let a := f.a
      let p ← f.preP? false false false false
      okIf (f.m 0 9 == 0 && f.m2 0 5 == 0 && f.b == 0 && f.c == 0 && decide (d < 32) && regOrPair (!s) a) (.tsinit p s d a)
  | .tsset => do
    let d := f.d
    let a := f.a
    let w := f.c
    let p ← f.preP? false false false false
    okIf (f.m 0 12 == 0 && f.m2 0 5 == 0 && decide (d < 32) && isPair a && decide (w < 64)) (.tsset p d a w)
  | .tsget => do
    let d := f.d
    let a := f.a
    let w := f.c
    let p ← f.preP? false false false false
    okIf (f.m 0 12 == 0 && f.m2 0 5 == 0 && isPair d && decide (a < 32) && decide (w < 64)) (.tsget p d a w)
  | .recut => do
    let aws := f.m 5 1 == 1
    let lossy := f.m 4 1 == 1
    let sc ← scp? (f.m 0 4)
    let d := f.d
    let a := f.a
    let b := f.b
    let c := f.c
    let off := sext 32 f.w2
    let p ← f.preP? false false false false
    okIf (f.m 6 6 == 0 && f.m2 0 5 == 0 && decide (d < 32) && decide (a < 32) && regOrPair (!aws) b && recutOk aws lossy b c) (.recut p aws lossy sc d a b c off)
  | .recutq => do
    let lossy := f.m 4 1 == 1
    let d := f.d
    let a := f.a
    let b := f.b
    let p ← f.preP? false false false false
    okIf (f.m 0 4 == 0 && f.m 5 7 == 0 && f.m2 0 5 == 0 && f.c == 0 && isPair d && decide (a < 32) && decide (b < 32)) (.recutq p lossy d a b)
  | .gather => do
    let rsp := f.m 9 1 == 1
    let sc ← scp? (f.m 0 4)
    let a := f.a
    let p ← f.preP? false false false false
    okIf (f.m 4 5 == 0 && f.m 10 2 == 0 && f.m2 0 5 == 0 && f.d == 0 && f.b == 0 && f.c == 0 && regOrPair (!rsp) a) (.gather p rsp sc a)
  | .scatter => do
    let rsp := f.m 9 1 == 1
    let sc ← scp? (f.m 0 4)
    let a := f.a
    let p ← f.preP? false false false false
    okIf (f.m 4 5 == 0 && f.m 10 2 == 0 && f.m2 0 5 == 0 && f.d == 0 && f.b == 0 && f.c == 0 && regOrPair (!rsp) a) (.scatter p rsp sc a)
  | .mma => do
    let ap := f.m 11 1 == 1
    let fmt ← Tag.pick Tag.isFrag (f.m 7 4)
    let sat := f.m 6 1 == 1
    let d := f.d
    let a := f.a
    let b := f.b
    let tk := bitsAt f.w2 0 4
    let sa := bitsAt f.w2 8 8
    let sb := bitsAt f.w2 16 8
    let p ← f.preP? false false false false
    okIf (f.m 0 6 == 0 && f.m2 0 5 == 0 && f.c == 0 && decide (d < 16) && mmaSatOk fmt sat) (.mma p ap fmt sat d a b tk sa sb)
  | .mlru => do
    let d := f.d
    let a := f.a
    let b := f.b
    let tk := bitsAt f.w2 0 4
    let p ← f.preP? false false false false
    okIf (f.m 8 4 == 1 && f.m 0 8 == 0 && f.m2 0 5 == 0 && f.c == 0 && decide (d < 16)) (.mlru p d a b tk)
  | .mlrmul => do
    let d := f.d
    let a := f.a
    let b := f.b
    let p ← f.preP? false false false false
    okIf (f.m 0 12 == 0 && f.m2 0 5 == 0 && decide (d < 16) && decide (a < 16) && decide (b < 16)) (.mlrmul p d a b)
  | .mlradd => do
    let d := f.d
    let a := f.a
    let p ← f.preP? false false false false
    okIf (f.m 0 12 == 0 && f.m2 0 5 == 0 && decide (d < 16) && decide (a < 16)) (.mlradd p d a)
  | .mrecomp => do
    let set := f.m 0 1 == 1
    let d := f.d
    let a := f.a
    let p ← f.preP? false false false false
    okIf (f.m 1 11 == 0 && f.m2 0 5 == 0 && decide (d < 16) && mrecompOk set a) (.mrecomp p set d a)
  | .mdense => do
    let d := f.d
    let p ← f.preP? false false false false
    okIf (f.m 0 12 == 0 && f.m2 0 5 == 0 && decide (d < 16)) (.mdense p d)
  | .mzero => do
    let d := f.d
    let p ← f.preP? false false false false
    okIf (f.m 0 12 == 0 && f.m2 0 5 == 0 && decide (d < 16)) (.mzero p d)
  | .mcopy => do
    let d := f.d
    let a := f.a
    let p ← f.preP? false false false false
    okIf (f.m 0 12 == 0 && f.m2 0 5 == 0 && decide (d < 16) && decide (a < 16)) (.mcopy p d a)
  | .mswap => do
    let d := f.d
    let a := f.a
    let p ← f.preP? false false false false
    okIf (f.m 0 12 == 0 && f.m2 0 5 == 0 && decide (d < 16) && decide (a < 16)) (.mswap p d a)
  | .mstat => do
    let d := f.d
    let a := f.a
    let p ← f.preP? false false false false
    okIf (f.m 0 12 == 0 && f.m2 0 5 == 0 && decide (a < 16)) (.mstat p d a)
  | .mclrs => do
    let d := f.d
    let mask := f.c
    let p ← f.preP? false false false false
    okIf (f.m 0 12 == 0 && f.m2 0 5 == 0 && decide (d < 16) && decide (mask < 32)) (.mclrs p d mask)
  | .mpol => do
    let d := f.d
    let densify := bitsAt f.c 0 1 == 1
    let nvt := bitsAt f.c 1 1 == 1
    let p ← f.preP? false false false false
    okIf (f.m 0 12 == 0 && f.m2 0 5 == 0 && decide (d < 16) && decide (f.c < 4)) (.mpol p d densify nvt)
  | .mdrain => do
    let add := f.m 11 1 == 1
    let ssp := f.m 5 1 == 1
    let sc ← scp? (f.m 0 4)
    let d := f.d
    let a := f.a
    let b := f.b
    let off := sext 32 f.w2
    let p ← f.preP? false false false false
    okIf (f.m 4 1 == 0 && f.m 6 5 == 0 && f.m2 0 5 == 0 && f.c == 0 && decide (d < 16) && decide (a < 32) && regOrPair (!ssp) b) (.mdrain p add ssp sc d a b off)
  | .mfill => do
    let ty ← Tag.pick Tag.isFillTy (f.m 8 4)
    let d := f.d
    let a := f.a
    let off := f.immC
    let p ← f.preI?
    okIf (f.m 0 8 == 0 && f.m2 0 5 == 0 && decide (d < 16)) (.mfill p ty d a off)
  | .mspill => do
    let d := f.d
    let a := f.a
    let off := f.immC
    let p ← f.preI?
    okIf (f.m 0 12 == 0 && f.m2 0 5 == 0 && decide (d < 16)) (.mspill p d a off)
  | .tkset => do
    let d := f.d
    let g := f.a
    let n := f.c
    let p ← f.preP? false false false false
    okIf (f.m 0 12 == 0 && f.m2 0 5 == 0 && decide (d < 16) && decide (g < 64) && decide (n ≤ 64)) (.tkset p d g n)
  | .coll => do
    let sc ← scp? (f.m 0 4)
    let a := f.a
    let p ← f.preP? false false false false
    okIf (f.m 4 8 == 0 && f.m2 0 5 == 0 && f.d == 0 && f.b == 0 && f.c == 0 && isPair a) (.coll p sc a)
  | .decode => do
    let sc ← scp? (f.m 0 4)
    let a := f.a
    let p ← f.preP? false false false false
    okIf (f.m 4 8 == 0 && f.m2 0 5 == 0 && f.d == 0 && f.b == 0 && f.c == 0 && isPair a) (.decode p sc a)
  | .decq => do
    let d := f.d
    let a := f.a
    let p ← f.preP? false false false false
    okIf (f.m 0 12 == 0 && f.m2 0 5 == 0 && isPair d && isPair a) (.decq p d a)
  | .srd => do
    let n := f.m 0 10
    let d := f.d
    let p ← f.preP? false false false false
    okIf (f.m 10 2 == 0 && f.m2 0 5 == 0 && f.a == 0 && f.b == 0 && f.c == 0 && isSysReg n && isPair d) (.srd p n d)
  | .swr => do
    let n := f.m 0 10
    let a := f.a
    let p ← f.preP? false false false false
    okIf (f.m 10 2 == 0 && f.m2 0 5 == 0 && f.d == 0 && f.b == 0 && f.c == 0 && isSysReg n && isPair a) (.swr p n a)
  | .trap => do
    let n ← natBelow? 65536 f.immC
    let a := f.a
    let p ← f.preI?
    okIf (f.m 0 12 == 0 && f.m2 0 5 == 0 && f.d == 0 && f.b == 0 && isPair a) (.trap p n a)
  | .eret => do
    let p ← f.preP? false false false false
    okIf (f.m 0 12 == 0 && f.m2 0 5 == 0) (.eret p)
  | .owrd => do
    let d := f.d
    let k := f.c
    let p ← f.preP? false false false false
    okIf (f.m 0 12 == 0 && f.m2 0 5 == 0 && decide (k < 16)) (.owrd p d k)
  | .owwr => do
    let k := f.c
    let b := f.b
    let p ← f.preP? false false false false
    okIf (f.m 0 12 == 0 && f.m2 0 5 == 0 && decide (k < 16)) (.owwr p k b)
  | .xrd => do
    let d := f.d
    let n := f.regImm 0
    let p ← f.preP? false false false false
    okIf (f.m 1 11 == 0 && f.m2 0 5 == 0 && f.a == 0 && xrdOk n f.b) (.xrd p d n)
  | .xwr => do
    let tg ← tagOpt? (f.m 1 5)
    let b := f.b
    let n := if f.m 0 1 == 1 then RegImm.imm f.c else RegImm.reg f.c
    let p ← f.preP? false false false false
    okIf (f.m 6 6 == 0 && f.m2 0 5 == 0 && f.d == 0 && f.a == 0) (.xwr p tg b n)
  | .xmrd => do
    let d := f.d
    let a := f.a
    let b := f.b
    let p ← f.preP? false false false false
    okIf (f.m 0 12 == 0 && f.m2 0 5 == 0 && decide (a < 16)) (.xmrd p d a b)
  | .xmwr => do
    let tg ← Tag.pick Tag.isXmTag (f.m 8 4)
    let init := f.m 0 1 == 1
    let d := f.d
    let a := f.a
    let b := f.b
    let p ← f.preP? false false false false
    okIf (f.m 1 7 == 0 && f.m2 0 5 == 0 && decide (d < 16)) (.xmwr p tg init d a b)
  | .xflg => do
    let done := f.m 0 1 == 1
    let d := f.d
    let b := f.b
    let p ← f.preP? false false false false
    okIf (f.m 1 11 == 0 && f.m2 0 5 == 0) (.xflg p done d b)
  | .clock => do
    let cyc ← bool? (f.m 0 2)
    let d := f.d
    let p ← f.preP? false false false false
    okIf (f.m 2 10 == 0 && f.m2 0 5 == 0 && isPair d) (.clock p cyc d)
  | .perfq => do
    let clr := f.m 0 1 == 1
    let d := f.d
    let sel := f.c
    let p ← f.preP? false false false false
    okIf (f.m 1 11 == 0 && f.m2 0 5 == 0 && isPair d && isPerfSel sel) (.perfq p clr d sel)
  | .launch => do
    let d := f.d
    let a := f.a
    let p ← f.preP? false false false false
    okIf (f.m 0 12 == 0 && f.m2 0 5 == 0 && f.b == 0 && f.c == 0 && isPair a) (.launch p d a)
  | .capmark => do
    let imm := f.immC
    let p ← f.preI?
    okIf (f.m 0 12 == 0 && f.m2 0 5 == 0 && f.d == 0 && f.a == 0 && f.b == 0) (.capmark p imm)

/-- Why an item is no instruction (14/R318). -/
inductive Reject where
  /-- The item would cross its fetch block. -/
  | crossesBlock
  /-- A header with a nonzero reserved bit. -/
  | headerReserved
  /-- An assigned opcode at a length the map does not allow. -/
  | badLength
  /-- A bit that R306 requires to be zero is not. -/
  | nonzeroWord
  /-- The opcode is unassigned. -/
  | unassigned
  /-- A reserved value of a sub-field. -/
  | reservedValue
  deriving DecidableEq, Repr

/-- The cause code of a rejection: malformed items are 0x04, undefined encodings 0x01 (12/R267). -/
def Reject.cause : Reject → Nat
  | .unassigned | .reservedValue => 0x01
  | _ => 0x04

/-- Little-endian value of bytes. -/
def leNat : List Byte → Nat
  | [] => 0
  | b :: bs => b.toNat + 256 * leNat bs

/-- The n bytes of a value, little-endian. -/
def leBytes : Nat → Nat → List Byte
  | 0, _ => []
  | n + 1, x => BitVec.ofNat 8 x :: leBytes n (x / 256)

/-- The fields of a clause header (14/R308), `none` where a reserved bit is set. -/
def decodeHeader (w0 : Nat) : Option Header :=
  okIf (bitsAt w0 35 1 == 0 && bitsAt w0 37 27 == 0)
    ⟨bitsAt w0 2 12, bitsAt w0 14 4, bitsAt w0 18 4, bitsAt w0 22 8, bitsAt w0 30 5 + 1, bitsAt w0 36 1 == 1⟩

/-- The raw fields an undefined or malformed item leaves for its handler. -/
def Fields.raw (f : Fields) (r : Reject) : RawItem := ⟨f.len, f.op, f.ge, f.gn, f.gb, r.cause⟩

/-- The length an item's low two bits give. -/
def lenOf (w0 : Nat) : Option Len :=
  match w0 % 4 with
  | 0 => some .l64
  | 1 => some .l96
  | 2 => some .l128
  | _ => none

/-- The words of an instruction item of length `l` at the head of the bytes. -/
def wordsAt (l : Len) (bs : List Byte) : Words :=
  ⟨l, leNat (bs.take 8),
    match l with | .l64 => 0 | _ => leNat ((bs.drop 8).take 4),
    match l with | .l128 => leNat ((bs.drop 12).take 4) | _ => 0⟩

/-- Form and decode checks of 14/R318 on the words of an instruction item. -/
def decodeWords (w : Words) : Except (Reject × RawItem) Instr :=
  let f := w.fields
  match opRow? f.op with
  | none => .error (.unassigned, f.raw .unassigned)
  | some r =>
    if !r.lens.allows f.len then .error (.badLength, f.raw .badLength)
    else if !formOk r f then .error (.nonzeroWord, f.raw .nonzeroWord)
    else match decodeFields r.op f with
      | none => .error (.reservedValue, f.raw .reservedValue)
      | some i => .ok i

/-- The decoder: the bytes from the item's address to the end of its fetch block give the instruction (or the clause
header, as the step CLAUSE_START) and the bytes after it. It is total, and names why it refuses (14/R304, R318). -/
def decodeItem (bs : List Byte) : Except (Reject × RawItem) (Instr × List Byte) :=
  if bs.length < 8 then
    .error (.crossesBlock, (Words.fields (wordsAt .l64 bs)).raw .crossesBlock)
  else
    match lenOf (leNat (bs.take 8)) with
    | none =>
      match decodeHeader (leNat (bs.take 8)) with
      | none => .error (.headerReserved, (Words.fields (wordsAt .l64 bs)).raw .headerReserved)
      | some h => .ok (.clauseStart h, bs.drop 8)
    | some l =>
      if bs.length < l.bytes then
        .error (.crossesBlock, (Words.fields (wordsAt l bs)).raw .crossesBlock)
      else
        match decodeWords (wordsAt l bs) with
        | .error e => .error e
        | .ok i => .ok (i, bs.drop l.bytes)

/-- The instruction the decoder reads from the bits `w` of a table row, bit 0 the least significant bit of word 0;
the bits above are zero. -/
def decodeTableWord (nbits w : Nat) : Option Instr :=
  match decodeItem (leBytes 16 (w % 2 ^ nbits)) with
  | .ok (i, _) => some i
  | .error _ => none

/-! ## The encoder -/

/-- Word 0 of an instruction (14/R305). -/
def word0 (p : Pre) (op d a b c mod : Nat) : Nat :=
  p.len.code + 4 * op + 4096 * p.fs.toNat + 8192 * p.ge.toNat + 16384 * p.gn.toNat + 32768 * p.gb +
  1048576 * d + 268435456 * a + 68719476736 * b + 17592186044416 * c + 4503599627370496 * mod

/-- A kind-P instruction's words. -/
def encP (p : Pre) (o : Op) (d a b c mod mod2 w2 : Nat) : Words :=
  ⟨p.len, word0 p o.code d a b c mod,
    p.pc.code + 256 * p.pb.code + 65536 * p.pa.code + 16777216 * p.sg + 134217728 * mod2, w2⟩

/-- A kind-I instruction's words; `cImm` says whether the C byte is the immediate of the 64-bit form. -/
def encI (p : Pre) (o : Op) (d a b c mod mod2 : Nat) (cImm : Bool) (imm : Int) : Words :=
  match p.len with
  | .l64 => ⟨.l64, word0 p o.code d a b (if cImm then unsext 8 imm else c) mod, 0, 0⟩
  | .l96 => ⟨.l96, word0 p o.code d a b c mod, unsext 24 imm + 134217728 * mod2, 0⟩
  | .l128 => ⟨.l128, word0 p o.code d a b c mod, 134217728 * mod2, unsext 32 imm⟩

/-- The word of a clause header (14/R308). -/
def encHeader (h : Header) : Words :=
  ⟨.l64, 3 + 4 * h.wait + 16384 * h.seta + 262144 * h.setb + 4194304 * h.pred + 1073741824 * (h.count - 1) +
    68719476736 * h.yield.toNat, 0, 0⟩

/-- A clause header in range. -/
def Header.ok (h : Header) : Bool :=
  decide (h.wait < 4096) && decide (h.seta < 16) && decide (h.setb < 16) && decide (h.pred < 256) &&
  decide (1 ≤ h.count) && decide (h.count ≤ 32)

/-- The words of an instruction; a device step other than CLAUSE_START has none. -/
def encode : Instr → Option Words
  | .nop p => some (encP p .nop 0 0 0 0 0 0 0)
  | .mov p w64 d a => some (encP p .mov d a 0 0 w64.toNat 0 0)
  | .movx p d a b => some (encP p .movx d a b 0 0 0 0)
  | .movxw p d a b => some (encP p .movxw d a b 0 0 0 0)
  | .tag p w64 code d a => some (encP p .tag d a 0 0 (16 * w64.toNat + code.code) 0 0)
  | .tagq p d a => some (encP p .tagq d a 0 0 0 0 0)
  | .idq p d sel => some (encP p .idq d 0 0 sel 0 0 0)
  | .iadd p ty sat d a b => some (encP p .iadd d a b 0 (256 * ty.code + 128 * sat.toNat) 0 0)
  | .isub p ty sat d a b => some (encP p .isub d a b 0 (256 * ty.code + 128 * sat.toNat) 0 0)
  | .ineg p ty sat d a => some (encP p .ineg d a 0 0 (256 * ty.code + 128 * sat.toNat) 0 0)
  | .iabs p ty sat d a => some (encP p .iabs d a 0 0 (256 * ty.code + 128 * sat.toNat) 0 0)
  | .imin p ty d a b => some (encP p .imin d a b 0 (256 * ty.code) 0 0)
  | .imax p ty d a b => some (encP p .imax d a b 0 (256 * ty.code) 0 0)
  | .imul p ty sat d a b => some (encP p .imul d a b 0 (256 * ty.code + 128 * sat.toNat) 0 0)
  | .imulh p ty d a b => some (encP p .imulh d a b 0 (256 * ty.code) 0 0)
  | .imad p ty sat d a b c => some (encP p .imad d a b c (256 * ty.code + 128 * sat.toNat) 0 0)
  | .imadw p ty sat d a b c => some (encP p .imadw d a b c (256 * ty.code + 128 * sat.toNat) 0 0)
  | .iaddc p d a b c => some (encP p .iaddc d a b c 2304 0 0)
  | .isubb p d a b c => some (encP p .isubb d a b c 2304 0 0)
  | .iadd64 p ty sat d a b => some (encP p .iadd64 d a b 0 (256 * ty.code + 128 * sat.toNat) 0 0)
  | .isub64 p ty sat d a b => some (encP p .isub64 d a b 0 (256 * ty.code + 128 * sat.toNat) 0 0)
  | .icmp p ty cond comb d a b k => some (encP p .icmp d a b k (256 * ty.code + 32 * cond.code + 8 * comb.code) 0 0)
  | .isel p d a b c k => some (encP p .isel d a b c k 0 0)
  | .shl p d a n => some (encP p .shl d a n.regField n.immField (64 * n.immBit) 0 0)
  | .shr p d a n => some (encP p .shr d a n.regField n.immField (64 * n.immBit) 0 0)
  | .sar p d a n => some (encP p .sar d a n.regField n.immField (64 * n.immBit) 0 0)
  | .rotl p d a n => some (encP p .rotl d a n.regField n.immField (64 * n.immBit) 0 0)
  | .shl64 p d a n => some (encP p .shl64 d a n.regField n.immField (64 * n.immBit) 0 0)
  | .shr64 p d a n => some (encP p .shr64 d a n.regField n.immField (64 * n.immBit) 0 0)
  | .and p d a b => some (encP p .and d a b.regField b.immField (64 * b.immBit) 0 0)
  | .or p d a b => some (encP p .or d a b.regField b.immField (64 * b.immBit) 0 0)
  | .xor p d a b => some (encP p .xor d a b.regField b.immField (64 * b.immBit) 0 0)
  | .andn p d a b => some (encP p .andn d a b.regField b.immField (64 * b.immBit) 0 0)
  | .lut3 p d a b c table => some (encP p .lut3 d a b c table 0 0)
  | .bfx p ty d a pos len1 => some (encP p .bfx d a 0 pos (256 * ty.code + len1) 0 0)
  | .bfi p d a b pos len1 => some (encP p .bfi d a b pos len1 0 0)
  | .popc p d a => some (encP p .popc d a 0 0 0 0 0)
  | .clz p d a => some (encP p .clz d a 0 0 0 0 0)
  | .ctz p d a => some (encP p .ctz d a 0 0 0 0 0)
  | .brev p d a => some (encP p .brev d a 0 0 0 0 0)
  | .bperm p d a b c => some (encP p .bperm d a b c 0 0 0)
  | .bset p d a n => some (encP p .bset d a n.regField n.immField (64 * n.immBit) 0 0)
  | .bclr p d a n => some (encP p .bclr d a n.regField n.immField (64 * n.immBit) 0 0)
  | .movi p ty d imm => some (encI p .movi d 0 0 0 (256 * ty.code) 0 true imm)
  | .movi64 p ty d imm => some (encI p .movi64 d 0 0 0 (256 * ty.code) 0 true imm)
  | .bra p off => some (encI p .bra 0 0 0 0 0 0 false off)
  | .brx p a => some (encP p .brx 0 a 0 0 0 0 0)
  | .call p d off => some (encI p .call d 0 0 0 0 0 false off)
  | .callx p d a => some (encP p .callx d a 0 0 0 0 0)
  | .ret p a => some (encP p .ret 0 a 0 0 0 0 0)
  | .seam p => some (encP p .seam 0 0 0 0 0 0 0)
  | .bar p => some (encP p .bar 0 0 0 0 0 0 0)
  | .yield p => some (encP p .yield 0 0 0 0 0 0 0)
  | .pause p n => some (encP p .pause 0 0 0 n 0 0 0)
  | .spawn p a b => some (encP p .spawn 0 a b 0 0 0 0)
  | .exit p => some (encP p .exit 0 0 0 0 0 0 0)
  | .fadd p rnd d a b c => some (encP p .fadd d a b c (256 + 32 * rnd.code) 0 0)
  | .fsub p rnd d a b c => some (encP p .fsub d a b c (256 + 32 * rnd.code) 0 0)
  | .fmul p rnd d a b c => some (encP p .fmul d a b c (256 + 32 * rnd.code) 0 0)
  | .ffma p rnd d a b c => some (encP p .ffma d a b c (256 + 32 * rnd.code) 0 0)
  | .fmin p d a b => some (encP p .fmin d a b 0 256 0 0)
  | .fmax p d a b => some (encP p .fmax d a b 0 256 0 0)
  | .fcmp p cond comb d a b k => some (encP p .fcmp d a b k (256 + 32 * cond.code + 8 * comb.code) 0 0)
  | .fround p rnd d a => some (encP p .fround d a 0 0 (256 + 32 * rnd.code) 0 0)
  | .fclass p d a => some (encP p .fclass d a 0 0 256 0 0)
  | .fscale p rnd d a b => some (encP p .fscale d a b 0 (256 + 32 * rnd.code) 0 0)
  | .frcp p rnd d a => some (encP p .frcp d a 0 0 (256 + 32 * rnd.code) 0 0)
  | .frsq p rnd d a => some (encP p .frsq d a 0 0 (256 + 32 * rnd.code) 0 0)
  | .fsqrt p rnd d a => some (encP p .fsqrt d a 0 0 (256 + 32 * rnd.code) 0 0)
  | .fdiv p rnd d a b => some (encP p .fdiv d a b 0 (256 + 32 * rnd.code) 0 0)
  | .fexp2 p d a => some (encP p .fexp2 d a 0 0 256 0 0)
  | .flog2 p d a => some (encP p .flog2 d a 0 0 256 0 0)
  | .fsin p d a => some (encP p .fsin d a 0 0 256 0 0)
  | .fcos p d a => some (encP p .fcos d a 0 0 256 0 0)
  | .ftanh p d a => some (encP p .ftanh d a 0 0 256 0 0)
  | .hadd2 p ty rnd d a b c => some (encP p .hadd2 d a b c (256 * ty.code + 32 * rnd.code) 0 0)
  | .hmul2 p ty rnd d a b c => some (encP p .hmul2 d a b c (256 * ty.code + 32 * rnd.code) 0 0)
  | .hfma2 p ty rnd d a b c => some (encP p .hfma2 d a b c (256 * ty.code + 32 * rnd.code) 0 0)
  | .hmin2 p ty d a b => some (encP p .hmin2 d a b 0 (256 * ty.code) 0 0)
  | .hmax2 p ty d a b => some (encP p .hmax2 d a b 0 (256 * ty.code) 0 0)
  | .dot2 p ty rnd d a b c => some (encP p .dot2 d a b c (256 * ty.code + 32 * rnd.code) 0 0)
  | .dot4 p ty sat d a b c => some (encP p .dot4 d a b c (256 * ty.code + 128 * sat.toNat) 0 0)
  | .cvt p ty rnd sty sat d a b e => some (encP p .cvt d a b e (256 * ty.code + 32 * rnd.code + 2 * sty.code + sat.toNat) 0 0)
  | .cvtxb p ty rnd h d a b c => some (encP p .cvtxb d a b c (256 * ty.code + 32 * rnd.code + 16 * h.toNat) 0 0)
  | .xbunp p ty sty h d a b => some (encP p .xbunp d a b 0 (256 * ty.code + 16 * sty.code + 8 * h.toNat) 0 0)
  | .xbexp p ty rnd h d a c => some (encP p .xbexp d a 0 c (256 * ty.code + 32 * rnd.code + 16 * h.toNat) 0 0)
  | .mreduce p rnd mode d a b n => some (encP p .mreduce d a b n (256 + 32 * rnd.code + 8 * mode.code) 0 0)
  | .ld p sp ty ord sc hint elt d a off => some (encI p .ld d a 0 0 (512 * sp.code + 32 * ty.code + 8 * ord.code + sc.code) (8 * hint.code + elt.toNat) true off)
  | .st p sp ty ord sc hint elt a b off => some (encI p .st 0 a b 0 (512 * sp.code + 32 * ty.code + 8 * ord.code + sc.code) (8 * hint.code + elt.toNat) true off)
  | .ldv p sp ty ord sc hint vn d a off => some (encI p .ldv d a 0 0 (512 * sp.code + 32 * ty.code + 8 * ord.code + sc.code) (8 * hint.code + vn) true off)
  | .stv p sp ty ord sc hint vn a b off => some (encI p .stv 0 a b 0 (512 * sp.code + 32 * ty.code + 8 * ord.code + sc.code) (8 * hint.code + vn) true off)
  | .ldc p ty d a off => some (encI p .ldc d a 0 0 (32 * ty.code) 0 true off)
  | .pref p sp hint l2 a off => some (encI p .pref 0 a 0 0 (512 * sp.code) (8 * hint.code + l2.toNat) true off)
  | .flushl p sp drop a off => some (encI p .flushl 0 a 0 0 (512 * sp.code) drop.toNat true off)
  | .atom p sp ty ord sc op d a b c off => some (encI p .atom d a b c (512 * sp.code + 32 * ty.code + 8 * ord.code + sc.code) op.code false off)
  | .red p sp ty hint op a b off => some (encI p .red 0 a b 0 (512 * sp.code + 32 * ty.code) (8 * hint.code + op.code) true off)
  | .fence p ord sc => some (encP p .fence 0 0 0 0 (8 * ord.code + sc.code) 0 0)
  | .cinv p sc => some (encP p .cinv 0 0 0 0 sc.code 0 0)
  | .waitv p sp ty sc cond d a b off => some (encI p .waitv d a b 0 (8 + 512 * sp.code + 32 * ty.code + sc.code) cond.code false off)
  | .awset p sp d a b c off => some (encI p .awset d a b c (512 * sp.code) 0 false off)
  | .arrive p sp sc a b off => some (encI p .arrive 0 a b 0 (16 + 512 * sp.code + sc.code) 0 true off)
  | .await p sp sc d a b off => some (encI p .await d a b 0 (8 + 512 * sp.code + sc.code) 0 true off)
  | .srinit p a b c => some (encP p .srinit 0 a b c 0 0 0)
  | .srwait p empty a b c => some (encP p .srwait 0 a b c empty.toNat 0 0)
  | .srfree p a b => some (encP p .srfree 0 a b 0 0 0 0)
  | .waitc p cls d n => some (encP p .waitc d 0 n.regField n.immField (cls.code + 8 * n.immBit) 0 0)
  | .tld p ord sc hint d a ts => some (encP p .tld d a 0 ts (8 * ord.code + sc.code) (8 * hint.code) 0)
  | .tst p ord sc hint a b ts => some (encP p .tst 0 a b ts (8 * ord.code + sc.code) (8 * hint.code) 0)
  | .shfl p mode w64 d a b => some (encP p .shfl d a b.regField b.immField (512 * mode.code + 256 * w64.toNat + 128 * b.immBit) 0 0)
  | .ballot p d a k => some (encP p .ballot d a 0 k 0 0 0)
  | .vote p mode d a k j => some (encP p .vote d a 0 k (1024 * mode.code + j) 0 0)
  | .matchv p w64 d a => some (encP p .matchv d a 0 0 w64.toNat 0 0)
  | .lreduce p ty sat op d a => some (encP p .lreduce d a 0 0 (256 * ty.code + 128 * sat.toNat + 16 * op.code) 0 0)
  | .lscan p ty sat op excl d a => some (encP p .lscan d a 0 0 (256 * ty.code + 128 * sat.toNat + 16 * op.code + 8 * excl.toNat) 0 0)
  | .tsinit p s d a => some (encP p .tsinit d a 0 0 (512 * s.toNat) 0 0)
  | .tsinitFrag p frag d a b g => some (encP p .tsinit d a b g (256 + frag) 0 0)
  | .tsset p d a w => some (encP p .tsset d a 0 w 0 0 0)
  | .tsget p d a w => some (encP p .tsget d a 0 w 0 0 0)
  | .recut p aws lossy sc d a b c off => some (encP p .recut d a b c (32 * aws.toNat + 16 * lossy.toNat + scpCode sc) 0 (unsext 32 off))
  | .recutq p lossy d a b => some (encP p .recutq d a b 0 (16 * lossy.toNat) 0 0)
  | .gather p rsp sc a => some (encP p .gather 0 a 0 0 (512 * rsp.toNat + scpCode sc) 0 0)
  | .scatter p rsp sc a => some (encP p .scatter 0 a 0 0 (512 * rsp.toNat + scpCode sc) 0 0)
  | .mma p ap fmt sat d a b tk sa sb => some (encP p .mma d a b 0 (2048 * ap.toNat + 128 * fmt.code + 64 * sat.toNat) 0 (tk + 256 * sa + 65536 * sb))
  | .mlru p d a b tk => some (encP p .mlru d a b 0 256 0 tk)
  | .mlrmul p d a b => some (encP p .mlrmul d a b 0 0 0 0)
  | .mlradd p d a => some (encP p .mlradd d a 0 0 0 0 0)
  | .mrecomp p set d a => some (encP p .mrecomp d a 0 0 set.toNat 0 0)
  | .mdense p d => some (encP p .mdense d 0 0 0 0 0 0)
  | .mzero p d => some (encP p .mzero d 0 0 0 0 0 0)
  | .mcopy p d a => some (encP p .mcopy d a 0 0 0 0 0)
  | .mswap p d a => some (encP p .mswap d a 0 0 0 0 0)
  | .mstat p d a => some (encP p .mstat d a 0 0 0 0 0)
  | .mclrs p d mask => some (encP p .mclrs d 0 0 mask 0 0 0)
  | .mpol p d densify nvt => some (encP p .mpol d 0 0 (densify.toNat + 2 * nvt.toNat) 0 0 0)
  | .mdrain p add ssp sc d a b off => some (encP p .mdrain d a b 0 (2048 * add.toNat + 32 * ssp.toNat + scpCode sc) 0 (unsext 32 off))
  | .mfill p ty d a off => some (encI p .mfill d a 0 0 (256 * ty.code) 0 true off)
  | .mspill p d a off => some (encI p .mspill d a 0 0 0 0 true off)
  | .tkset p d g n => some (encP p .tkset d g 0 n 0 0 0)
  | .coll p sc a => some (encP p .coll 0 a 0 0 (scpCode sc) 0 0)
  | .decode p sc a => some (encP p .decode 0 a 0 0 (scpCode sc) 0 0)
  | .decq p d a => some (encP p .decq d a 0 0 0 0 0)
  | .srd p n d => some (encP p .srd d 0 0 0 n 0 0)
  | .swr p n a => some (encP p .swr 0 a 0 0 n 0 0)
  | .trap p n a => some (encI p .trap 0 a 0 0 0 0 true n)
  | .eret p => some (encP p .eret 0 0 0 0 0 0 0)
  | .owrd p d k => some (encP p .owrd d 0 0 k 0 0 0)
  | .owwr p k b => some (encP p .owwr 0 0 b k 0 0 0)
  | .xrd p d n => some (encP p .xrd d 0 n.regField n.immField n.immBit 0 0)
  | .xwr p tg b n => some (encP p .xwr 0 0 b n.field (2 * tagOptCode tg + n.immBit) 0 0)
  | .xmrd p d a b => some (encP p .xmrd d a b 0 0 0 0)
  | .xmwr p tg init d a b => some (encP p .xmwr d a b 0 (256 * tg.code + init.toNat) 0 0)
  | .xflg p done d b => some (encP p .xflg d 0 b 0 done.toNat 0 0)
  | .clock p cyc d => some (encP p .clock d 0 0 0 cyc.toNat 0 0)
  | .perfq p clr d sel => some (encP p .perfq d 0 0 sel clr.toNat 0 0)
  | .launch p d a => some (encP p .launch d a 0 0 0 0 0)
  | .capmark p imm => some (encI p .capmark 0 0 0 0 0 0 true imm)
  | .coldReset => none
  | .warmReset => none
  | .railsGood _ => none
  | .bringUp => none
  | .powerCapTick _ => none
  | .thermalThrottleTick _ _ => none
  | .thermalTrip _ _ => none
  | .adaptiveVoltageRequest _ _ => none
  | .pldmMonitorRequest _ _ => none
  | .pldmFirmwareUpdate _ _ _ => none
  | .attestationQuote _ => none
  | .memoryLinkFlitRetry _ => none
  | .memoryLinkRetrain _ _ => none
  | .fabricFlitRetry _ => none
  | .fabricPortDown _ => none
  | .bufferReleaseFlit _ _ => none
  | .readReceive _ _ => none
  | .writeReceive _ _ => none
  | .atomicReceive _ _ => none
  | .creditReceive _ _ => none
  | .lossyWriteReceive _ _ => none
  | .launchRequest _ _ => none
  | .mgmtReceive _ _ => none
  | .responseReceive _ _ => none
  | .nackReceive _ _ => none
  | .lcompReceive _ _ => none
  | .requestTimeout _ _ => none
  | .requestRecordExpiry _ _ => none
  | .boltForward _ _ _ => none
  | .boltDiscard _ _ => none
  | .lossyDeadline _ => none
  | .arrivalCredit _ _ _ => none
  | .engineCommandFinish _ => none
  | .recutPass _ => none
  | .recutRetire _ => none
  | .gatherScatterComplete _ => none
  | .collectiveComplete _ _ => none
  | .decodeUnitOutput _ _ => none
  | .budgetPeriod => none
  | .engineFaultReplay _ => none
  | .engineFaultForward _ => none
  | .engineFaultEnd _ => none
  | .matrixOpComplete _ => none
  | .longLatencyComplete _ => none
  | .clauseStart h => some (encHeader h)
  | .blockingWake _ => none
  | .windowWriteApply _ => none
  | .issueFormation _ => none
  | .issueSlotChoice _ _ => none
  | .priorityAging _ => none
  | .fairnessSwitch _ _ => none
  | .rotationQuantum _ => none
  | .rotationBlocked _ => none
  | .contextMoveComplete _ _ => none
  | .teamPlacement _ => none
  | .bobbinTimer _ _ => none
  | .eviction _ => none
  | .reinstatement _ => none
  | .idempotentDiscard _ => none
  | .gridComplete _ => none
  | .completionWordAnswer _ _ => none
  | .jobStop _ _ => none
  | .stopLimit _ _ => none
  | .handlerEntry _ => none
  | .mgmtCorePath _ _ => none
  | .l1Eviction _ _ _ => none
  | .updateLineMerge _ _ _ => none
  | .l2Miss _ => none
  | .ddrWriteAck _ => none
  | .l2LineMove _ => none
  | .tableWalk _ _ _ => none
  | .reportReplay _ => none
  | .reportForward _ => none
  | .reportEnd _ => none
  | .uncorrectableWriteReport _ _ => none
  | .tlbinvPage _ _ _ => none
  | .tlbinvContext _ => none
  | .tlbinvAll => none
  | .tlbinvRetire => none
  | .hotselWrite _ => none
  | .oplogstatWrite _ => none
  | .registerWrite _ _ _ => none
  | .bindService _ _ _ => none
  | .undefinedEncoding _ => none
  | .tagReuseExpiry _ _ => none
  | .replayInjection _ => none
  | .railsDown _ => none

/-- The bytes of an item's words, word 0 first, each little-endian (14/R304). -/
def Words.bytes (w : Words) : List Byte :=
  match w.len with
  | .l64 => leBytes 8 w.w0
  | .l96 => leBytes 8 w.w0 ++ leBytes 4 w.w1
  | .l128 => leBytes 8 w.w0 ++ leBytes 4 w.w1 ++ leBytes 4 w.w2

end Sys2Proof
end

