-- ==== Sys2Proof/Config.lean ====
section
/-! DEFINITION. What an implementation or a named outside standard fixes and the spec does not give: constants with
no body, so that nothing in Lean can evaluate them, and the sizes the spec states. -/

namespace Sys2Proof.Config

/-- SHAKE256 of FIPS 202 (03/R70, R71): the input bytes and the output length in bytes. The spec names the standard
and does not give it (DESIGN CHOICE, log entry 3). -/
opaque shake256 : List Byte → Nat → List Byte

/-- SLH-DSA-SHAKE-256s verification of FIPS 205 (03/R70): key, message, signature (DESIGN CHOICE, log entry 3). -/
opaque slhVerify : List Byte → List Byte → List Byte → Bool

/-- SLH-DSA-SHAKE-256f signature of FIPS 205 (03/R72): secret and message (DESIGN CHOICE, log entry 3). -/
opaque slhSign : List Byte → List Byte → List Byte

/-- The device identity public key derived from the fused secret and MEAS0 (03/R72) (DESIGN CHOICE, log entry 3). -/
opaque identityKey : List Byte → List Byte → List Byte

/-- The signing key derived from the fused secret and MEAS0 (03/R72) (DESIGN CHOICE, log entry 3). -/
opaque identitySecret : List Byte → List Byte → List Byte

/-- The two hash functions of the pending-write filter (05/R127), which the spec does not give (DESIGN CHOICE, log entry 3). -/
opaque filterHash : Bool → Nat → Nat

/-- The value of a step's free choice, indexed by a counter of State that each use advances (DESIGN CHOICE, log entry 4). -/
opaque freeValue : Nat → BitVec 64

/-- Cores of the device (00/R1). -/
def cores : Nat := 1024
/-- Clusters of the device (01/R6). -/
def clusters : Nat := 256
/-- Panels of the device (01/R6). -/
def panels : Nat := 8
/-- Fabric ports (01/R6). -/
def ports : Nat := 48
/-- Memory links (01/R6). -/
def links : Nat := 64
/-- Group slots of a core (04/R77). -/
def slots : Nat := 64
/-- Places of a core's operand log (06/R145). -/
def logPlaces : Nat := 64
/-- Entries of the lossy region table (02/R50). -/
def lossyEntries : Nat := 256
/-- Pending grids of the device (03/R59). -/
def pendingGrids : Nat := 4096
/-- Bobbins of a cluster (04/R83). -/
def bobbins : Nat := 64
/-- Passes in flight on one core (10/R222). -/
def passesInFlight : Nat := 512
/-- The physical address of the register window on the fabric (05/R109). -/
def windowPA : Nat := 0xFFFFF00000000

end Sys2Proof.Config
end

