-- ==== Sys2Proof/Machine/State.lean ====
section
/-! DEFINITION. The state of the machine as plain data, holding every piece of state the spec gives it, and
`State.reset`. Numbers that software sees as words are bit vectors; counts, indexes, addresses of bytes and times are
natural numbers; sparse things are lists in one canonical form. -/

namespace Sys2Proof.Machine

/-- Byte-addressed memory in canonical form: addresses strictly rising, no entry equal to the byte 0 that an unlisted
address reads as. Used for the home value of local memory, for DDR, and for a scratchpad (log entry 1). -/
abbrev Memory := List Host.Cell

/-! ## Package, power and the management complex (01, 03) -/

/-- One boot-flash slot's contents (03/R70). -/
structure FlashSlot where
  fw : Option Firmware
  deriving DecidableEq, Repr

/-- A reply the side-band or the runtime gives to the outside (01/R27, 03/R72). -/
inductive SideReply where
  | unsupported
  | monitor (sensors : List Nat) (watts step : Nat) (d2d ml fp : Nat)
  | updated (slot : Nat)
  | refused (slot : Nat)
  | quote (bytes : List Byte)
  deriving DecidableEq, Repr

/-- What the device posts to the runtime on the management cores. -/
inductive RtEvent where
  /-- A hotness counter reached THRESH (02/R56). -/
  | hot (port entry : Nat)
  /-- A partial write met an uncorrectable line (06/R152). -/
  | badWrite (pa ctx : Nat)
  /-- A completion word could not be written (03/R64). -/
  | doneFault (grid va cause : Nat)
  /-- A runtime message arrived in an MGMT packet (02/R38). -/
  | mgmt (port : Nat) (k : Packet)
  /-- A thread asks for the service of R279. -/
  | service (t : Tid) (n : Nat)
  deriving DecidableEq, Repr

/-- The parts around the panels: rails, fuses, flash, side-band, links as they train (01, 03). -/
structure Board where
  /-- Rails in regulation, in the order in which they came up; numbers 1 to 5 of 01/R22. -/
  rails : List Nat
  /-- `RESET_N` is held low (01/R22). -/
  held : Bool
  /-- `THERMTRIP_N` is asserted and nothing executes (01/R25). -/
  tripped : Bool
  /-- The restart in progress is a warm one (01/R32). -/
  warm : Bool
  /-- The panel regulators' points in mV (01/R22). -/
  volts : List Nat
  /-- The fused digest of the firmware key (03/R70). -/
  keyDigest : List Byte
  /-- The fused minimum security version (03/R70). -/
  minVersion : Nat
  /-- The fuse configuration that MEAS0 measures (03/R71). -/
  fuses : List Byte
  /-- The fused secret (03/R72). -/
  secret : List Byte
  /-- Boot-flash slots A and B (03/R70). -/
  slotA : FlashSlot
  slotB : FlashSlot
  /-- The device runtime's image and configuration, measured at step 9 (03/R71). -/
  runtime : List Byte
  runtimeConf : List Byte
  /-- MEAS0 to MEAS7 (03/R71). -/
  meas : List (List Byte)
  /-- Which die-to-die links, memory links and fabric ports train (01/R8, R11, R16): bit masks. -/
  d2dTrains : Nat
  mlTrains : Nat
  fpTrains : Nat
  /-- Memory links with no module (01/R11): a bit mask. -/
  mlAbsent : Nat
  /-- Capacity of each link's module in GiB (01/R10, R11). -/
  modules : List Nat
  /-- Capacity per link after bring-up, in GiB; 0 before step 6 (01/R11). -/
  capacity : Nat
  /-- The panel whose cache stack does not repair (01/R28 step 4). -/
  cacheBad : Option Nat
  /-- A retry run of a memory-link flit: the link and the count of consecutive retries (01/R12). -/
  mlRetry : List (Nat × Nat)
  /-- Replies given on the side-band or to the runtime, oldest first. -/
  replies : List SideReply
  /-- Events posted to the runtime, oldest first. -/
  events : List RtEvent
  /-- The last temperature and power readings (01/R24, R25): hottest junction in °C × 16 and average watts over WINDOW. -/
  hottest : Nat
  watts : Nat
  /-- Average watts of each ms that power was compared in, newest first, as many as WINDOW may take in (01/R24). -/
  power : List Nat
  /-- The ms of the time base in which the thermal response last acted (01/R25). -/
  thermMs : Nat
  deriving DecidableEq, Repr

/-- The device's system registers in the S view, one value each (19/R416). -/
structure SysRegs where
  bootstat : DWord
  d2dstat : DWord
  mlstat : DWord
  fpstat : DWord
  thermstat : DWord
  pwrcap : DWord
  clkstep : DWord
  nodeid : DWord
  fprtab : DWord
  fpintab : DWord
  hotcfg : DWord
  hotsel : DWord
  hotdat : DWord
  fperr : DWord
  jobid : DWord
  budcfg : DWord
  lacl : DWord
  parttab : DWord
  stoplim : DWord
  features : DWord
  capcfg : DWord
  savepool : DWord
  detstat : DWord
  ctxtab : DWord
  /-- The CORE field of OPLOGSTAT (06/R145); its other fields are computed from the core it names. -/
  oplogCore : Nat
  opdis : DWord
  deriving DecidableEq, Repr

/-- The registers that hold one value per context (12/R268, 04/R85, 05/R114, R121). -/
structure Ctx where
  id : Nat
  spawncfg : DWord
  wincfg : DWord
  privwin : DWord
  trapvec : DWord
  emuvec : DWord
  trapfrm : DWord
  deriving DecidableEq, Repr

/-- The clocks (01/R18 to R20): nanoseconds and arithmetic cycles since reset release, and the part of a nanosecond
not yet counted, in units of 1/(11 × 720720) ns; every STEP divides it exactly. -/
structure Time where
  ns : Nat
  cyc : Nat
  frac : Nat
  deriving DecidableEq, Repr

/-! ## Threads (04, 12, 14) -/

/-- One register of a thread that does not hold zero with tag RAW (05/R112). -/
structure RegCell where
  n : Nat
  v : Word
  tag : Tag
  deriving DecidableEq, Repr

/-- Where a thread stands in the clause it is running (14/R308, R309). -/
structure Clause where
  seta : Nat
  setb : Nat
  pred : Nat
  count : Nat
  idx : Nat
  yield : Bool
  deriving DecidableEq, Repr

/-- The record of a trap taken by a parked thread, from which the frame's operand window is built (12/R271). -/
structure TrapRec where
  cause : Nat
  detail : Nat
  /-- The value of `ow8`–`ow9` for a memory cause: the faulting VA, or the leaf entry for 0x16. Otherwise the
  immediate stands there. -/
  value : Option DWord
  /-- The item's four words. -/
  words : List Word
  len : Len
  /-- The item's address. -/
  pc : Nat
  pred : Nat
  guard : Bool
  /-- Position, declared width and subgroup size. -/
  pos : Nat
  width : Nat
  size : Nat
  /-- Lanes of the home group in this parked set (12/R265). -/
  lanes : Nat
  /-- The running clause's count minus 1 and the instruction's index in it. -/
  count1 : Nat
  idx : Nat
  clause : Option Clause
  /-- Where the thread stood when it parked, to which a LOGGED return with NEXT goes (12/R273). -/
  park : Nat
  parkClause : Option Clause
  /-- The forwarded operand-log entry (06/R146). -/
  logged : Option Nat
  deriving DecidableEq, Repr

/-- What a thread at a blocking point waits for (04/R97). -/
inductive Wait where
  | await (loc : WordLoc) (gen d : Nat) (sc : Scope)
  | waitv (loc : WordLoc) (va : Nat) (ty : Tag) (c : Cond) (b : DWord) (d : Nat) (sc : Scope)
  /-- With the trap it takes if an accumulator-invalid trap is pending (09/R216). -/
  | waitc (cls : Cls) (n d : Nat) (r : TrapRec)
  | srwait (off : Nat) (empty phase : Bool)
  | bar
  | seam
  /-- A load of another node that the thread stands at a header for, with the flags that its WAIT names. -/
  | fabricLoad (mask : Nat)
  | recut (ts : Nat)
  /-- A convergent instruction, with the size of its subgroups. -/
  | converge (size : Nat)
  deriving DecidableEq, Repr

/-- Whether and why a thread does not run. -/
inductive Run where
  | ready
  /-- Waits at issue, which is not a blocking point; retried at formation (04/R91). -/
  | held
  /-- Waits at a clause header for the flags of a mask, which is not a blocking point (14/R309). -/
  | flagWait (mask : Nat)
  /-- Paused until a cycle or, in determinism mode, an instruction count of the core (15/R340). -/
  | paused (til : Nat)
  /-- At a blocking point, at an item of `len` bytes; once its wake condition has held, the value that satisfied it
  (17/R378). -/
  | blocked (w : Wait) (len : Nat) (got : Option DWord)
  /-- Parked with a trap not yet entered (12/R265). -/
  | parked (t : TrapRec)
  /-- Parked at a clause header until its operand-log entries retire (06/R143). -/
  | logWait
  /-- Parked at an issue-time fault or a fetch fault that is reported (18/R387, 15/R336). -/
  | faulted (t : TrapRec)
  /-- On the management-core path (12/R277). -/
  | mgmt (t : TrapRec)
  | exited
  deriving DecidableEq, Repr

/-- One window write waiting for the owner's clause boundary (05/R111). -/
structure WinWrite where
  n : Nat
  v : Word
  /-- The bits of the register that are written; all of them for a window write, an element's for TST. -/
  mask : Word
  tag : Tag
  /-- The fabric WRITE that it belongs to, which is acknowledged once it is performed (02/R47); 0 for none. -/
  pkt : Nat
  deriving DecidableEq, Repr

/-- One thread. -/
structure Thread where
  id : Tid
  /-- The handle of its team. -/
  team : Nat
  pc : Nat
  clause : Option Clause
  /-- 0 at level U, 1 and 2 in a handler at level E (12/R269). -/
  depth : Nat
  run : Run
  regs : List RegCell
  astat : BitVec 6
  /-- Trap records of the handlers it is in, innermost first: the clause context that ERET restores. -/
  traps : List TrapRec
  win : List WinWrite
  /-- The destination state, as its recut held it, of the in-place recut that a stalled TST has waited for (07/R174); else empty. -/
  tstTo : List Byte := []
  /-- It is held by R144 or by a full log (06/R146). -/
  logHeld : Bool := false
  /-- The child of a `SPAWN` that has executed in its lane and found no bobbin free: entry and argument (04/R83). -/
  child : Option (Nat × DWord) := none
  /-- Count of earlier REDs (05/R121). -/
  reds : Nat
  /-- Cycle of its last issue and of its becoming ready (04/R91, R95). -/
  lastIssue : Nat
  readySince : Nat
  /-- Instructions its core had issued then, which determinism mode counts (04/R106). -/
  sinceCount : Nat
  /-- Counters 0 to 4 of PERFQ (19/R426). -/
  perf : List Nat
  deriving DecidableEq, Repr

/-! ## Teams, grids and jobs (03, 04) -/

/-- The role of a group: kind and NR (03/R61, 04/R79). -/
structure Role where
  kind : Nat
  nr : Nat
  deriving DecidableEq, Repr

/-- The error record of one class (10/R224). -/
structure ErrRec where
  first : Nat
  cause : Nat
  nerr : Nat
  deriving DecidableEq, Repr

/-- A matrix operation that stands in a group's `MAT` counter (09/R215, R218; 10/R223): whether it has completed, and
whether it then raised the accumulator-invalid trap (09/R216). -/
structure MatCmd where
  id : Nat
  done : Bool
  nv : Bool
  deriving DecidableEq, Repr

/-- The state of one group (10/R222, 02/R48, R49). -/
structure Group where
  role : Role
  /-- Counters `COPY FAB GATH MAT COLL DEC`. -/
  ctr : List Nat
  errs : List ErrRec
  /-- By class, the widest scope among the commands that have made the counter fall (10/R223): a code of 17/R364. -/
  wide : List Nat
  ack : Nat
  sticky : Bool
  /-- The group's next WAITC.MAT to pass raises the accumulator-invalid trap in the threads that execute it (09/R216). -/
  nvt : Bool
  /-- The operations that stand in the `MAT` counter, in issue order. -/
  mats : List MatCmd
  /-- Counters 8 to 14 of PERFQ (19/R426). -/
  perf : List Nat
  deriving DecidableEq, Repr

/-- The form of a matrix register (09/R203). -/
inductive MForm where
  | empty | dense | factor
  deriving DecidableEq, Repr

/-- The contents and status of a matrix register (09/R203 to R206): a dense tile as its nonzero elements by index
64 × row + column, or the columns of U and the rows of V, oldest rank first. -/
structure MReg where
  form : MForm
  tag : Tag
  dense : List (Nat × Word)
  us : List (List Word)
  vs : List (List Word)
  inx : Bool
  rko : Bool
  nv : Bool
  sat : Bool
  ov : Bool
  policy : Bool
  nvt : Bool
  deriving DecidableEq, Repr

/-- What a tacked operation is (09/R215): words 0 and 1 and the decoded operation. -/
structure TackOp where
  w0 : DWord
  w1 : Word
  lru : Bool
  ap : Bool
  fmt : Tag
  sat : Bool
  d : Nat
  deriving DecidableEq, Repr

/-- One member's capture: the captured registers in operand order (12/R280). -/
structure TackCap where
  m : Nat
  regs : List Word
  deriving DecidableEq, Repr

/-- A tack register (09/R214). -/
structure Tack where
  g : Nat
  n : Nat
  op : Option TackOp
  caps : List TackCap
  /-- For each group that has tacked into the pending operation, its place in that group's `MAT` order. -/
  cmds : List (Nat × Nat)
  deriving DecidableEq, Repr

/-- Where a team stands. -/
inductive TeamState where
  | pending | resident | evicted | gone
  deriving DecidableEq, Repr

/-- One team (04, 12/R280). -/
structure Team where
  id : Nat
  grid : Nat
  /-- Its number in the grid (15/R333). -/
  num : Nat
  state : TeamState
  /-- The cluster whose bobbin formed it; none for a launched team (04/R84). -/
  spawner : Option Nat
  core : Nat
  /-- The group slot of each group (04/R77). -/
  slots : List Nat
  /-- First granule of its scratchpad (05/R109). -/
  gran : Nat
  groups : List Group
  entry : Nat
  arg : DWord
  /-- The children's arguments, by position, for a spawned team (04/R84). -/
  args : List DWord
  scratch : Nat
  privWords : Nat
  privBase : Nat
  prio : Nat
  idem : Bool
  sfx : Bool
  restarts : Nat
  partword : DWord
  featmask : Nat
  scr : Memory
  /-- Lines of 128 bytes of its scratchpad whose data is uncorrectable (06/R151), by number. -/
  scrBad : List Nat
  mregs : List MReg
  tacks : List Tack
  tol : Word
  /-- The disable map read at placement, bit OP (12/R276). -/
  disabled : Nat
  /-- Its save area: address and size (12/R281). -/
  save : Option (Nat × Nat)
  /-- Since when every thread is blocked or parked, for an evictable team (04/R99). -/
  blockedSince : Option Nat
  /-- Its eviction has begun: nothing issues from it (04/R98). -/
  leaving : Bool := false
  /-- A wake condition of the evicted team has fired, and when (04/R100). -/
  woken : Option Nat
  /-- Medium-clock count of PERFQ selector 15. -/
  clocks : Nat
  deriving DecidableEq, Repr

/-- One grid: the launch record as read at acceptance (03/R61) and its progress. -/
structure Grid where
  id : Nat
  ctx : Nat
  record : Nat
  cookie : Nat
  /-- The fabric requester: port, source node and tag (03/R64). -/
  requester : Option (Nat × Nat × Nat)
  entry : Nat
  teams : Nat
  roles : List Role
  partword : DWord
  scratch : Nat
  privWords : Nat
  prio : Nat
  width : Nat
  idem : Bool
  capture : Bool
  determ : Bool
  notify : Bool
  featmask : Nat
  job : Nat
  part : Nat
  /-- The partition's cluster mask at acceptance (03/R63). -/
  clusters : Nat
  args : DWord
  done : Nat
  edges : List Nat
  /-- Its private region: base and size in bytes (05/R114). -/
  priv : Option (Nat × Nat)
  /-- Teams of the launch not yet created as pending teams start here. -/
  nextTeam : Nat
  /-- Spawned teams formed so far (15/R333). -/
  spawned : Nat
  /-- End status once it is decided: 0 to 3 (03/R64). -/
  status : Option Nat
  /-- The completion word has been written or left unwritten by an answer. -/
  finished : Bool
  deriving DecidableEq, Repr

/-- A private region held by a grid or a spawned team (05/R114). -/
structure PrivRegion where
  ctx : Nat
  grid : Nat
  team : Option Nat
  base : Nat
  size : Nat
  deriving DecidableEq, Repr

/-- A launch record read from another node for a request (03/R61): the request, from the fabric or of a thread, and once it
has come the answer, none for an error. -/
structure RecordRead where
  id : Nat
  pkt : Option (Nat × Packet)
  tid : Option Tid
  data : Option (Option (List Byte))
  deriving DecidableEq, Repr

/-- A bobbin (04/R83). -/
structure Bobbin where
  index : Nat
  ctx : Nat
  entry : Nat
  grid : Nat
  opened : Nat
  timer : Nat
  nr : Nat
  prio : Nat
  idem : Bool
  privWords : Nat
  scratch : Nat
  featmask : Nat
  partword : DWord
  kids : List DWord
  deriving DecidableEq, Repr

/-- A job being stopped (03/R65, R66): the jobs of the request's downstream order, the turn and when it began. -/
structure Stop where
  ctx : Nat
  /-- Stop sets in order, each in ascending job id. -/
  sets : List (List Nat)
  /-- Every job whose launches are answered STOPPING. -/
  jobs : List Nat
  began : Nat
  /-- The first stop set is the producers'; the jobs of the current set still to be cleaned. -/
  head : Bool
  deriving DecidableEq, Repr

/-- A job's slot in the budget table (03/R68). -/
structure JobSlot where
  ctx : Nat
  job : Nat
  slot : Nat
  deriving DecidableEq, Repr

/-- Charges of one job in the current period, by class `COPY FAB COLL DEC` (03/R67). -/
structure Charge where
  ctx : Nat
  job : Nat
  amt : List Nat
  deriving DecidableEq, Repr

/-! ## Engine commands (07, 10, 18) -/

/-- An arrival or status word a command names, as it was given (18/R388). -/
structure AwRef where
  scr : Bool
  addr : Nat
  deriving DecidableEq, Repr

/-- One pass of a recut's plan (07/R167): its level and its rows, one number per place bit, and its offset. -/
structure Pass where
  level : Nat
  rows : List Nat
  off : Nat
  deriving DecidableEq, Repr

/-- What an engine command does. Records and tensor states are held as they were read at issue. -/
inductive CmdKind where
  | recut (dst src : Nat) (dstSt srcSt : List Byte) (inPlace : Bool) (plan : List Pass) (lossy : Option Nat)
  | gather (rec : List Byte)
  | scatter (rec : List Byte)
  /-- With its record's address, the collective it belongs to once every member has issued, and its member number, if
  any. -/
  | coll (rec : List Byte) (addr : Nat) (group member : Option Nat)
  | decode (rec : List Byte) (states : List (List Byte)) (addr engine : Nat)
  | mdrain (shape : List Byte) (add : Bool) (m : Nat)
  | mfill (m off : Nat) (ty : Tag)
  | mspill (m off : Nat)
  deriving DecidableEq, Repr

/-- Where an engine command stands. -/
inductive CmdState where
  /-- Waits behind recuts that name one of its states, or for its place in the matrix queue. -/
  | queued
  | running
  /-- Waits for an answer to a reported fault (10/R225), met at stage 0, the word check of R388; 1, an access of its work;
  or 2, its credit. -/
  | faulted (cause va stage : Nat)
  /-- Its writes have left and their answers are awaited (02/R48). -/
  | acking
  | finished
  deriving DecidableEq, Repr

/-- One unit a command has read: its number and its value, and the scale word of an XB block. -/
structure UnitVal where
  n : Nat
  v : Nat
  scale : Nat
  deriving DecidableEq, Repr

/-- A flit that a command has read from another node (02/R38). -/
structure FlitBuf where
  node : Nat
  addr : Nat
  data : List Byte
  deriving DecidableEq, Repr

/-- An engine command in flight (10/R221 to R225). -/
structure Cmd where
  id : Nat
  cls : Cls
  core : Nat
  ctx : Nat
  team : Nat
  group : Nat
  tid : Tid
  scope : Scope
  kind : CmdKind
  /-- The arrival word it names, or the status word of an `MDRAIN`. -/
  aw : Option AwRef
  state : CmdState
  /-- Passes done, units output, or members served. -/
  prog : Nat
  /-- Units of the pass or command already moved or written. -/
  pos : Nat
  /-- What its first pass, or its turn at a matrix register, has read so far. -/
  snap : List UnitVal
  /-- Flits read from other nodes for the work in progress. -/
  buf : List FlitBuf
  /-- Bits written on this device so far that its arrival word is owed, and bits written to each flit of another node: by
  `farKey` of the node and the flit's address. -/
  owed : Nat
  sent : List (Nat × Nat)
  /-- LOSSY writes it has sent, which count as complete once they have left their ports (02/R48). -/
  lossy : List Packet
  /-- Bytes moved since the last charge of 03/R67. -/
  moved : Nat
  /-- `G` ranges it writes, whose L1 lines are busy for its duration (05/R118). -/
  ranges : List (Nat × Nat)
  /-- A budget pause holds it (03/R67). -/
  paused : Bool
  /-- Error code and memory cause (10/R224); 0 for none. -/
  err : Nat
  cause : Nat
  /-- A decode command's counts: damaged units, frames output and status. -/
  errcnt : Nat
  frames : Nat
  status : Nat
  deriving DecidableEq, Repr

/-- What an entry of the matrix unit's queue does (09/R217, 18/R401 to R409). -/
inductive MOpKind where
  | mma (ap : Bool) (fmt : Tag) (sat : Bool) (d : Nat) (caps : List TackCap)
  | mlru (d : Nat) (caps : List TackCap)
  | mlrmul (d a b : Nat)
  | mlradd (d a : Nat)
  | mrecomp (d : Nat) (tol : Word)
  | mdense (d : Nat)
  | mzero (d : Nat)
  | mcopy (d a : Nat)
  | mswap (d a : Nat)
  | mclrs (d mask : Nat)
  | mpol (d : Nat) (densify nvt : Bool)
  | xmwr (d e : Nat) (v : Word) (tag : Tag) (init : Bool)
  /-- A COPY command's turn at the register: the command's number. -/
  | drain (cmd d : Nat)
  | fill (cmd d : Nat) (ty : Tag)
  | spill (cmd d : Nat)
  deriving DecidableEq, Repr

/-- An entry of a core's matrix queue, oldest first. -/
structure MOp where
  id : Nat
  team : Nat
  /-- The groups in whose `MAT` counter it stands, each with its place there. -/
  falls : List (Nat × Nat)
  kind : MOpKind
  deriving DecidableEq, Repr

/-! ## Memory accesses in flight (06, 14, 17) -/

/-- Kinds of one lane's memory access. -/
inductive AccKind where
  /-- A load; `ext` says whether one element is widened with copies of its sign bit (17/R366). -/
  | load (signed : Bool)
  | store
  | atom (op : AtOp) (b c : DWord)
  | red (op : AtOp) (b : DWord)
  | flush (drop : Bool)
  /-- An `AWSET` with its TARGET, control word, MASKOFS and REGION (17/R379). -/
  | awset (target ctl mask : Nat) (region : DWord)
  /-- A credit of some bytes by `ARRIVE` (17/R380). -/
  | arrive (bytes : Nat)
  /-- A `TLD` of an element of an XB tensor in memory: element 0 of the access is the byte that holds it, element 1 its
  block's scale word; `hi` names the nibble of an XB4 element (18/R398). The bytes read so far stand in `data`. -/
  | xb (fmt : Tag) (hi : Bool)
  /-- A `WAITV` or `AWAIT` that faulted: its wait begins once the entry retires (17/R378, R381). -/
  | wait
  deriving DecidableEq, Repr

/-- One lane's memory access with everything it needs (06/R143): no register but its destination is read again. -/
structure Acc where
  sp : Space
  /-- The elements not yet performed: the element's number and its VA, or its offset in `S`. -/
  elems : List (Nat × Nat)
  /-- Bytes of one element. -/
  elem : Nat
  kind : AccKind
  ty : Tag
  ord : MemOrd
  sc : Scope
  hint : Hint
  /-- First destination register. -/
  d : Nat
  /-- Bytes stored, element 0 first. -/
  data : List Byte
  /-- The team in whose scratchpad its elements in `S` lie: the thread's own, but for a `SPREAD` tensor (07/R159). -/
  team : Nat
  /-- The issued item: its address, words, length and place in its clause, for the operand window (06/R146). -/
  pc : Nat
  words : List Word
  len : Len
  clause : Option Clause
  /-- Its formed address is not aligned, so that it faults whenever it is performed (17/R365). -/
  mis : Bool := false
  /-- Bytes of the whole access (05/R110). -/
  size : Nat := 0
  /-- Its place in the program order of its thread: it keeps it when it is logged, and when it is logged anew
  (06/R144, R146). -/
  age : Nat := 0
  /-- A load that is not put off any further: its read is performed now (11/R247). -/
  bound : Bool := false
  /-- What its read brings is older than an acquire or a CINV since, and enters no cache (11/R251, 05/R124). -/
  stale : Bool := false
  deriving DecidableEq, Repr

/-- Where the result of a long-latency operation comes from. -/
inductive OpSrc where
  /-- The result is known. -/
  | done
  /-- A window read, taken at a clause boundary of the owner (05/R111). -/
  | window (owner : Tid) (n : Nat) (count : Nat)
  /-- The response of a fabric request (02/R38): destination node and tag. -/
  | fabric (dst tag : Nat)
  /-- A WRITE or ATOMIC that has to leave its port (17/R369, R374). -/
  | port (dst tag : Nat)
  /-- A `FLUSHL` whose write-back, requests with these nodes and tags, is not yet performed at its home (17/R372). -/
  | acks (l : List (Nat × Nat))
  /-- A `FENCE` that has issued and is performed once the accesses before it have been (17/R376). -/
  | fence
  /-- A `TLD` of an element in a register of a thread, read at a clause boundary of the owner: the register, the element's
  first bit, and the register and bit of its block's scale word (18/R398). -/
  | elem (owner : Tid) (n bit sn sbit : Nat) (fmt : Tag)
  /-- A flit or line that an instruction reads before it issues (18/R387): its first VA, and the bytes once they
  have come. -/
  | issueRead (base : Nat) (got : List Byte)
  /-- Such a read that another node or the path to it failed: its first VA, its length and the cause (02/R49). -/
  | issueBad (base n cause : Nat)
  /-- A load of a LOCAL page that is performed later than it issued, its destination flag still pending (11/R247). -/
  | late
  /-- An access of the operand log answered replay, which is performed once its release may be (11/R257). -/
  | replay
  /-- An MSTAT that waits for the operations queued earlier on its register (18/R407). -/
  | matrix (m : Nat) (after : Nat)
  deriving DecidableEq, Repr

/-- A long-latency operation in flight (14/R310, R312). -/
structure LongOp where
  id : Nat
  tid : Tid
  depth : Nat
  flag : Option Nat
  writes : List RegCell
  astat : BitVec 6
  src : OpSrc
  acc : Option Acc
  /-- The thread exited: its destination write is discarded (15/R342). -/
  dead : Bool
  deriving DecidableEq, Repr

/-- One lane of an operand-log entry (06/R143). -/
structure LogLane where
  tid : Tid
  depth : Nat
  flag : Option Nat
  acc : Acc
  deriving DecidableEq, Repr

/-- One entry of a core's operand log (06/R143 to R146). -/
structure LogEntry where
  id : Nat
  core : Nat
  ctx : Nat
  team : Nat
  slot : Nat
  pc : Nat
  cause : Nat
  /-- The target of its part (06/R148): 1 + the home slice of a `LOCAL` page, 257 + the node of another; 0 where none is
  known. -/
  target : Nat
  lanes : List LogLane
  /-- The report it joined. -/
  key : ReportKey
  /-- It was answered forward and its lanes have not yet trapped (06/R146). -/
  forward : Bool
  /-- It was logged behind another entry (06/R144). -/
  behind : Bool
  deriving DecidableEq, Repr

/-- A report open at the runtime (06/R146). The log entries, commands, parked threads and completion words that
joined it are found by their own fields. -/
structure Report where
  key : ReportKey
  /-- Commands joined. -/
  cmds : List Nat
  /-- Threads parked at an instruction or a header. -/
  tids : List Tid
  /-- Grids whose completion word waits. -/
  grids : List Nat
  deriving DecidableEq, Repr

/-! ## Caches and translation (05, 06) -/

/-- One line of a core's L1 (05/R116): masks of one bit per byte and the 128 bytes as a number, byte 0 lowest. -/
structure L1Line where
  core : Nat
  ctx : Nat
  /-- VA[54:7]. -/
  line : Nat
  /-- Physical line address and target node. -/
  pa : Nat
  node : Nat
  apt : Nat
  w : Bool
  /-- CMP and HOT of its leaf (06/R135). -/
  comp : Bool
  hot : Bool
  valid : Nat
  dirty : Nat
  data : Nat
  /-- Level and leaf entry of that translation, whose RAP an atomic needs (06/R139, R150). -/
  level : Nat
  leaf : DWord
  prio : Nat
  used : Nat
  /-- Its data is uncorrectable (06/R151). -/
  bad : Bool
  /-- Teams whose stores made bytes of it dirty, for SFX (04/R104). -/
  stored : List Nat
  deriving DecidableEq, Repr

/-- An update-only line (05/R119): the key, the bytes it contributes to and the combined elements; every element stands at
the operation's identity first. -/
structure UpdLine where
  core : Nat
  ctx : Nat
  line : Nat
  pa : Nat
  comp : Bool
  op : AtOp
  ty : Tag
  mask : Nat
  data : Nat
  prio : Nat
  used : Nat
  deriving DecidableEq, Repr

/-- A contribution held in a home slice's determinism buffer (05/R121). -/
structure DetEntry where
  slice : Nat
  pa : Nat
  /-- The context it was made in. -/
  ctx : Nat
  team : Nat
  index : Nat
  count : Nat
  v : Word
  deriving DecidableEq, Repr

/-- A line held by a constant cache (05/R124): of a core, or of a cluster. -/
structure ConstLine where
  cluster : Bool
  unit : Nat
  ctx : Nat
  line : Nat
  data : Nat
  deriving DecidableEq, Repr

/-- An entry of a cluster's TLB (06/R139): the leaf and the level it was found at. -/
structure TlbEntry where
  cluster : Nat
  ctx : Nat
  level : Nat
  /-- VA shifted down by the page's size. -/
  vpn : Nat
  leaf : DWord
  used : Nat
  deriving DecidableEq, Repr

/-- An entry of a cluster's reverse map (06/R141). -/
structure RevEntry where
  cluster : Nat
  frame : Nat
  ctx : Nat
  page : Nat
  used : Nat
  deriving DecidableEq, Repr

/-- The holders of update lines recorded at a home slice (05/R120). -/
inductive Holders where
  | cores (l : List Nat)
  | panels (mask : Nat)
  deriving DecidableEq, Repr

/-- One line of an L2 slice (05/R126, R129, R130): its block's way, the half it occupies (2 for the whole block), its
encoding, the bytes stored there, and its tag state. -/
structure L2Line where
  slice : Nat
  set : Nat
  way : Nat
  half : Nat
  /-- PA[51:7]. -/
  line : Nat
  enc : Nat
  store : List Byte
  dirty : Bool
  comp : Bool
  prio : Nat
  used : Nat
  deriving DecidableEq, Repr

/-- A write of a slice toward DDR not yet acknowledged (05/R127): the line and its bytes. -/
structure DdrWrite where
  slice : Nat
  line : Nat
  data : Nat
  deriving DecidableEq, Repr

/-- The L2 and its queues. -/
structure L2 where
  lines : List L2Line
  /-- Open miss registers: slice and line. -/
  miss : List (Nat × Nat)
  /-- Lines accessed at their home and not yet brought in: line, compressible, written. -/
  want : List (Nat × Bool × Bool)
  writes : List DdrWrite
  /-- The nonzero counters of the pending-write filters: slice, index, count. -/
  filter : List (Nat × Nat × Nat)
  holders : List (Nat × Holders)
  det : List DetEntry
  /-- Lines whose data at the home is uncorrectable (06/R151), and lines whose code in DDR is (01/R13). -/
  bad : List Nat
  ddrBad : List Nat
  deriving DecidableEq, Repr

/-! ## Cores, clusters and panels (04, 05) -/

/-- One entry of a core's issue-group table (04/R90). -/
structure Entry where
  id : Nat
  core : Nat
  set : Nat
  way : Nat
  ctx : Nat
  pc : Nat
  members : List Tid
  /-- Cycle since which it has stood ready without issuing, and the ageing added (04/R94). -/
  since : Nat
  aged : Nat
  deriving DecidableEq, Repr

/-- One issue slot (04/R93): the entry it issues from, by set and way, and its consecutive issues. -/
structure IssueSlot where
  /-- The entry it issued from last, by its number. -/
  entry : Option Nat
  run : Nat
  deriving DecidableEq, Repr

/-- A group context moving between the slow file and the fast file (04/R88). -/
structure Move where
  slot : Nat
  into : Bool
  til : Nat
  deriving DecidableEq, Repr

/-- One core (04/R75 to R95). -/
structure Core where
  num : Nat
  /-- The PARTWORD it has taken, while it is not empty (04/R76). -/
  partword : Option DWord
  /-- The reserve, part by part: slow-file KiB, granules, slots (04/R78). -/
  reserve : Nat × Nat × Nat
  /-- Group slots in the active set, with the cycle they entered (04/R87). -/
  active : List (Nat × Nat)
  /-- Resident groups in the slow file, with the cycle since which they stand ready and their ageing. -/
  slow : List (Nat × Nat × Nat)
  moves : List Move
  slot0 : IssueSlot
  slot1 : IssueSlot
  mqueue : List MOp
  /-- Instructions issued by the core (04/R106). -/
  issued : Nat
  /-- The same by context. -/
  issuedBy : List (Nat × Nat) := []
  lastQuantum : Nat
  /-- The context counters of 02/R48: context and count. -/
  ctxAck : List (Nat × Nat)
  /-- FULL and PEAK of its operand log (06/R145). -/
  logFull : Nat
  logPeak : Nat
  deriving DecidableEq, Repr

/-- One panel: the core of its last placement (03/R63). -/
structure Panel where
  num : Nat
  lastPlaced : Option Nat
  deriving DecidableEq, Repr

/-! ## The fabric (02) -/

/-- What completes when a fabric request is answered. -/
inductive ReqFor where
  /-- A load or ATOM of a lane: the long operation. -/
  | op (id : Nat)
  /-- A plain store or RED: the issuing team and group. -/
  | store (team group : Nat)
  /-- A write-back attributed to one group, or to every group of the context on the core. -/
  | wbGroup (team group : Nat) (core ctx line : Nat)
  | wbCtx (core ctx line : Nat)
  /-- An engine command. -/
  | cmd (id : Nat)
  | credit (id : Nat)
  /-- The read of a launch record (03/R61). -/
  | record (id : Nat)
  /-- The write of a grid's completion word (03/R64). -/
  | word (grid : Nat)
  deriving DecidableEq, Repr

/-- A RELIABLE request kept until it is answered (02/R45). -/
structure Req where
  dst : Nat
  tag : Nat
  pkt : Packet
  sentAt : Nat
  sends : Nat
  why : ReqFor
  /-- The thread whose release at SY the request's write is (19/R427). -/
  rel : Option Tid := none
  deriving DecidableEq, Repr

/-- A request the receiver has performed, with its response (02/R46). -/
structure DupRec where
  src : Nat
  tag : Nat
  resp : Packet
  til : Nat
  deriving DecidableEq, Repr

/-- An access through the window aperture that a fabric request is still performing, since it takes effect at clause
boundaries of the owners (02/R46, R47; 05/R111): a WRITE waits until its window writes are performed, a READ takes each
owner's registers at a boundary. -/
structure Performing where
  id : Nat
  port : Nat
  pkt : Packet
  /-- Owners whose boundary a READ still awaits, and the bytes as read so far. -/
  waits : List Tid
  data : List Byte
  deriving DecidableEq, Repr

/-- One entry of a port's hotness counter cache (02/R56). -/
structure HotEntry where
  port : Nat
  index : Nat
  page : Nat
  src : Nat
  count : Nat
  deriving DecidableEq, Repr

/-- One fabric port. -/
structure Port where
  num : Nat
  /-- Credits for VC0 to VC3, in flits (02/R42). -/
  credits : List Nat
  /-- Packets queued locally, oldest first, with their channel. -/
  queue : List (Nat × Packet)
  /-- Reported depths toward nodes. -/
  depths : List (Nat × Nat)
  /-- Flagged packets seen, for the sampling of 02/R56. -/
  flagged : Nat
  deriving DecidableEq, Repr

/-- A packet held in a bolt (02/R35). -/
structure BoltPkt where
  /-- Its place in the order of arrival at the bolt. -/
  seq : Nat
  ingress : Nat
  vc : Nat
  pkt : Packet
  since : Nat
  /-- The egress port that an earlier packet of its line, then queued, has left by (02/R35). -/
  via : Option Nat
  deriving DecidableEq, Repr

/-- A bolt (02/R34): its node, its pooled memory, what it holds, what it has sent on and its own discard counter. -/
structure Bolt where
  id : Nat
  node : Nat
  mem : Memory
  /-- The requests it has performed at its banks, with their responses (02/R46). -/
  dups : List DupRec
  /-- Cables: a fabric port of this device and the bolt's port it goes to. -/
  cables : List (Nat × Nat)
  /-- Packets that have entered. -/
  seq : Nat
  held : List BoltPkt
  /-- Ports that reach a node. -/
  routes : List (Nat × List Nat)
  /-- Ports with a trained link: a bit mask. -/
  trained : Nat
  /-- What has left, oldest first: the egress port and the packet as it was held. -/
  sent : List (Nat × BoltPkt)
  discards : Nat
  deriving DecidableEq, Repr

/-- An entry of the lossy region table (02/R50). -/
structure LossyEntry where
  loc : WordLoc
  /-- The region in the word's own space: physical base, or offset; and its size. -/
  region : Nat
  size : Nat
  maskAt : Nat
  expiry : Nat
  ctx : Nat
  grid : Nat
  deriving DecidableEq, Repr

/-- What a collective engine hands to those of another device (10/R236): bytes written at a virtual address of a context in that
device's memory, or, with no bytes, a credit to the word there. -/
structure CollMsg where
  node : Nat
  ctx : Nat
  va : Nat
  data : List Byte
  credit : Nat
  deriving DecidableEq, Repr

/-- The device's fabric state. -/
structure Fabric where
  ports : List Port
  reqs : List Req
  dups : List DupRec
  performing : List Performing
  /-- TAGs not yet free again: destination, tag and the time from which they are (02/R45). -/
  tags : List (Nat × Nat × Nat)
  hot : List HotEntry
  /-- Packets that have left, oldest first: port and packet. -/
  sent : List (Nat × Packet)
  /-- Buffer-release flits that this device has sent for what it received, oldest first: port and flit (02/R42). -/
  releases : List (Nat × Nat)
  bolts : List Bolt
  lossy : List LossyEntry
  /-- What this device's collective engines have handed to those of other devices, oldest first (10/R236). -/
  coll : List CollMsg
  deriving DecidableEq, Repr

/-- Capture and replay (03/R73, R74): bytes recorded, records used, values injected and not yet read. -/
structure Capture where
  pos : Nat
  next : Nat
  used : List Nat
  deriving DecidableEq, Repr

/-- The migration of a page under way (06/R150): an address of the page, the place and the level of its leaf, which is not
valid meanwhile, and the leaf that will map it. -/
structure Migration where
  va : Nat
  place : Nat
  level : Nat
  leaf : DWord
  deriving DecidableEq, Repr

/-- An invalidation written to TLBINV that has not retired (06/R140): its mode, size, context and page number, and the migration
that goes on once it has. -/
structure Inval where
  id : Nat
  mode : Nat
  size : Nat
  ctx : Nat
  vpn : Nat
  move : Option Migration
  deriving DecidableEq, Repr

/-- The whole machine. -/
structure State where
  board : Board
  sys : SysRegs
  ctxs : List Ctx
  time : Time
  /-- The value each byte of local memory has at its home (05/R116, R126). -/
  mem : Memory
  /-- The contents of DDR; L2 lines not yet written to it differ (01/R14). -/
  ddr : Memory
  l2 : L2
  l1 : List L1Line
  upd : List UpdLine
  const : List ConstLine
  tlb : List TlbEntry
  rev : List RevEntry
  /-- Invalidations that have not retired, oldest first. -/
  invs : List Inval
  cores : List Core
  panels : List Panel
  bobbins : List (Nat × Bobbin)
  entries : List Entry
  grids : List Grid
  teams : List Team
  threads : List Thread
  ops : List LongOp
  log : List LogEntry
  reports : List Report
  cmds : List Cmd
  fabric : Fabric
  privs : List PrivRegion
  /-- Launch records on their way from other nodes. -/
  records : List RecordRead
  stops : List Stop
  slots : List JobSlot
  charges : List Charge
  /-- The budget values of the current period by slot, four each (03/R68). -/
  budgets : List (Nat × List Nat)
  /-- The time at which the current budget period began, in ns, and the ms of the time base in which power was last compared (01/R24). -/
  periodStart : Nat
  tickStart : Nat
  capture : Capture
  /-- The device steps due next, oldest first. The model's own field (log entry 5). -/
  agenda : List Instr
  /-- The members of the issue entry that issues next (04/R92). The model's own field (log entry 5). -/
  issue : List Tid
  /-- The item being issued: its length and its four words, zero beyond its length. The model's own field. -/
  ir : Len × List Word
  /-- Fresh numbers for commands, operations, log entries, teams and grids. The model's own field. -/
  fresh : Nat
  /-- Advances with every step: the index of the free choices. The model's own field (log entry 4). -/
  free : Nat
  deriving DecidableEq, Repr

/-- The faults of the model. -/
inductive Fault where
  /-- Raised by `step` when the device step due is ill-formed: it names a core, port, link or slot that the device
  does not have, or an instruction whose fields no encoding gives. Safe: the hardware has no such step. -/
  | illFormed
  deriving DecidableEq, Repr

/-- The refusals of the model. -/
inductive Refusal where
  /-- Raised by an arm of `exec` whose instruction has no meaning yet, with its mnemonic. Safe. -/
  | notModelled (mnemonic : String)
  deriving DecidableEq, Repr

/-- The outcome of a meaning. -/
abbrev Out := Host.Outcome State Fault Refusal

/-- The reset state of a matrix register (09/R203). -/
def MReg.reset : MReg :=
  { form := .empty, tag := .raw, dense := [], us := [], vs := [], inx := false, rko := false, nv := false,
    sat := false, ov := false, policy := false, nvt := false }

/-- An unconfigured tack register (09/R214). -/
def Tack.reset : Tack := { g := 0, n := 0, op := none, caps := [], cmds := [] }

/-- The registers of a context at reset: SPAWNCFG.TIMER is 2,000 (04/R85), the others are zero (DESIGN CHOICE, log entry 7). -/
def Ctx.reset (id : Nat) : Ctx :=
  { id := id, spawncfg := 2000#64, wincfg := 0#64, privwin := 0#64, trapvec := 0#64, emuvec := 0#64, trapfrm := 0#64 }

/-- The system registers at reset, each at the value its table gives (DESIGN CHOICE, log entry 7). -/
def SysRegs.reset : SysRegs :=
  { bootstat := 0#64, d2dstat := 0#64, mlstat := 0#64, fpstat := 0#64, thermstat := 0#64
    -- WINDOW 10, CAPW 0x0CE4 (01/R23)
    pwrcap := 0xA0CE4#64, clkstep := 0#64
    -- NODE 0xFFFF (02/R57)
    nodeid := 0xFFFF#64, fprtab := 0#64, fpintab := 0#64, hotcfg := 0#64, hotsel := 0#64, hotdat := 0#64
    fperr := 0#64, jobid := 0#64
    -- PERIOD 10 (03/R69)
    budcfg := 20#64, lacl := 0#64, parttab := 0#64
    -- LIMIT 1,000,000 (03/R69)
    stoplim := 1000000#64, features := 0x3F#64, capcfg := 0#64, savepool := 0#64, detstat := 0#64, ctxtab := 0#64
    oplogCore := 0, opdis := 0#64 }

/-- The board at reset: rails up in order, `RESET_N` just released. What the board carries (fuses, flash, modules,
which links train) the spec leaves to the board: log entry 2 names the values (DESIGN CHOICE, log entry 2). -/
def Board.reset : Board :=
  { rails := [1, 2, 3, 4, 5], held := false, tripped := false, warm := false
    volts := [750, 750, 750, 750, 750, 750, 750, 750], keyDigest := [], minVersion := 0, fuses := [], secret := []
    slotA := { fw := none }, slotB := { fw := none }, runtime := [], runtimeConf := []
    meas := List.replicate 8 (List.replicate 64 0#8)
    d2dTrains := 0xFFFFFFF, mlTrains := 0xFFFFFFFFFFFFFFFF, fpTrains := 0xFFFFFFFFFFFF, mlAbsent := 0
    modules := List.replicate 64 32, capacity := 0, cacheBad := none, mlRetry := [], replies := [], events := []
    hottest := 0, watts := 0, power := [], thermMs := 0 }

/-- The L2 at reset, empty (01/R14, R28 step 7). -/
def L2.reset : L2 :=
  { lines := [], miss := [], want := [], writes := [], filter := [], holders := [], det := [], bad := [], ddrBad := [] }

/-- The fabric at reset. -/
def Fabric.reset : Fabric :=
  { ports := [], reqs := [], dups := [], performing := [], tags := [], hot := [], sent := [], releases := [], bolts := [], lossy := [], coll := [] }

/-- The machine right after reset release: no step of bring-up has begun, nothing is resident, and the memory lists
nothing. -/
def State.reset : State :=
  { board := Board.reset, sys := SysRegs.reset, ctxs := [], time := { ns := 0, cyc := 0, frac := 0 }, mem := [], ddr := []
    l2 := L2.reset, l1 := [], upd := [], const := [], tlb := [], rev := [], invs := [], cores := [], panels := [], bobbins := []
    entries := [], grids := [], teams := [], threads := [], ops := [], log := [], reports := [], cmds := []
    fabric := Fabric.reset, privs := [], records := [], stops := [], slots := [], charges := [], budgets := [], periodStart := 0
    tickStart := 0, capture := { pos := 0, next := 0, used := [] }, agenda := [], issue := []
    ir := (.l64, []), fresh := 1, free := 0 }

end Sys2Proof.Machine
end

