-- ==== Sys2Proof/Machine/Flags.lean ====
section
/-! DEFINITION. The status bits of ASTAT (08/R190), the floating-point formats (08/R182), exact values and the one
rounding function every floating-point instruction uses (08/R186 to R188), and the integer limits (15/R321). -/

namespace Sys2Proof.Machine

/-- The bits of ASTAT (08/R190). -/
abbrev Status := BitVec 6

/-- Inexact result. -/
def stNX : Status := 1#6
/-- Tiny and inexact result. -/
def stUF : Status := 2#6
/-- Overflow. -/
def stOF : Status := 4#6
/-- Division by zero, or logarithm of zero. -/
def stDZ : Status := 8#6
/-- Invalid operation. -/
def stNV : Status := 16#6
/-- An integer result was saturated. -/
def stSAT : Status := 32#6
/-- A status bit under a condition. -/
def stIf (c : Bool) (x : Status) : Status := if c then x else 0#6

/-! ## Formats and values -/

/-- A binary floating-point format: the widths of its exponent and fraction fields. -/
structure FFmt where
  ew : Nat
  fw : Nat
  deriving DecidableEq, Repr

/-- binary32. -/
def f32 : FFmt := { ew := 8, fw := 23 }
/-- binary16. -/
def f16 : FFmt := { ew := 5, fw := 10 }
/-- BF16 (08/R182). -/
def bf16 : FFmt := { ew := 8, fw := 7 }

/-- The bias of a format. -/
def FFmt.bias (f : FFmt) : Nat := 2 ^ (f.ew - 1) - 1
/-- The pattern of +∞, which is one above the largest finite pattern. -/
def FFmt.infBits (f : FFmt) : Nat := (2 ^ f.ew - 1) * 2 ^ f.fw
/-- The sign bit. -/
def FFmt.signBit (f : FFmt) : Nat := 2 ^ (f.ew + f.fw)
/-- The canonical NaN (08/R182, R189). -/
def FFmt.nan (f : FFmt) : Nat := f.infBits + 2 ^ (f.fw - 1)
/-- The exponent of the smallest normal number. -/
def FFmt.emin (f : FFmt) : Int := 1 - (f.bias : Int)
/-- The format of a floating-point tag. -/
def fmtOf : Tag → FFmt
  | .f16 => f16
  | .bf16 => bf16
  | _ => f32

/-- A decoded floating-point value: a NaN, an infinity, or ±m × 2^e. -/
inductive FVal where
  | nan (sig : Bool)
  | inf (neg : Bool)
  | num (neg : Bool) (m : Nat) (e : Int)
  deriving DecidableEq, Repr

/-- Reading a pattern (08/R182): a NaN is signaling when its top fraction bit is 0; subnormals are used as they are. -/
def fdecode (f : FFmt) (x : Nat) : FVal :=
  let neg := bitsAt x (f.ew + f.fw) 1 == 1
  let ex := bitsAt x f.fw f.ew
  let fr := bitsAt x 0 f.fw
  if ex = 2 ^ f.ew - 1 then
    if fr = 0 then .inf neg else .nan (bitsAt fr (f.fw - 1) 1 == 0)
  else if ex = 0 then .num neg fr (f.emin - f.fw)
  else .num neg (2 ^ f.fw + fr) ((ex : Int) - f.bias - f.fw)

/-- The value is a NaN. -/
def FVal.isNan : FVal → Bool
  | .nan _ => true
  | _ => false
/-- The value is a signaling NaN. -/
def FVal.isSig : FVal → Bool
  | .nan s => s
  | _ => false
/-- The value is an infinity. -/
def FVal.isInf : FVal → Bool
  | .inf _ => true
  | _ => false
/-- The value is a zero. -/
def FVal.isZero : FVal → Bool
  | .num _ m _ => m == 0
  | _ => false
/-- The sign. -/
def FVal.neg : FVal → Bool
  | .nan _ => false
  | .inf n => n
  | .num n _ _ => n
/-- The value with its sign changed. -/
def FVal.negate : FVal → FVal
  | .nan s => .nan s
  | .inf n => .inf (!n)
  | .num n m e => .num (!n) m e

/-- NV of a set of inputs: some input is a signaling NaN (08/R189). -/
def sigNV (l : List FVal) : Status := stIf (l.any FVal.isSig) stNV

/-! ## Rounding -/

/-- The generator of stochastic rounding (08/R187). -/
def srGen (seed i : Nat) : Nat :=
  let w := 4294967296
  let x0 := seed % w ^^^ (i * 0x9E3779B9 % w)
  let x1 := (x0 ^^^ (x0 / 65536)) * 0x85EBCA6B % w
  let x2 := (x1 ^^^ (x1 / 8192)) * 0xC2B2AE35 % w
  (x2 ^^^ (x2 / 65536)) / 65536

/-- The magnitude of a quotient N/D rounded to an integer in a mode: `neg` is the sign, `r16` the value of the
generator (08/R186, R187). Stochastic rounding is toward ⌊y⌋ or ⌊y⌋ + 1 of the signed value. -/
def roundInt (rnd : Rnd) (neg : Bool) (r16 num den : Nat) : Nat :=
  let q := num / den
  let r := num % den
  let up : Bool :=
    match rnd with
    | .rne => decide (den < 2 * r) || (decide (2 * r = den) && q % 2 == 1)
    | .rtz => false
    | .rup => decide (0 < r) && !neg
    | .rdn => decide (0 < r) && neg
    | .sr =>
      if neg then decide (0 < r) && !decide (65536 ≤ (den - r) * 65536 / den + r16)
      else decide (65536 ≤ r * 65536 / den + r16)
  if up then q + 1 else q

/-- ⌊log2 (num/den)⌋ of a positive quotient. -/
def log2Quot (num den : Nat) : Int :=
  let a : Int := (Nat.log2 num : Int) - (Nat.log2 den : Int)
  let ge : Bool := if 0 ≤ a then decide (den * 2 ^ a.toNat ≤ num) else decide (den ≤ num * 2 ^ (-a).toNat)
  if ge then a else a - 1

/-- num/den × 2^k as a quotient of natural numbers. -/
def scaleQuot (num den : Nat) (k : Int) : Nat × Nat :=
  if 0 ≤ k then (num * 2 ^ k.toNat, den) else (num, den * 2 ^ (-k).toNat)

/-- A signed zero's pattern. -/
def zeroBits (f : FFmt) (neg : Bool) : Nat := if neg then f.signBit else 0
/-- A signed infinity's pattern. -/
def infBits (f : FFmt) (neg : Bool) : Nat := f.infBits + zeroBits f neg

/-- The pattern an overflow delivers (08/R188; 08/R187 for stochastic rounding). -/
def overflowBits (f : FFmt) (rnd : Rnd) (neg : Bool) : Nat :=
  let toInf : Bool :=
    match rnd with
    | .rne => true
    | .sr => true
    | .rtz => false
    | .rup => !neg
    | .rdn => neg
  (if toInf then f.infBits else f.infBits - 1) + zeroBits f neg

/-- The exact value ±(num/den) × 2^e rounded once to a format in a mode (08/R186 to R188), with the status it
raises: NX when inexact, UF when tiny and inexact, OF and NX on overflow. -/
def fround (f : FFmt) (rnd : Rnd) (r16 : Nat) (neg : Bool) (num den : Nat) (e : Int) : Nat × Status :=
  if num = 0 then (zeroBits f neg, 0#6)
  else
    let k := log2Quot num den + e
    if (f.bias : Int) + 1 < k then (overflowBits f rnd neg, stOF ||| stNX)
    else
      let q0 : Int := max k f.emin - f.fw
      -- far below the smallest subnormal, every mode sees only that the value is not zero
      let nd := if k < f.emin - f.fw - 40 then (1, 2 ^ 40) else scaleQuot num den (e - q0)
      let m := roundInt rnd neg r16 nd.1 nd.2
      let inexact := nd.1 % nd.2 != 0
      let bits := if k < f.emin then m else (k + f.bias - 1).toNat * 2 ^ f.fw + m
      let tiny : Bool :=
        decide (k < f.emin - 1) ||
        (decide (k = f.emin - 1) &&
          (let nu := scaleQuot num den (e - (k - f.fw))
           decide (roundInt rnd neg r16 nu.1 nu.2 < 2 ^ (f.fw + 1))))
      if f.infBits ≤ bits then (overflowBits f rnd neg, stOF ||| stNX)
      else (bits + zeroBits f neg, stIf inexact stNX ||| stIf (inexact && tiny) stUF)

/-- ±m × 2^e of an exact integer, rounded; `z` is the sign of an exact zero. -/
def froundInt (f : FFmt) (rnd : Rnd) (r16 : Nat) (z : Bool) (x : Int) (e : Int) : Nat × Status :=
  if x = 0 then (zeroBits f z, 0#6) else fround f rnd r16 (decide (x < 0)) x.natAbs 1 e

/-! ## Exact arithmetic -/

/-- The signed integer of a finite value at exponent `at`, which is at most its own. -/
def FVal.atExp (v : FVal) (k : Int) : Int :=
  match v with
  | .num neg m e => (if neg then -1 else 1) * (m * 2 ^ (e - k).toNat : Nat)
  | _ => 0

/-- The exponent of a finite value. -/
def FVal.exp : FVal → Int
  | .num _ _ e => e
  | _ => 0

/-- The exact product of two values that are not NaN; `none` for 0 × ∞. -/
def fmulExact (a b : FVal) : Option FVal :=
  match a, b with
  | .num na ma ea, .num nb mb eb => some (.num (na != nb) (ma * mb) (ea + eb))
  | .inf na, y => if y.isZero then none else some (.inf (na != y.neg))
  | x, .inf nb => if x.isZero then none else some (.inf (x.neg != nb))
  | x, _ => some x

/-- Rounds a finite or infinite exact value (16/R344). -/
def froundVal (f : FFmt) (rnd : Rnd) (r16 : Nat) (v : FVal) : Nat × Status :=
  match v with
  | .nan _ => (f.nan, 0#6)
  | .inf n => (infBits f n, 0#6)
  | .num n m e => fround f rnd r16 n m 1 e

/-- A pattern carried to a result without arithmetic: a NaN becomes the canonical one, and a signaling NaN sets NV (08/R189). -/
def carryVal (f : FFmt) (x : Nat) : Nat × Status :=
  let v := fdecode f x
  if v.isNan then (f.nan, sigNV [v]) else (x, 0#6)

/-- a + b rounded (16/R344): a NaN input or ∞ − ∞ gives the canonical NaN; an exact zero sum of terms that are not
zeros of one sign is +0, and −0 under RDN. -/
def faddVal (f : FFmt) (rnd : Rnd) (r16 : Nat) (a b : FVal) : Nat × Status :=
  match a, b with
  | .nan _, _ => (f.nan, sigNV [a, b])
  | _, .nan _ => (f.nan, sigNV [a, b])
  | .inf na, .inf nb => if na = nb then (infBits f na, 0#6) else (f.nan, stNV)
  | .inf na, _ => (infBits f na, 0#6)
  | _, .inf nb => (infBits f nb, 0#6)
  | .num na ma ea, .num nb mb eb =>
    let k := min ea eb
    let z : Bool := if ma = 0 ∧ mb = 0 ∧ na = nb then na else rnd == .rdn
    froundInt f rnd r16 z (FVal.atExp (.num na ma ea) k + FVal.atExp (.num nb mb eb) k) k

/-- a × b rounded (16/R344). -/
def fmulVal (f : FFmt) (rnd : Rnd) (r16 : Nat) (a b : FVal) : Nat × Status :=
  if a.isNan || b.isNan then (f.nan, sigNV [a, b])
  else
    match fmulExact a b with
    | none => (f.nan, stNV)
    | some v => froundVal f rnd r16 v

/-- a × b + c rounded once (16/R344): 0 × ∞ plus a quiet NaN gives the canonical NaN and sets NV. -/
def ffmaVal (f : FFmt) (rnd : Rnd) (r16 : Nat) (a b c : FVal) : Nat × Status :=
  let zi : Bool := (a.isZero && b.isInf) || (a.isInf && b.isZero)
  if a.isNan || b.isNan || c.isNan then (f.nan, sigNV [a, b, c] ||| stIf zi stNV)
  else
    match fmulExact a b with
    | none => (f.nan, stNV)
    | some v => faddVal f rnd r16 v c

/-- a × 2^n rounded once (16/R344 FSCALE). -/
def fscaleVal (f : FFmt) (rnd : Rnd) (a : FVal) (n : Int) : Nat × Status :=
  match a with
  | .nan _ => (f.nan, sigNV [a])
  | .inf s => (infBits f s, 0#6)
  | .num s m e => fround f rnd 0 s m 1 (e + n)

/-- a / b rounded once (08/R194). -/
def fdivVal (f : FFmt) (rnd : Rnd) (a b : FVal) : Nat × Status :=
  match a, b with
  | .nan _, _ => (f.nan, sigNV [a, b])
  | _, .nan _ => (f.nan, sigNV [a, b])
  | .inf _, .inf _ => (f.nan, stNV)
  | .inf s, y => (infBits f (s != y.neg), 0#6)
  | x, .inf s => (zeroBits f (x.neg != s), 0#6)
  | .num sa ma ea, .num sb mb eb =>
    if mb = 0 then
      if ma = 0 then (f.nan, stNV) else (infBits f (sa != sb), stDZ)
    else fround f rnd 0 (sa != sb) ma mb (ea - eb)

/-- The integer square root by binary digits: the largest r with r² ≤ x among r + values below 2^n. -/
def isqrtGo (x : Nat) : Nat → Nat → Nat
  | 0, r => r
  | n + 1, r =>
    let r' := r + 2 ^ n
    isqrtGo x n (if r' * r' ≤ x then r' else r)

/-- ⌊√x⌋. -/
def isqrt (x : Nat) : Nat := isqrtGo x (Nat.log2 x / 2 + 1) 0

/-- √a rounded once (08/R194). Below the last bit of the root one more bit says whether it is exact. -/
def fsqrtVal (f : FFmt) (rnd : Rnd) (a : FVal) : Nat × Status :=
  match a with
  | .nan _ => (f.nan, sigNV [a])
  | .inf s => if s then (f.nan, stNV) else (infBits f false, 0#6)
  | .num s m e =>
    if m = 0 then (zeroBits f s, 0#6)
    else if s then (f.nan, stNV)
    else
      let odd : Bool := e % 2 != 0
      let m' := (if odd then 2 * m else m) * 2 ^ 80
      let e' := ((if odd then e - 1 else e) - 80) / 2
      let r := isqrt m'
      fround f rnd 0 false (2 * r + (if r * r = m' then 0 else 1)) 1 (e' - 1)

/-- 1/√a rounded once (08/R194). -/
def frsqVal (f : FFmt) (rnd : Rnd) (a : FVal) : Nat × Status :=
  match a with
  | .nan _ => (f.nan, sigNV [a])
  | .inf s => if s then (f.nan, stNV) else (zeroBits f false, 0#6)
  | .num s m e =>
    if m = 0 then (infBits f s, stDZ)
    else if s then (f.nan, stNV)
    else
      let odd : Bool := e % 2 != 0
      let m' := if odd then 2 * m else m
      let e' := if odd then e - 1 else e
      let z := 2 ^ 160
      let r := isqrt (z / m')
      fround f rnd 0 false (2 * r + (if r * r * m' = z then 0 else 1)) 1 (-(e' / 2) - 80 - 1)

/-- 1/a rounded once (08/R194). -/
def frcpVal (f : FFmt) (rnd : Rnd) (a : FVal) : Nat × Status :=
  match a with
  | .nan _ => (f.nan, sigNV [a])
  | .inf s => (zeroBits f s, 0#6)
  | .num s m e => if m = 0 then (infBits f s, stDZ) else fround f rnd 0 s 1 m (-e)

/-! ## Functions that are not algebraic (08/R195)

Each is computed to 640 bits after the binary point and rounded to nearest even. A bit below the last says that the
value is not exact: the exact cases are those of the table and are taken first. -/

/-- Bits after the binary point. -/
def fixBits : Nat := 640
/-- 1.0 in fixed point. -/
def fixOne : Nat := 2 ^ 640
/-- π/2 in fixed point, rounded down. -/
def fixPio2 : Nat := 0x1921fb54442d18469898cc51701b839a252049c1114cf98e804177d4c76273644a29410f31c6809bbdf2a33679a748636605614dbe4be286e9fc26adadaa3848bc90b6aecc4bcfd8de89885d34c6fdad6
/-- ln 2 in fixed point, rounded down. -/
def fixLn2 : Nat := 0xb17217f7d1cf79abc9e3b39803f2f6af40f343267298b62d8a0d175b8baafa2be7b876206debac98559552fb4afa1b10ed2eae35c138214427573b291169b8253e96ca16224ae8c51acbda11317c387e
/-- The product of two fixed-point numbers. -/
def fixMul (a b : Nat) : Nat := a * b / fixOne

/-- Σ x^k / k!, term by term: `t` is the current term and `k` its index. -/
def fixExpGo (x : Nat) : Nat → Nat → Nat → Nat → Nat
  | 0, _, _, acc => acc
  | n + 1, k, t, acc => fixExpGo x n (k + 1) (fixMul t x / (k + 1)) (acc + t)
/-- e^x for 0 ≤ x < 1. -/
def fixExp (x : Nat) : Nat := fixExpGo x 140 0 fixOne 0

/-- The alternating series of sine and cosine: `t` is the current term and `k` the index of its power. -/
def fixTrigGo (x2 : Nat) : Nat → Nat → Nat → Int → Int → Int
  | 0, _, _, _, acc => acc
  | n + 1, k, t, sg, acc => fixTrigGo x2 n (k + 2) (fixMul t x2 / ((k + 1) * (k + 2))) (-sg) (acc + sg * (t : Int))
/-- sin x for 0 ≤ x < π/2. -/
def fixSin (x : Nat) : Nat := (fixTrigGo (fixMul x x) 80 1 x 1 0).toNat
/-- cos x for 0 ≤ x < π/2. -/
def fixCos (x : Nat) : Nat := (fixTrigGo (fixMul x x) 80 0 fixOne 1 0).toNat

/-- Σ z^(2k+1) / (2k+1). -/
def fixAtanhGo (z2 : Nat) : Nat → Nat → Nat → Nat → Nat
  | 0, _, _, acc => acc
  | n + 1, k, t, acc => fixAtanhGo z2 n (k + 2) (fixMul t z2) (acc + t / k)
/-- log2 of t, for 1 ≤ t < 2: 2 atanh((t − 1)/(t + 1)) / ln 2. -/
def fixLog2 (t : Nat) : Nat :=
  let z := (t - fixOne) * fixOne / (t + fixOne)
  2 * fixAtanhGo (fixMul z z) 210 1 z 0 * fixOne / fixLn2

/-- |x| in fixed point, for a finite value whose exponent is at least −640. -/
def fixOf (m : Nat) (e : Int) : Nat := m * 2 ^ (e + 640).toNat

/-- Rounds a fixed-point magnitude that is not exact. -/
def fixRound (f : FFmt) (neg : Bool) (x : Nat) : Nat × Status := fround f .rne 0 neg (2 * x + 1) 1 (-641)

/-- 2^a (08/R195). -/
def fexp2Val (f : FFmt) (a : FVal) : Nat × Status :=
  match a with
  | .nan _ => (f.nan, sigNV [a])
  | .inf s => (if s then zeroBits f false else infBits f false, 0#6)
  | .num s m e =>
    if m = 0 then fround f .rne 0 false 1 1 0
    else
      -- |a| of 2^9 or more is far outside the range of the exponent
      let big : Bool := decide (9 ≤ (Nat.log2 m : Int) + e)
      if big then fround f .rne 0 false 1 1 (if s then -1000 else 1000)
      else
        let x := fixOf m e
        let n := x / fixOne
        let fr := x % fixOne
        if fr = 0 then fround f .rne 0 false 1 1 (if s then -(n : Int) else n)
        else
          -- a = n + fr or a = -(n + 1) + (1 - fr)
          let g := if s then fixOne - fr else fr
          let k : Int := if s then -((n : Int) + 1) else n
          fround f .rne 0 false (2 * fixExp (fixMul g fixLn2) + 1) 1 (k - 641)

/-- log2 a (08/R195). -/
def flog2Val (f : FFmt) (a : FVal) : Nat × Status :=
  match a with
  | .nan _ => (f.nan, sigNV [a])
  | .inf s => if s then (f.nan, stNV) else (infBits f false, 0#6)
  | .num s m e =>
    if m = 0 then (infBits f true, stDZ)
    else if s then (f.nan, stNV)
    else
      let l := Nat.log2 m
      let k : Int := (l : Int) + e
      if m = 2 ^ l then froundInt f .rne 0 false k 0
      else
        let t := fixOf m (-(l : Int))
        let y : Int := k * (fixOne : Int) + (fixLog2 t : Int)
        fixRound f (decide (y < 0)) (if y < 0 then y.natAbs - 1 else y.natAbs)

/-- The quadrant n mod 4 and the rest of |x| below π/2. -/
def fixReduce (m : Nat) (e : Int) : Nat × Nat :=
  let x := fixOf m e
  (x / fixPio2 % 4, x % fixPio2)

/-- sin a or cos a (08/R195), the argument in radians. -/
def ftrigVal (f : FFmt) (cosine : Bool) (a : FVal) : Nat × Status :=
  match a with
  | .nan _ => (f.nan, sigNV [a])
  | .inf _ => (f.nan, stNV)
  | .num s m e =>
    if m = 0 then (if cosine then fround f .rne 0 false 1 1 0 else (zeroBits f s, 0#6))
    else
      let qr := fixReduce m e
      let q := if cosine then (qr.1 + 1) % 4 else qr.1
      let mag := if q % 2 = 0 then fixSin qr.2 else fixCos qr.2
      let neg : Bool := (decide (2 ≤ q)) != (s && !cosine)
      fixRound f neg mag

/-- tanh a (08/R195): (e^2a − 1)/(e^2a + 1); ±1 from |a| = 10 on, a case the table counts as exact. -/
def ftanhVal (f : FFmt) (a : FVal) : Nat × Status :=
  match a with
  | .nan _ => (f.nan, sigNV [a])
  | .inf s => fround f .rne 0 s 1 1 0
  | .num s m e =>
    if m = 0 then (zeroBits f s, 0#6)
    else
      let big : Bool := decide (4 ≤ (Nat.log2 m : Int) + e) || decide (10 * fixOne ≤ fixOf m e)
      if big then ((fround f .rne 0 s 1 1 0).1, 0#6)
      else
        let y := 2 * fixOf m e
        let n := y / fixLn2
        let ex := fixExp (y % fixLn2) * 2 ^ n
        fixRound f s ((ex - fixOne) * fixOne / (ex + fixOne))

/-! ## Comparison -/

/-- a < b of two numbers, −0 equal to +0 when `strict` is false and below it when it is true. -/
def fless (strict : Bool) (a b : FVal) : Bool :=
  match a, b with
  | .num na ma ea, .num nb mb eb =>
    let k := min ea eb
    let x := FVal.atExp (.num na ma ea) k
    let y := FVal.atExp (.num nb mb eb) k
    decide (x < y) || (strict && decide (x = 0) && decide (y = 0) && na && !nb)
  | .inf na, .inf nb => na && !nb
  | .inf na, _ => na
  | _, .inf nb => !nb
  | _, _ => false

/-- FMIN and FMAX on patterns (16/R345): the result is one of the operands. -/
def fminmaxBits (f : FFmt) (max : Bool) (x y : Nat) : Nat × Status :=
  let a := fdecode f x
  let b := fdecode f y
  let nv := sigNV [a, b]
  if a.isNan && b.isNan then (f.nan, nv)
  else if a.isNan then (y, nv)
  else if b.isNan then (x, nv)
  else if max then (if fless true a b then y else x, nv)
  else (if fless true b a then y else x, nv)

/-- FCMP (16/R346): the condition and its status. -/
def fcmpVal (c : FCond) (a b : FVal) : Bool × Status :=
  let un := a.isNan || b.isNan
  let sg := sigNV [a, b]
  let lt := fless false a b
  let gt := fless false b a
  match c with
  | .eq => (!un && !lt && !gt, sg)
  | .ne => (un || lt || gt, sg)
  | .lt => (!un && lt, stIf un stNV)
  | .le => (!un && !gt, stIf un stNV)
  | .gt => (!un && gt, stIf un stNV)
  | .ge => (!un && !lt, stIf un stNV)
  | .uno => (un, sg)
  | .num => (!un, sg)

/-! ## Integers -/

/-- A format is signed. -/
def tagSigned : Tag → Bool
  | .s8 | .s16 | .s32 | .s64 => true
  | _ => false

/-- The n-bit value read as signed or unsigned. -/
def toInt (signed : Bool) (w x : Nat) : Int :=
  if signed && decide (2 ^ (w - 1) ≤ x % 2 ^ w) then (x % 2 ^ w : Nat) - (2 ^ w : Nat) else (x % 2 ^ w : Nat)

/-- The low w bits of an integer in two's complement. -/
def wrapTo (w : Nat) (x : Int) : Nat := (x % (2 ^ w : Nat)).toNat

/-- The least value of a format of width w. -/
def leastOf (signed : Bool) (w : Nat) : Int := if signed then -(2 ^ (w - 1) : Nat) else 0
/-- The greatest value of a format of width w. -/
def greatestOf (signed : Bool) (w : Nat) : Int := if signed then (2 ^ (w - 1) : Nat) - 1 else (2 ^ w : Nat) - 1

/-- The exact value delivered under WRAP or SAT (15/R321): the bits and the status. -/
def intResult (signed sat : Bool) (w : Nat) (x : Int) : Nat × Status :=
  if sat then
    let r := min (max x (leastOf signed w)) (greatestOf signed w)
    (wrapTo w r, stIf (decide (r ≠ x)) stSAT)
  else (wrapTo w x, 0#6)

/-- Element j of width w of a value. -/
def elemAt (w j x : Nat) : Nat := bitsAt x (w * j) w

/-- A list of elements of width w packed with element 0 lowest (08/R181). -/
def packElems (w : Nat) : List Nat → Nat
  | [] => 0
  | x :: l => x % 2 ^ w + 2 ^ w * packElems w l

/-- Element-wise operation on packed words (15/R321): `ne` elements of width w, starting at element j. -/
def mapElems (w : Nat) (f : Nat → Nat × Status) : Nat → Nat → List Nat × Status
  | 0, _ => ([], 0#6)
  | n + 1, j =>
    let r := f j
    let rest := mapElems w f n (j + 1)
    (r.1 :: rest.1, r.2 ||| rest.2)

/-- The comparison of two integers. -/
def condInt (c : Cond) (a b : Int) : Bool :=
  match c with
  | .eq => decide (a = b)
  | .ne => decide (a ≠ b)
  | .lt => decide (a < b)
  | .le => decide (a ≤ b)
  | .gt => decide (b < a)
  | .ge => decide (b ≤ a)

/-- A bit combined with the old predicate bit (15/R323). -/
def combBit (c : Comb) (t old : Bool) : Bool :=
  match c with
  | .set => t
  | .and => t && old
  | .or => t || old

/-- The word with bit k set to t. -/
def setBit (x : Word) (k : Nat) (t : Bool) : Word :=
  if t then x ||| (1#32 <<< k) else x &&& ~~~(1#32 <<< k)

/-- Bit k of a word. -/
def getBit (x : Word) (k : Nat) : Bool := bitsAt x.toNat k 1 == 1

end Sys2Proof.Machine
end

