-- ==== Sys2Proof/Machine/Base.lean ====
section
/-! DEFINITION. Byte-addressed memory in canonical form, the lookups and updates of the lists of State, system
registers, the register file of a thread, the issue position, and the position of a thread in its subgroup. -/

namespace Sys2Proof.Machine

/-! ## Lists -/

/-- The list with the first element that meets the test replaced, or the new one added at the end. -/
def putBy {α : Type} (p : α → Bool) (x : α) : List α → List α
  | [] => [x]
  | y :: l => if p y then x :: l else y :: putBy p x l

/-- The list without the elements that meet the test. -/
def dropBy {α : Type} (p : α → Bool) (l : List α) : List α := l.filter fun x => !p x

/-- The list with every element that meets the test rewritten. -/
def editBy {α : Type} (p : α → Bool) (f : α → α) (l : List α) : List α := l.map fun x => if p x then f x else x

/-- Element n of a list of counters. -/
def nth (l : List Nat) (n : Nat) : Nat := l.getD n 0
/-- The counters with element n changed. -/
def bump (l : List Nat) (n : Nat) (f : Nat → Nat) : List Nat := l.mapIdx fun i x => if i = n then f x else x

/-- Bits of a 64-bit register. -/
def fld (x : DWord) (lo n : Nat) : Nat := bitsAt x.toNat lo n
/-- The register with bits [lo + n − 1 : lo] replaced. -/
def setFld (x : DWord) (lo n v : Nat) : DWord :=
  BitVec.ofNat 64 (x.toNat - bitsAt x.toNat lo n * 2 ^ lo + v % 2 ^ n * 2 ^ lo)
/-- A count that stops at a greatest value. -/
def satAdd (top x y : Nat) : Nat := min top (x + y)

/-! ## Memory -/

/-- What an unlisted address reads as (DESIGN CHOICE, log entry 1). -/
def memDefault : Byte := 0#8

/-- The byte at an address. -/
def memGet (m : Memory) (a : Nat) : Byte :=
  match m with
  | [] => memDefault
  | (b, v) :: l => if a = b then v else memGet l a

/-- The memory with one byte written, in canonical form. -/
def memSet (m : Memory) (a : Nat) (v : Byte) : Memory :=
  match m with
  | [] => if v = memDefault then [] else [(a, v)]
  | (b, w) :: l =>
    if a < b then (if v = memDefault then (b, w) :: l else (a, v) :: (b, w) :: l)
    else if a = b then (if v = memDefault then l else (a, v) :: l)
    else (b, w) :: memSet l a v

/-- n bytes from an address upward. -/
def memRead (m : Memory) (a : Nat) : Nat → List Byte
  | 0 => []
  | n + 1 => memGet m a :: memRead m (a + 1) n

/-- Bytes written from an address upward. -/
def memWrite (m : Memory) (a : Nat) : List Byte → Memory
  | [] => m
  | v :: l => memWrite (memSet m a v) (a + 1) l

/-- Addresses strictly rise above a bound. -/
def risesAbove (b : Nat) : Memory → Bool
  | [] => true
  | (a, v) :: l => decide (b ≤ a) && v != memDefault && risesAbove (a + 1) l

/-- The canonical form: addresses strictly rising, no entry equal to what an unlisted address reads as. -/
def Memory.wf (m : Memory) : Bool := risesAbove 0 m

/-- A little-endian field of a record: `n` bytes at offset `a`. -/
def recField (r : List Byte) (a n : Nat) : Nat := leNat ((r.drop a).take n)

/-- A register word as four bytes. -/
def wordBytes (w : Word) : List Byte := leBytes 4 w.toNat

/-- Four-byte little-endian words of a byte list. -/
def wordsOf : Nat → List Byte → List Word
  | 0, _ => []
  | n + 1, l => BitVec.ofNat 32 (leNat (l.take 4)) :: wordsOf n (l.drop 4)

/-! ## A line as a number: byte i in bits [8i + 7 : 8i] -/

/-- The mask of n bits from bit lo. -/
def maskBits (lo n : Nat) : Nat := (2 ^ n - 1) * 2 ^ lo
/-- Byte i of a line. -/
def lineGet (d i : Nat) : Byte := BitVec.ofNat 8 (bitsAt d (8 * i) 8)
/-- The line with byte i replaced. -/
def lineSet (d i : Nat) (b : Byte) : Nat := d - bitsAt d (8 * i) 8 * 2 ^ (8 * i) + b.toNat * 2 ^ (8 * i)
/-- n bytes of a line. -/
def lineRead (d i : Nat) : Nat → List Byte
  | 0 => []
  | n + 1 => lineGet d i :: lineRead d (i + 1) n
/-- The line with bytes replaced. -/
def lineWrite (d i : Nat) : List Byte → Nat
  | [] => d
  | b :: l => lineWrite (lineSet d i b) (i + 1) l
/-- The line with the bytes of a mask taken from another. -/
def lineMerge (old new mask : Nat) : Nat → Nat
  | 0 => old
  | n + 1 =>
    let r := lineMerge old new mask n
    if bitsAt mask n 1 = 1 then lineSet r n (lineGet new n) else r
/-- The 128 bytes of a line as a number. -/
def lineOf (l : List Byte) : Nat := leNat l

/-! ## Lookups and updates -/

/-- A thread that was never there: exited from the start, every register zero with tag RAW (14/R316). -/
def Thread.blank (id : Tid) : Thread :=
  { id := id, team := 0, pc := 0, clause := none, depth := 0, run := .exited, regs := [], astat := 0#6, traps := [],
    win := [], reds := 0, lastIssue := 0, readySince := 0, sinceCount := 0, perf := [0, 0, 0, 0, 0] }

/-- The thread of a name. -/
def State.thread (s : State) (t : Tid) : Thread := (s.threads.find? fun x => x.id == t).getD (Thread.blank t)
/-- The state with a thread replaced. -/
def State.setThread (s : State) (t : Thread) : State :=
  { s with threads := editBy (fun x => x.id == t.id) (fun _ => t) s.threads }
/-- The state with a thread rewritten. -/
def State.editThread (s : State) (t : Tid) (f : Thread → Thread) : State :=
  { s with threads := editBy (fun x => x.id == t) f s.threads }

/-- A group with nothing outstanding (10/R222, R224). -/
def Group.fresh (r : Role) : Group :=
  { role := r, ctr := [0, 0, 0, 0, 0, 0]
    errs := List.replicate 6 { first := 0, cause := 0, nerr := 0 }
    wide := [0, 0, 0, 0, 0, 0]
    ack := 0, sticky := false, nvt := false, mats := [], perf := [0, 0, 0, 0, 0, 0, 0] }

/-- A team that was never there. -/
def Team.blank (id : Nat) : Team :=
  { id := id, grid := 0, num := 0, state := .gone, spawner := none, core := 0, slots := [], gran := 0, groups := []
    entry := 0, arg := 0#64, args := [], scratch := 0, privWords := 0, privBase := 0, prio := 0, idem := false
    sfx := false, restarts := 0, partword := 0#64, featmask := 0, scr := [], scrBad := [], mregs := [], tacks := [], tol := 0#32
    disabled := 0, save := none, blockedSince := none, woken := none, clocks := 0 }

/-- The team of a handle. -/
def State.team (s : State) (i : Nat) : Team := (s.teams.find? fun x => x.id == i).getD (Team.blank i)
/-- The state with a team rewritten. -/
def State.editTeam (s : State) (i : Nat) (f : Team → Team) : State :=
  { s with teams := editBy (fun x => x.id == i) f s.teams }

/-- A grid that was never there. -/
def Grid.blank (id : Nat) : Grid :=
  { id := id, ctx := 0, record := 0, cookie := 0, requester := none, entry := 0, teams := 0, roles := [], partword := 0#64
    scratch := 0, privWords := 0, prio := 0, width := 0, idem := false, capture := false, determ := false
    notify := false, featmask := 0, job := 0, part := 0, clusters := 0, args := 0#64, done := 0, edges := []
    priv := none, nextTeam := 0, spawned := 0, status := some 0, finished := true }

/-- The grid of a handle. -/
def State.grid (s : State) (i : Nat) : Grid := (s.grids.find? fun x => x.id == i).getD (Grid.blank i)
/-- The state with a grid rewritten. -/
def State.editGrid (s : State) (i : Nat) (f : Grid → Grid) : State :=
  { s with grids := editBy (fun x => x.id == i) f s.grids }

/-- A core on which nothing was ever placed (DESIGN CHOICE, log entry 7). -/
def Core.fresh (n : Nat) : Core :=
  { num := n, partword := none, reserve := (0, 0, 0), active := [], slow := [], moves := []
    slot0 := { entry := none, run := 0 }, slot1 := { entry := none, run := 0 }, mqueue := [], issued := 0
    lastQuantum := 0, ctxAck := [], logFull := 0, logPeak := 0 }
/-- The core of a number. -/
def State.core (s : State) (n : Nat) : Core := (s.cores.find? fun x => x.num == n).getD (Core.fresh n)
/-- The state with a core rewritten. -/
def State.editCore (s : State) (n : Nat) (f : Core → Core) : State :=
  { s with cores := putBy (fun x => x.num == n) (f (s.core n)) s.cores }

/-- The registers of a context. -/
def State.ctx (s : State) (n : Nat) : Ctx := (s.ctxs.find? fun x => x.id == n).getD (Ctx.reset n)
/-- The state with a context's registers rewritten. -/
def State.editCtx (s : State) (n : Nat) (f : Ctx → Ctx) : State :=
  { s with ctxs := putBy (fun x => x.id == n) (f (s.ctx n)) s.ctxs }

/-- A port before any credit has been returned to it (DESIGN CHOICE, log entry 7). -/
def Port.fresh (n : Nat) : Port := { num := n, credits := [0, 0, 0, 0], queue := [], depths := [], flagged := 0 }
/-- The port of a number. -/
def State.port (s : State) (n : Nat) : Port := (s.fabric.ports.find? fun x => x.num == n).getD (Port.fresh n)
/-- The state with a port rewritten. -/
def State.editPort (s : State) (n : Nat) (f : Port → Port) : State :=
  { s with fabric := { s.fabric with ports := putBy (fun x => x.num == n) (f (s.port n)) s.fabric.ports } }

/-- The panel of a number. -/
def State.panel (s : State) (n : Nat) : Panel :=
  (s.panels.find? fun x => x.num == n).getD { num := n, lastPlaced := none }
/-- The state with a panel rewritten. -/
def State.editPanel (s : State) (n : Nat) (f : Panel → Panel) : State :=
  { s with panels := putBy (fun x => x.num == n) (f (s.panel n)) s.panels }

/-- The cluster of a core (01/R6). -/
def clusterOf (core : Nat) : Nat := core / 4
/-- The panel of a core (01/R6). -/
def panelOf (core : Nat) : Nat := core / 128

/-- A fresh number, and the state in which it is used. -/
def State.takeFresh (s : State) : Nat × State := (s.fresh, { s with fresh := s.fresh + 1 })

/-- An event posted to the runtime. -/
def State.post (s : State) (e : RtEvent) : State := { s with board := { s.board with events := s.board.events ++ [e] } }
/-- A reply given on the side-band. -/
def State.reply (s : State) (r : SideReply) : State :=
  { s with board := { s.board with replies := s.board.replies ++ [r] } }
/-- A device step due after those already due. -/
def State.due (s : State) (i : Instr) : State := { s with agenda := s.agenda ++ [i] }

/-! ## Registers of a thread -/

/-- The register of a sparse file; zero with tag RAW where it is not listed. -/
def regGet (l : List RegCell) (n : Nat) : Word × Tag :=
  match l with
  | [] => (0#32, .raw)
  | c :: r => if c.n = n then (c.v, c.tag) else regGet r n

/-- The file with one register written, in rising order and without zero registers of tag RAW. -/
def regSet (l : List RegCell) (n : Nat) (v : Word) (tag : Tag) : List RegCell :=
  let zero : Bool := v == 0#32 && tag == .raw
  match l with
  | [] => if zero then [] else [{ n := n, v := v, tag := tag }]
  | c :: r =>
    if n < c.n then (if zero then c :: r else { n := n, v := v, tag := tag } :: c :: r)
    else if n = c.n then (if zero then r else { n := n, v := v, tag := tag } :: r)
    else c :: regSet r n v tag

/-- Register n of a thread: `vz`, number 255, reads as zero with tag RAW (05/R113, 14/R307). -/
def Thread.reg (t : Thread) (n : Nat) : Word × Tag := if n = 255 then (0#32, .raw) else regGet t.regs n
/-- A write of register n: a write of `vz` is discarded. -/
def Thread.setReg (t : Thread) (n : Nat) (v : Word) (tag : Tag) : Thread :=
  if n = 255 then t else { t with regs := regSet t.regs n v tag }
/-- The pair that begins at register n: bits [31:0] in the even register (08/R181). -/
def Thread.pair (t : Thread) (n : Nat) : DWord :=
  if n = 255 then 0#64 else pairOf (t.reg n).1 (t.reg (n + 1)).1
/-- A write of a pair; both registers carry the tag. A pair of 255 discards it. -/
def Thread.setPair (t : Thread) (n : Nat) (x : DWord) (tag : Tag) : Thread :=
  if n = 255 then t else (t.setReg n (loWord x) tag).setReg (n + 1) (hiWord x) tag
/-- A write of a register or a pair. -/
def Thread.put (t : Thread) (pair : Bool) (n : Nat) (x : DWord) (tag : Tag) : Thread :=
  if pair then t.setPair n x tag else t.setReg n (loWord x) tag
/-- Status bits ORed into ASTAT (08/R190). -/
def Thread.orStat (t : Thread) (x : Status) : Thread := { t with astat := t.astat ||| x }
/-- The registers of a completed operation written in order. -/
def Thread.putAll (t : Thread) : List RegCell → Thread
  | [] => t
  | c :: l => Thread.putAll (t.setReg c.n c.v c.tag) l

/-! ## What a thread is -/

/-- The group number of a thread in its team. -/
def groupIndex (tm : Team) (slot : Nat) : Nat := tm.slots.findIdx (fun x => x == slot)
/-- The thread's team. -/
def State.teamOf (s : State) (t : Thread) : Team := s.team t.team
/-- The thread's grid. -/
def State.gridOf (s : State) (t : Thread) : Grid := s.grid (s.team t.team).grid
/-- The thread's context. -/
def State.ctxOf (s : State) (t : Thread) : Nat := (s.gridOf t).ctx
/-- The role of a thread's group (04/R79). -/
def State.roleOf (s : State) (t : Thread) : Role :=
  let tm := s.teamOf t
  match tm.groups[groupIndex tm t.id.slot]? with
  | some g => g.role
  | none => { kind := 4, nr := 255 }
/-- NR of a thread's role. -/
def State.nrOf (s : State) (t : Thread) : Nat := (s.roleOf t).nr
/-- The team index: 32 × group + lane (04/R79). -/
def State.teamIndex (s : State) (t : Thread) : Nat := 32 * groupIndex (s.teamOf t) t.id.slot + t.id.lane

/-- The declared width (03/R61, 12/R278). -/
def widthOf (w : Nat) : Nat := if w = 1 then 16 else if w = 3 then 64 else 32
/-- The declared width of the thread's grid. -/
def State.width (s : State) (t : Thread) : Nat := widthOf (s.gridOf t).width
/-- The subgroup size an SG field names (14/R314). -/
def sgSize (width sg : Nat) : Nat := if sg = 0 then width else 2 ^ (sg - 1)
/-- The thread's position in its subgroup space (12/R278): lane l of group 2k + 1 is position 32 + l at width 64. -/
def State.spacePos (s : State) (t : Thread) : Nat :=
  if s.width t = 64 then groupIndex (s.teamOf t) t.id.slot % 2 * 32 + t.id.lane else t.id.lane
/-- The thread's position in its subgroup of size g (14/R314). -/
def State.subPos (s : State) (t : Thread) (g : Nat) : Nat := s.spacePos t % g
/-- The name of the thread at space position q of the same subgroup space. -/
def State.atSpace (s : State) (t : Thread) (q : Nat) : Tid :=
  let tm := s.teamOf t
  let gi := groupIndex tm t.id.slot
  let gi' := if s.width t = 64 then gi / 2 * 2 + q / 32 else gi
  { core := t.id.core, slot := tm.slots.getD gi' t.id.slot, lane := q % 32 }
/-- The names of the positions of the thread's subgroup of size g, in ascending position order. -/
def State.subgroup (s : State) (t : Thread) (g : Nat) : List Tid :=
  (List.range g).map fun i => s.atSpace t (s.spacePos t / g * g + i)

/-- A thread runs or may run: it has not exited. -/
def Thread.live (t : Thread) : Bool :=
  match t.run with
  | .exited => false
  | _ => true
/-- The thread is at level E (12/R269). -/
def Thread.levelE (t : Thread) : Bool := decide (0 < t.depth)

/-! ## The issue position (14/R309) -/

/-- The thread past an item of a given length: at the clause's next instruction or, after the last, at the header that
follows. -/
def Thread.advance (t : Thread) (len : Nat) : Thread :=
  match t.clause with
  | none => { t with pc := t.pc + len }
  | some c =>
    if c.count ≤ c.idx + 1 then { t with pc := t.pc + len, clause := none }
    else { t with pc := t.pc + len, clause := some { c with idx := c.idx + 1 } }

/-- The thread at a branch target, in header position (14/R309). -/
def Thread.jump (t : Thread) (target : Nat) : Thread := { t with pc := target, clause := none }

/-- The flag an instruction sets (14/R310): its FS selects the clause's SETA or SETB, and 12 to 15 set none. -/
def Thread.flagOf (t : Thread) (fs : Bool) : Option Nat :=
  match t.clause with
  | none => none
  | some c => let f := if fs then c.setb else c.seta; if f < 12 then some f else none

/-- A flag is pending for the thread at its current depth while an operation or a log entry that set it is incomplete
(14/R310, 06/R143). -/
def State.flagPending (s : State) (t : Thread) (f : Nat) : Bool :=
  s.ops.any (fun o => o.tid == t.id && o.depth == t.depth && o.flag == some f) ||
  s.log.any (fun e => e.lanes.any fun l => l.tid == t.id && l.depth == t.depth && l.flag == some f)
/-- The mask of pending flags at a depth. -/
def State.flagMask (s : State) (tid : Tid) (depth : Nat) : Nat :=
  ((List.range 12).map fun f =>
    if s.ops.any (fun o => o.tid == tid && o.depth == depth && o.flag == some f) ||
       s.log.any (fun e => e.lanes.any fun l => l.tid == tid && l.depth == depth && l.flag == some f)
    then 2 ^ f else 0).sum
/-- Register n has a long-latency write pending at the thread's depth, or at any for a register that frames do not copy
(14/R312, 12/R269). -/
def State.writePending (s : State) (t : Thread) (n : Nat) : Bool :=
  n != 255 &&
  (s.ops.any (fun o => o.tid == t.id && (o.depth == t.depth || decide (16 ≤ n)) && !o.dead && o.writes.any fun c => c.n == n) ||
   s.log.any (fun e => e.lanes.any fun l => l.tid == t.id && (l.depth == t.depth || decide (16 ≤ n)) &&
     (match l.acc.kind with
      | .load _ => l.acc.elems.any fun x =>
          let w := max 1 (l.acc.elem / 4); decide (l.acc.d + x.1 * w ≤ n) && decide (n < l.acc.d + x.1 * w + w)
      | .atom _ _ _ => n == l.acc.d || (l.acc.ty.is64 && n == l.acc.d + 1)
      | .xb _ _ | .awset _ _ _ _ => n == l.acc.d
      | _ => false)))

/-! ## Free choices (log entry 4) -/

/-- A choice the spec leaves open between two outcomes, for the k-th choice of this step (DESIGN CHOICE, log entry 4). -/
def State.freeBit (s : State) (k : Nat) : Bool := (Config.freeValue (s.free * 65536 + k)).getLsbD 0
/-- A value the spec leaves open (DESIGN CHOICE, log entry 4). -/
def State.freeWord (s : State) (k : Nat) : DWord := Config.freeValue (s.free * 65536 + k)

/-- The value a source read returns: the register's, or the pending one of a known result, whichever the device
chooses (14/R312). All registers of one operation are read alike. -/
def State.readReg (s : State) (t : Thread) (n : Nat) : Word × Tag :=
  if n = 255 then (0#32, .raw)
  else
    match s.ops.find? (fun o => o.tid == t.id && o.depth == t.depth && !o.dead && o.src == .done &&
        o.writes.any fun c => c.n == n) with
    | none => t.reg n
    | some o => if s.freeBit (o.id % 65536) then regGet o.writes n else t.reg n

/-! ## Thread and group counters -/

/-- The group of a thread rewritten. -/
def State.editGroup (s : State) (team gi : Nat) (f : Group → Group) : State :=
  s.editTeam team fun tm => { tm with groups := tm.groups.mapIdx fun i g => if i = gi then f g else g }
/-- The group of a team. -/
def State.group (s : State) (team gi : Nat) : Group :=
  ((s.team team).groups[gi]?).getD (Group.fresh { kind := 4, nr := 255 })
/-- The number of an engine class's counter (10/R221). -/
def clsIndex (c : Cls) : Nat := c.code

end Sys2Proof.Machine
end

