-- ==== Sys2Proof/Machine/Home.lean ====
section
/-! DEFINITION. Local memory at its home slices (05/R118 to R128, 06/R151, R152): striping, uncorrectable lines,
combination of update lines and determinism entries, atomics at the home, scratchpads and their save images, and the
evaluation of blocked threads' conditions when a word changes (17/R378, 10/R229). -/

namespace Sys2Proof.Machine

/-! ## Elements combined (05/R119, 17/R373) -/

/-- The width in bits of an atomic type. -/
def atWidth (ty : Tag) : Nat := if ty.is64 then 64 else 32

/-- The new value of an atomic operation (17/R373): integer ADD wraps, F32 ADD rounds RNE, MIN and MAX compare per
type, CAS compares bit for bit. -/
def atomNew (op : AtOp) (ty : Tag) (old b c : Nat) : Nat :=
  let w := atWidth ty
  let sg := tagSigned ty
  match op with
  | .add =>
    if ty = .f32 then (faddVal f32 .rne 0 (fdecode f32 old) (fdecode f32 b)).1 else (old + b) % 2 ^ w
  | .min =>
    if ty = .f32 then (fminmaxBits f32 false old b).1
    else if toInt sg w b < toInt sg w old then b % 2 ^ w else old % 2 ^ w
  | .max =>
    if ty = .f32 then (fminmaxBits f32 true old b).1
    else if toInt sg w old < toInt sg w b then b % 2 ^ w else old % 2 ^ w
  | .and => (old &&& b) % 2 ^ w
  | .or => (old ||| b) % 2 ^ w
  | .xor => (old ^^^ b) % 2 ^ w
  | .exch => b % 2 ^ w
  | .cas => if old % 2 ^ w = b % 2 ^ w then c % 2 ^ w else old % 2 ^ w

/-- The identity of a reduction (05/R119). -/
def redIdentity (op : AtOp) (ty : Tag) : Nat :=
  let w := atWidth ty
  let sg := tagSigned ty
  match op with
  | .and => 2 ^ w - 1
  | .min => wrapTo w (greatestOf sg w)
  | .max => wrapTo w (leastOf sg w)
  | _ => 0

/-! ## Compression (05/R129, R130) -/

/-- Element k of a line, of w bits. -/
def lineElem (w d k : Nat) : Nat := bitsAt d (w * k) w
/-- Every element of a line equals the first. -/
def lineRep (w d : Nat) : Bool := (List.range (1024 / w)).all fun k => lineElem w d k == lineElem w d 0
/-- Every element differs from the first by a signed delta of b bits. -/
def lineDelta (w b d : Nat) : Bool :=
  (List.range (1024 / w)).all fun k =>
    let x := toInt true w (wrapTo w ((lineElem w d k : Int) - lineElem w d 0))
    decide (-(2 ^ (b - 1) : Int) ≤ x) && decide (x < 2 ^ (b - 1))

/-- The smallest encoding that fits. -/
def lineEncoding (d : Nat) : Nat :=
  if d = 0 then 0
  else if lineRep 32 d then 1
  else if lineRep 64 d then 2
  else if lineDelta 64 8 d then 3
  else if lineDelta 32 8 d then 4
  else if lineDelta 64 16 d then 5
  else 6

/-- The bytes an encoding stores (05/R129). -/
def encodingSize (e : Nat) : Nat :=
  match e with | 0 => 0 | 1 => 4 | 2 => 8 | 3 => 24 | 4 => 36 | 5 => 40 | _ => 128

/-- The bytes that an encoding stores for a line (05/R130): the value, or the base and then the deltas in element order, each
little-endian, from byte 0 of the half. -/
def encodeLine (e d : Nat) : List Byte :=
  let deltas := fun (w b : Nat) =>
    leBytes (w / 8) (lineElem w d 0) ++
    (List.range (1024 / w)).flatMap fun k => leBytes (b / 8) (wrapTo b ((lineElem w d k : Int) - lineElem w d 0))
  match e with
  | 0 => []
  | 1 => leBytes 4 (lineElem 32 d 0)
  | 2 => leBytes 8 (lineElem 64 d 0)
  | 3 => deltas 64 8
  | 4 => deltas 32 8
  | 5 => deltas 64 16
  | _ => lineRead d 0 128

/-- The line rebuilt from its stored bytes: element i is the base plus the sign-extended delta (05/R130). -/
def decodeLine (e : Nat) (l : List Byte) : Nat :=
  let elems := fun (w : Nat) (f : Nat → Nat) => ((List.range (1024 / w)).map fun k => f k * 2 ^ (w * k)).sum
  let deltas := fun (w b : Nat) =>
    elems w fun k => wrapTo w ((recField l 0 (w / 8) : Int) + toInt true b (recField l (w / 8 + b / 8 * k) (b / 8)))
  match e with
  | 0 => 0
  | 1 => elems 32 fun _ => leNat l
  | 2 => elems 64 fun _ => leNat l
  | 3 => deltas 64 8
  | 4 => deltas 32 8
  | 5 => deltas 64 16
  | _ => leNat l

/-! ## Striping and the L2's books -/

/-- The stripe value of a physical address (05/R125). -/
def stripe (pa : Nat) : Nat :=
  bitsAt pa 12 8 ^^^ bitsAt pa 20 8 ^^^ bitsAt pa 28 8 ^^^ bitsAt pa 36 8 ^^^ bitsAt pa 44 8
/-- The global slice number of a home: panel × 32 + slice. -/
def sliceOf (pa : Nat) : Nat := stripe pa
/-- The memory link of an address (05/R125). -/
def linkOf (pa : Nat) : Nat := stripe pa / 32 * 8 + stripe pa / 4 % 8

/-- The line's memory link has failed since bring-up (01/R12). -/
def State.linkLost (s : State) (line : Nat) : Bool :=
  decide (0 < s.board.capacity) && bitsAt s.sys.mlstat.toNat (linkOf (128 * line)) 1 == 0

/-- A line whose data is uncorrectable for a reader (06/R151, 01/R12). -/
def State.lineBad (s : State) (line : Nat) : Bool := s.l2.bad.contains line || s.linkLost line

/-- A link is retraining, so accesses queued on it wait (01/R12). -/
def State.linkBusy (s : State) (line : Nat) : Bool := s.board.mlRetry.any fun x => x.1 == linkOf (128 * line) && decide (16 ≤ x.2)
/-- A read of a line waits: it has to come over a link that is retraining (01/R12). -/
def State.homeWaits (s : State) (line : Nat) : Bool := s.linkBusy line && !(s.l2.lines.any fun x => x.line == line)

/-- An access at the home notes the line: a resident line is used and perhaps made dirty, another is wanted by the
slice (05/R126, R127). A line that an access of a compressible page reaches is stored compressed (05/R128)
(one point DESIGN CHOICE, log entry 77). -/
def State.noteLine (s : State) (line : Nat) (comp written : Bool) : State :=
  let l2 := s.l2
  let use : L2Line → L2Line := fun x => { x with used := s.time.cyc, dirty := x.dirty || written, comp := x.comp || comp }
  if l2.lines.any fun x => x.line == line then
    { s with l2 := { l2 with lines := editBy (fun x => x.line == line) use l2.lines } }
  else
    let old := (l2.want.find? fun x => x.1 == line).getD (line, comp, false)
    { s with l2 := { l2 with want := putBy (fun x => x.1 == line) (line, old.2.1 || comp, old.2.2 || written) l2.want } }

/-- Uncorrectable codes in DDR once a line is written there: an uncorrectable line keeps its mark (01/R13). -/
def L2.codeOf (l2 : L2) (line : Nat) (codes : List Nat) : List Nat :=
  let rest := dropBy (· == line) codes
  if l2.bad.contains line then line :: rest else rest

/-- The two filter counters of a line (05/R127). -/
def filterSlots (line : Nat) : List Nat := [Config.filterHash false line % 4096, Config.filterHash true line % 4096]
/-- A counter of a slice's pending-write filter. -/
def L2.counter (l2 : L2) (slice i : Nat) : Nat := ((l2.filter.find? fun x => x.1 == slice && x.2.1 == i).map (·.2.2)).getD 0
/-- The counter changed; a count of zero is not kept. -/
def L2.setCounter (l2 : L2) (slice i n : Nat) : L2 :=
  let hit : Nat × Nat × Nat → Bool := fun x => x.1 == slice && x.2.1 == i
  { l2 with filter := if n = 0 then dropBy hit l2.filter else putBy hit (slice, i, n) l2.filter }
/-- A line's write enters the write queue toward DDR and raises both counters. -/
def L2.queueWrite (l2 : L2) (line data : Nat) : L2 :=
  let slice := sliceOf (128 * line)
  let up := (filterSlots line).foldl (fun (x : L2) i => x.setCounter slice i (x.counter slice i + 1)) l2
  { up with writes := up.writes ++ [{ slice := slice, line := line, data := data }] }

/-- An access of a page with CACHE 2 leaves no line in the slice that was not there before; what it wrote goes toward DDR
(06/R135). -/
def State.noAlloc (s before : State) (cache pa : Nat) (written : Bool) : State :=
  let line := pa / 128
  if cache ≠ 2 ∨ before.l2.lines.any (fun x => x.line == line) then s
  else
    let l2 := { s.l2 with want := before.l2.want }
    { s with l2 := if written then l2.queueWrite line (lineOf (memRead s.mem (128 * line) 128)) else l2 }

/-! ## Scratchpads and save images (04/R100, 12/R280) -/

/-- The address of the scratchpad image in a save area. -/
def saveScr (base : Nat) : Nat := base + 4096

/-- Bytes of a team's scratchpad; while the team is evicted, of its save image (04/R100). -/
def State.scrRead (s : State) (team off n : Nat) : List Byte :=
  let tm := s.team team
  match tm.state, tm.save with
  | .evicted, some (b, _) => memRead s.mem (saveScr b + off) n
  | _, _ => memRead tm.scr off n

/-! ## Conditions of blocked threads -/

/-- A word at its place: in memory at the home, or in a scratchpad. -/
def State.wordAt (s : State) (loc : WordLoc) (off n : Nat) : Nat :=
  match loc with
  | .mem pa => leNat (memRead s.mem (pa + off) n)
  | .scr team o => leNat (s.scrRead team (o + off) n)

/-- A WAITV reads the word at its home, its own L1's dirty bytes taking precedence (17/R378). -/
def State.waitWord (s : State) (t : Thread) (loc : WordLoc) (va n : Nat) : Nat :=
  let home := s.wordAt loc 0 n
  match loc with
  | .scr _ _ => home
  | .mem _ =>
    match s.l1.find? (fun l => l.core == t.id.core && l.ctx == s.ctxOf t && l.line == va / 128) with
    | none => home
    | some l => lineMerge home (leNat (lineRead l.data (va % 128) n)) (bitsAt l.dirty (va % 128) n) n

/-- GEN has passed g (10/R229). -/
def genPassed (gen g : Nat) : Bool :=
  let d := (gen + 4294967296 - g % 4294967296) % 4294967296
  decide (1 ≤ d) && decide (d ≤ 2147483647)

/-- The value that satisfies a wait at a word, if its condition holds now. -/
def State.waitGot (s : State) (t : Thread) (w : Wait) : Option DWord :=
  match w with
  | .await loc gen _ _ =>
    let g := s.wordAt loc 8 4
    if genPassed g gen then some (BitVec.ofNat 64 g) else none
  | .waitv loc va ty c b _ _ =>
    let n := atWidth ty / 8
    let x := s.waitWord t loc va n
    if condInt c (toInt (tagSigned ty) (8 * n) x) (toInt (tagSigned ty) (8 * n) b.toNat) then some (BitVec.ofNat 64 x)
    else none
  | .srwait off empty phase =>
    let loc := WordLoc.scr t.team off
    let bit := if empty then bitsAt (s.wordAt loc 12 4) 3 1 else bitsAt (s.wordAt loc 8 4) 0 1
    if (bit == 1) == phase then some 0#64 else none
  | _ => none

/-- After a word may have changed, each blocked thread whose condition holds keeps the value that satisfied it
(17/R378, R381; 10/R229). -/
def State.latchWaits (s : State) : State :=
  { s with threads := s.threads.map fun t =>
      match t.run with
      | .blocked w n none =>
        match s.waitGot t w with
        | some v => { t with run := .blocked w n (some v) }
        | none => t
      | _ => t }

/-- A line of a team's scratchpad among some bytes is uncorrectable (06/R151). -/
def Team.scrLost (tm : Team) (off n : Nat) : Bool := tm.scrBad.any fun l => decide (128 * l < off + n) && decide (off < 128 * l + 128)
/-- The lines that bytes at an offset cover whole: their data is replaced, with a new code (06/R151). -/
def Team.scrRenew (tm : Team) (off n : Nat) : Team :=
  { tm with scrBad := tm.scrBad.filter fun l => !(decide (off ≤ 128 * l) && decide (128 * l + 128 ≤ off + n)) }

/-- Bytes put in a scratchpad as it stands, or in its save image. -/
def State.scrPut (s : State) (team off : Nat) (l : List Byte) : State :=
  let tm := s.team team
  match tm.state, tm.save with
  | .evicted, some (b, _) => { s with mem := memWrite s.mem (saveScr b + off) l }
  | _, _ => s.editTeam team fun x => { x with scr := memWrite x.scr off l }
/-- Bytes put one by one, but for those of uncorrectable lines. -/
def State.scrPutGood (s : State) (team off : Nat) : List Byte → State
  | [] => s
  | b :: l => State.scrPutGood (if (s.team team).scrLost off 1 then s else s.scrPut team off [b]) team (off + 1) l

/-- Bytes written in a team's scratchpad, or in its save image while it is evicted (04/R100). A partial write of an
uncorrectable line is not performed; one of all its 128 bytes is (06/R151, R152). -/
def State.scrWrite (s : State) (team off : Nat) (l : List Byte) : State :=
  if (s.team team).scrLost off l.length then
    ((s.editTeam team fun x => x.scrRenew off l.length).scrPutGood team off l).latchWaits
  else (s.scrPut team off l).latchWaits

/-! ## Access at the home -/

/-- The elements of a contribution applied to a line, element by element: those of its mask. -/
def combineGo (op : AtOp) (ty : Tag) (mask upd : Nat) (w : Nat) : Nat → Nat → Nat
  | 0, old => old
  | n + 1, old =>
    let r := combineGo op ty mask upd w n old
    if bitsAt mask (n * (w / 8)) 1 = 1 then
      r - elemAt w n r * 2 ^ (w * n) + atomNew op ty (elemAt w n r) (elemAt w n upd) 0 * 2 ^ (w * n)
    else r

/-- A contribution applied at the home slice (05/R120); a merge into an uncorrectable line is not performed and is
reported (06/R152). -/
def State.applyUpd (s : State) (u : UpdLine) : State :=
  let line := u.pa / 128
  if s.lineBad line then s.due (.uncorrectableWriteReport u.pa u.ctx)
  else
    let w := atWidth u.ty
    let old := lineOf (memRead s.mem (128 * line) 128)
    let new := combineGo u.op u.ty u.mask u.data w (1024 / w) old
    ({ s with mem := memWrite s.mem (128 * line) (lineRead new 0 128) }.noteLine line u.comp true).latchWaits

/-- Contributions applied in the order given. -/
def State.applyUpds (s : State) : List UpdLine → State
  | [] => s
  | u :: l => State.applyUpds (s.applyUpd u) l

/-- The order of determinism keys (05/R121): team number, team index, count of earlier REDs. -/
def detLess (a b : DetEntry) : Bool :=
  decide (a.team < b.team) || (decide (a.team = b.team) &&
    (decide (a.index < b.index) || (decide (a.index = b.index) && decide (a.count < b.count))))
/-- Insertion in key order. -/
def detInsert (a : DetEntry) : List DetEntry → List DetEntry
  | [] => [a]
  | b :: l => if detLess a b then a :: b :: l else b :: detInsert a l
/-- The entries in ascending key order. -/
def detSort : List DetEntry → List DetEntry
  | [] => []
  | a :: l => detInsert a (detSort l)

/-- Held contributions of the determinism buffer added one by one, each rounded RNE (05/R121); one to an uncorrectable line is
not performed and is reported, under the context of its team's grid (06/R152) (one point DEDUCED, log entry 78). -/
def State.applyDet (s : State) : List DetEntry → State
  | [] => s
  | d :: l =>
    let old := leNat (memRead s.mem d.pa 4)
    let new := atomNew .add .f32 old d.v.toNat 0
    if s.lineBad (d.pa / 128) then State.applyDet (s.due (.uncorrectableWriteReport (d.pa / 128 * 128) d.ctx)) l
    else State.applyDet (({ s with mem := memWrite s.mem d.pa (leBytes 4 new) }.noteLine (d.pa / 128) false true).latchWaits) l

/-- The determinism buffer's contributions to a line applied in ascending key order, and removed. -/
def State.flushDet (s : State) (line : Nat) : State :=
  let mine := s.l2.det.filter fun d => d.pa / 128 == line
  let s1 := { s with l2 := { s.l2 with det := dropBy (fun d => d.pa / 128 == line) s.l2.det } }
  s1.applyDet (detSort mine)

/-- The contributions of several holders in an order that the device chooses (log entry 4). -/
def State.shuffled (s : State) : Nat → List UpdLine → List UpdLine
  | 0, l => l
  | n + 1, l =>
    if l.length < 2 then l
    else
      let i := (s.freeWord (1024 + n)).toNat % l.length
      match l[i]? with
      | none => l
      | some u => u :: State.shuffled s n (l.eraseIdx i)

/-- The slice recalls every holder of a line and applies every contribution before any other access (05/R120); they arrive in an
order that the device chooses (log entry 4). -/
def State.recall (s : State) (line : Nat) : State :=
  let held := s.upd.filter fun u => u.pa / 128 == line
  let mine := s.shuffled held.length held
  let s1 := { s with upd := dropBy (fun u => u.pa / 128 == line) s.upd
                     l2 := { s.l2 with holders := dropBy (fun h => h.1 == line) s.l2.holders } }
  (s1.applyUpds mine).flushDet line

/-- A core registers as a holder of a line (05/R120): four by number, then a mask of panels. -/
def State.registerHolder (s : State) (line core : Nat) : State :=
  let new : Holders :=
    match s.l2.holders.find? (fun h => h.1 == line) with
    | none => .cores [core]
    | some (_, .panels m) => .panels (m ||| 2 ^ panelOf core)
    | some (_, .cores l) =>
      if l.contains core then .cores l
      else if l.length < 4 then .cores (l ++ [core])
      else .panels ((core :: l).foldl (fun m c => m ||| 2 ^ panelOf c) 0)
  { s with l2 := { s.l2 with holders := putBy (fun h => h.1 == line) (line, new) s.l2.holders } }

/-- A read of n bytes of one line at its home; `none` when its data is uncorrectable (06/R151). An address at or above the
device's capacity is served like one below it (DESIGN CHOICE, log entry 100). -/
def State.homeRead (s : State) (pa n : Nat) (comp : Bool := false) : State × Option (List Byte) :=
  let line := pa / 128
  let s1 := (s.recall line).noteLine line comp false
  (s1, if s1.lineBad line then none else some (memRead s1.mem pa n))

/-- A write of the masked bytes of one line at its home, and whether it was performed: a partial write of an
uncorrectable line is not, and is reported; a write of all 128 bytes replaces the line (06/R151, R152). -/
def State.homeWriteLine (s : State) (ctx line data mask : Nat) (comp : Bool) : State × Bool :=
  let s1 := s.recall line
  let full : Bool := mask == 2 ^ 128 - 1
  if s1.lineBad line && !full then (s1.due (.uncorrectableWriteReport (128 * line) ctx), false)
  else
    let old := lineOf (memRead s1.mem (128 * line) 128)
    let new := lineMerge old data mask 128
    let s2 := { s1 with mem := memWrite s1.mem (128 * line) (lineRead new 0 128)
                        l2 := { s1.l2 with bad := s1.l2.bad.filter fun x => x != line } }
    ((s2.noteLine line comp true).latchWaits, true)

/-- A line's data at its home becomes uncorrectable (06/R151). -/
def State.spoil (s : State) (line : Nat) : State :=
  { s with l2 := { s.l2 with bad := if s.l2.bad.contains line then s.l2.bad else s.l2.bad ++ [line] } }

/-- A write of bytes that lie in one line. -/
def State.homeWrite (s : State) (ctx pa : Nat) (l : List Byte) (comp : Bool) : State × Bool :=
  s.homeWriteLine ctx (pa / 128) (leNat l * 2 ^ (8 * (pa % 128))) (maskBits (pa % 128) l.length) comp

/-- Bytes written from a physical address upward, byte by byte across lines. -/
def State.homeStore (s : State) (ctx pa : Nat) : List Byte → State
  | [] => s
  | b :: l => State.homeStore (s.homeWrite ctx pa [b] false).1 ctx (pa + 1) l

/-- n bytes read from a physical address upward across lines; `none` when a line is uncorrectable
(one point DESIGN CHOICE, log entry 90). -/
def State.homeLoad (s : State) (pa n : Nat) (comp : Bool := false) : State × Option (List Byte) :=
  let lines := (List.range ((pa + n + 127) / 128 - pa / 128)).map (· + pa / 128)
  let s1 := lines.foldl (fun s l => (s.recall l).noteLine l comp false) s
  (s1, if lines.any (fun l => s1.lineBad l) then none else some (memRead s1.mem pa n))

/-- A read of a table in memory by physical address that the hardware makes itself. -/
def State.physNat (s : State) (pa n : Nat) : Nat := leNat (memRead s.mem pa n)

/-- A read-modify-write at the home (17/R373): the old value, or `none` when the line is uncorrectable. -/
def State.homeAtom (s : State) (ctx pa : Nat) (op : AtOp) (ty : Tag) (b c : Nat) (comp : Bool := false) : State × Option Nat :=
  let n := atWidth ty / 8
  let r := s.homeRead pa n comp
  match r.2 with
  | none => (r.1, none)
  | some l => ((r.1.homeWrite ctx pa (leBytes n (atomNew op ty (leNat l) b c)) comp).1, some (leNat l))

end Sys2Proof.Machine
end

