-- ==== Sys2Proof/Machine/Route.lean ====
section
/-! DEFINITION. Sending on the fabric (02/R33, R37 to R48): packets and their end-to-end tag, the route table, the
choice of the first hop, the port queues with their credits, and the requests kept until they are answered. -/

namespace Sys2Proof.Machine

/-! ## Packets -/

/-- The status codes of 02/R39, and the sender's own TIMEOUT (02/R45). -/
def stOK : Nat := 0
def stDENIED : Nat := 1
def stUNROUTABLE : Nat := 2
def stDATALOST : Nat := 3
def stUNSUPPORTED : Nat := 4
def stNOTREADY : Nat := 5
def stTIMEOUT : Nat := 256

/-- One bit of the CRC-64 of 02/R44, bits taken least significant first. -/
def crcBit (crc bit : Nat) : Nat :=
  if (crc % 2 + bit) % 2 = 1 then crc / 2 ^^^ 0xC96C5795D7870F42 else crc / 2
/-- n bits of a number taken into the tag. -/
def crcBits (x : Nat) : Nat → Nat → Nat
  | 0, crc => crc
  | n + 1, crc => crcBit (crcBits x n crc) (bitsAt x n 1)
/-- Bytes taken into the tag in address order. -/
def crcBytes (crc : Nat) : List Byte → Nat
  | [] => crc
  | b :: l => crcBytes (crcBits b.toNat 8 crc) l

/-- ETAG (02/R44) over DST, ADDR, LEN, BMASK and the payload. -/
def etagOf (k : Packet) : Nat :=
  let c0 := crcBits k.dst 16 0xFFFFFFFFFFFFFFFF
  let c1 := crcBits k.addr 52 c0
  let c2 := crcBits k.len 4 c1
  let c3 := crcBits k.bmask 32 c2
  crcBytes c3 k.data ^^^ 0xFFFFFFFFFFFFFFFF

/-- The packet with its tag. -/
def sealPkt (k : Packet) : Packet := { k with etag := etagOf k }

/-- The byte mask that says every byte. -/
def allBytes : Nat := 0xFFFFFFFF

/-- The header flit of a packet, each field at its bits (02/R37). -/
def headerFlit (k : Packet) : Nat :=
  k.dst * 2 ^ 240 + k.src * 2 ^ 224 + k.typ * 2 ^ 216 + k.cls * 2 ^ 214 + k.len * 2 ^ 210 + (if k.hot then 2 ^ 209 else 0) +
  (if k.rsv then 2 ^ 208 else 0) + k.tag * 2 ^ 184 + k.addr * 2 ^ 132 + k.ctx * 2 ^ 120 + k.bmask * 2 ^ 88 + k.aux * 2 ^ 64 + k.etag
/-- The packet that a header flit and the bytes of its data flits stand for (02/R37). -/
def readHeader (h : Nat) (data : List Byte) : Packet :=
  { dst := bitsAt h 240 16, src := bitsAt h 224 16, typ := bitsAt h 216 8, cls := bitsAt h 214 2, len := bitsAt h 210 4
    hot := bitsAt h 209 1 == 1, rsv := bitsAt h 208 1 == 1, tag := bitsAt h 184 24, addr := bitsAt h 132 52, ctx := bitsAt h 120 12
    bmask := bitsAt h 88 32, aux := bitsAt h 64 24, etag := bitsAt h 0 64, data := data }

/-- This device's node id (02/R57). -/
def State.node (s : State) : Nat := fld s.sys.nodeid 0 16

/-- The response types of 02/R38. -/
def isResponse (typ : Nat) : Bool := typ == 0x02 || typ == 0x04 || typ == 0x06 || typ == 0x07 || typ == 0x11

/-- The virtual channel of a packet (02/R41). -/
def vcOf (k : Packet) : Nat := if isResponse k.typ then 1 else if k.cls = 1 then 2 else if k.cls = 2 then 3 else 0

/-- Zero bytes. -/
def zeros (n : Nat) : List Byte := List.replicate n 0#8

/-- A response to a request: its TAG, SRC and DST exchanged, in its class (02/R38). The rule names no other header field of a
response: ADDR and CTX are the request's and H is 0 (DESIGN CHOICE, log entry 101). -/
def State.responseTo (s : State) (k : Packet) (typ status : Nat) (len : Nat) (data : List Byte) : Packet :=
  sealPkt { dst := k.src, src := s.node, typ := typ, cls := k.cls, len := len, hot := false, rsv := false, tag := k.tag,
            addr := k.addr, ctx := k.ctx, bmask := allBytes, aux := status, etag := 0, data := data }

/-! ## Port queues and credits (02/R41, R42) -/

/-- Packets of a queue that may leave: each channel sends in order and stops at its first packet without credit. A credit stands
for one flit, so a packet needs one for its header and one for each data flit (DESIGN CHOICE, log entry 102). -/
def pumpGo (credits : List Nat) (stopped : List Nat) : List (Nat × Packet) → List Nat × List Packet × List (Nat × Packet)
  | [] => (credits, [], [])
  | (vc, k) :: q =>
    if stopped.contains vc || decide (nth credits vc < 1 + k.len) then
      let r := pumpGo credits (vc :: stopped) q
      (r.1, r.2.1, (vc, k) :: r.2.2)
    else
      let r := pumpGo (bump credits vc (· - (1 + k.len))) stopped q
      (r.1, k :: r.2.1, r.2.2)

/-- A packet that has entered a bolt by one of its ports (02/R34). -/
def Bolt.enter (b : Bolt) (now ingress : Nat) (k : Packet) : Bolt :=
  { b with seq := b.seq + 1, held := b.held ++ [{ seq := b.seq, ingress := ingress, vc := vcOf k, pkt := k, since := now, via := none }] }
/-- A packet that has left a port enters the bolt that the port's cable goes to, where that bolt stands in the state (02/R34). -/
def State.intoBolts (s : State) (p : Nat) (k : Packet) : List Bolt :=
  s.fabric.bolts.map fun b => match b.cables.find? fun c => c.1 == p with | some c => b.enter s.time.ns c.2 k | none => b

/-- A port sends what its credits allow. -/
def State.pump (s : State) (p : Nat) : State :=
  let port := s.port p
  let r := pumpGo port.credits [] port.queue
  let s1 := s.editPort p fun x => { x with credits := r.1, queue := r.2.2 }
  r.2.1.foldl (fun s k => { s with fabric := { s.fabric with sent := s.fabric.sent ++ [(p, k)], bolts := s.intoBolts p k } }) s1

/-- A packet put on a port. -/
def State.enqueue (s : State) (p : Nat) (k : Packet) : State :=
  (s.editPort p fun x => { x with queue := x.queue ++ [(vcOf k, k)] }).pump p

/-- Flits queued locally on a port. -/
def Port.flits (p : Port) : Nat := (p.queue.map fun x => 1 + x.2.len).sum

/-! ## Routing (02/R43) -/

/-- The ports the route table gives for a node; none while FPRTAB is not valid. -/
def State.routeMask (s : State) (dst : Nat) : Nat :=
  if fld s.sys.fprtab 0 1 = 0 then 0
  else s.physNat (fld s.sys.fprtab 16 36 * 65536 + 8 * dst) 8 % 2 ^ 48

/-- The candidate ports: in the route entry and trained. -/
def State.candidates (s : State) (dst : Nat) : List Nat :=
  let m := s.routeMask dst &&& s.sys.fpstat.toNat
  (List.range Config.ports).filter fun p => bitsAt m p 1 == 1

/-- The cost of a port toward a node: the reported depth plus the local flits divided by 8. -/
def State.portCost (s : State) (dst p : Nat) : Nat :=
  let port := s.port p
  ((port.depths.find? fun d => d.1 == dst).map (·.2)).getD 0 + port.flits / 8

/-- The candidate of least cost; the lowest number on a tie. -/
def leastCost (cost : Nat → Nat) : List Nat → Option Nat
  | [] => none
  | p :: l =>
    match leastCost cost l with
    | none => some p
    | some q => if cost q < cost p then some q else some p

/-- The port of the first hop (02/R43). A LOSSY write goes out on the port of an earlier one to its line still
queued. -/
def State.firstHop (s : State) (k : Packet) : Option Nat :=
  let held := if k.cls = 1 then
      s.fabric.ports.find? fun p => p.queue.any fun x => x.1 == 2 && x.2.dst == k.dst && x.2.addr / 128 == k.addr / 128
    else none
  match held with
  | some p => some p.num
  | none => leastCost (s.portCost k.dst) (s.candidates k.dst)

/-- A response sent: on a chosen port; where no candidate exists, or when the request was addressed by port, on the
port its request arrived on (02/R33, R43). -/
def State.sendResponse (s : State) (port : Nat) (byPort : Bool) (k : Packet) : State :=
  if byPort then s.enqueue port k else s.enqueue ((s.firstHop k).getD port) k

/-! ## Requests (02/R45, R48) -/

/-- The least number of a list of candidates that is not taken. -/
def freeTagGo (used : Nat → Bool) : Nat → Nat → Nat
  | 0, n => n
  | k + 1, n => if used n then freeTagGo used k (n + 1) else n

/-- TAGs of a source toward one node (02/R37). -/
def tagSpace : Nat := 2 ^ 24

/-- The least number that no request toward a node has, as its key or its TAG, and that does not rest; at or above `tagSpace` no
TAG is free (02/R45) (one point DESIGN CHOICE, log entry 68). -/
def State.freeTag (s : State) (dst : Nat) : Nat :=
  let used : Nat → Bool := fun n =>
    s.fabric.reqs.any (fun r => r.dst == dst && (r.tag == n || r.pkt.tag == n)) ||
    s.fabric.tags.any (fun t => t.1 == dst && t.2.1 == n && decide (s.time.ns < t.2.2))
  freeTagGo used (2 * s.fabric.reqs.length + s.fabric.tags.length) 0

/-- The request with a TAG: one that found none free takes one as soon as there is one; `none` while it has to wait (02/R45). -/
def State.tagged (s : State) (r : Req) : Option Req :=
  if r.pkt.tag < tagSpace then some r
  else
    let w := s.freeTag r.dst
    if w < tagSpace then some { r with pkt := sealPkt { r.pkt with tag := w } } else none

/-- A packet raises an acknowledgement counter: RELIABLE WRITE, ATOMIC and CREDIT (02/R48). -/
def counted (k : Packet) : Bool := k.cls == 0 && (k.typ == 0x03 || k.typ == 0x05 || k.typ == 0x08)

/-- A packet is not sent while an earlier one is unanswered: a WRITE or ATOMIC behind any RELIABLE request to the same line and
node (02/R43); a READ behind a READ, WRITE or ATOMIC, so that a thread's reads of one location keep their order and see its own
writes (11/R246) (one point DEDUCED, log entry 62). -/
def waitsBehind (k earlier : Packet) : Bool :=
  k.dst == earlier.dst && k.addr / 128 == earlier.addr / 128 &&
  (k.typ == 0x03 || k.typ == 0x05 || (k.typ == 0x01 && (earlier.typ == 0x01 || earlier.typ == 0x03 || earlier.typ == 0x05)))
/-- An earlier request holds a packet back. -/
def State.lineWaits (s : State) (k : Packet) : Bool := s.fabric.reqs.any fun r => waitsBehind k r.pkt

/-- A count kept by key changed; a count of zero is not kept. -/
def countBy (l : List (Nat × Nat)) (key : Nat) (f : Nat → Nat) : List (Nat × Nat) :=
  let n := f (((l.find? fun x => x.1 == key).map (·.2)).getD 0)
  if n = 0 then dropBy (fun x => x.1 == key) l else putBy (fun x => x.1 == key) (key, n) l

/-- The counter a request stands in: its group's, or the core's counter for the context (02/R48). -/
def State.ackStep (s : State) (why : ReqFor) (f : Nat → Nat) : State :=
  match why with
  | .record _ | .word _ => s
  | .store tm g => s.editGroup tm g fun x => { x with ack := f x.ack }
  | .wbGroup tm g _ _ _ => s.editGroup tm g fun x => { x with ack := f x.ack }
  | .wbCtx core ctx _ => s.editCore core fun c => { c with ctxAck := countBy c.ctxAck ctx f }
  | .op i =>
    match s.ops.find? fun o => o.id == i with
    | none => s
    | some o =>
      let t := s.thread o.tid
      s.editGroup t.team (groupIndex (s.team t.team) t.id.slot) fun x => { x with ack := f x.ack }
  | .cmd i =>
    match s.cmds.find? fun c => c.id == i with
    | none => s
    | some c => s.editGroup c.team c.group fun x => { x with ack := f x.ack }
  | .credit i =>
    match s.cmds.find? fun c => c.id == i with
    | none => s
    | some c => s.editGroup c.team c.group fun x => { x with ack := f x.ack }

/-- A request cannot be sent at all: the device has no node id, or no port reaches the node (02/R33, R43). -/
def State.unroutable (s : State) (k : Packet) : Bool := s.node == 0xFFFF || (s.firstHop k).isNone

/-- A request sent: at its first sending its counter rises as its packet is put on its port. One without a TAG, or of a device
without a node id, is not sent (02/R33, R45, R48) (one point DESIGN CHOICE, log entry 15). -/
def State.transmit (s : State) (r0 : Req) : State :=
  match if s.node = 0xFFFF then none else s.firstHop r0.pkt, s.tagged r0 with
  | none, _ | _, none => s
  | some p, some r =>
    let r' : Req := { r with sentAt := s.time.ns, sends := r.sends + 1 }
    let reqs := putBy (fun x => x.dst == r.dst && x.tag == r.tag) r' s.fabric.reqs
    let s1 := { s with fabric := { s.fabric with reqs := reqs } }
    let s2 := if r.sends = 0 && counted r.pkt then s1.ackStep r.why (· + 1) else s1
    s2.enqueue p r.pkt

/-- A RELIABLE request begun: it gets a TAG and is sent, or waits behind an earlier one to its line. `false` when it
completes at once as UNROUTABLE (02/R33, R43): the device has no node id or no port reaches the node. -/
def State.request (s : State) (k : Packet) (why : ReqFor) : State × Bool × Nat :=
  if s.unroutable k then (s, false, 0)
  else
    let tag := s.freeTag k.dst
    let k' := sealPkt { k with src := s.node, tag := tag }
    let r : Req := { dst := k.dst, tag := tag, pkt := k', sentAt := s.time.ns, sends := 0, why := why }
    if s.lineWaits k || decide (tagSpace ≤ tag) then ({ s with fabric := { s.fabric with reqs := s.fabric.reqs ++ [r] } }, true, tag)
    else (s.transmit r, true, tag)

/-- Requests that waited behind an answered one are sent when their line is free; `l` is scanned in order. -/
def State.kick (s : State) : List Req → State
  | [] => s
  | r :: l =>
    let ahead := s.fabric.reqs.takeWhile fun x => !(x.dst == r.dst && x.tag == r.tag)
    if r.sends = 0 && !(ahead.any fun x => waitsBehind r.pkt x.pkt)
    then State.kick (s.transmit r) l else State.kick s l

/-- An unsent or unanswered request stands in a group's or a context's counter. -/
def State.unsent (s : State) (f : ReqFor → Bool) : Bool := s.fabric.reqs.any fun r => r.sends == 0 && f r.why

/-- A LOSSY write sent: never answered, never counted (02/R48); not sent by a device without a node id (02/R33). -/
def State.sendLossy (s : State) (k : Packet) : State :=
  if s.node = 0xFFFF then s
  else
    match s.firstHop k with
    | none => s
    | some p => s.enqueue p (sealPkt { k with src := s.node })

/-! ## Packets the device makes -/

/-- A WRITE of up to 256 bytes (02/R38). -/
def writePkt (dst addr ctx bmask : Nat) (hot : Bool) (data : List Byte) : Packet :=
  { dst := dst, src := 0, typ := 0x03, cls := 0, len := (data.length + 31) / 32, hot := hot, rsv := false, tag := 0
    addr := addr, ctx := ctx, bmask := bmask, aux := 0, etag := 0, data := data }

/-- A WRITE of a few bytes within one flit's 32 bytes: the flit at its aligned address with a byte mask. -/
def smallWrite (dst pa ctx : Nat) (hot : Bool) (l : List Byte) : Packet :=
  writePkt dst (pa / 32 * 32) ctx (maskBits (pa % 32) l.length) hot
    (leBytes 32 (leNat l * 2 ^ (8 * (pa % 32))))

/-- A READ of `flits` flits (02/R38). -/
def readPkt (dst addr ctx flits : Nat) (hot : Bool) : Packet :=
  { dst := dst, src := 0, typ := 0x01, cls := 0, len := 0, hot := hot, rsv := false, tag := 0, addr := addr, ctx := ctx
    bmask := allBytes, aux := flits, etag := 0, data := [] }

/-- An ATOMIC of one element (17/R375). -/
def atomicPkt (dst addr ctx : Nat) (hot red : Bool) (op : AtOp) (ty : Tag) (b c : Nat) : Packet :=
  { dst := dst, src := 0, typ := 0x05, cls := 0, len := 1, hot := hot, rsv := false, tag := 0, addr := addr, ctx := ctx
    bmask := allBytes, aux := op.code + 8 * ty.code + (if red then 128 else 0), etag := 0
    data := leBytes 8 b ++ leBytes 8 (if op = .cas then c else 0) ++ zeros 16 }

/-- A CREDIT (02/R38). -/
def creditPkt (dst addr ctx bytes : Nat) (hot : Bool := false) : Packet :=
  { dst := dst, src := 0, typ := 0x08, cls := 0, len := 0, hot := hot, rsv := false, tag := 0, addr := addr, ctx := ctx
    bmask := allBytes, aux := bytes, etag := 0, data := [] }

end Sys2Proof.Machine
end

