-- ==== Sys2Proof/Machine/L1.lean ====
section
/-! DEFINITION. The L1 of a core (05/R116 to R123): lines, write-back and its attribution, replacement, update-only
lines, the actions of releases and acquires (05/R117), SFX (04/R104), and the sticky fabric-write error (02/R49). -/

namespace Sys2Proof.Machine

/-- All 128 bytes of a line. -/
def fullMask : Nat := 2 ^ 128 - 1

/-! ## SFX and the sticky error -/

/-- SFX set for the teams named (04/R104). -/
def State.setSfx (s : State) (l : List Nat) : State :=
  { s with teams := editBy (fun t => l.contains t.id) (fun t => { t with sfx := true }) s.teams }

/-- The address of a group block in a save area (12/R280). -/
def saveGroup (base : Nat) (tm : Team) (gi : Nat) : Nat :=
  base + 4096 + tm.scratch + 16 * 16384 + 16 * 8192 + gi * 40960

/-- The sticky fabric-write error of one group set; an evicted group's also in its save area (02/R49). -/
def State.stickGroup (s : State) (team gi : Nat) : State :=
  let s1 := s.editGroup team gi fun g => { g with sticky := true }
  let tm := s.team team
  match tm.state, tm.save with
  | .evicted, some (b, _) => { s1 with mem := memWrite s1.mem (saveGroup b tm gi + 38912 + 14) [1#8] }
  | _, _ => s1

/-- The error set in every group of the context resident on the core or evicted from it (02/R49). -/
def State.stickCtx (s : State) (core ctx : Nat) : State :=
  (s.teams.filter fun t => t.core == core && (s.grid t.grid).ctx == ctx && (t.state == .resident || t.state == .evicted)).foldl
    (fun s t => (List.range t.groups.length).foldl (fun s g => s.stickGroup t.id g) s) s

/-- A failed plain store, reduction or write-back (02/R49). -/
def State.stick (s : State) (why : ReqFor) : State :=
  match why with
  | .store tm g => s.stickGroup tm g
  | .wbGroup tm g _ _ _ => s.stickGroup tm g
  | .wbCtx core ctx _ => s.stickCtx core ctx
  | _ => s

/-! ## Lines -/

/-- The line of a core's L1. -/
def State.line? (s : State) (core ctx line : Nat) : Option L1Line :=
  s.l1.find? fun l => l.core == core && l.ctx == ctx && l.line == line
/-- The state with a line put in its place. -/
def State.setLine (s : State) (l : L1Line) : State :=
  { s with l1 := putBy (fun x => x.core == l.core && x.ctx == l.ctx && x.line == l.line) l s.l1 }
/-- The state without a line. -/
def State.dropLine (s : State) (core ctx line : Nat) : State :=
  { s with l1 := dropBy (fun x => x.core == core && x.ctx == ctx && x.line == line) s.l1 }

/-! ## Busy lines (05/R118) -/

/-- A line lies in one of some ranges of addresses. -/
def inRanges (l : List (Nat × Nat)) (line : Nat) : Bool := l.any fun r => decide (128 * line < r.2) && decide (r.1 < 128 * line + 128)

/-- The core on whose behalf a request was sent. -/
def State.reqCore (s : State) (why : ReqFor) : Option Nat :=
  match why with
  | .op i => (s.ops.find? fun o => o.id == i).map (·.tid.core)
  | .store tm _ => some (s.team tm).core
  | .wbGroup _ _ core _ _ | .wbCtx core _ _ => some core
  | .cmd i | .credit i => (s.cmds.find? fun c => c.id == i).map (·.core)
  | .record _ | .word _ => none

/-- A command of the core will write the line: it has not completed and the line lies in its ranges. -/
def State.cmdWrites (s : State) (core ctx line : Nat) : Bool :=
  s.cmds.any fun c => c.core == core && c.ctx == ctx && c.state != .finished && inRanges c.ranges line
/-- A fabric write of the core to a line of a node is not yet acknowledged. -/
def State.writeOut (s : State) (core node pa : Nat) : Bool :=
  s.fabric.reqs.any fun r => r.pkt.typ == 0x03 && r.dst == node && r.pkt.addr / 128 == pa / 128 && s.reqCore r.why == some core
/-- A virtual line of a core is busy: for a command's duration, or until its outgoing write is acknowledged. -/
def State.busyAt (s : State) (core ctx line apt node pa : Nat) : Bool :=
  s.cmdWrites core ctx line || (apt != 0 && s.writeOut core node pa)
/-- A line of an L1 is busy. -/
def State.lineBusy (s : State) (l : L1Line) : Bool := s.busyAt l.core l.ctx l.line l.apt l.node l.pa
/-- A fill of the line is outstanding: the core has asked its home for it. -/
def State.lineFilling (s : State) (l : L1Line) : Bool :=
  l.apt != 0 && s.fabric.reqs.any fun r => r.pkt.typ == 0x01 && r.dst == l.node && r.pkt.addr / 128 == l.pa / 128 && s.reqCore r.why == some l.core

/-- A request of a write-back: its failure at the sender sets the sticky error at once (02/R33, R49). -/
def State.wbRequest (s : State) (k : Packet) (why : ReqFor) : State :=
  let r := s.request k why
  if r.2.1 then r.1 else r.1.stick why

/-- The flits of a line that hold dirty bytes, sent as WRITEs of one flit with a byte mask (02/R37). -/
def State.wbFlits (s : State) (l : L1Line) (why : ReqFor) : Nat → State
  | 0 => s
  | n + 1 =>
    let s1 := State.wbFlits s l why n
    let m := bitsAt l.dirty (32 * n) 32
    if m = 0 then s1
    else s1.wbRequest (writePkt l.node (l.pa + 32 * n) l.ctx m l.hot (lineRead l.data (32 * n) 32)) why

/-- Dirty bytes that are uncorrectable have no value to write: their home's line becomes uncorrectable, and another node's is not
written, which is a failed fabric write (06/R151) (DESIGN CHOICE, log entry 103). -/
def State.writeBackBad (s : State) (l : L1Line) (why : ReqFor) : State :=
  if l.apt = 0 then (s.recall (l.pa / 128)).spoil (l.pa / 128) else s.stick why

/-- The dirty bytes of a line written to its home (05/R116). The home is a slice for a LOCAL page, another node for a
remote one; the line is then busy until the answers come (05/R118). A write-back that is neither a release's nor FLUSHL's is
attributed to every group of the context: `who` is none (02/R49). -/
def State.writeBack (s : State) (l : L1Line) (who : Option (Nat × Nat)) : State :=
  if l.dirty = 0 then s
  else
    let s1 := (s.setSfx l.stored).setLine { l with dirty := 0, stored := [] }
    let why : ReqFor :=
      match who with
      | some (tm, g) => .wbGroup tm g l.core l.ctx l.line
      | none => .wbCtx l.core l.ctx l.line
    if l.bad then s1.writeBackBad l why
    else if l.apt = 0 then (s1.homeWriteLine l.ctx (l.pa / 128) l.data l.dirty l.comp).1
    else if l.dirty = fullMask then s1.wbRequest (writePkt l.node l.pa l.ctx allBytes l.hot (lineRead l.data 0 128)) why
    else s1.wbFlits l why 4

/-- A line written back and dropped. -/
def State.evictLine (s : State) (l : L1Line) (who : Option (Nat × Nat)) : State :=
  (s.writeBack l who).dropLine l.core l.ctx l.line

/-- The lines that meet a test written back. -/
def State.writeBackAll (s : State) (p : L1Line → Bool) (who : Option (Nat × Nat)) : State :=
  (s.l1.filter p).foldl (fun s l => s.writeBack l who) s
/-- The lines that meet a test written back and dropped. -/
def State.evictAll (s : State) (p : L1Line → Bool) (who : Option (Nat × Nat)) : State :=
  (s.l1.filter p).foldl (fun s l => s.evictLine l who) s

/-! ## Update-only lines (05/R119) -/

/-- The update line of a core. -/
def State.upd? (s : State) (core ctx line : Nat) : Option UpdLine :=
  s.upd.find? fun u => u.core == core && u.ctx == ctx && u.line == line
/-- The update lines that meet a test merged at their homes, in order (05/R120). -/
def State.mergeAll (s : State) (p : UpdLine → Bool) : State :=
  ({ s with upd := dropBy p s.upd }).applyUpds (s.upd.filter p)
/-- The core's update line of a line merged first, before a plain access or an ATOM of the core (05/R119). -/
def State.mergeOwn (s : State) (core ctx line : Nat) : State :=
  s.mergeAll fun u => u.core == core && u.ctx == ctx && u.line == line

/-! ## Replacement (05/R122, R123) -/

/-- The set of a line: VA[13:7]. -/
def l1Set (line : Nat) : Nat := line % 128

/-- A candidate to leave a set: its rank (invalid first, then priority, then age) and what it is. -/
structure Victim where
  invalid : Bool
  prio : Nat
  used : Nat
  isUpd : Bool
  ctx : Nat
  line : Nat
  deriving DecidableEq, Repr

/-- The order of R123. -/
def victimLess (a b : Victim) : Bool :=
  (a.invalid && !b.invalid) || (a.invalid == b.invalid &&
    (decide (a.prio < b.prio) || (decide (a.prio = b.prio) && decide (a.used < b.used))))
/-- The first of least rank. -/
def leastVictim : List Victim → Option Victim
  | [] => none
  | a :: l =>
    match leastVictim l with
    | none => some a
    | some b => if victimLess b a then some b else some a

/-- The ways of a set in use. -/
def State.waysUsed (s : State) (core set : Nat) : Nat :=
  (s.l1.filter fun l => l.core == core && l1Set l.line == set).length +
  (s.upd.filter fun u => u.core == core && l1Set u.line == set).length

/-- The ways a victim may be taken from: not busy, no fill outstanding. -/
def State.victims (s : State) (core set : Nat) : List Victim :=
  ((s.l1.filter fun l => l.core == core && l1Set l.line == set && !s.lineBusy l && !s.lineFilling l).map fun l =>
    { invalid := l.valid == 0, prio := l.prio, used := l.used, isUpd := false, ctx := l.ctx, line := l.line }) ++
  ((s.upd.filter fun u => u.core == core && l1Set u.line == set).map fun u =>
    { invalid := false, prio := u.prio, used := u.used, isUpd := true, ctx := u.ctx, line := u.line })

/-- Room made in a line's set, evicting a victim if every way is in use; `none` when every way is busy or filling
(05/R123). -/
def State.makeRoom (s : State) (core line : Nat) : Option State :=
  if s.waysUsed core (l1Set line) < 8 then some s
  else
    match leastVictim (s.victims core (l1Set line)) with
    | none => none
    | some v =>
      if v.isUpd then some (s.mergeOwn core v.ctx v.line)
      else
        match s.line? core v.ctx v.line with
        | none => some s
        | some l => some (s.evictLine l none)

/-- The priority after an access with a hint (05/R122). -/
def hintPrio (h : Hint) (p : Nat) : Nat :=
  match h with
  | .none => p
  | .evf => if p = 3 then 3 else 0
  | .evl => 3
/-- The priority of a fill (05/R122). -/
def fillPrio (h : Hint) : Nat := hintPrio h 1
/-- The priority of a refill of a line that is still there: set afresh, but for 3, which it keeps until it is evicted (05/R122). -/
def refillPrio (h : Hint) (p : Nat) : Nat := if p = 3 then 3 else fillPrio h

/-! ## Releases and acquires (05/R117) -/

/-- The scope's place among the scopes. -/
def scopeRank (s : Scope) : Nat := s.code

/-- The L1 action of a release by a group: dirty bytes of the context written back at CL and wider, the core's update
lines merged at PN and wider. -/
def State.releaseL1 (s : State) (core ctx : Nat) (sc : Scope) (who : Option (Nat × Nat)) : State :=
  let s1 := if 3 ≤ scopeRank sc then s.writeBackAll (fun l => l.core == core && l.ctx == ctx) who else s
  if 4 ≤ scopeRank sc then s1.mergeAll fun u => u.core == core else s1

/-- The L1 action of an acquire: at CL and wider, the valid bits of every byte that is not dirty are cleared. What the core's
reads under way then bring may be older than what the acquire orders before it, so it enters no cache (11/R251). -/
def State.acquireL1 (s : State) (core ctx : Nat) (sc : Scope) : State :=
  if 3 ≤ scopeRank sc then
    { s with
      ops := editBy (fun o => o.tid.core == core && s.ctxOf (s.thread o.tid) == ctx)
        (fun o => { o with acc := o.acc.map fun a => { a with stale := true } }) s.ops
      l1 := editBy (fun l => l.core == core && l.ctx == ctx) (fun l => { l with valid := l.valid &&& l.dirty }) s.l1 }
  else s

/-- A group's release at SY may be performed: its acknowledgement counter and the core's counter for the context are
zero, no request of theirs is still unsent, and no store that another group of the context sent from the core, which the
thread may have read there, is unanswered (11/R252, R257; 02/R48). -/
def State.acksClear (s : State) (core ctx team gi : Nat) : Bool :=
  (s.group team gi).ack == 0 &&
  ((s.core core).ctxAck.find? fun x => x.1 == ctx).isNone &&
  !(s.fabric.reqs.any fun r =>
    match r.why with
    | .store tm _ => (s.team tm).core == core && (s.grid (s.team tm).grid).ctx == ctx
    | .wbGroup _ _ c x _ => c == core && x == ctx
    | _ => false) &&
  !(s.unsent fun w =>
    match w with
    | .record _ | .word _ => false
    | .store tm g => tm == team && g == gi
    | .wbGroup tm g _ _ _ => tm == team && g == gi
    | .wbCtx c x _ => c == core && x == ctx
    | .op i => (s.ops.find? fun o => o.id == i).any fun o => (s.thread o.tid).team == team && o.tid.slot == (s.team team).slots.getD gi 64
    | .cmd i => (s.cmds.find? fun c => c.id == i).any fun c => c.team == team && c.group == gi
    | .credit i => (s.cmds.find? fun c => c.id == i).any fun c => c.team == team && c.group == gi)

/-- A counter of PERFQ kept per group raised (19/R426): selector 8 + k. -/
def State.countGroup (s : State) (team gi k n : Nat) : State :=
  s.editGroup team gi fun g => { g with perf := bump g.perf k (fun x => (x + n) % 2 ^ 64) }

end Sys2Proof.Machine
end

