-- ==== Sys2Proof/Machine/Translate.lean ====
section
/-! DEFINITION. Address translation (06/R132 to R141): the table walk, the cluster TLBs, the reverse map, TLBINV, and
the steps TABLE_WALK and TLBINV_*. -/

namespace Sys2Proof.Machine

/-- A translation: the physical address, the leaf's fields and the level it was found at. -/
structure Xlat where
  pa : Nat
  node : Nat
  apt : Nat
  w : Bool
  x : Bool
  rap : Bool
  comp : Bool
  hot : Bool
  cache : Nat
  level : Nat
  leaf : DWord
  deriving DecidableEq, Repr

/-- The bits of an address below a level's page size (06/R133). -/
def pageBits (level : Nat) : Nat := if level = 1 then 42 else if level = 2 then 29 else 16

/-- A leaf applied to an address (06/R133, R135). -/
def leafXlat (level : Nat) (leaf : DWord) (va : Nat) : Xlat :=
  let b := pageBits level
  { pa := fld leaf 12 36 / 2 ^ (b - 16) * 2 ^ b + va % 2 ^ b
    node := fld leaf 48 16, apt := fld leaf 4 3, w := fld leaf 2 1 == 1, x := fld leaf 3 1 == 1, rap := fld leaf 7 1 == 1
    comp := fld leaf 8 1 == 1 && fld leaf 4 3 == 0, hot := fld leaf 9 1 == 1, cache := fld leaf 10 2, level := level
    leaf := leaf }

/-- The result of a walk: a leaf and its level, or a cause. -/
inductive Walk where
  | leaf (level : Nat) (e : DWord)
  | fault (cause : Nat)
  deriving DecidableEq, Repr

/-- A leaf is malformed (06/R136). -/
def leafBad (level : Nat) (e : DWord) : Bool :=
  fld e 10 2 == 3 || decide (6 ≤ fld e 4 3) ||
  (level == 1 && fld e 12 26 != 0) || (level == 2 && fld e 12 13 != 0)
/-- A table entry is malformed: a field of R134 that is zero is not (06/R136). -/
def tableBad (e : DWord) : Bool := fld e 2 10 != 0 || fld e 48 16 != 0

/-- The walk from a table at a level (06/R133, R136); each entry is read through its home slice. -/
def State.walkGo (s : State) (va : Nat) : Nat → Nat → Nat → State × Walk
  | 0, _, _ => (s, .fault 0x11)
  | n + 1, level, table =>
    let b := pageBits level
    let i := bitsAt va b 13
    let r := s.homeRead (table + 8 * i) 8
    match r.2 with
    | none => (r.1, .fault 0x17)
    | some l =>
      let e : DWord := BitVec.ofNat 64 (leNat l)
      if fld e 0 1 = 0 then (r.1, .fault 0x10)
      else if fld e 1 1 = 1 then (r.1, if leafBad level e then .fault 0x11 else .leaf level e)
      else if level = 3 || tableBad e then (r.1, .fault 0x11)
      else State.walkGo r.1 va n (level + 1) (fld e 12 36 * 65536)

/-- The whole walk of a context's address from the context table (06/R138). -/
def State.walk (s : State) (ctx va : Nat) : State × Walk :=
  if fld s.sys.ctxtab 0 1 = 0 then (s, .fault 0x10)
  else
    let r := s.homeRead (fld s.sys.ctxtab 15 37 * 32768 + 8 * ctx) 8
    match r.2 with
    | none => (r.1, .fault 0x17)
    | some l =>
      let e : DWord := BitVec.ofNat 64 (leNat l)
      if fld e 0 1 = 0 then (r.1, .fault 0x10)
      else if fld e 1 11 ≠ 0 ∨ fld e 48 16 ≠ 0 then (r.1, .fault 0x11)
      else r.1.walkGo va 3 1 (fld e 12 36 * 65536)

/-! ## TLB (06/R139) -/

/-- The TLB entry of a cluster that covers an address. -/
def State.tlb? (s : State) (cluster ctx va : Nat) : Option TlbEntry :=
  s.tlb.find? fun e => e.cluster == cluster && e.ctx == ctx && e.vpn == va / 2 ^ pageBits e.level

/-- The list without its least recently used element of a cluster. -/
def oldestTlb (l : List TlbEntry) : Option TlbEntry :=
  match l with
  | [] => none
  | a :: r =>
    match oldestTlb r with
    | none => some a
    | some b => if b.used < a.used then some b else some a

/-- A leaf entered in a cluster's TLB, the least recently used entry leaving when 4,096 are held. -/
def State.tlbFill (s : State) (cluster ctx va level : Nat) (leaf : DWord) : State :=
  let e : TlbEntry :=
    { cluster := cluster, ctx := ctx, level := level, vpn := va / 2 ^ pageBits level, leaf := leaf, used := s.time.cyc }
  let mine := s.tlb.filter fun x => x.cluster == cluster
  let kept :=
    if mine.length < 4096 then s.tlb
    else
      match oldestTlb mine with
      | none => s.tlb
      | some o => dropBy (fun x => x == o) s.tlb
  { s with tlb := putBy (fun x => x.cluster == cluster && x.ctx == ctx && x.level == level && x.vpn == e.vpn) e kept }

/-! ## Reverse map (06/R141) -/

/-- The key of a 64 KiB frame: local frames by number, remote ones with their node. -/
def frameKey (x : Xlat) : Nat := if x.apt = 0 then x.pa / 65536 else (x.node + 1) * 2 ^ 36 + x.pa / 65536

/-- The lines of an alias in a cluster's four L1s are written back and dropped. -/
def State.dropAlias (s : State) (cluster ctx page : Nat) : State :=
  let s1 := s.mergeAll fun u => clusterOf u.core == cluster && u.ctx == ctx && u.line / 512 == page
  s1.evictAll (fun l => clusterOf l.core == cluster && l.ctx == ctx && l.line / 512 == page) none

/-- The least recently used entry of a reverse map. -/
def oldestRev (l : List RevEntry) : Option RevEntry :=
  match l with
  | [] => none
  | a :: r =>
    match oldestRev r with
    | none => some a
    | some b => if b.used < a.used then some b else some a

/-- The reverse map of a cluster names an alias for a frame (06/R141). -/
def State.revNames (s : State) (cluster ctx page key : Nat) : Bool :=
  s.rev.any fun r => r.cluster == cluster && r.frame == key && r.ctx == ctx && r.page == page

/-- The frame's entry made to name this alias; lines of another alias leave first (06/R141). -/
def State.revUse (s : State) (cluster ctx va : Nat) (x : Xlat) : State :=
  let key := frameKey x
  let page := va / 65536
  let e : RevEntry := { cluster := cluster, frame := key, ctx := ctx, page := page, used := s.time.cyc }
  match s.rev.find? fun r => r.cluster == cluster && r.frame == key with
  | some r =>
    let s1 := if r.ctx = ctx ∧ r.page = page then s else s.dropAlias cluster r.ctx r.page
    { s1 with rev := putBy (fun r => r.cluster == cluster && r.frame == key) e s1.rev }
  | none =>
    let mine := s.rev.filter fun r => r.cluster == cluster
    if mine.length < 4096 then { s with rev := s.rev ++ [e] }
    else
      match oldestRev mine with
      | none => { s with rev := s.rev ++ [e] }
      | some o =>
        let s1 := s.dropAlias cluster o.ctx o.page
        { s1 with rev := dropBy (fun r => r == o) s1.rev ++ [e] }

/-- A page's lines may enter the L1: cached, and of an aperture that does not bypass it (06/R135). -/
def Xlat.cached (x : Xlat) : Bool := x.cache == 0 && decide (x.apt < 4)

/-- A translation's use of the reverse map (06/R141): lines of another alias leave and the entry is rewritten, whether or not the
page is cached; a frame without an entry gets one where its lines may enter the L1. -/
def State.revTouch (s : State) (cluster ctx va : Nat) (x : Xlat) : State :=
  if 4 ≤ x.apt then s
  else if x.cached || (s.rev.any fun r => r.cluster == cluster && r.frame == frameKey x && !(r.ctx == ctx && r.page == va / 65536)) then
    s.revUse cluster ctx va x
  else s

/-! ## Translation -/

/-- An address of a context translated at a cluster (06/R139): the TLB, else a walk that fills it. Bits [63:55] must be
zero (05/R107). -/
def State.translate (s : State) (cluster ctx va : Nat) : State × Except Nat Xlat :=
  if 2 ^ 55 ≤ va then (s, .error 0x14)
  else
    match s.tlb? cluster ctx va with
    | some e =>
      let s1 := { s with tlb := editBy (fun x => x == e) (fun x => { x with used := s.time.cyc }) s.tlb }
      let x := leafXlat e.level e.leaf va
      (s1.revTouch cluster ctx va x, .ok x)
    | none =>
      let r := s.walk ctx va
      match r.2 with
      | .fault c => (r.1, .error c)
      | .leaf level leaf =>
        let x := leafXlat level leaf va
        let s1 := r.1.tlbFill cluster ctx va level leaf
        (s1.revTouch cluster ctx va x, .ok x)

/-- The translation of a thread's access; a miss is counted for its group (19/R426). -/
def State.translateFor (s : State) (t : Thread) (va : Nat) : State × Except Nat Xlat :=
  let cl := clusterOf t.id.core
  let miss := (s.tlb? cl (s.ctxOf t) va).isNone
  let s1 := if miss then s.countGroup t.team (groupIndex (s.teamOf t) t.id.slot) 2 1 else s
  s1.translate cl (s.ctxOf t) va

/-! ## Invalidation (06/R140) -/

/-- An L1 line lies in a page. -/
def lineIn (size vpn line : Nat) : Bool :=
  let b := if size = 0 then 16 else if size = 1 then 29 else 42
  line * 128 / 2 ^ b == vpn * 65536 / 2 ^ b
/-- A TLB entry covers any address of a page. -/
def entryIn (size vpn : Nat) (e : TlbEntry) : Bool :=
  let b := if size = 0 then 16 else if size = 1 then 29 else 42
  let m := max b (pageBits e.level)
  e.vpn * 2 ^ pageBits e.level / 2 ^ m == vpn * 65536 / 2 ^ m

/-- Every cluster's TLB drops the entries that meet a test, and every core writes back, merges and drops the lines that
meet another (06/R140). -/
def State.invalidate (s : State) (pe : TlbEntry → Bool) (pl : Nat → Nat → Bool) : State :=
  let s1 := (s.mergeAll fun u => pl u.ctx u.line).evictAll (fun l => pl l.ctx l.line) none
  { s1 with tlb := dropBy pe s1.tlb, rev := dropBy (fun r => pl r.ctx (r.page * 512)) s1.rev }

/-- What an invalidation names: whether a context's table entry, and whether a context's line. -/
def Inval.names (i : Inval) (ctx : Nat) : Bool := i.mode == 2 || i.ctx == ctx
/-- The drops and write-backs of an invalidation (06/R140). -/
def State.invalidateFor (s : State) (i : Inval) : State :=
  s.invalidate (fun e => i.names e.ctx && (i.mode != 0 || entryIn i.size i.vpn e)) (fun c l => i.names c && (i.mode != 0 || lineIn i.size i.vpn l))

/-- An invalidation begun: its drops and write-backs are made, and it stands until it retires (06/R140). -/
def State.beginInval (s : State) (mode size ctx vpn : Nat) (move : Option Migration) : State :=
  let i : Inval := { id := s.fresh, mode := mode, size := size, ctx := ctx, vpn := vpn, move := move }
  let s1 := s.invalidateFor i
  { s1 with invs := s1.invs ++ [i], fresh := s1.fresh + 1 }

/-- TLBINV MODE 0: one page of SIZE (06/R140); SIZE 3 has no effect. -/
def execTlbinvPage (size ctx vpn : Nat) (s : State) : Out :=
  if size < 3 then .next (s.beginInval 0 size ctx vpn none) else .next s

/-- TLBINV MODE 1: one context (06/R140). -/
def execTlbinvContext (ctx : Nat) (s : State) : Out := .next (s.beginInval 1 0 ctx 0 none)

/-- TLBINV MODE 2: all contexts (06/R140). -/
def execTlbinvAll (s : State) : Out := .next (s.beginInval 2 0 0 0 none)

/-- An invalidation may retire (06/R140): no engine command of a context it names has a request out, sent or not, whose address
an old entry may have given. The drops and the walks are each done within a step, and between steps a command holds a translation
in its requests alone (one point DEDUCED, log entry 85). -/
def State.invReady (s : State) (i : Inval) : Bool :=
  !(s.fabric.reqs.any fun r =>
    match r.why with
    | .cmd k | .credit k => s.cmds.any fun c => c.id == k && i.names c.ctx
    | _ => false)

/-- A migrated page mapped again (06/R150): its new leaf is written and the page invalidated, and what faulted on it meanwhile is
replayed (DESIGN CHOICE, log entry 41). -/
def State.endMigration (s : State) (i : Inval) : State :=
  match i.move with
  | none => s
  | some m =>
    let s1 := (s.homeWrite i.ctx m.place (leBytes 8 m.leaf.toNat) false).1
    let b := pageBits m.level
    let waits := s1.reports.filter fun r => r.key.ctx == i.ctx && r.key.cause == 0x10 && r.key.page * 65536 / 2 ^ b == m.va / 2 ^ b
    (waits.foldl (fun s r => s.due (.reportReplay r.key)) s1).beginInval 0 (3 - m.level) i.ctx (m.va / 65536) none

/-- TLBINV_RETIRE: the oldest invalidation that may retires (06/R140) (one point DEDUCED, log entry 85). -/
def execTlbinvRetire (s : State) : Out :=
  match s.invs.find? s.invReady with
  | none => .next s
  | some i => .next ({ s with invs := dropBy (fun x => x.id == i.id) s.invs }.endMigration i)

/-- A walk for a cluster's miss (06/R133, R139): its leaf is entered in the TLB; a fault enters nothing
(one point DEDUCED, log entry 84). -/
def execTableWalk (cluster ctx va : Nat) (s : State) : Out := .next (s.translate cluster ctx va).1

end Sys2Proof.Machine
end

