-- ==== Sys2Proof/Machine/Access.lean ====
section
/-! DEFINITION. One element of a thread's access to virtual memory or the register window: load, store, ATOM and RED
through the L1, at the home, over the fabric and through the window (05/R107 to R121, 06/R149, R150, 17/R368 to R375). -/

namespace Sys2Proof.Machine

/-! ## The register window (05/R109, R110) -/

/-- What a window offset names. -/
inductive WinTarget where
  | reg (t : Tid) (n : Nat)
  | scr (team off : Nat)
  | refused
  deriving DecidableEq, Repr

/-- The team whose group holds a slot of a core, resident or evicted with its slots kept (04/R102). -/
def State.teamAtSlot (s : State) (core slot : Nat) : Option Team :=
  s.teams.find? fun t => t.core == core && t.slots.contains slot && (t.state == .resident || t.state == .evicted)

/-- The team whose scratchpad holds a byte of a core's partition. -/
def State.teamAtGranule (s : State) (core off : Nat) : Option Team :=
  s.teams.find? fun t => t.core == core && (t.state == .resident || t.state == .evicted) &&
    decide (16384 * t.gran ≤ off) && decide (off < 16384 * t.gran + t.scratch)

/-- The target of a window offset of an access of n bytes (05/R109, R110); `ctx` is the accessing context, or none for
the fabric, which is checked by the inbound table alone. -/
def State.winTarget (s : State) (ctx : Option Nat) (off n : Nat) : WinTarget :=
  let core := bitsAt off 22 10
  if (n ≠ 4 ∧ n ≠ 8) ∨ off % n ≠ 0 then .refused
  else if bitsAt off 21 1 = 0 then
    let slot := bitsAt off 15 6
    match s.teamAtSlot core slot with
    | none => .refused
    | some tm =>
      let nr := ((tm.groups[groupIndex tm slot]?).map fun g => g.role.nr).getD 0
      if (ctx.isSome && ctx != some (s.grid tm.grid).ctx) || decide (nr ≤ bitsAt off 7 8) then .refused
      else .reg { core := core, slot := slot, lane := bitsAt off 2 5 } (bitsAt off 7 8)
  else if bitsAt off 20 1 = 1 then .refused
  else
    let o := bitsAt off 0 20
    match s.teamAtGranule core o with
    | none => .refused
    | some tm =>
      if (ctx.isSome && ctx != some (s.grid tm.grid).ctx) || decide (o - 16384 * tm.gran < 16384) then .refused
      else .scr tm.id (o - 16384 * tm.gran)

/-- A team is placed: resident, or evicted with its slots and granules kept. -/
def Team.placed (tm : Team) : Bool := tm.state == .resident || tm.state == .evicted

/-- A thread stands at a clause boundary: in header position, or it has exited (one point DEDUCED, log entry 10). -/
def Thread.atBoundary (t : Thread) : Bool := t.clause.isNone || !t.live
/-- The thread's registers are those of a clause boundary: it stands at one, or has issued no instruction of its clause yet,
such as at a BAR that begins it (05/R111) (one point DEDUCED, log entry 10). -/
def Thread.asAtBoundary (t : Thread) : Bool := t.atBoundary || t.clause.any fun c => c.idx == 0

/-- The register's place in a save image (12/R280): value and tag nibble. -/
def saveReg (base : Nat) (tm : Team) (t : Tid) (n : Nat) : Nat := saveGroup base tm (groupIndex tm t.slot) + 128 * n + 4 * t.lane
def saveTag (base : Nat) (tm : Team) (t : Tid) (n : Nat) : Nat :=
  saveGroup base tm (groupIndex tm t.slot) + 32768 + 16 * n + t.lane / 2

/-- A tag nibble of a tag array: low nibble for even lanes. -/
def tagNibble (b : Byte) (lane : Nat) : Nat := bitsAt b.toNat (lane % 2 * 4) 4
/-- The byte with a lane's nibble replaced. -/
def setNibble (b : Byte) (lane v : Nat) : Byte :=
  BitVec.ofNat 8 (b.toNat - tagNibble b lane * 2 ^ (lane % 2 * 4) + v % 16 * 2 ^ (lane % 2 * 4))

/-- The save base of an evicted team. -/
def Team.image (tm : Team) : Option Nat := if tm.state = .evicted then tm.save.map (·.1) else none

/-- Register n of the owner may be read now: the owner stands at a clause boundary, or it is evicted; at the first instruction of a
clause it holds what it held at the boundary, unless a window write to it has reached the core since (05/R111). -/
def State.ownerSettled (s : State) (t : Tid) (n : Nat) : Bool :=
  let x := s.thread t
  x.atBoundary || (x.asAtBoundary && !(x.win.any fun w => w.n == n)) || (s.team x.team).image.isSome

/-- A register's value after a write of some of its bits (one point DEDUCED, log entry 79). -/
def WinWrite.into (w : WinWrite) (v : Word) : Word := (v &&& ~~~w.mask) ||| (w.v &&& w.mask)

/-- A register write performed on the save image of an evicted team (04/R100) (one point DEDUCED, log entry 87). -/
def State.imageWrite (s : State) (b : Nat) (tm : Team) (t : Tid) (w : WinWrite) : State :=
  let a := saveReg b tm t w.n
  let ta := saveTag b tm t w.n
  let new := w.into (BitVec.ofNat 32 (leNat (memRead s.mem a 4)))
  { s with mem := memWrite (memWrite s.mem a (wordBytes new)) ta [setNibble (memGet s.mem ta) t.lane w.tag.code] }

/-- A write that reaches the owner's register from outside: queued for its next clause boundary (05/R111), performed at
once for an exited owner, and performed on the save image of an evicted team (04/R100). One to v0 to v15 of a thread at level E
is queued for the frame copy (12/R269). -/
def State.ownerWrite (s : State) (t : Tid) (w : WinWrite) : State :=
  let th := s.thread t
  let tm := s.team th.team
  let framed : Bool := th.live && decide (0 < th.depth) && decide (w.n < 16)
  match (if framed then none else tm.image) with
  | some b =>
    -- what waited for the register goes first
    (((th.win.filter fun x => x.n == w.n) ++ [w]).foldl (fun s x => s.imageWrite b tm t x) s).editThread t fun x =>
      { x with win := dropBy (fun y => y.n == w.n) x.win }
  | none =>
    if th.live then s.editThread t fun x => { x with win := x.win ++ [w] }
    else s.editThread t fun x => x.setReg w.n (w.into (x.reg w.n).1) w.tag

/-- An owner's register as a reader outside sees it at a clause boundary: with the window writes that have reached the core, which
take effect there (05/R111, 11/R258); of an evicted team, in the save image. -/
def State.ownerRead (s : State) (t : Tid) (n : Nat) : Word :=
  let th := s.thread t
  let tm := s.team th.team
  let v := match tm.image with
    | some b => BitVec.ofNat 32 (leNat (memRead s.mem (saveReg b tm t n) 4))
    | none => (th.reg n).1
  th.win.foldl (fun v w => if w.n = n then w.into v else v) v

/-- A store of n bytes through the window: each 4-byte half of a register region reaches its own lane, with tag RAW
(05/R111). `false` when it is refused. -/
def State.winStore (s : State) (ctx : Option Nat) (off : Nat) (l : List Byte) : State × Bool :=
  match s.winTarget ctx off l.length with
  | .refused => (s, false)
  | .scr tm o => (s.scrWrite tm o l, true)
  | .reg t n =>
    let w0 : WinWrite := { n := n, v := BitVec.ofNat 32 (leNat (l.take 4)), mask := 0xFFFFFFFF#32, tag := .raw, pkt := 0 }
    let s1 := s.ownerWrite t w0
    if l.length = 8 then
      let w1 : WinWrite := { n := n, v := BitVec.ofNat 32 (leNat (l.drop 4)), mask := 0xFFFFFFFF#32, tag := .raw, pkt := 0 }
      (s1.ownerWrite { t with lane := t.lane + 1 } w1, true)
    else (s1, true)

/-- A load through the window that needs no clause boundary: scratchpad, or registers read as they stand; `none` when it is refused or
its line is uncorrectable. -/
def State.winLoad (s : State) (ctx : Option Nat) (off n : Nat) : Option (List Byte) :=
  match s.winTarget ctx off n with
  | .refused => none
  | .scr tm o => if (s.team tm).scrLost o n then none else some (s.scrRead tm o n)
  | .reg t r =>
    let lo := wordBytes (s.ownerRead t r)
    some (if n = 8 then lo ++ wordBytes (s.ownerRead { t with lane := t.lane + 1 } r) else lo)

/-! ## Results -/

/-- What a load of one element gives: its bytes, a fabric request to wait for, a window register to read at its owner's
boundary, or a fault with the value of `ow8`–`ow9`. -/
inductive LoadRes where
  | bytes (l : List Byte)
  | fabric (dst tag : Nat)
  | window (t : Tid) (n count : Nat)
  | fault (cause : Nat) (value : DWord)
  /-- It is performed later. -/
  | late
  deriving DecidableEq, Repr

/-- What a store of one element gives. -/
inductive StoreRes where
  | ok
  | fault (cause : Nat) (value : DWord)
  deriving DecidableEq, Repr

/-- The faulting VA as `ow8`–`ow9` show it. -/
def vaValue (va : Nat) : DWord := BitVec.ofNat 64 va

/-- The team and the group of a thread. -/
def State.who (s : State) (t : Thread) : Nat × Nat := (t.team, groupIndex (s.teamOf t) t.id.slot)

/-! ## Loads -/

/-- A line as an access of a translation allocates it, with no byte valid. -/
def lineNew (core ctx va : Nat) (x : Xlat) (prio used : Nat) : L1Line :=
  { core := core, ctx := ctx, line := va / 128, pa := x.pa / 128 * 128, node := x.node, apt := x.apt, w := x.w
    comp := x.comp, hot := x.hot, valid := 0, dirty := 0, data := 0, level := x.level, leaf := x.leaf, prio := prio, used := used
    bad := false, stored := [] }

/-- The translation that filled or allocated a line, for an address in it: an access that hits the line needs no other
(05/R116, 06/R139). -/
def L1Line.xlat (l : L1Line) (va : Nat) : Xlat :=
  { leafXlat l.level l.leaf va with pa := l.pa + va % 128, node := l.node, apt := l.apt, w := l.w, comp := l.comp, hot := l.hot }

/-- A line filled from its home: its invalid bytes take the home's, its valid bytes are kept (05/R116). Data without a dirty byte
is replaced whole, so that an uncorrectable clean line is good again. -/
def State.fillLine (s : State) (core ctx va : Nat) (x : Xlat) (data : Nat) (hint : Hint) : State :=
  let line := va / 128
  match s.line? core ctx line with
  | some l =>
    s.setLine { l with data := lineMerge data l.data l.valid 128, valid := fullMask, used := s.time.cyc
                       prio := refillPrio hint l.prio, w := x.w, level := x.level, leaf := x.leaf, bad := l.bad && l.valid != 0 }
  | none =>
    match s.makeRoom core line with
    | none => s
    | some s1 =>
      s1.setLine { lineNew core ctx va x (fillPrio hint) s1.time.cyc with valid := fullMask, data := data }

/-- A load of n bytes of one element from the home of a translation: a slice, a request to another node, the register window, or
a device (05/R110, R116, R123; 06/R135, R148, R151; 02/R49). `fill` is the state with a line that has come from its home. `op` is
the long operation that a fabric response will complete, and `size` the bytes of the whole access, which a window page refuses
above 8. -/
def State.farLoad (s : State) (t : Thread) (va n size op : Nat) (x : Xlat) (lines : Bool) (fill : State → Nat → State) : State × LoadRes :=
  let ctx := s.ctxOf t
  if x.apt = 0 then
    if lines then
      let h := s.homeRead (x.pa / 128 * 128) 128 x.comp
      match h.2 with
      | none => (h.1, .fault 0x17 (vaValue va))
      | some l => ((fill h.1 (lineOf l)).noAlloc s x.cache x.pa false, .bytes (lineRead (lineOf l) (va % 128) n))
    else
      let h := s.homeRead x.pa n x.comp
      match h.2 with
      | none => (h.1, .fault 0x17 (vaValue va))
      | some l => (h.1.noAlloc s x.cache x.pa false, .bytes l)
  else if x.apt ≤ 3 then
    let k := if lines then readPkt x.node (x.pa / 128 * 128) ctx 4 x.hot else readPkt x.node (x.pa / 32 * 32) ctx 1 x.hot
    let q := s.request k (.op op)
    if q.2.1 then (q.1, .fabric x.node q.2.2) else (q.1, .fault 0x14 (vaValue va))
  else if x.apt = 4 then
    match if 8 < size then .refused else s.winTarget (some ctx) (va % 2 ^ 32) n with
    | .refused => (s, .fault 0x14 (vaValue va))
    | .scr tm o => if (s.team tm).scrLost o n then (s, .fault 0x17 (vaValue va)) else (s, .bytes (s.scrRead tm o n))
    | .reg w m => (s, .window w m (n / 4))
  else (s, .bytes (leBytes n (s.freeWord (va % 65536)).toNat))

/-- A load of one element of `G` or `P` (05/R116, R119, R123; 06/R148, R151; 02/R49). `op` is the long operation that a fabric
response will complete. A load that misses is performed later where the line has to come over a link that is retraining (01/R12),
or, where `later` allows it, if the device so chooses (11/R247; log entry 4). -/
def State.gLoad (s : State) (t : Thread) (va n : Nat) (hint : Hint) (op : Nat) (size : Nat := n) (later : Bool := false) :
    State × LoadRes :=
  let core := t.id.core
  let ctx := s.ctxOf t
  let who := s.who t
  let s0 := s.mergeOwn core ctx (va / 128)
  let hit := match s0.line? core ctx (va / 128) with
    | some l => if bitsAt l.valid (va % 128) n = 2 ^ n - 1 ∧ va < 2 ^ 55 then some l else none
    | none => none
  match hit with
  | some l =>
    let s1 := s0.setLine { l with used := s.time.cyc, prio := hintPrio hint l.prio }
    (s1.countGroup who.1 who.2 0 1, if l.bad then .fault 0x17 (vaValue va) else .bytes (lineRead l.data (va % 128) n))
  | none =>
    let s1 := s0.countGroup who.1 who.2 1 1
    let r := s1.translateFor t va
    match r.2 with
    | .error c => (r.1, .fault c (vaValue va))
    | .ok x =>
      if x.apt == 0 && (r.1.homeWaits (x.pa / 128) || (later && r.1.freeBit (2048 + va % 16384))) then (r.1, .late)
      else
        let q := r.1.farLoad t va n size op x x.cached fun s d => s.fillLine core ctx va x d hint
        -- a line that has some valid bytes already gives those, even where its home gives others
        match q.2, q.1.line? core ctx (va / 128) with
        | .bytes b, some f =>
          (q.1, if !x.cached then .bytes b else if f.bad then .fault 0x17 (vaValue va) else .bytes (lineRead f.data (va % 128) n))
        | _, _ => q

/-- A load of the space `W`: its offset is decoded without translation (17/R365, 05/R109, R110). -/
def State.wLoad (s : State) (t : Thread) (off n : Nat) : LoadRes :=
  let value := BitVec.ofNat 64 ((s.ctx (s.ctxOf t)).wincfg.toNat / 2 ^ 32 * 2 ^ 32 + off)
  match s.winTarget (some (s.ctxOf t)) off n with
  | .refused => .fault 0x14 value
  | .scr tm o => if (s.team tm).scrLost o n then .fault 0x17 value else .bytes (s.scrRead tm o n)
  | .reg w m => .window w m (n / 4)

/-! ## Stores -/

/-- Bytes performed in an L1 line: valid and dirty, noted for the team (05/R116). -/
def lineStore (l : L1Line) (off : Nat) (b : List Byte) (team cyc : Nat) (hint : Hint) : L1Line :=
  { l with data := lineWrite l.data off b, valid := l.valid ||| maskBits off b.length
           dirty := l.dirty ||| maskBits off b.length, used := cyc, prio := hintPrio hint l.prio
           stored := if l.stored.contains team then l.stored else l.stored ++ [team] }

/-- Bytes written through to their home: a slice, or another node as a WRITE whose failure is sticky (02/R49). -/
def State.writeThrough (s : State) (t : Thread) (x : Xlat) (b : List Byte) : State :=
  let who := s.who t
  let s1 := s.setSfx [t.team]
  if x.apt = 0 then (s1.homeWrite (s.ctxOf t) x.pa b x.comp).1.noAlloc s1 x.cache x.pa true
  else s1.wbRequest (smallWrite x.node x.pa (s.ctxOf t) x.hot b) (.store who.1 who.2)

/-- A store that hits a line: performed in it, or where it is busy written through as well (05/R116, R118). One to a line whose data
is uncorrectable is not performed and is reported (06/R152). -/
def State.storeHit (s : State) (t : Thread) (l : L1Line) (va : Nat) (b : List Byte) (hint : Hint) : State :=
  let new := lineStore l (va % 128) b t.team s.time.cyc hint
  if l.bad then s.due (.uncorrectableWriteReport l.pa l.ctx)
  else if !s.lineBusy l then (s.setLine new).latchWaits
  else
    -- written through, so not dirty
    ((s.setLine { new with dirty := l.dirty, stored := l.stored }).writeThrough t (l.xlat va) b).latchWaits

/-- A store of one element of `G` or `P` (05/R110, R116, R118, R119, R123; 06/R139, R142) (one point DEDUCED, log entry 91). -/
def State.gStore (s : State) (t : Thread) (va : Nat) (b : List Byte) (hint : Hint) (size : Nat := b.length) : State × StoreRes :=
  let core := t.id.core
  let ctx := s.ctxOf t
  let who := s.who t
  let s0 := s.mergeOwn core ctx (va / 128)
  let line := if va < 2 ^ 55 then s0.line? core ctx (va / 128) else none
  match line with
  | some l =>
    if l.w then ((s0.countGroup who.1 who.2 0 1).storeHit t l va b hint, .ok)
    else
      let r := s0.translateFor t va
      match r.2 with
      | .error c => (r.1, .fault c (vaValue va))
      | .ok x =>
        if !x.w then (r.1, .fault 0x12 (vaValue va))
        else
          match r.1.line? core ctx (va / 128) with
          | some l2 => (r.1.storeHit t { l2 with w := true, level := x.level, leaf := x.leaf } va b hint, .ok)
          | none => (r.1.writeThrough t x b, .ok)
  | none =>
    let s1 := s0.countGroup who.1 who.2 1 1
    let r := s1.translateFor t va
    match r.2 with
    | .error c => (r.1, .fault c (vaValue va))
    | .ok x =>
      if !x.w then (r.1, .fault 0x12 (vaValue va))
      else if x.apt = 4 then
        let q := if 8 < size then (r.1, false) else r.1.winStore (some ctx) (va % 2 ^ 32) b
        if q.2 then (q.1.setSfx [t.team], .ok) else (q.1, .fault 0x14 (vaValue va))
      else if x.apt = 5 then (r.1, .ok)
      else if x.cached && !r.1.busyAt core ctx (va / 128) x.apt x.node x.pa then
        match r.1.makeRoom core (va / 128) with
        | none => ((r.1.writeThrough t x b).latchWaits, .ok)
        | some s2 =>
          ((s2.setLine (lineStore (lineNew core ctx va x (fillPrio hint) s.time.cyc) (va % 128) b t.team s.time.cyc .none)).latchWaits, .ok)
      else ((r.1.writeThrough t x b).latchWaits, StoreRes.ok)

/-- A store of the space `W` (17/R365, 05/R111). -/
def State.wStore (s : State) (t : Thread) (off : Nat) (b : List Byte) : State × StoreRes :=
  let value := BitVec.ofNat 64 ((s.ctx (s.ctxOf t)).wincfg.toNat / 2 ^ 32 * 2 ^ 32 + off)
  let q := s.winStore (some (s.ctxOf t)) off b
  if q.2 then (q.1.setSfx [t.team], .ok) else (q.1, .fault 0x14 value)

/-! ## Atomics and reductions -/

/-- The L1 action before an ATOM leaves the core: the line's dirty bytes are written back and the line dropped
(05/R117). It is neither a release nor FLUSHL, so the write-back is every group's of the context (02/R49). -/
def State.yieldLine (s : State) (t : Thread) (va : Nat) : State :=
  match s.line? t.id.core (s.ctxOf t) (va / 128) with
  | some l => s.evictLine l none
  | none => s

/-- The translation of an ATOM or a RED: a line it hits whose W bit is set has it already (05/R116, 06/R139). -/
def State.atomXlat (s : State) (t : Thread) (va : Nat) : State × Except Nat Xlat :=
  match if va < 2 ^ 55 then s.line? t.id.core (s.ctxOf t) (va / 128) else none with
  | some l => if l.w then (s, .ok (l.xlat va)) else s.translateFor t va
  | none => s.translateFor t va

/-- An ATOM on one element of `G` or `P` (17/R373, 06/R149, R150). -/
def State.gAtom (s : State) (t : Thread) (va : Nat) (op : AtOp) (ty : Tag) (b c : Nat) (id : Nat) : State × LoadRes :=
  let ctx := s.ctxOf t
  let n := atWidth ty / 8
  let r := s.atomXlat t va
  match r.2 with
  | .error e => (r.1, .fault e (vaValue va))
  | .ok x =>
    if !x.w then (r.1, .fault 0x12 (vaValue va))
    else if 4 ≤ x.apt then (r.1, .fault 0x14 (vaValue va))
    else if x.apt = 0 ∧ r.1.homeWaits (x.pa / 128) then (r.1, .late)
    else
      let s1 := (r.1.yieldLine t va).setSfx [t.team]
      if x.apt = 0 then
        let s2 := s1.mergeOwn t.id.core ctx (va / 128)
        let q := s2.homeAtom ctx x.pa op ty b c x.comp
        match q.2 with
        | none => (q.1, .fault 0x17 (vaValue va))
        | some old => (q.1.noAlloc s2 x.cache x.pa true, .bytes (leBytes n old))
      else if !x.rap then (r.1, .fault 0x16 x.leaf)
      else
        let q := s1.request (atomicPkt x.node x.pa ctx x.hot false op ty b c) (.op id)
        if q.2.1 then (q.1, .fabric x.node q.2.2) else (q.1, .fault 0x14 (vaValue va))

/-- A 64-bit ATOM or RED in `P` (17/R365, 05/R114): word i and word i + 1 of the lane lie 128 bytes apart, and one action
at their homes reads and writes both. `none` where a page is not `LOCAL`: an ATOMIC packet carries one address
(one point DESIGN CHOICE, log entry 11). -/
def State.pairAtom (s : State) (t : Thread) (va : Nat) (op : AtOp) (ty : Tag) (b c : Nat) : Option (State × LoadRes) :=
  let ctx := s.ctxOf t
  let core := t.id.core
  let r := s.atomXlat t va
  match r.2 with
  | .error e => some (r.1, .fault e (vaValue va))
  | .ok x =>
    let r2 := r.1.atomXlat t (va + 128)
    match r2.2 with
    | .error e => some (r2.1, .fault e (vaValue (va + 128)))
    | .ok y =>
      if !x.w then some (r2.1, .fault 0x12 (vaValue va))
      else if !y.w then some (r2.1, .fault 0x12 (vaValue (va + 128)))
      else if x.apt ≠ 0 ∨ y.apt ≠ 0 then none
      else if r2.1.homeWaits (x.pa / 128) || r2.1.homeWaits (y.pa / 128) then some (r2.1, .late)
      else
        let s1 := ((r2.1.yieldLine t va).yieldLine t (va + 128)).setSfx [t.team]
        let s2 := (s1.mergeOwn core ctx (va / 128)).mergeOwn core ctx ((va + 128) / 128)
        let lo := s2.homeRead x.pa 4 x.comp
        let hi := lo.1.homeRead y.pa 4 y.comp
        match lo.2, hi.2 with
        | some l, some h =>
          let old := leNat (l ++ h)
          let new := leBytes 8 (atomNew op ty old b c)
          let s3 := (hi.1.homeWrite ctx x.pa (new.take 4) x.comp).1.noAlloc s2 x.cache x.pa true
          some ((s3.homeWrite ctx y.pa (new.drop 4) y.comp).1.noAlloc s2 y.cache y.pa true, .bytes (leBytes 8 old))
        | none, _ => some (hi.1, .fault 0x17 (vaValue va))
        | _, none => some (hi.1, .fault 0x17 (vaValue (va + 128)))

/-- A contribution combined into an update line of its key (05/R119). -/
def updCombine (u : UpdLine) (off : Nat) (v cyc : Nat) (hint : Hint) : UpdLine :=
  let n := atWidth u.ty / 8
  let old := bitsAt u.data (8 * off) (8 * n)
  { u with data := u.data - old * 2 ^ (8 * off) + atomNew u.op u.ty old v 0 * 2 ^ (8 * off), used := cyc, prio := hintPrio hint u.prio }
/-- An update line with every element at the identity (05/R119). -/
def updNew (core ctx va : Nat) (x : Xlat) (op : AtOp) (ty : Tag) (used : Nat) : UpdLine :=
  let w := atWidth ty
  { core := core, ctx := ctx, line := va / 128, pa := x.pa / 128 * 128, comp := x.comp, op := op, ty := ty, mask := fullMask
    data := ((List.range (1024 / w)).map fun k => redIdentity op ty * 2 ^ (w * k)).sum, prio := 1, used := used }

/-- A contribution of a determinism-mode F32 ADD held at the home slice (05/R121): a full buffer first applies what it
holds for the line, and the event is counted. One that finds nothing held for its line is held beyond the 1,024 entries
(DESIGN CHOICE, log entry 104). -/
def State.detAdd (s : State) (t : Thread) (pa v : Nat) : State :=
  let slice := sliceOf pa
  let held := (s.l2.det.filter fun d => d.slice == slice).length
  let s1 :=
    if held < 1024 then s
    else
      let n := satAdd (2 ^ 32 - 1) (fld s.sys.detstat 0 32) 1
      (({ s with sys := { s.sys with detstat := BitVec.ofNat 64 n } }).flushDet (pa / 128))
  let d : DetEntry :=
    { slice := slice, pa := pa, ctx := s.ctxOf t, team := (s.teamOf t).num, index := s.teamIndex t, count := t.reds, v := BitVec.ofNat 32 v }
  { s1 with l2 := { s1.l2 with det := s1.l2.det ++ [d] } }

/-- A RED that hits no update line of its key (05/R116, R119, R121, R123; 06/R149, R150). A plain copy of the line in the core's own
L1 leaves first, so that the thread's later reads see the contribution (11/R246). -/
def State.redMiss (s : State) (t : Thread) (va : Nat) (op : AtOp) (ty : Tag) (b : Nat) (hint : Hint) (det : Bool) : State × StoreRes :=
  let core := t.id.core
  let ctx := s.ctxOf t
  let who := s.who t
  let line := va / 128
  let r := s.atomXlat t va
  match r.2 with
  | .error e => (r.1, .fault e (vaValue va))
  | .ok x =>
    if !x.w then (r.1, .fault 0x12 (vaValue va))
    else if 4 ≤ x.apt then (r.1, .fault 0x14 (vaValue va))
    else if x.apt ≠ 0 ∧ !x.rap then (r.1, .fault 0x16 x.leaf)
    else
      let s1 := ((r.1.yieldLine t va).setSfx [t.team]).editThread t.id fun z => { z with reds := z.reds + 1 }
      if x.apt ≠ 0 then (s1.wbRequest (atomicPkt x.node x.pa ctx x.hot true op ty b 0) (.store who.1 who.2), .ok)
      else if det then (s1.detAdd t x.pa b, .ok)
      else
        let new := updCombine { updNew core ctx va x op ty s.time.cyc with prio := fillPrio hint } (va % 128) b s.time.cyc .none
        let one : UpdLine := { new with mask := maskBits (va % 128) (atWidth ty / 8) }
        if !x.cached then ((s1.applyUpd one).noAlloc s1 x.cache x.pa true, .ok)
        else
          let s2 := s1.mergeOwn core ctx line
          match s2.makeRoom core line with
          | none => (s2.applyUpd one, .ok)
          | some s3 => (({ s3 with upd := s3.upd ++ [new] }).registerHolder (x.pa / 128) core, .ok)

/-- A RED on one element of `G` or `P` (17/R374): a contribution to the core's update line of its key, or to a new one. -/
def State.gRed (s : State) (t : Thread) (va : Nat) (op : AtOp) (ty : Tag) (b : Nat) (hint : Hint) : State × StoreRes :=
  let core := t.id.core
  let ctx := s.ctxOf t
  let line := va / 128
  let counted := fun (s : State) => s.editThread t.id fun z => { z with reds := z.reds + 1 }
  let det : Bool := (s.gridOf t).determ && ty == .f32 && op == .add
  match if det ∨ 2 ^ 55 ≤ va then none else s.upd? core ctx line with
  | some u =>
    if u.op = op ∧ u.ty = ty then
      -- a hit of an update line needs no translation
      let upds := putBy (fun z => z.core == core && z.ctx == ctx && z.line == line) (updCombine u (va % 128) b s.time.cyc hint) s.upd
      (counted ({ s with upd := upds }.setSfx [t.team]), .ok)
    else s.redMiss t va op ty b hint det
  | none => s.redMiss t va op ty b hint det

/-- The line of another node asked for by a prefetch: it enters the L1 when it comes, and nothing else comes of it (17/R371). The
operation that waits for it is dead: it has no destination and no flag, and no fault. -/
def State.prefetchFar (s : State) (t : Thread) (va : Nat) (x : Xlat) (hint : Hint) : State :=
  let r := s.request (readPkt x.node (x.pa / 128 * 128) (s.ctxOf t) 4 x.hot) (.op s.fresh)
  if r.2.1 then
    let acc : Acc :=
      { sp := .g, elems := [(0, va)], elem := 1, kind := .load false, ty := .raw, ord := .none, sc := .th, hint := hint, d := 255
        data := [], team := t.team, pc := t.pc, words := [], len := .l64, clause := t.clause, age := s.fresh }
    let o : LongOp :=
      { id := s.fresh, tid := t.id, depth := t.depth, flag := none, writes := [], astat := 0#6, src := .fabric x.node r.2.2
        acc := some acc, dead := true }
    { r.1 with ops := r.1.ops ++ [o], fresh := s.fresh + 1 }
  else s

/-- A prefetch into the L1 or the home slice (17/R371): no architectural effect, no fault. -/
def State.prefetch (s : State) (t : Thread) (va : Nat) (l2 : Bool) (hint : Hint) : State :=
  let r := s.translateFor t va
  match r.2 with
  | .error _ => s
  | .ok x =>
    if x.apt ≠ 0 then (if l2 || !x.cached then s else r.1.prefetchFar t va x hint)
    else if l2 then (if x.cache = 2 then s else r.1.noteLine (x.pa / 128) x.comp false)
    else if !x.cached || r.1.homeWaits (x.pa / 128) then s
    else
      let h := r.1.homeRead (x.pa / 128 * 128) 128 x.comp
      match h.2 with
      | none => s
      | some l => h.1.fillLine t.id.core (s.ctxOf t) va x (lineOf l) hint

end Sys2Proof.Machine
end

