-- ==== Sys2Proof/Machine/Operands.lean ====
section
/-! DEFINITION. The operand forms of instructions: guards (14/R313), permuted sources (14/R315), register ranges
(05/R113), typed sources (08/R199, R200), pending destinations (14/R312), roles and levels (04/R80, 19/R414). -/

namespace Sys2Proof.Machine

/-! ## What one lane meets at an instruction -/

/-- What one executing lane meets: its effect as register writes and status bits, with or without a transfer of
control; a trap with its cause, DETAIL and value of `ow8`–`ow9`; a wait at issue; or a blocking point. -/
inductive Lane where
  | done (w : List RegCell) (st : Status)
  | jump (w : List RegCell) (target : Nat)
  | trap (cause detail : Nat) (value : Option DWord)
  | hold
  /-- It waits because of a pending entry of the operand log, or a full log (06/R144, R145). -/
  | logHold
  /-- It completes and issues nothing until a count (15/R340). -/
  | pause (til : Nat)
  | block (w : Wait) (got : Option DWord)
  /-- The state already holds the thread as the instruction leaves it. -/
  | asIs
  deriving DecidableEq, Repr

/-- It waits at issue. -/
def Lane.waits : Lane → Bool
  | .hold | .logHold => true
  | _ => false

/-- One register written. -/
def wr (n : Nat) (x : Nat) (tag : Tag) : List RegCell := [{ n := n, v := BitVec.ofNat 32 x, tag := tag }]
/-- A pair written, unless its field is 255 (14/R307). -/
def wrPair (n : Nat) (x : Nat) (tag : Tag) : List RegCell :=
  if n = 255 then []
  else [{ n := n, v := BitVec.ofNat 32 x, tag := tag }, { n := n + 1, v := BitVec.ofNat 32 (x / 4294967296), tag := tag }]
/-- A register or a pair written. -/
def wrAny (pair : Bool) (n : Nat) (x : Nat) (tag : Tag) : List RegCell := if pair then wrPair n x tag else wr n x tag
/-- Registers from a number on written, one value each. -/
def wrFrom (n : Nat) (tag : Tag) : List Nat → List RegCell
  | [] => []
  | x :: l => { n := n, v := BitVec.ofNat 32 x, tag := tag } :: wrFrom (n + 1) tag l
/-- A run of registers written, unless its field is 255 (one point DEDUCED, log entry 82). -/
def wrRun (n : Nat) (tag : Tag) (l : List Nat) : List RegCell := if n = 255 then [] else wrFrom n tag l

/-! ## Sources and destinations -/

/-- One vector-register operand: its field (0 D, 1 A, 2 B, 3 C), its first register, how many registers it reaches,
its permutation, and the format it is typed with, if any. -/
structure Src where
  f : Nat
  n : Nat
  c : Nat
  perm : Perm
  want : Option Tag
  deriving DecidableEq, Repr

/-- An untyped single register. -/
def srcR (f n : Nat) (q : Perm) : Src := { f := f, n := n, c := 1, perm := q, want := none }
/-- An untyped pair. -/
def srcP (f n : Nat) (q : Perm) : Src := { f := f, n := n, c := 2, perm := q, want := none }
/-- A typed source: a pair for a 64-bit format, else one register. -/
def srcT (f n : Nat) (q : Perm) (t : Tag) : Src := { f := f, n := n, c := if t.is64 then 2 else 1, perm := q, want := some t }
/-- A run of registers without a permutation. -/
def srcN (f n c : Nat) (t : Option Tag) : Src := { f := f, n := n, c := c, perm := noPerm, want := t }

/-- The registers of an operand that are out of range for a role of NR registers (05/R113). A field of 255 is `vz`, alone or as a
pair or a run; a run that begins below and reaches 255 is out of range there. -/
def Src.bads (x : Src) (nr : Nat) : List Nat :=
  if x.n = 255 then [] else (((List.range x.c).map fun i => x.n + i).filter fun n => decide (nr ≤ n))
/-- The first of them. -/
def Src.bad (x : Src) (nr : Nat) : Option Nat := (x.bads nr).head?

/-- The position in its subgroup whose register a permuted operand reads (14/R315). -/
def permPos (q : Perm) (g p : Nat) : Nat :=
  match q.kind with
  | .none => p
  | .rot => (p + q.k) % g
  | .bcast => q.k
  | .bfly => p ^^^ q.k
  | .mirror => g - 1 - p

/-- The subgroup size of an instruction for a thread (14/R314). -/
def State.gSize (s : State) (t : Thread) (p : Pre) : Nat := sgSize (s.width t) p.sg

/-- The thread an operand is read from. -/
def State.permSrc (s : State) (t : Thread) (p : Pre) (q : Perm) : Thread :=
  match q.kind with
  | .none => t
  | _ =>
    let g := s.gSize t p
    let a := s.spacePos t
    s.thread (s.atSpace t (a / g * g + permPos q g (a % g)))

/-- Register i of an operand, as the lane reads it. A pair of 255 reads as zero throughout. -/
def State.srcReg (s : State) (t : Thread) (p : Pre) (x : Src) (i : Nat) : Word × Tag :=
  s.readReg (s.permSrc t p x.perm) (if x.n = 255 then 255 else x.n + i)
/-- An operand's value as a number: one register, or a pair. -/
def State.srcVal (s : State) (t : Thread) (p : Pre) (x : Src) : Nat :=
  if x.c = 2 then (s.srcReg t p x 0).1.toNat + 4294967296 * (s.srcReg t p x 1).1.toNat else (s.srcReg t p x 0).1.toNat
/-- An operand's tag. -/
def State.srcTag (s : State) (t : Thread) (p : Pre) (x : Src) : Tag := (s.srcReg t p x 0).2

/-! ## Format checks (08/R199) -/

/-- The width class of an integer format, by which a check accepts the other signedness. -/
def intClass : Tag → Nat
  | .s8 | .n8 => 1
  | .s16 | .n16 => 2
  | .s32 | .n32 => 3
  | .s64 | .n64 => 4
  | _ => 0

/-- A tag passes a check against a format. -/
def tagPasses (want have_ : Tag) : Bool :=
  have_ == .raw || (have_ == want && have_ != .foreign) || (intClass want != 0 && intClass want == intClass have_)

/-- The failing tags of an operand's registers, each with its field (08/R199). -/
def State.badTags (s : State) (t : Thread) (p : Pre) (x : Src) : List (Tag × Nat) :=
  match x.want with
  | none => []
  | some w => (((List.range x.c).map fun i => (s.srcReg t p x i).2).filter fun y => !tagPasses w y).map fun y => (y, x.f)

/-- One of several values where the spec does not say which (log entry 4). -/
def State.oneOf (s : State) (t : Thread) (l : List Nat) : Option Nat :=
  match l with
  | [] => none
  | [x] => some x
  | x :: _ => some (l.getD ((s.freeWord (256 + t.id.lane)).toNat % l.length) x)

/-- The format fault of a lane (08/R200): cause 0x30 before 0x31 (12/R267); DETAIL names a failing tag and its field
(12/R271). -/
def State.formatFault (s : State) (t : Thread) (p : Pre) (l : List Src) : Option Lane :=
  let bad := l.flatMap fun x => s.badTags t p x
  let code := fun (f : Bool) => ((bad.filter fun y => (y.1 == .foreign) == f).map fun y => y.1.code * 256 + y.2).eraseDups
  match s.oneOf t (code false) with
  | some d => some (.trap 0x30 d none)
  | none => (s.oneOf t (code true)).map fun d => .trap 0x31 d none

/-! ## Roles (04/R80) -/

/-- The rows of the role table. -/
inductive RoleRow where
  | any | vector | matrix | engine | levelE
  deriving DecidableEq, Repr

/-- A role kind may issue a row: 1 `COPY`, 2 `MATRIX`, 3 `VECTOR`, 4 `GENERAL`. -/
def RoleRow.allows (r : RoleRow) (kind : Nat) : Bool :=
  match r with
  | .any | .levelE => true
  | .vector => kind == 3 || kind == 4
  | .matrix => kind == 2 || kind == 4
  | .engine => kind == 1 || kind == 4

/-- The privilege and role check of a lane: 0x06 for an instruction of level E at level U, 0x07 outside the role. -/
def State.roleFault (s : State) (t : Thread) (r : RoleRow) : Option Lane :=
  if t.levelE then none
  else
    match r with
    | .levelE => some (.trap 0x06 0 none)
    | _ => if r.allows (s.roleOf t).kind then none else some (.trap 0x07 0 none)

/-- The register-range fault of a lane (05/R113); DETAIL names a register that faulted (12/R271). -/
def State.rangeFault (s : State) (t : Thread) (l : List Src) : Option Lane :=
  (s.oneOf t ((l.flatMap fun x => x.bads (s.nrOf t)).eraseDups)).map fun n => .trap 0x08 n none

/-- A register of the destinations has a write pending, so the lane waits at issue (14/R312). -/
def State.destPending (s : State) (t : Thread) (l : List Src) : Bool :=
  l.any fun x => (List.range x.c).any fun i => s.writePending t (if x.n = 255 then 255 else x.n + i)

/-- The checks that come before an instruction forms addresses: level and role, register ranges (destinations, then
sources), and pending destinations. `none` when it may go on. -/
def State.preGate (s : State) (t : Thread) (r : RoleRow) (dsts srcs : List Src) : Option Lane :=
  match s.roleFault t r with
  | some x => some x
  | none =>
    match s.rangeFault t (dsts ++ srcs) with
    | some x => some x
    | none => if s.destPending t dsts then some .hold else none

/-- The checks before an instruction's own effect in one lane: those of `preGate`, then formats, whose causes are higher
(12/R267). -/
def State.gate (s : State) (t : Thread) (p : Pre) (r : RoleRow) (dsts srcs : List Src) : Option Lane :=
  match s.preGate t r dsts srcs with
  | some x => some x
  | none => s.formatFault t p (dsts ++ srcs)

/-! ## Guards (14/R313) -/

/-- The guard of an instruction in one lane: a fault for a predicate register out of range, or whether it passes. -/
def State.guard (s : State) (t : Thread) (p : Pre) : Except Lane Bool :=
  if !p.ge then .ok true
  else
    let r := (t.clause.map (·.pred)).getD 255
    if r ≠ 255 ∧ s.nrOf t ≤ r then .error (.trap 0x08 r none)
    else .ok (getBit (s.readReg t r).1 p.gb != p.gn)

/-! ## Addresses (17/R365) -/

/-- An address formed from a base and an offset, or the cause that forming it raises. Spaces `G` and `C` wrap at 64 bits; in `W`
an access of more than 8 bytes is refused (05/R110, 17/R367) (one point DEDUCED, log entry 98). -/
def formAddr (sp : Space) (base : Nat) (off : Int) (size scratch priv_ : Nat) (winEn : Bool) : Except Nat Nat :=
  match sp with
  | .g | .c =>
    let va := wrapTo 64 ((base : Int) + off)
    .ok va
  | .s =>
    let o := (base : Int) + off
    if o < 16384 ∨ o + size > scratch then .error 0x09 else .ok o.toNat
  | .p =>
    let i := (base : Int) + off
    if i < 0 ∨ i + size / 4 > priv_ then .error 0x0A else .ok i.toNat
  | .w =>
    let o := (base : Int) + off
    if o < 0 ∨ o + size > 4294967296 ∨ !winEn ∨ 8 < size then .error 0x14 else .ok o.toNat

end Sys2Proof.Machine
end

