-- ==== Sys2Proof/Machine/Ops.lean ====
section
/-! DEFINITION. The shared operations of every instruction: how an issue runs over its lanes (12/R265, 14/R313, R316),
how the issue entry goes on (04/R92), long-latency operations (14/R310 to R312), ending a grid (03/R64), and taking an
exception: parking, the frame, the operand window and the handler's first state (12/R265 to R277). -/

namespace Sys2Proof.Machine

/-! ## An issue over its lanes -/

/-- An instruction has a permuted operand, and is then convergent (14/R316). -/
def permuted (p : Pre) : Bool := p.pa.kind != .none || p.pb.kind != .none || p.pc.kind != .none

/-- A broadcast or butterfly whose k is outside the subgroup (14/R315). -/
def Perm.beyond (q : Perm) (g : Nat) : Bool := (q.kind == .bcast || q.kind == .bfly) && decide (g ≤ q.k)

/-- Values that the declared width makes reserved: a subgroup size above it (14/R314), or a k outside the subgroup
(R315). -/
def State.tooWide (s : State) (t : Thread) (p : Pre) : Bool :=
  let g := s.gSize t p
  decide (s.width t < g) || Perm.beyond p.pa g || Perm.beyond p.pb g || Perm.beyond p.pc g

/-- The thread counts as standing at an instruction (14/R316). -/
def Thread.standsAt (t : Thread) (pc : Nat) : Bool :=
  t.pc == pc && t.clause.isSome &&
  (match t.run with
   | .ready => true
   | .held => true
   | .blocked (.converge _) _ _ => true
   | _ => false)

/-- Every non-exited thread of the thread's subgroup of size g stands at its instruction (14/R316). -/
def State.stands (s : State) (t : Thread) (g : Nat) : Bool :=
  (s.subgroup t g).all fun q => let x := s.thread q; !x.live || x.standsAt t.pc

/-- A group of a core is in the active set, wholly in the fast file (04/R87, R88). -/
def Core.holds (c : Core) (slot : Nat) : Bool :=
  (c.active.any fun x => x.1 == slot) && !(c.moves.any fun m => m.slot == slot && m.into)
/-- A group of a core is leaving the active set (04/R88). -/
def Core.leaving (c : Core) (slot : Nat) : Bool := c.moves.any fun m => m.slot == slot && !m.into

/-- A group is parked whole for one of its threads on the management-core path (12/R277). -/
def State.groupParked (s : State) (core slot : Nat) : Bool :=
  s.threads.any fun t => t.id.core == core && t.id.slot == slot && (match t.run with | .mgmt _ => true | _ => false)

/-- A thread may issue now where it stands: its group is in the active set, or in its last clause there, and its team is not being
evicted (04/R87, R88, R98). -/
def State.mayIssue (s : State) (t : Thread) : Bool :=
  let c := s.core t.id.core
  (s.teamOf t).state == .resident && !(s.teamOf t).leaving && c.holds t.id.slot && (!c.leaving t.id.slot || t.clause.isSome) &&
  !s.groupParked t.id.core t.id.slot

/-- The subgroup may issue as a whole: the other home group that it reaches into may issue too (04/R87). -/
def State.awake (s : State) (t : Thread) (g : Nat) : Bool :=
  (s.subgroup t g).all fun q => let x := s.thread q; !x.live || q.slot == t.id.slot || s.mayIssue x
/-- A convergent instruction issues for the thread's subgroup. -/
def State.converged (s : State) (t : Thread) (g : Nat) : Bool := s.stands t g && s.awake t g

/-- The threads that take part when the issue converges: the issue's own, and the rest of each complete subgroup. -/
def State.convGroup (s : State) (g : Thread → Nat) : List Tid :=
  (s.issue.flatMap fun i =>
    let t := s.thread i
    if s.converged t (g t) then i :: ((s.subgroup t (g t)).filter fun q => (s.thread q).live) else [i]).eraseDups

/-- The record of a trap in one lane (12/R271) (one point DEDUCED, log entry 92). -/
def State.trapRec (s : State) (p : Pre) (gv : Bool) (t : Thread) (cause detail : Nat) (value : Option DWord) : TrapRec :=
  { cause := cause, detail := detail, value := value, words := s.ir.2, len := p.len, pc := t.pc
    pred := (t.clause.map (·.pred)).getD 0, guard := gv, pos := s.subPos t (s.gSize t p), width := s.width t
    size := s.gSize t p, lanes := 0, count1 := (t.clause.map fun c => c.count - 1).getD 0
    idx := (t.clause.map (·.idx)).getD 31, clause := t.clause, park := t.pc, parkClause := t.clause, logged := none }

/-- An instruction issued by the thread: the time of its issue and its counter (19/R426). -/
def Thread.issued (t : Thread) (cyc : Nat) : Thread :=
  { t with lastIssue := cyc, readySince := cyc, perf := bump t.perf 0 (fun x => (x + 1) % 2 ^ 64) }

/-- The thread after what its lane met. -/
def Thread.after (t : Thread) (s : State) (p : Pre) (gv : Bool) (r : Lane) : Thread :=
  match r with
  | .done w st => { (((t.putAll w).orStat st).issued s.time.cyc).advance p.len.bytes with run := .ready }
  | .jump w target => { ((t.putAll w).issued s.time.cyc).jump target with run := .ready }
  | .trap c d v => { t.issued s.time.cyc with run := .parked (s.trapRec p gv t c d v) }
  | .hold => { t with run := .held, logHeld := false }
  | .logHold => { t with run := .held, logHeld := true }
  | .pause til => { (t.issued s.time.cyc).advance p.len.bytes with run := .paused til }
  | .block w got => { t.issued s.time.cyc with run := .blocked w p.len.bytes got }
  | .asIs => t

/-- A lane whose guard names a register out of range, cause 0x08, takes instead the privilege trap or the role fault that its
instruction meets, which are lower (12/R267). -/
def lowerTrap (x f : Lane) : Lane :=
  match f with
  | .trap c _ _ => if c = 0x06 ∨ c = 0x07 then f else x
  | _ => x

/-- What one lane meets under its guard: a lane whose guard fails changes nothing (14/R313). -/
def State.underGuard (s : State) (p : Pre) (t : Thread) (f : Lane) : Lane :=
  match s.guard t p with
  | .error x => if permuted p && s.tooWide t p then .trap 0x01 0 none else lowerTrap x f
  | .ok false => .done [] 0#6
  | .ok true => if permuted p && s.tooWide t p then .trap 0x01 0 none else f
/-- The guard value of a lane; a lane without one counts as passing (one point DEDUCED, log entry 92). -/
def State.guardValue (s : State) (p : Pre) (t : Thread) : Bool :=
  match s.guard t p with
  | .ok b => b
  | .error _ => false

/-- The lanes of a home group that an issue has just parked, as a mask (12/R265). -/
def State.parkedMask (s : State) (who : List Tid) (slot : Nat) : Nat :=
  (who.map fun i =>
    match (s.thread i).run with
    | .parked r => if i.slot = slot ∧ r.lanes = 0 then 2 ^ i.lane else 0
    | _ => 0).sum

/-- A newly parked thread knows its parked set. -/
def Thread.sealed (t : Thread) (s : State) (who : List Tid) : Thread :=
  match t.run with
  | .parked r => if who.contains t.id && r.lanes == 0 then { t with run := .parked { r with lanes := s.parkedMask who t.id.slot } } else t
  | _ => t

/-- A thread can go on in its entry. -/
def Thread.isReady (t : Thread) : Bool :=
  match t.run with
  | .ready => true
  | _ => false

/-- How many of some PCs equal one of them. -/
def countPc (l : List Nat) (pc : Nat) : Nat := (l.filter fun x => x == pc).length
/-- The PC most members go to; the lower of equals (04/R92). -/
def mostPc (all : List Nat) : List Nat → Nat → Nat
  | [], best => best
  | x :: l, best =>
    let b := if countPc all best < countPc all x ∨ (countPc all x = countPc all best ∧ x < best) then x else best
    mostPc all l b

/-- The entry after an issue: members that parked, wait, ended or went elsewhere leave (04/R92). -/
def Entry.after (e : Entry) (s : State) (who : List Tid) : Entry :=
  let live := e.members.filter fun i => (s.thread i).isReady
  let pcs := live.map fun i => (s.thread i).pc
  let pc := if e.members.any who.contains then mostPc pcs pcs (pcs.headD e.pc) else e.pc
  { e with pc := pc, members := live.filter fun i => (s.thread i).pc == pc }

/-- The set of a key (04/R90). -/
def setOf (ctx pc : Nat) : Nat := bitsAt pc 2 6 ^^^ bitsAt pc 8 6 ^^^ bitsAt ctx 0 6
/-- A free way of a set of a core's table. -/
def freeWay (l : List Entry) (core set : Nat) : Option Nat :=
  (List.range 4).find? fun w => !(l.any fun e => e.core == core && e.set == set && e.way == w)
/-- Entries that go on under a key of another set take a free way there; one that finds none is freed, and its members are offered
again (04/R90, R92) (one point DESIGN CHOICE, log entry 53). -/
def reseat (l : List Entry) : List Entry :=
  let stay := l.filter fun e => setOf e.ctx e.pc == e.set
  (l.filter fun e => setOf e.ctx e.pc != e.set).foldl (fun acc e =>
    let set := setOf e.ctx e.pc
    match freeWay acc e.core set with
    | some w => acc ++ [{ e with set := set, way := w }]
    | none => acc) stay

/-- The end of an issue: parked sets are complete, entries go on under R92, and the next step chooses what issues. -/
def State.settle (s : State) (who : List Tid) : State :=
  { s with
    threads := s.threads.map fun t => t.sealed s who
    entries := reseat ((s.entries.map fun e => e.after s who).filter fun e => !e.members.isEmpty)
    issue := [] }

/-- What a thread of a convergent instruction does that does not issue yet: it waits for its subgroup at a blocking point, or it is
ready and waits for the other home group to come into the active set (14/R316, 04/R87). -/
def State.convWait (s : State) (t : Thread) (g : Nat) : Lane := if s.stands t g then .hold else .block (.converge g) none

/-- The threads of an issue: of a convergent instruction, also the rest of each complete subgroup. -/
def State.actors (s : State) (p : Pre) : List Tid :=
  if permuted p then s.convGroup (fun t => s.gSize t p) else s.issue

/-- A lane of a subgroup waits at issue, so the whole subgroup of a convergent instruction does: it issues together or not at
all (14/R316) (one point DEDUCED, log entry 50). -/
def State.subgroupHolds (s : State) (g : Nat) (e : Thread → Lane) (t : Thread) : Bool :=
  (s.subgroup t g).any fun q => let x := s.thread q; x.live && (e x).waits

/-- One thread of a register instruction: it waits for its subgroup, or meets its lane's effect under its guard. -/
def State.laneThread (s : State) (p : Pre) (t : Thread) (f : Thread → Lane) : Thread :=
  if permuted p && !s.tooWide t p then
    if !s.converged t (s.gSize t p) then t.after s p true (s.convWait t (s.gSize t p))
    else if s.subgroupHolds (s.gSize t p) (fun x => s.underGuard p x (f x)) t then t.after s p true .hold
    else t.after s p (s.guardValue p t) (s.underGuard p t (f t))
  else t.after s p (s.guardValue p t) (s.underGuard p t (f t))

/-- An instruction whose lanes touch only their own thread: every lane reads the state before it. -/
def State.mapLanes (s : State) (p : Pre) (f : Thread → Lane) : State :=
  let who := s.actors p
  let s1 : State := { s with threads := s.threads.map fun t => if who.contains t.id then s.laneThread p t f else t }
  s1.settle who

/-- One lane of an instruction that acts on more than its thread. -/
def State.laneFold (s : State) (p : Pre) (g : State → Thread → State × Lane) (i : Tid) : State :=
  let t := s.thread i
  if !t.live then s
  else
  match s.guard t p with
  | .error x => s.setThread (t.after s p false (lowerTrap x (g s t).2))
  | .ok false => s.setThread (t.after s p false (.done [] 0#6))
  | .ok true =>
    let r := g s t
    match r.2 with
    | .asIs => r.1
    | x => r.1.setThread ((r.1.thread i).after r.1 p true x)

/-- Of a convergent instruction one lane of which has to wait, only the waiting lanes' own requests are kept, and every lane
waits. -/
def State.holdAll (s : State) (p : Pre) (g : State → Thread → State × Lane) (who : List Tid) : State :=
  let s1 := who.foldl (fun s i =>
    let r := g s (s.thread i)
    if (s.thread i).live && s.guardValue p (s.thread i) && r.2.waits then r.1 else s) s
  { s1 with threads := s1.threads.map fun t => if who.contains t.id && t.live then { t with run := .held } else t }

/-- Some threads in ascending lane order, and of one lane in the order of their groups' slots. -/
def laneOrder (l : List Tid) : List Tid := (List.range 32).flatMap fun k => l.filter fun i => i.lane == k

/-- An instruction whose lanes act one after the other, in ascending lane order (04/R83). With a permuted operand it is convergent. The
order of the lanes of one ATOM or RED on one element, which the rules leave open, is this one too (17/R373; DESIGN CHOICE, log entry
105). -/
def State.foldOnly (s : State) (p : Pre) (g : State → Thread → State × Lane) : State :=
  if permuted p then
    let who := laneOrder (s.actors p)
    let out := who.filter fun i => let t := s.thread i; !s.tooWide t p && !s.converged t (s.gSize t p)
    let in_ := who.filter fun i => !out.contains i
    let s1 : State :=
      { s with threads := s.threads.map fun t => if out.contains t.id then t.after s p true (s.convWait t (s.gSize t p)) else t }
    let wide := fun (s : State) (t : Thread) => if s.tooWide t p then (s, Lane.trap 0x01 0 none) else g s t
    let s2 := in_.foldl (fun s i => s.laneFold p wide i) s1
    if in_.any fun i => (s2.thread i).run == .held && (s2.thread i).child.isNone then s1.holdAll p wide in_ else s2
  else (laneOrder s.issue).foldl (fun s i => s.laneFold p g i) s
/-- Such an instruction, and the end of its issue. -/
def State.foldLanes (s : State) (p : Pre) (g : State → Thread → State × Lane) : State :=
  (s.foldOnly p g).settle (s.actors p)

/-- A register instruction of one result: checks, then its effect on the sources' values. -/
def State.regOp (s : State) (p : Pre) (r : RoleRow) (dsts srcs : List Src) (f : Thread → Lane) : State :=
  s.mapLanes p fun t =>
    match s.gate t p r dsts srcs with
    | some x => x
    | none => f t

/-! ## Long-latency operations (14/R310, R311) -/

/-- An operation of a thread begun: its flag is the one FS selects (14/R310). -/
def State.newOp (s : State) (t : Thread) (p : Pre) (w : List RegCell) (st : Status) (src : OpSrc) (acc : Option Acc) : State :=
  { s with
    fresh := s.fresh + 1
    ops := s.ops ++ [{ id := s.fresh, tid := t.id, depth := t.depth, flag := t.flagOf p.fs, writes := w, astat := st
                       src := src, acc := acc, dead := false }] }

/-- The lane executes: its subgroup stands where that is needed, its guard passes, and its subgroup fits the width. -/
def State.executes (s : State) (p : Pre) (t : Thread) : Bool :=
  (!permuted p || (!s.tooWide t p && s.converged t (s.gSize t p))) && s.guardValue p t

/-- A long-latency instruction whose result is known at issue: its sources are captured then (14/R312). -/
def State.funcOp (s : State) (p : Pre) (r : RoleRow) (dsts srcs : List Src) (f : Thread → List RegCell × Status) : State :=
  let begun := (s.actors p).foldl (fun (z : State) (i : Tid) =>
    let t := s.thread i
    let eff := fun (x : Thread) => s.underGuard p x ((s.gate x p r dsts srcs).getD (.done [] 0#6))
    let waits : Bool := permuted p && s.subgroupHolds (s.gSize t p) eff t
    if s.executes p t && (s.gate t p r dsts srcs).isNone && !waits then z.newOp t p (f t).1 (f t).2 .done none else z) s
  let after := s.regOp p r dsts srcs fun _ => .done [] 0#6
  { after with ops := begun.ops, fresh := begun.fresh }

/-- A log entry of a thread counts for an access at its present depth: one of that depth does, and one of an interrupted level
unless it has been answered forward, since then the handler is its answer (06/R144, R146) (DESIGN CHOICE, log entry 106). -/
def LogEntry.counts (e : LogEntry) (t : Thread) (l : LogLane) : Bool := l.tid == t.id && (l.depth == t.depth || !e.forward)
/-- The thread has a log entry pending. -/
def State.hasLogged (s : State) (t : Thread) : Bool := s.log.any fun e => e.lanes.any fun l => e.counts t l

/-- The core's log was full before an issue: entries numbered from `base` on are the issue's own. What one issued instruction, or a
response, logs beyond the last place stands in the log all the same (06/R145) (DESIGN CHOICE, log entry 108). -/
def State.logFull (s : State) (core base : Nat) : Bool :=
  decide (Config.logPlaces ≤ (s.log.filter fun e => e.core == core && decide (e.id < base)).length)
/-- A lane waits at issue for an earlier access: where an entry of its thread is pending, or the log is full, it is held by the log
(06/R144 to R146). -/
def State.accHold (s : State) (t : Thread) : Lane := if s.hasLogged t || s.logFull t.id.core s.fresh then .logHold else .hold

/-- Loads or atomics of the thread, of whatever level, or logged accesses, are not yet performed, so a release has to wait
(11/R249, R250; 06/R144). -/
def State.accPending (s : State) (t : Thread) : Bool :=
  (s.ops.any fun o => o.tid == t.id && o.acc.isSome && o.src != .done && !o.dead) || s.hasLogged t

/-! ## Freeing teams and ending grids (03/R64, 15/R342) -/

/-- A core without any placed team gives up its PARTWORD and its reserve (04/R76, R78). -/
def State.emptyCore (s : State) (core : Nat) : State :=
  if s.teams.any fun t => t.core == core && (t.state == .resident || t.state == .evicted) then s
  else s.editCore core fun c => { c with partword := none, reserve := (0, 0, 0) }

/-- A team's commands are cancelled: each stops with error 8, and credits only the bytes it has written once their writes are answered
(10/R224, 03/R64). -/
def State.cancel (s : State) (team : Nat) : State :=
  { s with cmds := s.cmds.map fun c =>
      if c.team = team ∧ c.state ≠ .finished then
        { c with err := if c.err = 0 then 8 else c.err, state := .acking, paused := false }
      else c }
/-- The unanswered writes of a team's operations stand in their groups' counters as stores do, so that their answers still lower them
(02/R48, 03/R64). -/
def State.orphan (s : State) (team : Nat) : State :=
  let own : Nat → Option LongOp := fun i => s.ops.find? fun o => o.id == i && (s.thread o.tid).team == team
  { s with fabric := { s.fabric with reqs := s.fabric.reqs.map fun r =>
      match r.why with
      | .op i =>
        (match own i with
         | some o => if counted r.pkt then { r with why := .store team (groupIndex (s.team team) o.tid.slot) } else r
         | none => r)
      | _ => r } }

/-- A placed team gives up its room, units, save area and threads; its commands are cancelled. -/
def State.freeTeam (s : State) (id : Nat) : State :=
  let tm := s.team id
  let mine : Tid → Bool := fun i => (s.thread i).team == id
  let s0 := (s.orphan id).cancel id
  let s1 : State :=
    { s0 with
      threads := dropBy (fun t => t.team == id) s.threads
      ops := dropBy (fun o => mine o.tid) s.ops
      log := dropBy (fun e => e.team == id) s.log
      entries := s.entries.map fun e => { e with members := e.members.filter fun i => !mine i }
      issue := s.issue.filter fun i => !mine i }
  let s2 := s1.editTeam id fun t => { t with state := .gone, save := none, scr := [], mregs := [], tacks := [], woken := none }
  let s3 := s2.editCore tm.core fun c =>
    { c with active := c.active.filter fun x => !tm.slots.contains x.1
             slow := c.slow.filter fun x => !tm.slots.contains x.1
             moves := c.moves.filter fun x => !tm.slots.contains x.slot
             mqueue := c.mqueue.filter fun m => m.team != id }
  if tm.state = .resident ∨ tm.state = .evicted then
    ({ s3 with entries := s3.entries.filter fun e => !e.members.isEmpty }).emptyCore tm.core
  else s3

/-- Every write a core holds for a context is sent toward its home: dirty bytes and update lines. -/
def State.flushCore (s : State) (core ctx : Nat) : State :=
  (s.writeBackAll (fun l => l.core == core && l.ctx == ctx) none).mergeAll fun u => u.core == core && u.ctx == ctx

/-- A grid ended with a status (03/R64): its threads stop, its commands are cancelled, its log entries retire without
replay, its writes are performed, those of teams that have exited with them, and its room and regions are freed. The completion word follows in GRID_COMPLETE. -/
def State.endGrid (s : State) (gid status : Nat) : State :=
  let g := s.grid gid
  if g.status.isSome then s
  else
    let mine := s.teams.filter fun t => t.grid == gid
    let s1 := mine.foldl (fun s t => if t.state ≠ .pending then s.flushCore t.core g.ctx else s) s
    let s2 := (mine.filter fun t => t.state != .gone).foldl (fun s t => s.freeTeam t.id) s1
    let s3 : State :=
      { s2 with bobbins := dropBy (fun b => b.2.grid == gid) s2.bobbins, privs := dropBy (fun p => p.grid == gid) s2.privs }
    s3.editGrid gid fun x => { x with status := some status, nextTeam := x.teams }

/-- The last thread of a team has exited and every command, logged access and operation of the team is over: its room is
freed (15/R342). -/
def State.reap (s : State) (id : Nat) : State :=
  let tm := s.team id
  let busy := (s.threads.any fun t => t.team == id && t.live) || (s.cmds.any fun c => c.team == id) ||
    (s.log.any fun e => e.team == id) || (s.ops.any fun o => (s.thread o.tid).team == id) ||
    ((s.core tm.core).mqueue.any fun m => m.team == id)
  if tm.state = .resident ∧ !busy then s.freeTeam id else s

/-! ## The frame (12/R270) -/

/-- The frame base of a thread at a depth. -/
def State.frameBase (s : State) (t : Thread) (d : Nat) : Nat :=
  fld (s.ctx (s.ctxOf t)).trapfrm 30 25 * 2 ^ 30 + ((t.id.core * 64 + t.id.slot) * 2 + (d - 1)) * 8192

/-- A frame access is translated to a writable LOCAL page (12/R270). -/
def State.frameXlat (s : State) (t : Thread) (va : Nat) : State × Option Xlat :=
  let r := s.translate (clusterOf t.id.core) (s.ctxOf t) va
  match r.2 with
  | .error _ => (r.1, none)
  | .ok x => (r.1, if x.apt = 0 ∧ x.w then some x else none)

/-- Bytes of a thread's frame written, as a store of the thread at scope TH that never sets SFX. -/
def State.frameWr (s : State) (t : Thread) (d off : Nat) (b : List Byte) : State × Bool :=
  let va := s.frameBase t d + off
  let core := t.id.core
  let ctx := s.ctxOf t
  let r := (s.mergeOwn core ctx (va / 128)).frameXlat t va
  match r.2 with
  | none => (r.1, false)
  | some x =>
    match r.1.line? core ctx (va / 128) with
    | some l =>
      let new := { lineStore l (va % 128) b 0 s.time.cyc .none with stored := l.stored }
      if r.1.lineBusy l then (((r.1.setLine { new with dirty := l.dirty }).homeWrite ctx x.pa b x.comp).1, true)
      else (r.1.setLine new, true)
    | none =>
      if !x.cached || r.1.busyAt core ctx (va / 128) 0 x.node x.pa then ((r.1.homeWrite ctx x.pa b x.comp).1, true)
      else
        match r.1.makeRoom core (va / 128) with
        | none => ((r.1.homeWrite ctx x.pa b x.comp).1, true)
        | some s2 =>
          (s2.setLine { lineStore (lineNew core ctx va x 1 s.time.cyc) (va % 128) b 0 s.time.cyc .none with stored := [] }, true)

/-- Bytes of a thread's frame read; `none` when the page is not writable LOCAL or the line is uncorrectable. -/
def State.frameRd (s : State) (t : Thread) (d off n : Nat) : State × Option (List Byte) :=
  let va := s.frameBase t d + off
  let core := t.id.core
  let ctx := s.ctxOf t
  let r := (s.mergeOwn core ctx (va / 128)).frameXlat t va
  match r.2 with
  | none => (r.1, none)
  | some x =>
    let h := r.1.homeRead x.pa n x.comp
    match h.2 with
    | none => (h.1, none)
    | some home =>
      match h.1.line? core ctx (va / 128) with
      | none => (h.1, some home)
      | some l => (h.1, if l.bad then none else some (leBytes n (lineMerge (leNat home) (leNat (lineRead l.data (va % 128) n)) (bitsAt l.valid (va % 128) n) n)))

/-- A frame access that did not translate to a writable LOCAL page ends the grid with status 3 (12/R270)
(one point DEDUCED, log entry 96). -/
def State.frameOk (t : Thread) (r : State × Bool) : State := if r.2 then r.1 else r.1.endGrid (r.1.team t.team).grid 3

/-- A word of the frame column of a thread. -/
def State.frameWord (s : State) (t : Thread) (d off : Nat) : State × Option Nat :=
  let r := s.frameRd t d off 4
  (r.1, r.2.map leNat)

/-- Offsets of the frame: registers, tags, flag mask, status and operand window. -/
def offReg (t : Thread) (n : Nat) : Nat := 128 * n + 4 * t.id.lane
def offTag (t : Thread) (n : Nat) : Nat := 2048 + 16 * n + t.id.lane / 2
def offMask (t : Thread) : Nat := 2304 + 4 * t.id.lane
def offStat (t : Thread) : Nat := 2432 + 4 * t.id.lane
def offOw (t : Thread) (k : Nat) : Nat := 4096 + 128 * k + 4 * t.id.lane

/-- The value and tag of a trapped register v0 to v15 written in the frame. -/
def State.frameReg (s : State) (t : Thread) (d n : Nat) (v : Word) (tag : Tag) : State × Bool :=
  let r1 := s.frameWr t d (offReg t n) (wordBytes v)
  if !r1.2 then (r1.1, false)
  else
    let q := r1.1.frameRd t d (offTag t n) 1
    match q.2 with
    | none => (q.1, false)
    | some b => q.1.frameWr t d (offTag t n) [setNibble (b.headD 0#8) t.id.lane tag.code]

/-- The value and tag of a trapped register read from the frame. -/
def State.frameGet (s : State) (t : Thread) (d n : Nat) : State × Option (Word × Tag) :=
  let r1 := s.frameWord t d (offReg t n)
  let r2 := r1.1.frameRd t d (offTag t n) 1
  match r1.2, r2.2 with
  | some v, some b => (r2.1, some (BitVec.ofNat 32 v, Tag.ofCode (tagNibble (b.headD 0#8) t.id.lane)))
  | _, _ => (r2.1, none)

/-! ## The operand window (12/R271) -/

/-- Opcodes of kind I (14/R317). -/
def kindI (op : Nat) : Bool :=
  op == 0x03C || op == 0x03D || op == 0x040 || op == 0x042 || (decide (0x100 ≤ op) && decide (op ≤ 0x108)) ||
  (decide (0x110 ≤ op) && decide (op ≤ 0x113)) || op == 0x31D || op == 0x31E || op == 0x382 || op == 0x38E

/-- A number of n bits sign-extended to 64 bits. -/
def signExt64 (n x : Nat) : Nat := wrapTo 64 (toInt true n x)

/-- `ow0` to `ow15` of a trap at depth d. -/
def owWords (r : TrapRec) (d : Nat) : List Nat :=
  let w := fun k => (r.words.getD k 0#32).toNat
  let w0 := w 0 + 2 ^ 32 * w 1
  let w1 := w 2
  let op := bitsAt w0 2 10
  let mod2 := if r.len = .l64 then 0 else bitsAt w1 27 5
  let perms := if r.len = .l64 ∨ kindI op then 0 else bitsAt w1 0 24
  let imm := if !kindI op then 0
    else match r.len with
      | .l64 => 0
      | .l96 => signExt64 24 (bitsAt w1 0 24)
      | .l128 => signExt64 32 (w 3)
  let v := match r.value with
    | some x => x.toNat
    | none => imm
  [w 0, w 1, w 2, w 3,
   bitsAt w0 52 12 * 2 ^ 20 + bitsAt op 8 2 * 2 ^ 18 + r.len.code * 2 ^ 16 + mod2 * 2 ^ 10 + op,
   r.pred * 256 + bitsAt w0 13 1 * 128 + bitsAt w0 14 1 * 64 + (if r.guard then 32 else 0) + bitsAt w0 15 5,
   bitsAt w0 20 8 * 2 ^ 24 + bitsAt w0 28 8 * 2 ^ 16 + bitsAt w0 36 8 * 2 ^ 8 + bitsAt w0 44 8,
   perms, v % 2 ^ 32, v / 2 ^ 32, r.pos * 2 ^ 16 + r.width * 2 ^ 8 + r.size, r.lanes, r.pc % 2 ^ 32, r.pc / 2 ^ 32,
   r.detail % 2 ^ 16 * 2 ^ 16 + r.cause,
   r.count1 % 32 * 2 ^ 16 + r.idx % 32 * 2 ^ 8 + (if r.logged.isSome then 4 else 0) + d]

/-- The operand window written in the frame, one word after the other. -/
def State.writeOws (s : State) (t : Thread) (d : Nat) : Nat → List Nat → State × Bool
  | _, [] => (s, true)
  | k, x :: l =>
    let r := s.frameWr t d (offOw t k) (leBytes 4 x)
    if r.2 then State.writeOws r.1 t d (k + 1) l else (r.1, false)

/-- The registers v0 to v(n − 1) of a thread written in its frame. -/
def State.writeRegs (s : State) (t : Thread) (d : Nat) : Nat → State × Bool
  | 0 => (s, true)
  | n + 1 =>
    let r := State.writeRegs s t d n
    if r.2 then let x := t.reg n; r.1.frameReg t d n x.1 x.2 else r

/-- The lines of a frame that belong to no column. -/
def frameRest : List Nat := ((List.range 12).map fun k => 2560 + 128 * k) ++ (List.range 16).map fun k => 6144 + 128 * k
/-- The bytes of a frame outside its columns made zero where they are not (12/R270). -/
def State.zeroRest (s : State) (t : Thread) (d : Nat) : List Nat → State × Bool
  | [] => (s, true)
  | off :: l =>
    let r := s.frameRd t d off 128
    let w := if r.2.any fun b => b.all (· == 0#8) then (r.1, true) else r.1.frameWr t d off (List.replicate 128 0#8)
    if w.2 then State.zeroRest w.1 t d l else w

/-- The whole frame column of a thread written, and the bytes outside the columns zero (12/R269 step 2, R270); false when its page is
not writable LOCAL. -/
def State.writeFrame (s : State) (t : Thread) (d : Nat) (r : TrapRec) : State × Bool :=
  let a := s.writeRegs t d 16
  if !a.2 then a
  else
    let b := a.1.frameWr t d (offMask t) (leBytes 4 (s.flagMask t.id t.depth))
    if !b.2 then b
    else
      let c := b.1.frameWr t d (offStat t) (leBytes 4 t.astat.toNat)
      if !c.2 then c
      else
        let o := c.1.writeOws t d 0 (owWords r d)
        if !o.2 then o else o.1.zeroRest t d frameRest

/-! ## Taking an exception (12/R267 to R269, R277) -/

/-- Where a cause goes: 0 the runtime, 1 `TRAPVEC`, 2 `EMUVEC` (12/R267). -/
def routeOf (cause : Nat) : Nat :=
  if cause = 0x01 ∨ cause = 0x02 ∨ cause = 0x30 ∨ cause = 0x31 then 2 else if cause = 0x0D then 0 else 1

/-- The thread goes to the management-core path (12/R277). -/
def State.toMgmt (s : State) (t : Thread) (r : TrapRec) : State := s.setThread { t with run := .mgmt r }

/-- Long-latency writes into v0 to v15 of the thread are pending, other than logged ones (12/R269 step 1). -/
def State.lowWritesPending (s : State) (t : Thread) : Bool :=
  s.ops.any fun o => o.tid == t.id && o.depth == t.depth && !o.dead && o.writes.any fun c => decide (c.n < 16)

/-- A parked thread enters its handler. A trap at depth 2 takes the management-core path; a trap to a missing handler
ends the grid or takes that path; else the frame is written and the thread continues at the vector's entry at level E,
with its flags complete and its `ASTAT` zero. -/
def State.takeException (s : State) (t : Thread) (r : TrapRec) : State :=
  let c := s.ctx (s.ctxOf t)
  let d := t.depth + 1
  let emu : Bool := routeOf r.cause == 2
  let vec := fld (if emu then c.emuvec else c.trapvec) 5 50 * 32
  if 2 < d then s.toMgmt t r
  else if fld c.trapfrm 0 1 = 0 ∨ vec = 0 then (if emu then s.toMgmt t r else s.endGrid (s.team t.team).grid 3)
  else
    let f := s.writeFrame t d r
    if f.2 then
      f.1.setThread
        { t with pc := vec, clause := none, depth := d, run := .ready, astat := 0#6, traps := r :: t.traps, readySince := s.time.cyc }
    else f.1.endGrid (s.team t.team).grid 3

/-! ## The end of a handler (12/R273) -/

/-- Registers v0 to v(n − 1) restored from the frame. -/
def State.restoreRegs (s : State) (t : Thread) (d : Nat) : Nat → State × Option Thread
  | 0 => (s, some t)
  | n + 1 =>
    let r := State.restoreRegs s t d n
    match r.2 with
    | none => r
    | some t1 =>
      let g := r.1.frameGet t d n
      match g.2 with
      | none => (g.1, none)
      | some x => (g.1, some { t1 with regs := regSet t1.regs n x.1 x.2 })

/-- What `ERET` reads of the operand window: the resume PC, NEXT, and `ow8` (one point DEDUCED, log entry 93). -/
def State.readResume (s : State) (t : Thread) : State × Option (Nat × Bool × Nat) :=
  let a := s.frameWord t t.depth (offOw t 12)
  let b := a.1.frameWord t t.depth (offOw t 13)
  let c := b.1.frameWord t t.depth (offOw t 15)
  let e := c.1.frameWord t t.depth (offOw t 8)
  match a.2, b.2, c.2, e.2 with
  | some x, some y, some z, some w => (e.1, some (x + 2 ^ 32 * y, bitsAt z 24 1 == 1, w))
  | _, _, _, _ => (e.1, none)

/-- Where a thread resumes at the level below: with NEXT after the trapped item, or where a logged thread was parked;
without NEXT at the resume PC, in its clause if that is the trapped item's (one point DEDUCED, log entry 93). -/
def Thread.resumeAt (t : Thread) (r : TrapRec) (pc : Nat) (next : Bool) : Thread :=
  if next then
    if r.logged.isSome then { t with pc := r.park, clause := r.parkClause }
    else
      match r.clause with
      | none => { t with pc := r.pc, clause := none }
      | some c => { t with pc := r.pc, clause := some c }.advance r.len.bytes
  else if pc = r.pc then { t with pc := r.pc, clause := r.clause }
  else { t with pc := pc, clause := none }

/-- Flags that the handler marked complete in the frame's mask no longer wait for their operations (19/R424). -/
def State.clearFlags (s : State) (tid : Tid) (depth mask : Nat) : State :=
  let gone : Option Nat → Bool := fun f => match f with | some k => bitsAt mask k 1 == 0 | none => false
  { s with
    ops := editBy (fun o => o.tid == tid && o.depth == depth && gone o.flag) (fun o => { o with flag := none }) s.ops
    log := s.log.map fun e => { e with lanes := e.lanes.map fun l =>
      if l.tid == tid && l.depth == depth && gone l.flag then { l with flag := none } else l } }

/-- The return from a handler without the operand log's part: the frame's registers, status and flags are restored and
the thread resumes at the level below. The record and `ow8` are returned for the log. -/
def State.returnFrom (s : State) (t : Thread) (r : TrapRec) : State × Option Nat :=
  let d := t.depth
  let a := s.readResume t
  let m := a.1.frameWord t d (offMask t)
  let st := m.1.frameWord t d (offStat t)
  let g := st.1.restoreRegs t d 16
  match a.2, m.2, st.2, g.2 with
  | some (pc, next, w), some mask, some astat, some t1 =>
    let t2 : Thread :=
      { t1 with depth := d - 1, astat := BitVec.ofNat 6 astat, traps := t1.traps.drop 1, run := .ready
                readySince := s.time.cyc }
    ((g.1.setThread (t2.resumeAt r pc next)).clearFlags t.id (d - 1) mask, some w)
  | _, _, _, _ => (g.1.endGrid (s.team t.team).grid 3, none)

end Sys2Proof.Machine
end

