-- ==== Sys2Proof/Machine/Int.lean ====
section
/-! DEFINITION. Integer, address, move and bit instructions (15/R319 to R334): each reads its sources at issue and
writes its result in the same step. -/

namespace Sys2Proof.Machine

/-- A destination: one register, or a pair. -/
def dst (d : Nat) (pair : Bool) : Src := { f := 0, n := d, c := if pair then 2 else 1, perm := noPerm, want := none }

/-! ## Arithmetic (15/R320 to R322) -/

/-- The row's exact value element by element, delivered under WRAP or SAT (15/R321); `w` is the width of the result. -/
def arith (ty : Tag) (sat : Bool) (w : Nat) (f : Nat → Int) : Nat × Status :=
  let r := mapElems w (fun j => intResult (tagSigned ty) sat w (f j)) (if w < 32 then 32 / w else 1) 0
  (packElems w r.1, r.2)

/-- Element j of an operand, read as TYPE says. -/
def elemInt (ty : Tag) (j x : Nat) : Int := toInt (tagSigned ty) ty.width (elemAt ty.width j x)

/-- A one-source arithmetic instruction. -/
def State.arith1 (s : State) (p : Pre) (ty : Tag) (sat : Bool) (d a : Nat) (f : Int → Int) : State :=
  let A := srcT 1 a p.pa ty
  s.regOp p .any [dst d ty.is64] [A] fun t =>
    let r := arith ty sat ty.width fun j => f (elemInt ty j (s.srcVal t p A))
    .done (wrAny ty.is64 d r.1 ty) r.2
/-- A two-source arithmetic instruction. -/
def State.arith2 (s : State) (p : Pre) (ty : Tag) (sat : Bool) (d a b : Nat) (f : Int → Int → Int) : State :=
  let A := srcT 1 a p.pa ty
  let B := srcT 2 b p.pb ty
  s.regOp p .any [dst d ty.is64] [A, B] fun t =>
    let r := arith ty sat ty.width fun j => f (elemInt ty j (s.srcVal t p A)) (elemInt ty j (s.srcVal t p B))
    .done (wrAny ty.is64 d r.1 ty) r.2

/-- IADD: a + b. -/
def execIadd (p : Pre) (ty : Tag) (sat : Bool) (d a b : Nat) (s : State) : Out :=
  .next (s.arith2 p ty sat d a b fun x y => x + y)

/-- ISUB: a − b. -/
def execIsub (p : Pre) (ty : Tag) (sat : Bool) (d a b : Nat) (s : State) : Out :=
  .next (s.arith2 p ty sat d a b fun x y => x - y)

/-- INEG: −a. -/
def execIneg (p : Pre) (ty : Tag) (sat : Bool) (d a : Nat) (s : State) : Out :=
  .next (s.arith1 p ty sat d a fun x => -x)

/-- IABS: |a|. -/
def execIabs (p : Pre) (ty : Tag) (sat : Bool) (d a : Nat) (s : State) : Out :=
  .next (s.arith1 p ty sat d a fun x => if x < 0 then -x else x)

/-- IMIN. -/
def execImin (p : Pre) (ty : Tag) (d a b : Nat) (s : State) : Out :=
  .next (s.arith2 p ty false d a b min)

/-- IMAX. -/
def execImax (p : Pre) (ty : Tag) (d a b : Nat) (s : State) : Out :=
  .next (s.arith2 p ty false d a b max)

/-- IMUL: a × b. -/
def execImul (p : Pre) (ty : Tag) (sat : Bool) (d a b : Nat) (s : State) : Out :=
  .next (s.arith2 p ty sat d a b fun x y => x * y)

/-- IMULH: ⌊a × b / 2^32⌋. -/
def execImulh (p : Pre) (ty : Tag) (d a b : Nat) (s : State) : Out :=
  .next (s.arith2 p ty false d a b fun x y => Int.fdiv (x * y) 4294967296)

/-- IMAD: a × b + c. -/
def execImad (p : Pre) (ty : Tag) (sat : Bool) (d a b c : Nat) (s : State) : Out :=
  let A := srcT 1 a p.pa ty
  let B := srcT 2 b p.pb ty
  let C := srcT 3 c p.pc ty
  .next (s.regOp p .any [dst d false] [A, B, C] fun t =>
    let r := intResult (tagSigned ty) sat 32
      (elemInt ty 0 (s.srcVal t p A) * elemInt ty 0 (s.srcVal t p B) + elemInt ty 0 (s.srcVal t p C))
    .done (wr d r.1 ty) r.2)

/-- IMADW: a × b + c in 64 bits; C is checked against the 64-bit type of the same signedness. -/
def execImadw (p : Pre) (ty : Tag) (sat : Bool) (d a b c : Nat) (s : State) : Out :=
  let ty2 : Tag := if tagSigned ty then .s64 else .n64
  let A := srcT 1 a p.pa ty
  let B := srcT 2 b p.pb ty
  let C := srcT 3 c p.pc ty2
  .next (s.regOp p .any [dst d true] [A, B, C] fun t =>
    let r := intResult (tagSigned ty) sat 64
      (elemInt ty 0 (s.srcVal t p A) * elemInt ty 0 (s.srcVal t p B) + elemInt ty2 0 (s.srcVal t p C))
    .done (wrPair d r.1 ty2) r.2)

/-- IADDC: a + b + c[0], the carry in the odd half (15/R322). -/
def execIaddc (p : Pre) (d a b c : Nat) (s : State) : Out :=
  let A := srcT 1 a p.pa .n32
  let B := srcT 2 b p.pb .n32
  let C := srcR 3 c p.pc
  .next (s.regOp p .any [dst d true] [A, B, C] fun t =>
    let x : Int := (s.srcVal t p A : Int) + s.srcVal t p B + s.srcVal t p C % 2
    .done (wrPair d (wrapTo 32 x + 4294967296 * (if x < 0 ∨ 4294967296 ≤ x then 1 else 0)) .n32) 0#6)

/-- ISUBB: a − b − c[0], the borrow in the odd half (15/R322). -/
def execIsubb (p : Pre) (d a b c : Nat) (s : State) : Out :=
  let A := srcT 1 a p.pa .n32
  let B := srcT 2 b p.pb .n32
  let C := srcR 3 c p.pc
  .next (s.regOp p .any [dst d true] [A, B, C] fun t =>
    let x : Int := (s.srcVal t p A : Int) - s.srcVal t p B - s.srcVal t p C % 2
    .done (wrPair d (wrapTo 32 x + 4294967296 * (if x < 0 ∨ 4294967296 ≤ x then 1 else 0)) .n32) 0#6)

/-- IADD64: a + b on pairs. -/
def execIadd64 (p : Pre) (ty : Tag) (sat : Bool) (d a b : Nat) (s : State) : Out :=
  .next (s.arith2 p ty sat d a b fun x y => x + y)

/-- ISUB64: a − b on pairs. -/
def execIsub64 (p : Pre) (ty : Tag) (sat : Bool) (d a b : Nat) (s : State) : Out :=
  .next (s.arith2 p ty sat d a b fun x y => x - y)

/-! ## Comparison and selection (15/R323, R324) -/

/-- ICMP: one predicate bit of D, combined with its old value; the other bits and the tag stay (15/R323). -/
def execIcmp (p : Pre) (ty : Tag) (cond : Cond) (comb : Comb) (d a b k : Nat) (s : State) : Out :=
  let A := srcT 1 a p.pa ty
  let B := srcT 2 b p.pb ty
  .next (s.regOp p .any [dst d false] [A, B] fun t =>
    let old := s.srcReg t p (dst d false) 0
    let x := condInt cond (elemInt ty 0 (s.srcVal t p A)) (elemInt ty 0 (s.srcVal t p B))
    .done (wr d (setBit old.1 k (combBit comb x (getBit old.1 k))).toNat old.2) 0#6)

/-- ISEL: bit k of C selects A or B, with its tag (15/R324). -/
def execIsel (p : Pre) (d a b c k : Nat) (s : State) : Out :=
  let A := srcR 1 a p.pa
  let B := srcR 2 b p.pb
  let C := srcR 3 c p.pc
  .next (s.regOp p .any [dst d false] [A, B, C] fun t =>
    let x := if getBit (s.srcReg t p C 0).1 k then s.srcReg t p A 0 else s.srcReg t p B 0
    .done (wr d x.1.toNat x.2) 0#6)

/-! ## Shifts, logic and bits (15/R325 to R328) -/

/-- The register of an operand that is a register or the C byte. -/
def srcRI (p : Pre) : RegImm → List Src
  | .reg b => [srcR 2 b p.pb]
  | .imm _ => []
/-- The whole 32-bit register value or the unsigned C byte. -/
def State.valRI (s : State) (t : Thread) (p : Pre) : RegImm → Nat
  | .reg b => s.srcVal t p (srcR 2 b p.pb)
  | .imm k => k
/-- The 32-bit register value or the C byte sign-extended to 32 bits. -/
def State.valRIs (s : State) (t : Thread) (p : Pre) : RegImm → Nat
  | .reg b => s.srcVal t p (srcR 2 b p.pb)
  | .imm k => wrapTo 32 (toInt true 8 k)

/-- An untyped instruction on A and a register or byte, whose result takes the tag of A. -/
def State.bits2 (s : State) (p : Pre) (pair : Bool) (d a : Nat) (n : RegImm) (sg : Bool) (f : Nat → Nat → Nat) : State :=
  let A : Src := { f := 1, n := a, c := if pair then 2 else 1, perm := p.pa, want := none }
  s.regOp p .any [dst d pair] (A :: srcRI p n) fun t =>
    .done (wrAny pair d (f (s.srcVal t p A) (if sg then s.valRIs t p n else s.valRI t p n)) (s.srcTag t p A)) 0#6
/-- An untyped instruction on A alone with its result's tag, or A's. -/
def State.bits1 (s : State) (p : Pre) (d a : Nat) (tag : Option Tag) (f : Nat → Nat) : State :=
  let A := srcR 1 a p.pa
  s.regOp p .any [dst d false] [A] fun t => .done (wr d (f (s.srcVal t p A)) (tag.getD (s.srcTag t p A))) 0#6

/-- SHL: 0 for an amount of 32 or more. -/
def execShl (p : Pre) (d a : Nat) (n : RegImm) (s : State) : Out :=
  .next (s.bits2 p false d a n false fun x k => if k < 32 then x * 2 ^ k % 4294967296 else 0)

/-- SHR: zero fill. -/
def execShr (p : Pre) (d a : Nat) (n : RegImm) (s : State) : Out :=
  .next (s.bits2 p false d a n false fun x k => if k < 32 then x / 2 ^ k else 0)

/-- SAR: copies of a[31] fill. -/
def execSar (p : Pre) (d a : Nat) (n : RegImm) (s : State) : Out :=
  .next (s.bits2 p false d a n false fun x k => wrapTo 32 (Int.fdiv (toInt true 32 x) (2 ^ min k 32 : Nat)))

/-- ROTL: by the amount modulo 32. -/
def execRotl (p : Pre) (d a : Nat) (n : RegImm) (s : State) : Out :=
  .next (s.bits2 p false d a n false fun x k => x * 2 ^ (k % 32) % 4294967296 + x / 2 ^ (32 - k % 32))

/-- SHL64. -/
def execShl64 (p : Pre) (d a : Nat) (n : RegImm) (s : State) : Out :=
  .next (s.bits2 p true d a n false fun x k => if k < 64 then x * 2 ^ k % 2 ^ 64 else 0)

/-- SHR64. -/
def execShr64 (p : Pre) (d a : Nat) (n : RegImm) (s : State) : Out :=
  .next (s.bits2 p true d a n false fun x k => if k < 64 then x / 2 ^ k else 0)

/-- AND (15/R326). -/
def execAnd (p : Pre) (d a : Nat) (n : RegImm) (s : State) : Out :=
  .next (s.bits2 p false d a n true fun x k => x &&& k)

/-- OR (15/R326). -/
def execOr (p : Pre) (d a : Nat) (n : RegImm) (s : State) : Out :=
  .next (s.bits2 p false d a n true fun x k => x ||| k)

/-- XOR (15/R326). -/
def execXor (p : Pre) (d a : Nat) (n : RegImm) (s : State) : Out :=
  .next (s.bits2 p false d a n true fun x k => x ^^^ k)

/-- ANDN: a & ¬b (15/R326). -/
def execAndn (p : Pre) (d a : Nat) (n : RegImm) (s : State) : Out :=
  .next (s.bits2 p false d a n true fun x k => x &&& (4294967295 - k))

/-- LUT3: each bit by the truth table (15/R326). -/
def execLut3 (p : Pre) (d a b c table : Nat) (s : State) : Out :=
  let A := srcR 1 a p.pa
  let B := srcR 2 b p.pb
  let C := srcR 3 c p.pc
  .next (s.regOp p .any [dst d false] [A, B, C] fun t =>
    let x := s.srcVal t p A
    let y := s.srcVal t p B
    let z := s.srcVal t p C
    let r := packElems 1 ((List.range 32).map fun i => bitsAt table (4 * bitsAt x i 1 + 2 * bitsAt y i 1 + bitsAt z i 1) 1)
    .done (wr d r (s.srcTag t p A)) 0#6)

/-- BFX: the field of length len1 + 1 from pos, cut at bit 31; sign-extended for S32 (15/R327). -/
def execBfx (p : Pre) (ty : Tag) (d a pos len1 : Nat) (s : State) : Out :=
  let w := min (pos + len1 + 1) 32 - pos
  .next (s.bits1 p d a (some ty) fun x => wrapTo 32 (toInt (tagSigned ty) w (bitsAt x pos w)))

/-- BFI: the field of a replaced by the low bits of b (15/R327). -/
def execBfi (p : Pre) (d a b pos len1 : Nat) (s : State) : Out :=
  let w := min (pos + len1 + 1) 32 - pos
  .next (s.bits2 p false d a (.reg b) false fun x y => x - bitsAt x pos w * 2 ^ pos + y % 2 ^ w * 2 ^ pos)

/-- The number of set bits among the low n. -/
def popCount (x : Nat) : Nat → Nat
  | 0 => 0
  | n + 1 => bitsAt x n 1 + popCount x n
/-- Zeros from bit n − 1 downward. -/
def leadZeros (x : Nat) : Nat → Nat
  | 0 => 0
  | n + 1 => if bitsAt x n 1 = 1 then 0 else 1 + leadZeros x n
/-- The low n bits in reverse order. -/
def bitReverse (x : Nat) (n : Nat) : Nat := packElems 1 ((List.range n).map fun i => bitsAt x (n - 1 - i) 1)

/-- POPC. -/
def execPopc (p : Pre) (d a : Nat) (s : State) : Out :=
  .next (s.bits1 p d a (some .n32) fun x => popCount x 32)

/-- CLZ: 32 for 0. -/
def execClz (p : Pre) (d a : Nat) (s : State) : Out :=
  .next (s.bits1 p d a (some .n32) fun x => leadZeros x 32)

/-- CTZ: 32 for 0. -/
def execCtz (p : Pre) (d a : Nat) (s : State) : Out :=
  .next (s.bits1 p d a (some .n32) fun x => leadZeros (bitReverse x 32) 32)

/-- BREV. -/
def execBrev (p : Pre) (d a : Nat) (s : State) : Out :=
  .next (s.bits1 p d a none fun x => bitReverse x 32)

/-- BPERM: bytes of {b, a} chosen by nibbles of c (15/R328). -/
def execBperm (p : Pre) (d a b c : Nat) (s : State) : Out :=
  let A := srcR 1 a p.pa
  let B := srcR 2 b p.pb
  let C := srcR 3 c p.pc
  .next (s.regOp p .any [dst d false] [A, B, C] fun t =>
    let x := s.srcVal t p A + 4294967296 * s.srcVal t p B
    let z := s.srcVal t p C
    let byte := fun j => if bitsAt z (4 * j + 3) 1 = 1 then 0 else elemAt 8 (bitsAt z (4 * j) 3) x
    .done (wr d (packElems 8 [byte 0, byte 1, byte 2, byte 3]) .raw) 0#6)

/-- BSET: bit n mod 32 set (15/R327). -/
def execBset (p : Pre) (d a : Nat) (n : RegImm) (s : State) : Out :=
  .next (s.bits2 p false d a n false fun x k => x ||| 2 ^ (k % 32))

/-- BCLR: bit n mod 32 cleared (15/R327). -/
def execBclr (p : Pre) (d a : Nat) (n : RegImm) (s : State) : Out :=
  .next (s.bits2 p false d a n false fun x k => x - bitsAt x (k % 32) 1 * 2 ^ (k % 32))

/-! ## Moves, tags and identity (15/R329 to R334) -/

/-- A register or pair copied with its own tags. -/
def State.copyCells (s : State) (t : Thread) (p : Pre) (A : Src) (d : Nat) (tag : Option Tag) : List RegCell :=
  let x := s.srcReg t p A 0
  let lo : RegCell := { n := d, v := x.1, tag := tag.getD x.2 }
  if A.c = 2 then
    let y := s.srcReg t p A 1
    if d = 255 then [] else [lo, { n := d + 1, v := y.1, tag := tag.getD y.2 }]
  else [lo]

/-- NOP (15/R334). -/
def execNop (p : Pre) (s : State) : Out :=
  .next (s.mapLanes p fun _ => .done [] 0#6)

/-- MOV: a register or a pair with its tags (15/R329). -/
def execMov (p : Pre) (w64 : Bool) (d a : Nat) (s : State) : Out :=
  let A : Src := { f := 1, n := a, c := if w64 then 2 else 1, perm := p.pa, want := none }
  .next (s.regOp p .any [dst d w64] [A] fun t => .done (s.copyCells t p A d none) 0#6)

/-- MOVX: the register numbered (A field + b) mod 256 (15/R330). -/
def execMovx (p : Pre) (d a b : Nat) (s : State) : Out :=
  let B := srcR 2 b p.pb
  .next (s.regOp p .any [dst d false] [B] fun t =>
    let n := (a + s.srcVal t p B) % 256
    match s.rangeFault t [srcR 1 n noPerm] with
    | some x => x
    | none => let x := s.readReg t n; .done (wr d x.1.toNat x.2) 0#6)

/-- MOVXW: the register numbered (D field + b) mod 256 is written (15/R330). -/
def execMovxw (p : Pre) (d a b : Nat) (s : State) : Out :=
  let A := srcR 1 a p.pa
  let B := srcR 2 b p.pb
  .next (s.regOp p .any [] [A, B] fun t =>
    let n := (d + s.srcVal t p B) % 256
    match s.rangeFault t [srcR 0 n noPerm] with
    | some x => x
    | none => if s.writePending t n then .hold else .done (s.copyCells t p A n none) 0#6)

/-- TAG: A copied under tag CODE; FOREIGN only at level E (15/R332). -/
def execTag (p : Pre) (w64 : Bool) (code : Tag) (d a : Nat) (s : State) : Out :=
  let A : Src := { f := 1, n := a, c := if w64 then 2 else 1, perm := p.pa, want := none }
  .next (s.mapLanes p fun t =>
    match s.gate t p (if code = .foreign then .levelE else .any) [dst d w64] [A] with
    | some x => x
    | none => .done (s.copyCells t p A d (some code)) 0#6)

/-- TAGQ: the tag code of A (15/R332). -/
def execTagq (p : Pre) (d a : Nat) (s : State) : Out :=
  let A := srcR 1 a p.pa
  .next (s.regOp p .any [dst d false] [A] fun t => .done (wr d (s.srcTag t p A).code .n32) 0#6)

/-- The values of IDQ (15/R333). -/
def State.idValue (s : State) (t : Thread) (sel : Nat) : Nat :=
  let tm := s.teamOf t
  let g := s.gridOf t
  match sel with
  | 0 => t.id.lane
  | 1 => groupIndex tm t.id.slot
  | 2 => s.teamIndex t
  | 3 => tm.num
  | 4 => g.teams
  | 5 => tm.groups.length
  | 6 => t.id.slot
  | 7 => t.id.core
  | 8 => s.ctxOf t
  | 9 => s.subPos t (s.width t)
  | 10 => s.width t
  | 11 => (s.roleOf t).kind
  | 12 => s.nrOf t
  | 13 => if t.levelE then 1 else 0
  | 14 => g.args.toNat % 4294967296
  | 15 => g.args.toNat / 4294967296
  | 16 => tm.privBase % 4294967296
  | _ => tm.privBase / 4294967296

/-- IDQ (15/R333). -/
def execIdq (p : Pre) (d sel : Nat) (s : State) : Out :=
  .next (s.regOp p .any [dst d false] [] fun t => .done (wr d (s.idValue t sel) .n32) 0#6)

/-- MOVI: the low 32 bits of the immediate under TYPE (15/R331). -/
def execMovi (p : Pre) (ty : Tag) (d : Nat) (imm : Int) (s : State) : Out :=
  .next (s.regOp p .any [dst d false] [] fun _ => .done (wr d (wrapTo 32 imm) ty) 0#6)

/-- MOVI64: the immediate sign-extended to 64 bits (15/R331). -/
def execMovi64 (p : Pre) (ty : Tag) (d : Nat) (imm : Int) (s : State) : Out :=
  .next (s.regOp p .any [dst d true] [] fun _ => .done (wrPair d (wrapTo 64 imm) ty) 0#6)

end Sys2Proof.Machine
end

