-- ==== Sys2Proof/Machine/Float.lean ====
section
/-! DEFINITION. Floating-point instructions, functions and dot products (16/R343 to R352). -/

namespace Sys2Proof.Machine

/-- The seed operand of an instruction: read only under SR (16/R343). -/
def seedSrc (p : Pre) (rnd : Rnd) (c : Nat) : List Src := if rnd = .sr then [srcR 3 c p.pc] else []
/-- The generator's value for element i, zero in the other modes (08/R187). -/
def State.gen (s : State) (t : Thread) (p : Pre) (rnd : Rnd) (c i : Nat) : Nat :=
  if rnd = .sr then srGen (s.srcVal t p (srcR 3 c p.pc)) i else 0

/-- An F32 instruction of one source. -/
def State.flt1 (s : State) (p : Pre) (d a : Nat) (f : FVal → Nat × Status) (tag : Tag) : State :=
  let A := srcT 1 a p.pa .f32
  s.regOp p .vector [dst d false] [A] fun t =>
    let r := f (fdecode f32 (s.srcVal t p A))
    .done (wr d r.1 tag) r.2
/-- An F32 instruction of two sources and a seed. -/
def State.flt2 (s : State) (p : Pre) (rnd : Rnd) (d a b c : Nat) (f : Nat → FVal → FVal → Nat × Status) : State :=
  let A := srcT 1 a p.pa .f32
  let B := srcT 2 b p.pb .f32
  s.regOp p .vector [dst d false] ([A, B] ++ seedSrc p rnd c) fun t =>
    let r := f (s.gen t p rnd c 0) (fdecode f32 (s.srcVal t p A)) (fdecode f32 (s.srcVal t p B))
    .done (wr d r.1 .f32) r.2
/-- A function of one source, delivered when it completes (16/R349). -/
def State.func1 (s : State) (p : Pre) (d a : Nat) (f : FVal → Nat × Status) : State :=
  let A := srcT 1 a p.pa .f32
  s.funcOp p .vector [dst d false] [A] fun t =>
    let r := f (fdecode f32 (s.srcVal t p A))
    (wr d r.1 .f32, r.2)
/-- A packed instruction of two sources and a seed: both halves in the TYPE format (16/R350). -/
def State.half2 (s : State) (p : Pre) (ty : Tag) (rnd : Rnd) (d a b c : Nat) (f : Nat → Nat → Nat → Nat × Status) : State :=
  let A := srcT 1 a p.pa ty
  let B := srcT 2 b p.pb ty
  s.regOp p .vector [dst d false] ([A, B] ++ seedSrc p rnd c) fun t =>
    let r := mapElems 16 (fun j => f (s.gen t p rnd c j) (elemAt 16 j (s.srcVal t p A)) (elemAt 16 j (s.srcVal t p B))) 2 0
    .done (wr d (packElems 16 r.1) ty) r.2

/-- FADD: a + b (16/R344). -/
def execFadd (p : Pre) (rnd : Rnd) (d a b c : Nat) (s : State) : Out :=
  .next (s.flt2 p rnd d a b c fun r x y => faddVal f32 rnd r x y)

/-- FSUB: a − b (16/R344). -/
def execFsub (p : Pre) (rnd : Rnd) (d a b c : Nat) (s : State) : Out :=
  .next (s.flt2 p rnd d a b c fun r x y => faddVal f32 rnd r x y.negate)

/-- FMUL: a × b (16/R344). -/
def execFmul (p : Pre) (rnd : Rnd) (d a b c : Nat) (s : State) : Out :=
  .next (s.flt2 p rnd d a b c fun r x y => fmulVal f32 rnd r x y)

/-- FFMA: a × b + c rounded once (16/R344). -/
def execFfma (p : Pre) (rnd : Rnd) (d a b c : Nat) (s : State) : Out :=
  let A := srcT 1 a p.pa .f32
  let B := srcT 2 b p.pb .f32
  let C := srcT 3 c p.pc .f32
  .next (s.regOp p .vector [dst d false] [A, B, C] fun t =>
    let r := ffmaVal f32 rnd 0 (fdecode f32 (s.srcVal t p A)) (fdecode f32 (s.srcVal t p B)) (fdecode f32 (s.srcVal t p C))
    .done (wr d r.1 .f32) r.2)

/-- FSCALE: a × 2^b, b typed S32 (16/R344). -/
def execFscale (p : Pre) (rnd : Rnd) (d a b : Nat) (s : State) : Out :=
  let A := srcT 1 a p.pa .f32
  let B := srcT 2 b p.pb .s32
  .next (s.regOp p .vector [dst d false] [A, B] fun t =>
    let r := fscaleVal f32 rnd (fdecode f32 (s.srcVal t p A)) (toInt true 32 (s.srcVal t p B))
    .done (wr d r.1 .f32) r.2)

/-- FMIN: one of the operands (16/R345). -/
def execFmin (p : Pre) (d a b : Nat) (s : State) : Out :=
  let A := srcT 1 a p.pa .f32
  let B := srcT 2 b p.pb .f32
  .next (s.regOp p .vector [dst d false] [A, B] fun t =>
    let r := fminmaxBits f32 false (s.srcVal t p A) (s.srcVal t p B)
    .done (wr d r.1 .f32) r.2)

/-- FMAX: one of the operands (16/R345). -/
def execFmax (p : Pre) (d a b : Nat) (s : State) : Out :=
  let A := srcT 1 a p.pa .f32
  let B := srcT 2 b p.pb .f32
  .next (s.regOp p .vector [dst d false] [A, B] fun t =>
    let r := fminmaxBits f32 true (s.srcVal t p A) (s.srcVal t p B)
    .done (wr d r.1 .f32) r.2)

/-- FCMP: one predicate bit of D (16/R346). -/
def execFcmp (p : Pre) (cond : FCond) (comb : Comb) (d a b k : Nat) (s : State) : Out :=
  let A := srcT 1 a p.pa .f32
  let B := srcT 2 b p.pb .f32
  .next (s.regOp p .vector [dst d false] [A, B] fun t =>
    let old := s.srcReg t p (dst d false) 0
    let r := fcmpVal cond (fdecode f32 (s.srcVal t p A)) (fdecode f32 (s.srcVal t p B))
    .done (wr d (setBit old.1 k (combBit comb r.1 (getBit old.1 k))).toNat old.2) r.2)

/-- The integer value of an F32 (16/R347): a zero result keeps the sign. -/
def froundIntVal (rnd : Rnd) (a : FVal) : Nat × Status :=
  match a with
  | .nan _ => (f32.nan, sigNV [a])
  | .inf n => (infBits f32 n, 0#6)
  | .num n m e =>
    if 0 ≤ e then fround f32 .rne 0 n m 1 e
    else
      let den := 2 ^ (-e).toNat
      let q := roundInt rnd n 0 m den
      ((fround f32 .rne 0 n q 1 0).1, stIf (m % den != 0) stNX)

/-- The class bits of an F32 (16/R348). -/
def fclassBits (a : FVal) : Nat :=
  match a with
  | .inf n => if n then 1 else 128
  | .nan sg => if sg then 256 else 512
  | .num n m _ =>
    if m = 0 then (if n then 8 else 16)
    else if m < 8388608 then (if n then 4 else 32)
    else (if n then 2 else 64)

/-- FROUND (16/R347). -/
def execFround (p : Pre) (rnd : Rnd) (d a : Nat) (s : State) : Out :=
  .next (s.flt1 p d a (froundIntVal rnd) .f32)

/-- FCLASS (16/R348). -/
def execFclass (p : Pre) (d a : Nat) (s : State) : Out :=
  .next (s.flt1 p d a (fun x => (fclassBits x, 0#6)) .n32)

/-- FRCP, correctly rounded (08/R194, 16/R349). -/
def execFrcp (p : Pre) (rnd : Rnd) (d a : Nat) (s : State) : Out :=
  .next (s.func1 p d a (frcpVal f32 rnd))

/-- FRSQ, correctly rounded (08/R194, 16/R349). -/
def execFrsq (p : Pre) (rnd : Rnd) (d a : Nat) (s : State) : Out :=
  .next (s.func1 p d a (frsqVal f32 rnd))

/-- FSQRT, correctly rounded (08/R194, 16/R349). -/
def execFsqrt (p : Pre) (rnd : Rnd) (d a : Nat) (s : State) : Out :=
  .next (s.func1 p d a (fsqrtVal f32 rnd))

/-- FDIV: a / b, correctly rounded (08/R194, 16/R349). -/
def execFdiv (p : Pre) (rnd : Rnd) (d a b : Nat) (s : State) : Out :=
  let A := srcT 1 a p.pa .f32
  let B := srcT 2 b p.pb .f32
  .next (s.funcOp p .vector [dst d false] [A, B] fun t =>
    let r := fdivVal f32 rnd (fdecode f32 (s.srcVal t p A)) (fdecode f32 (s.srcVal t p B))
    (wr d r.1 .f32, r.2))

/-- FEXP2, the exact result rounded RNE (08/R195, 16/R349). -/
def execFexp2 (p : Pre) (d a : Nat) (s : State) : Out :=
  .next (s.func1 p d a (fexp2Val f32))

/-- FLOG2, the exact result rounded RNE (08/R195, 16/R349). -/
def execFlog2 (p : Pre) (d a : Nat) (s : State) : Out :=
  .next (s.func1 p d a (flog2Val f32))

/-- FSIN, the exact result rounded RNE (08/R195, 16/R349). -/
def execFsin (p : Pre) (d a : Nat) (s : State) : Out :=
  .next (s.func1 p d a (ftrigVal f32 false))

/-- FCOS, the exact result rounded RNE (08/R195, 16/R349). -/
def execFcos (p : Pre) (d a : Nat) (s : State) : Out :=
  .next (s.func1 p d a (ftrigVal f32 true))

/-- FTANH, the exact result rounded RNE (08/R195, 16/R349) (one point DEDUCED, log entry 81). -/
def execFtanh (p : Pre) (d a : Nat) (s : State) : Out :=
  .next (s.func1 p d a (ftanhVal f32))

/-! ## Packed halves and dot products (16/R350 to R352) -/

/-- HADD2. -/
def execHadd2 (p : Pre) (ty : Tag) (rnd : Rnd) (d a b c : Nat) (s : State) : Out :=
  .next (s.half2 p ty rnd d a b c fun r x y => faddVal (fmtOf ty) rnd r (fdecode (fmtOf ty) x) (fdecode (fmtOf ty) y))

/-- HMUL2. -/
def execHmul2 (p : Pre) (ty : Tag) (rnd : Rnd) (d a b c : Nat) (s : State) : Out :=
  .next (s.half2 p ty rnd d a b c fun r x y => fmulVal (fmtOf ty) rnd r (fdecode (fmtOf ty) x) (fdecode (fmtOf ty) y))

/-- HFMA2: each element rounded once. -/
def execHfma2 (p : Pre) (ty : Tag) (rnd : Rnd) (d a b c : Nat) (s : State) : Out :=
  let f := fmtOf ty
  let A := srcT 1 a p.pa ty
  let B := srcT 2 b p.pb ty
  let C := srcT 3 c p.pc ty
  .next (s.regOp p .vector [dst d false] [A, B, C] fun t =>
    let x := fun (S : Src) (j : Nat) => fdecode f (elemAt 16 j (s.srcVal t p S))
    let r := mapElems 16 (fun j => ffmaVal f rnd 0 (x A j) (x B j) (x C j)) 2 0
    .done (wr d (packElems 16 r.1) ty) r.2)

/-- HMIN2. -/
def execHmin2 (p : Pre) (ty : Tag) (d a b : Nat) (s : State) : Out :=
  .next (s.half2 p ty .rne d a b 255 fun _ x y => fminmaxBits (fmtOf ty) false x y)

/-- HMAX2. -/
def execHmax2 (p : Pre) (ty : Tag) (d a b : Nat) (s : State) : Out :=
  .next (s.half2 p ty .rne d a b 255 fun _ x y => fminmaxBits (fmtOf ty) true x y)

/-- prior + Σ a_k × b_k, the sum exact and rounded once (08/R196, 16/R351): a NaN operand, ∞ × 0 or infinities of both
signs give the canonical NaN, with NV unless quiet NaNs are the only cause; an exact zero sum is +0 unless every term
is −0. -/
def dotVal (f : FFmt) (rnd : Rnd) (prior : FVal) (terms : List (FVal × FVal)) : Nat × Status :=
  let ops := prior :: terms.flatMap fun x => [x.1, x.2]
  let prods := terms.map fun x => if x.1.isNan || x.2.isNan then some (FVal.nan false) else fmulExact x.1 x.2
  let vals := prior :: prods.filterMap id
  let hasInf := fun (neg : Bool) => vals.any fun v => v.isInf && v.neg == neg
  let invalid := prods.any (·.isNone) || (hasInf true && hasInf false)
  if invalid || ops.any FVal.isNan then (f.nan, sigNV ops ||| stIf invalid stNV)
  else if hasInf true then (infBits f true, 0#6)
  else if hasInf false then (infBits f false, 0#6)
  else
    let k := vals.foldl (fun m v => min m v.exp) prior.exp
    let x := (vals.map fun v => v.atExp k).sum
    froundInt f rnd 0 (vals.all fun v => v.isZero && v.neg) x k

/-- Products added in ascending order with sat_s32 after each (08/R197): the sum and whether any clamp changed it. -/
def satSum (acc : Int) (changed : Bool) : List Int → Int × Bool
  | [] => (acc, changed)
  | x :: l =>
    let y := acc + x
    let z := min (max y (-2147483648)) 2147483647
    satSum z (changed || decide (z ≠ y)) l
/-- An S32 accumulation of exact products (08/R197). -/
def dotInt (sat : Bool) (prior : Int) (prods : List Int) : Nat × Status :=
  if sat then let r := satSum prior false prods; (wrapTo 32 r.1, stIf r.2 stSAT) else (wrapTo 32 (prior + prods.sum), 0#6)

/-- DOT2: a_0 b_0 + a_1 b_1 + c into F32 (16/R351). -/
def execDot2 (p : Pre) (ty : Tag) (rnd : Rnd) (d a b c : Nat) (s : State) : Out :=
  let f := fmtOf ty
  let A := srcT 1 a p.pa ty
  let B := srcT 2 b p.pb ty
  let C := srcT 3 c p.pc .f32
  .next (s.regOp p .vector [dst d false] [A, B, C] fun t =>
    let x := fun (S : Src) (j : Nat) => fdecode f (elemAt 16 j (s.srcVal t p S))
    let r := dotVal f32 rnd (fdecode f32 (s.srcVal t p C)) [(x A 0, x B 0), (x A 1, x B 1)]
    .done (wr d r.1 .f32) r.2)

/-- DOT4: c + Σ a_k b_k over four bytes into S32 (16/R352). -/
def execDot4 (p : Pre) (ty : Tag) (sat : Bool) (d a b c : Nat) (s : State) : Out :=
  let A := srcT 1 a p.pa ty
  let B := srcT 2 b p.pb ty
  let C := srcT 3 c p.pc .s32
  .next (s.regOp p .vector [dst d false] [A, B, C] fun t =>
    let x := fun (S : Src) (j : Nat) => elemInt ty j (s.srcVal t p S)
    let r := dotInt sat (toInt true 32 (s.srcVal t p C)) [x A 0 * x B 0, x A 1 * x B 1, x A 2 * x B 2, x A 3 * x B 3]
    .done (wr d r.1 .s32) r.2)

end Sys2Proof.Machine
end

