-- ==== Sys2Proof/Machine/Convert.lean ====
section
/-! DEFINITION. Conversions between formats, XB blocks, and MREDUCE (08/R184, R185, R191 to R193, R198; 16/R353 to
R357). -/

namespace Sys2Proof.Machine

/-! ## CVT (08/R191 to R193, 16/R353) -/

/-- A floating-point value converted to an integer format (08/R192). -/
def floatToInt (ty : Tag) (rnd : Rnd) (r16 : Nat) (a : FVal) : Nat × Status :=
  let w := ty.width
  let sg := tagSigned ty
  match a with
  | .nan _ => (0, stNV)
  | .inf n => (wrapTo w (if n then leastOf sg w else greatestOf sg w), stNV)
  | .num n m e =>
    let q := scaleQuot m 1 e
    let r : Int := roundInt rnd n r16 q.1 q.2
    let x : Int := if n then -r else r
    if x < leastOf sg w then (wrapTo w (leastOf sg w), stNV)
    else if greatestOf sg w < x then (wrapTo w (greatestOf sg w), stNV)
    else (wrapTo w x, stIf (q.1 % q.2 != 0) stNX)

/-- One element converted (16/R353); integer widening extends, whatever `.SAT` is (08/R193); `r16` is the generator's value for it. -/
def convElem (ty : Tag) (rnd : Rnd) (sty : Tag) (sat : Bool) (r16 x : Nat) : Nat × Status :=
  if sty.isFloat then
    let f := fmtOf sty
    let a := fdecode f x
    if ty.isFloat then
      if a.isNan then (if ty = sty ∧ !a.isSig then x else (fmtOf ty).nan, sigNV [a])
      else if ty = sty then (x, 0#6)
      else froundVal (fmtOf ty) rnd r16 a
    else floatToInt ty rnd r16 a
  else
    let v := toInt (tagSigned sty) sty.width x
    if ty.isFloat then froundInt (fmtOf ty) rnd r16 false v 0
    else intResult (tagSigned ty) (sat && decide (ty.width ≤ sty.width)) ty.width v

/-- CVT: N elements from one side to the other; a narrower destination keeps its other elements (16/R353). -/
def execCvt (p : Pre) (ty : Tag) (rnd : Rnd) (sty : Tag) (sat : Bool) (d a b e : Nat) (s : State) : Out :=
  let sw := sty.width
  let dw := ty.width
  let w := cvtW sw dw
  let n := 32 / w
  let A := srcT 1 a p.pa sty
  let B := if rnd = .sr then [srcR 2 b p.pb] else []
  .next (s.regOp p .vector [dst d ty.is64] (A :: B) fun t =>
    let at_ := fun (side j : Nat) => if side < w then e * n + j else j
    let seed := s.srcVal t p (srcR 2 b p.pb)
    let r := mapElems dw (fun j =>
      convElem ty rnd sty sat (if rnd = .sr then srGen seed (at_ dw j) else 0) (elemAt sw (at_ sw j) (s.srcVal t p A))) n 0
    let new := packElems dw r.1
    if dw < w then
      let old := (s.srcReg t p (dst d false) 0).1.toNat
      .done (wr d (old - bitsAt old (e * n * dw) (n * dw) * 2 ^ (e * n * dw) + new * 2 ^ (e * n * dw)) ty) r.2
    else .done (wrAny ty.is64 d new ty) r.2)

/-! ## XB blocks (08/R183 to R185) -/

/-- The mantissa width of an XB format. -/
def xbW (ty : Tag) : Nat := if ty = .xb8 then 7 else 3
/-- The exponent offset of an XB format: the value of a mantissa is m × 2^(E − offset). -/
def xbOff (ty : Tag) : Int := 126 + xbW ty
/-- ⌊log2⌋ of a finite nonzero value. -/
def FVal.log2 (v : FVal) : Int :=
  match v with
  | .num _ m e => (Nat.log2 m : Int) + e
  | _ => 0

/-- round_E(x) (08/R184); i is the element's number for stochastic rounding. -/
def xbRound (ty : Tag) (rnd : Rnd) (seed : Nat) (E : Int) (i : Nat) (v : FVal) : Int :=
  match v with
  | .num n m e =>
    let q := scaleQuot m 1 (e - (E - xbOff ty))
    let r : Int := roundInt rnd n (if rnd = .sr then srGen seed i else 0) q.1 q.2
    if n then -r else r
  | _ => 0

/-- The exponent selection of a block of finite values (08/R184). -/
def xbExps (ty : Tag) (rnd : Rnd) (seed : Nat) (xs : List FVal) : Int × Int :=
  let d : Int := if ty = .xb8 then 4 else 2
  let es := (xs.filter fun v => !v.isZero).map FVal.log2
  match es with
  | [] => (0, 0)
  | e :: _ =>
    let top := es.foldl max e
    let low := es.filter fun x => decide (x ≤ top - d)
    let e1 := max (top + 128) 0
    let e0 := match low with
      | [] => e1
      | y :: _ => max (low.foldl max y + 128) 0
    let mmax : Int := 2 ^ (xbW ty - 1) - 1
    let raised := xs.mapIdx (fun i v => decide (mmax < xbRound ty rnd seed e1 i v))
    let r := if e1 < 254 ∧ raised.any id then (if e0 = e1 then e1 + 1 else e0, e1 + 1) else (e0, e1)
    (min r.1 254, min r.2 254)

/-- A block: the scale word's exponents, the sixteen elements, and the status (08/R184). -/
def xbBlock (ty : Tag) (rnd : Rnd) (seed : Nat) (xs : List FVal) : Nat × List Nat × Status :=
  if xs.any fun v => v.isNan || v.isInf then
    (0xFFFF, xs.map fun _ => 0, stIf (xs.any fun v => v.isSig || v.isInf) stNV)
  else
    let e := xbExps ty rnd seed xs
    let w := xbW ty
    let mmax : Int := 2 ^ (w - 1) - 1
    let mmin : Int := -(2 ^ (w - 1) : Nat)
    let one := fun (i : Nat) (v : FVal) =>
      let r0 := xbRound ty rnd seed e.1 i v
      let r1 := xbRound ty rnd seed e.2 i v
      let low := decide (mmin ≤ r0) && decide (r0 ≤ mmax)
      let m := if low then r0 else min (max r1 mmin) mmax
      let k := (if low then e.1 else e.2) - xbOff ty
      let j := min k v.exp
      let same := decide ((m * (2 ^ (k - j).toNat : Nat)) = v.atExp j)
      ((if low then 0 else 2 ^ w) + wrapTo w m, stIf (!low && decide (m ≠ r1)) (stOF ||| stNX) ||| stIf (!same) stNX)
    let r := xs.mapIdx one
    (e.1.toNat + 256 * e.2.toNat, r.map (·.1), (r.map (·.2)).foldl (· ||| ·) 0#6)

/-- Element bits of an XB format. -/
def xbBits (ty : Tag) : Nat := xbW ty + 1
/-- The exact value of an element of a block; `none` in a NaN block (08/R183). -/
def xbVal (ty : Tag) (scale el : Nat) : FVal :=
  let w := xbW ty
  let e0 := bitsAt scale 0 8
  let e1 := bitsAt scale 8 8
  if e0 = 255 ∨ e1 = 255 then .nan false
  else
    let m := toInt true w (bitsAt el 0 w)
    .num (decide (m < 0)) m.natAbs (((if bitsAt el w 1 = 1 then e1 else e0) : Nat) - xbOff ty)

/-- The sixteen elements packed in 32-bit registers. -/
def packRegs (w : Nat) (els : List Nat) : Nat → Nat → List Nat
  | 0, _ => []
  | n + 1, i => packElems w ((els.drop (i * (32 / w))).take (32 / w)) :: packRegs w els n (i + 1)

/-- A word with one half replaced. -/
def setHalf (old : Nat) (h : Bool) (x : Nat) : Nat :=
  if h then old % 65536 + x * 65536 else old - old % 65536 + x

/-- A run of registers as F32 values. -/
def State.runVals (s : State) (t : Thread) (p : Pre) (A : Src) (n : Nat) : List FVal :=
  (List.range n).map fun i => fdecode f32 (s.srcReg t p A i).1.toNat

/-- CVTXB: sixteen F32 values to one block, the scale word to half h of B (08/R184, 16/R354). -/
def execCvtxb (p : Pre) (ty : Tag) (rnd : Rnd) (h : Bool) (d a b c : Nat) (s : State) : Out :=
  let A : Src := { f := 1, n := a, c := 16, perm := p.pa, want := some .f32 }
  let B := srcR 2 b p.pb
  let n := 16 * xbBits ty / 32
  let D : Src := { f := 0, n := d, c := n, perm := noPerm, want := none }
  .next (s.regOp p .vector [D] ([A, B] ++ seedSrc p rnd c) fun t =>
    if s.writePending t b then .hold
    else
      let r := xbBlock ty rnd (s.srcVal t p (srcR 3 c p.pc)) (s.runVals t p A 16)
      .done (wrRun d ty (packRegs (xbBits ty) r.2.1 n 0) ++ wr b (setHalf (s.srcVal t p B) h r.1) .xsc) r.2.2)

/-- XBEXP: the scale word alone, into half h of D (16/R355). -/
def execXbexp (p : Pre) (ty : Tag) (rnd : Rnd) (h : Bool) (d a c : Nat) (s : State) : Out :=
  let A : Src := { f := 1, n := a, c := 16, perm := p.pa, want := some .f32 }
  .next (s.regOp p .vector [dst d false] (A :: seedSrc p rnd c) fun t =>
    let r := xbBlock ty rnd (s.srcVal t p (srcR 3 c p.pc)) (s.runVals t p A 16)
    .done (wr d (setHalf (s.srcReg t p (dst d false) 0).1.toNat h r.1) .xsc) (r.2.2 &&& stNV))

/-- XBUNP: one block back to F32 or BF16, exactly (08/R185, 16/R356). -/
def execXbunp (p : Pre) (ty : Tag) (sty : Tag) (h : Bool) (d a b : Nat) (s : State) : Out :=
  let k := xbBits sty
  let A : Src := { f := 1, n := a, c := 16 * k / 32, perm := p.pa, want := some sty }
  let B := srcT 2 b p.pb .xsc
  let n := 16 * ty.width / 32
  let D : Src := { f := 0, n := d, c := n, perm := noPerm, want := none }
  .next (s.regOp p .vector [D] [A, B] fun t =>
    let scale := bitsAt (s.srcVal t p B) (if h then 16 else 0) 16
    let el := fun i => elemAt k (i % (32 / k)) (s.srcReg t p A (i / (32 / k))).1.toNat
    let val := fun i => match xbVal sty scale (el i) with
      | .num ng m e => (froundInt (fmtOf ty) .rne 0 false ((if ng then -1 else 1) * (m : Int)) e).1
      | _ => (fmtOf ty).nan
    .done (wrRun d ty (packRegs ty.width ((List.range 16).map val) n 0)) 0#6)

/-! ## The pairwise tree (08/R198) and MREDUCE (16/R357) -/

/-- One level of the tree: neighbours combined, an odd last item carried unchanged. -/
def pairUp {α : Type} (f : α → α → α) : List α → List α
  | x :: y :: l => f x y :: pairUp f l
  | l => l
/-- The fixed pairwise tree over a list. -/
def pairTree {α : Type} (f : α → α → α) : Nat → List α → Option α
  | _, [] => none
  | _, [x] => some x
  | 0, x :: _ => some x
  | n + 1, l => pairTree f n (pairUp f l)

/-- A combine on values with the status raised so far. -/
def withStat (f : Nat → Nat → Nat × Status) (x y : Nat × Status) : Nat × Status :=
  let r := f x.1 y.1
  (r.1, x.2 ||| y.2 ||| r.2)

/-- x × n / cnt with one rounding (16/R357). -/
def scaleVal (rnd : Rnd) (x n cnt : Nat) : Nat × Status :=
  match fdecode f32 x with
  | .nan sg => (f32.nan, stIf sg stNV)
  | .inf ng => (infBits f32 ng, 0#6)
  | .num ng m e => fround f32 rnd 0 ng (m * n) cnt e

/-- The reduction of the listed values (16/R357); the sum of one value carries it (08/R189) (one point DEDUCED, log entry 94). -/
def mreduceVal (rnd : Rnd) (mode : MredMode) (l : List Nat) (n : Nat) : Nat × Status :=
  match pairTree (withStat fun x y => faddVal f32 rnd 0 (fdecode f32 x) (fdecode f32 y)) l.length (l.map fun x => (x, 0#6)) with
  | none => (0, 0#6)
  | some v =>
    match mode with
    | .sum => let r := carryVal f32 v.1; (r.1, v.2 ||| r.2)
    | .mean => let r := scaleVal rnd v.1 1 l.length; (r.1, v.2 ||| r.2)
    | .scale => let r := scaleVal rnd v.1 n l.length; (r.1, v.2 ||| r.2)

/-- MREDUCE: the registers whose mask bit is set are typed, read and reduced (16/R357). -/
def execMreduce (p : Pre) (rnd : Rnd) (mode : MredMode) (d a b n : Nat) (s : State) : Out :=
  let A : Src := { f := 1, n := a, c := n, perm := p.pa, want := none }
  let B := srcR 2 b p.pb
  .next (s.regOp p .vector [dst d false] [A, B] fun t =>
    let on := (List.range n).filter fun j => bitsAt (s.srcVal t p B) j 1 == 1
    match s.formatFault t p (on.map fun j => { f := 1, n := if a = 255 then 255 else a + j, c := 1, perm := p.pa, want := some .f32 }) with
    | some x => x
    | none =>
      let r := mreduceVal rnd mode (on.map fun j => (s.srcReg t p A j).1.toNat) n
      .done (wr d r.1 .f32) r.2)

end Sys2Proof.Machine
end

