-- ==== Sys2Proof/Machine/CrossLane.lean ====
section
/-! DEFINITION. Cross-lane instructions (16/R358 to R363) and their convergence (14/R316). -/

namespace Sys2Proof.Machine

/-- The subgroup size a cross-lane instruction converges in: a size that is undefined falls back to the declared width
(12/R275). -/
def State.crossSize (s : State) (t : Thread) (p : Pre) : Nat := if s.tooWide t p then s.width t else s.gSize t p

/-- The lane passes its guard and does not fault (16/R358). -/
def State.execPos (s : State) (p : Pre) (dsts srcs : List Src) (t : Thread) : Bool :=
  t.live && s.guardValue p t && (s.gate t p .vector dsts srcs).isNone
/-- The executing positions of a thread's subgroup in ascending order. -/
def State.execSet (s : State) (p : Pre) (dsts srcs : List Src) (t : Thread) : List Thread :=
  ((s.subgroup t (s.crossSize t p)).map s.thread).filter fun x => s.execPos p dsts srcs x

/-- A cross-lane instruction: it issues only for whole subgroups; an undefined form traps the whole subgroup whatever its
guards; every executing position computes from the executing positions of its subgroup. -/
def State.crossOp (s : State) (p : Pre) (bad : Thread → Bool) (dsts : Thread → List Src) (srcs : List Src)
    (f : Thread → List Thread → Lane) : State :=
  let who := s.convGroup fun t => s.crossSize t p
  let eff : Thread → Lane := fun t =>
    s.underGuard p t
      (match s.gate t p .vector (dsts t) srcs with
       | some x => x
       | none => f t (s.execSet p (dsts t) srcs t))
  let one : Thread → Thread := fun t =>
    if !s.converged t (s.crossSize t p) then t.after s p true (s.convWait t (s.crossSize t p))
    else if s.tooWide t p || bad t then t.after s p (s.guardValue p t) (.trap 0x01 0 none)
    else if s.subgroupHolds (s.crossSize t p) eff t then t.after s p true .hold
    else t.after s p (s.guardValue p t) (eff t)
  let s1 : State := { s with threads := s.threads.map fun t => if who.contains t.id then one t else t }
  s1.settle who

/-- Whether a destination that is a pair at g = 64 may not be one (16/R358). -/
def badPair (g d : Nat) : Bool := g == 64 && (d % 2 == 1 || d == 254) && d != 255
/-- The pack of subgroup bits: a register up to 32 positions, a pair at 64 (16/R360). -/
def wrMask (g d x : Nat) : List RegCell := if g = 64 then wrPair d x .n64 else wr d x .n32
/-- Bits of the positions that meet a test. -/
def State.posMask (s : State) (g : Nat) (l : List Thread) (f : Thread → Bool) : Nat :=
  (l.map fun t => if f t then 2 ^ s.subPos t g else 0).sum

/-- SHFL: the value of the source position, with its tag (16/R359). -/
def execShfl (p : Pre) (mode : ShflMode) (w64 : Bool) (d a : Nat) (b : RegImm) (s : State) : Out :=
  let A : Src := { f := 1, n := a, c := if w64 then 2 else 1, perm := p.pa, want := none }
  .next (s.crossOp p (fun _ => false) (fun _ => [dst d w64]) (A :: srcRI p b) fun t _ =>
    let g := s.gSize t p
    let q := s.subPos t g
    let k := s.valRI t p b
    let src := match mode with
      | .idx => k % g
      | .up => if q < k then q else q - k
      | .down => if g ≤ q + k then q else q + k
      | .xor => q ^^^ (k % g)
    let from_ := s.thread (s.atSpace t (s.spacePos t / g * g + src))
    .done (s.copyCells from_ p A d none) 0#6)

/-- BALLOT (16/R360). -/
def execBallot (p : Pre) (d a k : Nat) (s : State) : Out :=
  let A := srcR 1 a p.pa
  .next (s.crossOp p (fun t => badPair (s.gSize t p) d) (fun t => [dst d (s.gSize t p == 64)]) [A] fun t l =>
    let g := s.gSize t p
    .done (wrMask g d (s.posMask g l fun x => getBit (s.srcReg x p A 0).1 k)) 0#6)

/-- VOTE: bit j of D (16/R361). -/
def execVote (p : Pre) (mode : VoteMode) (d a k j : Nat) (s : State) : Out :=
  let A := srcR 1 a p.pa
  .next (s.crossOp p (fun _ => false) (fun _ => [dst d false]) [A] fun t l =>
    let bits := l.map fun x => getBit (s.srcReg x p A 0).1 k
    let v := match mode with
      | .all => bits.all id
      | .any => bits.any id
      | .uni => bits.all id || bits.all (fun b => !b)
    let old := s.srcReg t p (dst d false) 0
    .done (wr d (setBit old.1 j v).toNat old.2) 0#6)

/-- MATCH: the executing positions whose value equals the lane's own (16/R362). -/
def execMatchv (p : Pre) (w64 : Bool) (d a : Nat) (s : State) : Out :=
  let A : Src := { f := 1, n := a, c := if w64 then 2 else 1, perm := p.pa, want := none }
  .next (s.crossOp p (fun t => badPair (s.gSize t p) d) (fun t => [dst d (s.gSize t p == 64)]) [A] fun t l =>
    let g := s.gSize t p
    .done (wrMask g d (s.posMask g l fun x => s.srcVal x p A == s.srcVal t p A)) 0#6)

/-- One combine of LREDUCE and LSCAN (16/R363). -/
def laneComb (ty : Tag) (sat : Bool) (op : LaneOp) (x y : Nat) : Nat × Status :=
  let w := atWidth ty
  let sg := tagSigned ty
  match op with
  | .add =>
    if ty = .f32 then faddVal f32 .rne 0 (fdecode f32 x) (fdecode f32 y) else intResult sg sat w (toInt sg w x + toInt sg w y)
  | .min => if ty = .f32 then fminmaxBits f32 false x y else (if toInt sg w y < toInt sg w x then y else x, 0#6)
  | .max => if ty = .f32 then fminmaxBits f32 true x y else (if toInt sg w x < toInt sg w y then y else x, 0#6)
  | .and => (x &&& y, 0#6)
  | .or => (x ||| y, 0#6)
  | .xor => (x ^^^ y, 0#6)

/-- The identity of a combine (05/R119); for F32 +0, +∞ and −∞ (16/R363). -/
def laneIdentity (ty : Tag) (op : LaneOp) : Nat :=
  let w := atWidth ty
  match op with
  | .min => if ty = .f32 then infBits f32 false else wrapTo w (greatestOf (tagSigned ty) w)
  | .max => if ty = .f32 then infBits f32 true else wrapTo w (leastOf (tagSigned ty) w)
  | .and => 2 ^ w - 1
  | _ => 0

/-- A combination's result: a NaN of a lone value is carried as the canonical one (08/R189) (one point DEDUCED, log entry 94). -/
def laneResult (ty : Tag) (r : Nat × Status) : Nat × Status :=
  if ty = .f32 then let q := carryVal f32 r.1; (q.1, r.2 ||| q.2) else r

/-- LREDUCE: the pairwise tree over the executing positions (16/R363). -/
def execLreduce (p : Pre) (ty : Tag) (sat : Bool) (op : LaneOp) (d a : Nat) (s : State) : Out :=
  let A := srcT 1 a p.pa ty
  .next (s.crossOp p (fun _ => false) (fun _ => [dst d ty.is64]) [A] fun _ l =>
    let xs := l.map fun x => (s.srcVal x p A, (0#6 : Status))
    let r := laneResult ty ((pairTree (withStat (laneComb ty sat op)) xs.length xs).getD (0, 0#6))
    .done (wrAny ty.is64 d r.1 ty) r.2)

/-- LSCAN: the left-to-right combination of the prefix (16/R363). -/
def execLscan (p : Pre) (ty : Tag) (sat : Bool) (op : LaneOp) (excl : Bool) (d a : Nat) (s : State) : Out :=
  let A := srcT 1 a p.pa ty
  .next (s.crossOp p (fun _ => false) (fun _ => [dst d ty.is64]) [A] fun t l =>
    let g := s.gSize t p
    let q := s.subPos t g
    let xs := (l.filter fun x => if excl then decide (s.subPos x g < q) else decide (s.subPos x g ≤ q)).map fun x =>
      (s.srcVal x p A, (0#6 : Status))
    let r := laneResult ty (match xs with
      | [] => (laneIdentity ty op, 0#6)
      | x :: rest => rest.foldl (withStat (laneComb ty sat op)) x)
    .done (wrAny ty.is64 d r.1 ty) r.2)

end Sys2Proof.Machine
end

