-- ==== Sys2Proof/Machine/Control.lean ====
section
/-! DEFINITION. Control transfer, seams, barriers and pacing (15/R335 to R340). -/

namespace Sys2Proof.Machine

/-- The target of a displacement from the item's address (15/R335). -/
def targetOf (pc : Nat) (off : Int) : Nat := wrapTo 64 ((pc : Int) + off)

/-- BRA (15/R335). -/
def execBra (p : Pre) (off : Int) (s : State) : Out := .next (s.mapLanes p fun t => .jump [] (targetOf t.pc off))

/-- CALL: the link is the address just past the call, tagged N64 (15/R335). -/
def execCall (p : Pre) (d : Nat) (off : Int) (s : State) : Out :=
  .next (s.regOp p .any [dst d true] [] fun t => .jump (wrPair d (t.pc + p.len.bytes) .n64) (targetOf t.pc off))

/-- A transfer to the address in a pair. -/
def State.jumpPair (s : State) (p : Pre) (a : Nat) : State :=
  let A := srcP 1 a p.pa
  s.regOp p .any [] [A] fun t => .jump [] (s.srcVal t p A)

/-- BRX (15/R335). -/
def execBrx (p : Pre) (a : Nat) (s : State) : Out := .next (s.jumpPair p a)

/-- CALLX: a is read before D is written (15/R335). -/
def execCallx (p : Pre) (d a : Nat) (s : State) : Out :=
  let A := srcP 1 a p.pa
  .next (s.regOp p .any [dst d true] [A] fun t => .jump (wrPair d (t.pc + p.len.bytes) .n64) (s.srcVal t p A))

/-- RET has the effect of BRX (15/R335). -/
def execRet (p : Pre) (a : Nat) (s : State) : Out := .next (s.jumpPair p a)

/-- SEAM: the thread waits at a blocking point for its home group; arriving is a release at GR (15/R337). -/
def execSeam (p : Pre) (s : State) : Out :=
  .next (s.mapLanes p fun t => if s.accPending t then s.accHold t else .block .seam none)

/-- BAR: the thread waits at a blocking point for its team; arriving is a release at TM (15/R338). -/
def execBar (p : Pre) (s : State) : Out :=
  .next (s.mapLanes p fun t => if s.accPending t then s.accHold t else .block .bar none)

/-- A slot's greedy run on an entry ends. -/
def endRun (i : IssueSlot) (hit : Nat → Bool) : IssueSlot :=
  match i.entry with
  | some e => if hit e then { entry := none, run := 0 } else i
  | none => i

/-- YIELD: the slot that issues from the threads' entry chooses afresh (15/R340). -/
def execYield (p : Pre) (s : State) : Out :=
  let passing := s.issue.any fun i => s.guardValue p (s.thread i)
  let core := (s.issue.headD { core := 0, slot := 0, lane := 0 }).core
  let hit : Nat → Bool := fun e => s.entries.any fun x => x.core == core && x.id == e && x.members.any s.issue.contains
  let s1 := s.mapLanes p fun _ => .done [] 0#6
  .next (if passing then s1.editCore core fun c => { c with slot0 := endRun c.slot0 hit, slot1 := endRun c.slot1 hit } else s1)

/-- PAUSE: nothing issues from the thread for 16 × n cycles or, in determinism mode, instructions of its core (15/R340). -/
def execPause (p : Pre) (n : Nat) (s : State) : Out :=
  .next (s.mapLanes p fun t =>
    if n = 0 then .done [] 0#6
    else .pause ((if (s.gridOf t).determ then (s.core t.id.core).issued else s.time.cyc) + 16 * n))

end Sys2Proof.Machine
end

