-- ==== Sys2Proof/Machine/Arrive.lean ====
section
/-! DEFINITION. Arrival words at their homes (10/R226 to R232): arming, credits, and the lossy region table (02/R50). -/

namespace Sys2Proof.Machine

/-- Bytes of a word written at its place. -/
def State.wordPut (s : State) (loc : WordLoc) (off : Nat) (l : List Byte) : State :=
  match loc with
  | .mem pa => (s.recall (pa / 128)).homeStore 0 (pa + off) l
  | .scr tm o => s.scrWrite tm (o + off) l

/-- Fields of an arrival word (10/R226): number k of its 4-byte fields. -/
def State.awField (s : State) (loc : WordLoc) (k : Nat) : Nat := s.wordAt loc (4 * k) 4
/-- The word is lossy (10/R227). -/
def State.awLossy (s : State) (loc : WordLoc) : Bool := bitsAt (s.awField loc 3) 0 1 == 1

/-- The word's entry leaves the lossy region table (02/R50). -/
def State.dropLossy (s : State) (loc : WordLoc) : State :=
  { s with fabric := { s.fabric with lossy := dropBy (fun e => e.loc == loc) s.fabric.lossy } }

/-- Every waiter on a generation that a credit closes is released, though a later generation closes with it (10/R229). -/
def State.closeGens (s : State) (loc : WordLoc) (gen adv : Nat) : State :=
  { s with threads := s.threads.map fun t =>
      match t.run with
      | .blocked (.await l g d sc) n none =>
        if l = loc ∧ (g % 4294967296 + 4294967296 - gen) % 4294967296 < adv then
          { t with run := .blocked (.await l g d sc) n (some (BitVec.ofNat 64 ((g + 1) % 4294967296))) }
        else t
      | _ => t }

/-- A credit of b bytes, and whether it overran (10/R229, R230). A generation that closes takes a lossy word out of the
table. -/
def State.credit (s : State) (loc : WordLoc) (b : Nat) : State × Bool :=
  let target := s.awField loc 0
  let sum := s.awField loc 1 + b
  let sat : Bool := decide (4294967295 < sum)
  let count := min sum 4294967295
  let adv := if target = 0 then 0 else count / target
  let left := if target = 0 then count else count % target
  let gen := (s.awField loc 2 + adv) % 4294967296
  let overran : Bool := sat || decide (2 ≤ adv)
  let flags := s.awField loc 3
  let flags' := if overran ∧ bitsAt flags 2 1 = 0 then flags + 4 else flags
  let s1 := (s.closeGens loc (s.awField loc 2) adv).wordPut loc 4 (leBytes 4 left ++ leBytes 4 gen ++ leBytes 4 flags')
  (if 0 < adv then s1.dropLossy loc else s1, overran)

/-- The mask area of a lossy word, as an offset from the word, and its number of blocks (10/R231). -/
def maskOff (mask : Nat) : Int := toInt true 32 mask
/-- The bytes of one bitmap. -/
def bitmapBytes (target : Nat) : Nat := (target / 256 + 63) / 64 * 8
/-- A place at a signed offset from a word. -/
def locShift (loc : WordLoc) (k : Int) : WordLoc :=
  match loc with
  | .mem pa => .mem (((pa : Int) + k).toNat)
  | .scr tm o => .scr tm (((o : Int) + k).toNat)

/-- Two ranges of addresses meet. -/
def overlap (a n b m : Nat) : Bool := decide (a < b + m) && decide (b < a + n)

/-- The region's first address as incoming LOSSY blocks name it (25/R435). -/
def State.scrWindow (s : State) (team off : Nat) : Nat :=
  let tm := s.team team
  Config.windowPA + tm.core * 2 ^ 22 + 2 ^ 21 + 16384 * tm.gran + off

/-- The operand of an arming of a word at an address is acceptable apart from the table (10/R228). The mask area of a word in
scratchpad has to lie where its team's data may (05/R108) (DESIGN CHOICE, log entry 107). -/
def armOk (scr : Bool) (scratch addr target ctl mask region : Nat) : Bool :=
  decide (0 < target) && bitsAt ctl 2 2 == 0 && bitsAt ctl 24 8 == 0 &&
  (bitsAt ctl 0 1 == 0 ||
    (target % 256 == 0 && region % 256 == 0 && mask % 8 == 0 && bitsAt ctl 4 20 != 0 &&
     (!scr || (decide (16384 ≤ region) && decide (region + target ≤ scratch) && decide (16384 ≤ (addr : Int) + maskOff mask) &&
       decide ((addr : Int) + maskOff mask + 2 * bitmapBytes target ≤ scratch)))))

/-- `AWSET` at its word: the status, 0 when armed (10/R228). `base` is the physical or window address of the region. -/
def State.arm (s : State) (ctx grid : Nat) (loc : WordLoc) (target ctl mask region base : Nat) : State × Nat :=
  let lossy : Bool := bitsAt ctl 0 1 == 1
  let s0 := s.dropLossy loc
  let flags := bitsAt ctl 0 2 + (if lossy then bitsAt ctl 4 20 * 16 else 0)
  if lossy then
    if s0.fabric.lossy.any (fun e => overlap e.region e.size base target) || decide (Config.lossyEntries ≤ s0.fabric.lossy.length) then
      (s, 1)
    else
      let e : LossyEntry :=
        { loc := loc, region := base, size := target, maskAt := mask, expiry := s.time.ns + 1000 * bitsAt ctl 4 20, ctx := ctx
          grid := grid }
      let s1 := s0.wordPut (locShift loc (maskOff mask)) 0 (zeros (2 * bitmapBytes target))
      let s2 := s1.wordPut loc 16 (leBytes 8 region ++ leBytes 4 mask ++ leBytes 4 0)
      let s3 := { s2 with fabric := { s2.fabric with lossy := s2.fabric.lossy ++ [e] } }
      ((s3.wordPut loc 0 (leBytes 4 target ++ leBytes 4 0)).wordPut loc 12 (leBytes 4 flags), 0)
  else ((s0.wordPut loc 0 (leBytes 4 target ++ leBytes 4 0)).wordPut loc 12 (leBytes 4 flags), 0)

/-- A region lies in one page of a level. -/
def onePage (level va n : Nat) : Bool := va / 2 ^ pageBits level == (va + n - 1) / 2 ^ pageBits level

end Sys2Proof.Machine
end

