-- ==== Sys2Proof/Machine/Log.lean ====
section
/-! DEFINITION. One lane's memory access element by element, the operand log and its reports (06/R143 to R148), and the
delivery of long-latency results (14/R310, R312; 12/R269). -/

namespace Sys2Proof.Machine

/-! ## Constant path (05/R124) -/

/-- A line of the constant caches of a core, or of its cluster. -/
def State.constLine (s : State) (cluster : Bool) (unit ctx line : Nat) : Option ConstLine :=
  s.const.find? fun c => c.cluster == cluster && c.unit == unit && c.ctx == ctx && c.line == line

/-- A line of the home put in the constant caches of a core and of its cluster. -/
def State.constFill (s : State) (core ctx line data : Nat) : State :=
  let c : ConstLine := { cluster := true, unit := clusterOf core, ctx := ctx, line := line, data := data }
  { s with const := s.const ++ [c, { c with cluster := false, unit := core }] }

/-- An `LDC` of one element: the core's constant cache, the cluster's, or the home, which fills both: a slice, or another node,
whose line follows with its response. -/
def State.constLoad (s : State) (t : Thread) (va n op : Nat) : State × LoadRes :=
  let core := t.id.core
  let ctx := s.ctxOf t
  let line := va / 128
  match s.constLine false core ctx line, s.constLine true (clusterOf core) ctx line with
  | some c, _ => (s, .bytes (lineRead c.data (va % 128) n))
  | none, some c =>
    ({ s with const := s.const ++ [{ c with cluster := false, unit := core }] }, .bytes (lineRead c.data (va % 128) n))
  | none, none =>
    let r := s.translateFor t va
    match r.2 with
    | .error c => (r.1, .fault c (vaValue va))
    | .ok x =>
      if x.apt = 0 ∧ r.1.homeWaits (x.pa / 128) then (r.1, .late)
      else r.1.farLoad t va n n op x (decide (x.apt < 4)) fun s d => s.constFill core ctx line d

/-! ## One element -/

/-- What one element of an access gives. -/
inductive ElemRes where
  | got (l : List Byte)
  | stored
  | fabric (dst tag : Nat)
  | port (dst tag : Nat)
  /-- It is performed when these requests have been answered. -/
  | acks (l : List (Nat × Nat))
  | window (t : Tid) (n count : Nat)
  | fault (cause : Nat) (value : DWord)
  /-- The credit was performed and overran with OVRT set (10/R230). -/
  | overran
  /-- It is performed later (11/R247, 01/R12). -/
  | late
  deriving DecidableEq, Repr

/-- A load's result as an element's. -/
def LoadRes.elem : LoadRes → ElemRes
  | .bytes l => .got l
  | .fabric d g => .fabric d g
  | .window t n c => .window t n c
  | .fault c v => .fault c v
  | .late => .late

/-- A store's result as an element's: a WRITE or ATOMIC it sent has still to leave its port (17/R369, R374). -/
def StoreRes.elem (r : StoreRes) (before after : State) : ElemRes :=
  match r with
  | .fault c v => .fault c v
  | .ok =>
    if before.fabric.reqs.length < after.fabric.reqs.length then
      match after.fabric.reqs.getLast? with
      | some q => .port q.dst q.tag
      | none => .stored
    else .stored

/-- The word an `AWSET`, `ARRIVE`, `AWAIT` or `WAITV` names: in scratchpad, or in a LOCAL page (10/R226), whose held
contributions reach it first (05/R120). For all but `WAITV` (`own`), what the core holds of the line goes home first too, so
that the thread's accesses to the word keep their order (11/R246). Cause 0 says that the access has to wait for a retraining link
(01/R12). -/
def State.awLoc (s : State) (t : Thread) (sp : Space) (addr align : Nat) (own : Bool) : State × Except (Nat × DWord) WordLoc :=
  let bad : Bool := addr % align != 0
  match sp with
  | .s =>
    (s, if bad then .error (0x15, vaValue addr)
        else if (s.team t.team).scrLost addr 4 then .error (0x17, vaValue addr) else .ok (.scr t.team addr))
  | _ =>
    let r := s.translateFor t addr
    match r.2 with
    | .error c => (r.1, .error (if bad then min c 0x15 else c, vaValue addr))
    | .ok x =>
      if x.apt ≠ 0 then (r.1, .error (0x14, vaValue addr))
      else if bad then (r.1, .error (0x15, vaValue addr))
      else if r.1.homeWaits (x.pa / 128) then (r.1, .error (0, vaValue addr))
      else
        let s1 := if own then r.1.yieldLine t addr else r.1
        let q := s1.homeRead x.pa 4 x.comp
        (q.1.noAlloc s1 x.cache x.pa own, if q.2.isSome then .ok (.mem x.pa) else .error (0x17, vaValue addr))

/-- A word that cannot be reached now: its fault, or the wait. -/
def wordFault (f : Nat × DWord) : ElemRes := if f.1 = 0 then .late else .fault f.1 f.2

/-- An `AWSET` performed (10/R228, 17/R379, 25/R435). What it writes in `G` leaves the core (04/R104). -/
def State.awsetDo (s : State) (t : Thread) (sp : Space) (addr target ctl mask : Nat) (region : DWord) : State × ElemRes :=
  let lossy : Bool := bitsAt ctl 0 1 == 1
  let r := s.awLoc t sp addr (if lossy then 32 else 16) true
  match r.2 with
  | .error f => (r.1, wordFault f)
  | .ok loc =>
    let tm := s.teamOf t
    let status := fun (x : State × Nat) => (if sp = .s ∨ x.2 ≠ 0 then x.1 else x.1.setSfx [t.team], ElemRes.got (leBytes 4 x.2))
    if !armOk (sp == .s) tm.scratch addr target ctl mask region.toNat then (r.1, .got (leBytes 4 1))
    else if !lossy then status (r.1.arm (s.ctxOf t) tm.grid loc target ctl mask 0 0)
    else if sp = .s then
      status (r.1.arm (s.ctxOf t) tm.grid loc target ctl mask region.toNat (s.scrWindow t.team region.toNat))
    else
      let q := r.1.translateFor t region.toNat
      match q.2 with
      | .error c => (q.1, .fault c region)
      | .ok x =>
        if !onePage x.level region.toNat target then (q.1, .got (leBytes 4 1))
        else if x.apt ≠ 0 then (q.1, .fault 0x14 region)
        else status (q.1.arm (s.ctxOf t) tm.grid loc target ctl mask region.toNat x.pa)

/-- An `ARRIVE` performed: its credit at the word's home (10/R229, R230). -/
def State.arriveDo (s : State) (t : Thread) (sp : Space) (addr b : Nat) : State × ElemRes :=
  let r := s.awLoc t sp addr 16 true
  match r.2 with
  | .error f => (r.1, wordFault f)
  | .ok loc =>
    if r.1.awLossy loc && addr % 32 != 0 then (r.1, .fault 0x15 (vaValue addr))
    else
      let c := r.1.credit loc b
      let s2 := if sp = .s then c.1 else c.1.setSfx [t.team]
      (s2, if c.2 && bitsAt (r.1.awField loc 3) 1 1 == 1 then .overran else .stored)

/-- What a `FLUSHL` gives: its flag waits until the write-back it sent to another node is performed there (17/R372). -/
def flushRes (before after : State) : ElemRes :=
  match (after.fabric.reqs.filter fun r => !(before.fabric.reqs.any fun q => q.dst == r.dst && q.tag == r.tag)).map fun r => (r.dst, r.tag) with
  | [] => .stored
  | l => .acks l

/-- Element i of an access performed at its address (17/R368, R373, R374). -/
def State.elemDo (s : State) (t : Thread) (a : Acc) (i addr op : Nat) : State × ElemRes :=
  let xb : Bool := match a.kind with | .xb _ _ => true | _ => false
  let n := if xb && i == 1 then 2 else a.elem
  let b := (a.data.drop (i * n)).take n
  -- loads and atomics of an uncorrectable line of the scratchpad take 0x17 (06/R151)
  let lost : Bool := a.sp == .s && (s.team a.team).scrLost addr n
  let scr := fun (op : AtOp) (b c : Nat) =>
    let old := s.scrRead t.team addr n
    ((s.scrWrite t.team addr (leBytes n (atomNew op a.ty (leNat old) b c))).setSfx [t.team],
     if lost then ElemRes.fault 0x17 (vaValue addr) else .got old)
  if a.sp = .s && !(s.team a.team).placed then (s, .fault 0x14 (vaValue addr))
  else
  match a.kind with
  | .load _ | .xb _ _ =>
    match a.sp with
    | .s => (s, if lost then .fault 0x17 (vaValue addr) else .got (s.scrRead a.team addr n))
    | .w => (s, (s.wLoad t addr n).elem)
    | .c => let r := s.constLoad t addr n op; (r.1, r.2.elem)
    | _ => let r := s.gLoad t addr n a.hint op (max n a.size) (!a.bound && !xb && a.ord == .none); (r.1, r.2.elem)
  | .store =>
    match a.sp with
    | .s => (if a.team = t.team then s.scrWrite a.team addr b else (s.scrWrite a.team addr b).setSfx [t.team], .stored)
    | .w => let r := s.wStore t addr b; (r.1, r.2.elem s r.1)
    | _ =>
      -- a release retires once the line it wrote is clean too (05/R117)
      let r := s.gStore t addr b a.hint (max n a.size)
      match r.2 with
      | .ok => if a.ord = .rel then (r.1.releaseL1 t.id.core (s.ctxOf t) a.sc (some (s.who t)), r.2.elem s r.1) else (r.1, r.2.elem s r.1)
      | _ => (r.1, r.2.elem s r.1)
  | .atom op2 x y =>
    match a.sp with
    | .s => scr op2 x.toNat y.toNat
    | .w => (s, .fault 0x14 (vaValue addr))
    | _ =>
      match if a.sp = .p ∧ n = 8 then s.pairAtom t addr op2 a.ty x.toNat y.toNat else none with
      | some r => (r.1, r.2.elem)
      | none => let r := s.gAtom t addr op2 a.ty x.toNat y.toNat op; (r.1, r.2.elem)
  | .red op2 x =>
    match a.sp with
    | .s => ((scr op2 x.toNat 0).1, .stored)
    | .w => (s, .fault 0x14 (vaValue addr))
    | _ =>
      match if a.sp = .p ∧ n = 8 then s.pairAtom t addr op2 a.ty x.toNat 0 else none with
      | some (s1, .bytes _) => (s1.editThread t.id fun z => { z with reds := z.reds + 1 }, .stored)
      | some r => (r.1, r.2.elem)
      | none => let r := s.gRed t addr op2 a.ty x.toNat a.hint; (r.1, r.2.elem s r.1)
  | .flush drop =>
    if 2 ^ 55 ≤ addr then (s, .fault 0x14 (vaValue addr))
    else
      let s1 := s.mergeOwn t.id.core (s.ctxOf t) (addr / 128)
      match s1.line? t.id.core (s.ctxOf t) (addr / 128) with
      | none => (s1, .stored)
      | some l =>
        let s2 := if drop then s1.evictLine l (some (s.who t)) else s1.writeBack l (some (s.who t))
        (s2, flushRes s1 s2)
  | .awset target ctl mask region => s.awsetDo t a.sp addr target ctl mask region
  | .arrive k => s.arriveDo t a.sp addr k
  | .wait => (s, .stored)

/-- The bytes of one element as register cells: pairs for 8 bytes, one register else, a narrow element extended
(17/R366). -/
def Acc.cells (a : Acc) (i : Nat) (l : List Byte) : List RegCell :=
  let tag : Tag := match a.kind with | .awset _ _ _ _ => .n32 | _ => a.ty
  let signed : Bool := match a.kind with | .load sg => sg | _ => false
  if a.d = 255 then []
  else if l.length = 8 then wrPair (a.d + 2 * i) (leNat l) tag
  else wr (a.d + i) (wrapTo 32 (toInt signed (8 * l.length) (leNat l))) tag

/-- The register cells that an element of an access will write, without their values. -/
def Acc.pending (a : Acc) (i : Nat) : List RegCell :=
  match a.kind with
  | .load _ | .atom _ _ _ => a.cells i (zeros (if a.elem < 4 then 4 else a.elem))
  | .awset _ _ _ _ => a.cells i (zeros 4)
  | .xb _ _ => wr a.d 0 .f32
  | _ => []

/-! ## Delivery (14/R310, R312; 12/R269; 06/R147) -/

/-- Status bits ORed into the frame's ASTAT. -/
def State.frameStat (s : State) (t : Thread) (d : Nat) (st : Status) : State :=
  if st = 0#6 then s
  else
    let r := s.frameWord t d (offStat t)
    match r.2 with
    | none => State.frameOk t (r.1, false)
    | some x => State.frameOk t (r.1.frameWr t d (offStat t) (leBytes 4 (x ||| st.toNat)))

/-- One destination register of an operation issued at a depth: in the frame copy where the thread is at a deeper level and frames
copy the register, else in the thread, or in the save image while its team is evicted (12/R269, R280; 06/R147). -/
def State.putCell (s : State) (tid : Tid) (depth : Nat) (c : RegCell) : State :=
  let t := s.thread tid
  let tm := s.team t.team
  if c.n = 255 then s
  else if t.depth ≠ depth ∧ c.n < 16 then State.frameOk t (s.frameReg t (depth + 1) c.n c.v c.tag)
  else
    match tm.image with
    | none => s.editThread tid fun x => x.setReg c.n c.v c.tag
    | some b =>
      let ta := saveTag b tm tid c.n
      { s with mem := memWrite (memWrite s.mem (saveReg b tm tid c.n) (wordBytes c.v)) ta
                        [setNibble (memGet s.mem ta) tid.lane c.tag.code] }

/-- Status bits of an operation issued at a depth ORed into ASTAT, where that level's stands. -/
def State.putStat (s : State) (tid : Tid) (depth : Nat) (st : Status) : State :=
  let t := s.thread tid
  let tm := s.team t.team
  if t.depth ≠ depth then s.frameStat t (depth + 1) st
  else
    match tm.image with
    | none => s.editThread tid fun x => x.orStat st
    | some b =>
      let sa := saveGroup b tm (groupIndex tm tid.slot) + 36864 + 64 * tid.lane + 12
      { s with mem := memWrite s.mem sa [BitVec.ofNat 8 ((memGet s.mem sa).toNat ||| st.toNat)] }

/-- Destination registers and status of an operation issued at a depth; an exited thread's are discarded. -/
def State.deliver (s : State) (tid : Tid) (depth : Nat) (w : List RegCell) (st : Status) : State :=
  if !(s.thread tid).live then s else (w.foldl (fun s c => s.putCell tid depth c) s).putStat tid depth st

/-- The flag mask that stands apart from the thread follows the flags that have completed: the frame's of a handler's
interrupted level (12/R269), and the save image's of an evicted team (06/R147). -/
def State.frameFlags (s : State) (tid : Tid) (depth : Nat) : State :=
  let t := s.thread tid
  let tm := s.team t.team
  if !t.live || t.depth < depth then s
  else if t.depth = depth then
    match tm.image with
    | none => s
    | some b =>
      { s with mem := memWrite s.mem (saveGroup b tm (groupIndex tm tid.slot) + 36864 + 64 * tid.lane + 8) (leBytes 2 (s.flagMask tid depth)) }
  else
    let r := s.frameWord t (depth + 1) (offMask t)
    match r.2 with
    | none => State.frameOk t (r.1, false)
    | some x => State.frameOk t (r.1.frameWr t (depth + 1) (offMask t) (leBytes 4 (x &&& s.flagMask tid depth)))

/-- An operation over: its results delivered and its flag complete. -/
def State.finishOp (s : State) (o : LongOp) : State :=
  let s1 := { s with ops := dropBy (fun x => x.id == o.id) s.ops }
  ((if o.dead then s1 else s1.deliver o.tid o.depth o.writes o.astat).frameFlags o.tid o.depth)

/-! ## The operand log (06/R143 to R146) -/

/-- The line of an element in its own space. -/
def lineKey (sp : Space) (addr : Nat) : Nat × Nat := (match sp with | .s => 1 | .w => 2 | _ => 0, addr / 128)

/-- A log entry of an earlier access of the thread names a line, so that a later one is logged behind it (06/R144). -/
def State.loggedLine (s : State) (t : Thread) (age : Nat) (k : Nat × Nat) : Option LogEntry :=
  s.log.find? fun e => e.lanes.any fun l => e.counts t l && decide (l.acc.age < age) &&
    l.acc.elems.any fun x => lineKey l.acc.sp x.2 == k

/-- The home line that an address of the thread leads to, whatever alias names it. -/
def State.homeLine (s : State) (t : Thread) (sp : Space) (addr : Nat) : Option (Nat × Nat) :=
  match sp with
  | .s | .w => none
  | _ =>
    match (s.walk (s.ctxOf t) addr).2 with
    | .fault _ => none
    | .leaf level leaf => let x := leafXlat level leaf addr; some (if x.apt = 0 then 0 else x.node + 1, x.pa / 128)

/-- An earlier access of the thread to the line of an address has been put off and is not yet performed: a later one waits behind it
(11/R246). -/
def State.lateLine (s : State) (t : Thread) (age : Nat) (sp : Space) (addr : Nat) : Bool :=
  s.ops.any fun o => o.tid == t.id && (o.src == .late || o.src == .replay) && o.acc.any fun a =>
    decide (a.age < age) && a.elems.any fun x => lineKey a.sp x.2 == lineKey sp addr ||
      ((s.homeLine t sp addr).isSome && s.homeLine t a.sp x.2 == s.homeLine t sp addr)

/-- Entries of a core's log in use. -/
def State.logUsed (s : State) (core : Nat) : Nat := (s.log.filter fun e => e.core == core).length

/-- A report is open, or opened, for a key (06/R146). -/
def State.openReport (s : State) (k : ReportKey) (f : Report → Report) : State :=
  let r := (s.reports.find? fun x => x.key == k).getD { key := k, cmds := [], tids := [], grids := [] }
  { s with reports := putBy (fun x => x.key == k) (f r) s.reports }

/-- The virtual address of an offset of the space `W` (17/R365) (one point DESIGN CHOICE, log entry 18). -/
def State.windowVa (s : State) (t : Thread) (off : Nat) : Nat := (s.ctx (s.ctxOf t)).wincfg.toNat / 2 ^ 32 * 2 ^ 32 + off

/-- The report key of a thread's fault at an address (one point DESIGN CHOICE, log entry 18). -/
def State.keyOf (s : State) (t : Thread) (va cause : Nat) : ReportKey :=
  { cluster := clusterOf t.id.core, ctx := s.ctxOf t, page := va / 65536, cause := cause }

/-- The target of an element's part (06/R148): the home slice, or the node, that its page names. -/
def State.targetOf (s : State) (t : Thread) (sp : Space) (va : Nat) : Nat :=
  match sp with
  | .s | .w => 0
  | _ =>
    match (s.walk (s.ctxOf t) va).2 with
    | .fault _ => 0
    | .leaf level leaf => let x := leafXlat level leaf va; if x.apt = 0 then 1 + sliceOf x.pa else 257 + x.node

/-- A lane's faulting elements logged: they join the entry that the same issued instruction made for their home group,
part and cause, numbered from `base` on, or make one (one point DEDUCED, log entry 14). -/
def State.logLane (s : State) (base : Nat) (t : Thread) (flag : Option Nat) (a : Acc) (va cause : Nat) (behind : Bool) : State :=
  let key := s.keyOf t (if a.sp = .w then s.windowVa t va else va) cause
  let target := s.targetOf t a.sp va
  let lane : LogLane := { tid := t.id, depth := t.depth, flag := flag, acc := a }
  let s1 := s.openReport key id
  let same : LogEntry → Bool := fun e =>
    decide (base ≤ e.id) && e.core == t.id.core && e.slot == t.id.slot && e.key == key && e.target == target && e.behind == behind && !e.forward
  if s1.log.any same then { s1 with log := editBy same (fun e => { e with lanes := e.lanes ++ [lane] }) s1.log }
  else
    let e : LogEntry :=
      { id := s1.fresh, core := t.id.core, ctx := s.ctxOf t, team := t.team, slot := t.id.slot, pc := a.pc, cause := cause, target := target
        lanes := [lane], key := key, forward := false, behind := behind }
    let s2 := { s1 with log := s1.log ++ [e], fresh := s1.fresh + 1 }
    let who := s.who t
    (s2.editCore t.id.core fun c => { c with logPeak := max c.logPeak (s2.logUsed t.id.core) }).countGroup who.1 who.2 3 1

/-- The faulting elements of one lane, with the address and cause of each, logged part by part under the lowest cause of
the part (06/R143, R148). -/
def State.logFaults (s : State) (base : Nat) (t : Thread) (flag : Option Nat) (a : Acc) (l : List (Nat × Nat × Nat)) : State :=
  let part := fun (x : Nat × Nat × Nat) => (x.2.1 / 65536, s.targetOf t a.sp x.2.1)
  let parts := (l.map part).eraseDups
  parts.foldl (fun s k =>
    let mine := l.filter fun x => part x == k
    match mine with
    | [] => s
    | x :: rest =>
      let cause := rest.foldl (fun c y => min c y.2.2) x.2.2
      s.logLane base t flag { a with elems := mine.map fun y => (y.1, y.2.1) } x.2.1 cause false) s

/-- An operation of a thread that is not yet performed and that a later access waits for: an acquire, an ordered access that is
replayed, or a fence, behind which with `.REL` only writes wait unless the thread has a log entry pending (11/R249, R250; 06/R144;
17/R376). -/
def LongOp.holds (o : LongOp) (a : Acc) (writes logged : Bool) : Bool :=
  if o.src = .fence then a.ord != .rel || writes || logged else a.ord == .acq || (a.ord != .none && o.src == .replay)
/-- A later access of the thread waits at issue: for its acquire or its fence, for an ordered access of it in the log, or while the log
is full (06/R144, R145; 11/R249). An `LDC` waits for no acquire and no fence (`free`; 17/R370). -/
def State.memHold (s : State) (t : Thread) (base : Nat) (writes : Bool := true) (free : Bool := false) : Bool :=
  s.logFull t.id.core base ||
  (!free && s.ops.any fun o => o.tid == t.id && o.src != .done && o.acc.any fun a => o.holds a writes (s.hasLogged t)) ||
  (s.log.any fun e => e.lanes.any fun l => e.counts t l && (l.acc.ord != .none || l.acc.kind == .wait))

/-- What performing a lane's elements has given so far. -/
structure AccRun where
  s : State
  writes : List RegCell
  /-- Faulting elements: number, address, cause. -/
  bad : List (Nat × Nat × Nat)
  /-- Elements logged behind an entry. -/
  late : List (Nat × Nat × LogEntry)
  overran : Bool

/-- The elements of an access performed one after the other. -/
def runElems (t : Thread) (a : Acc) (flag : Option Nat) (z : AccRun) : List (Nat × Nat) → AccRun
  | [] => z
  | (i, addr) :: l =>
    match z.s.loggedLine t a.age (lineKey a.sp addr) with
    | some e => runElems t a flag { z with late := z.late ++ [(i, addr, e)] } l
    | none =>
      let op := z.s.fresh
      let r := if z.s.lateLine t a.age a.sp addr then (z.s, .late) else z.s.elemDo t a i addr op
      -- the number of the operation stays reserved for a response
      let s1 := { r.1 with fresh := r.1.fresh + 1 }
      match r.2 with
      | .got b => runElems t a flag { z with s := r.1, writes := z.writes ++ a.cells i b } l
      | .stored => runElems t a flag { z with s := r.1 } l
      | .overran => runElems t a flag { z with s := r.1, overran := true } l
      | .fault c _ => runElems t a flag { z with s := r.1, bad := z.bad ++ [(i, addr, c)] } l
      | .fabric d g =>
        let o : LongOp := { id := op, tid := t.id, depth := t.depth, flag := flag
                            writes := a.pending i, astat := 0#6, src := .fabric d g
                            acc := some { a with elems := [(i, addr)] }, dead := false }
        runElems t a flag { z with s := { s1 with ops := s1.ops ++ [o] } } l
      | .late =>
        let o : LongOp := { id := op, tid := t.id, depth := t.depth, flag := flag, writes := a.pending i, astat := 0#6
                            src := .late, acc := some { a with elems := [(i, addr)] }, dead := false }
        runElems t a flag { z with s := { s1 with ops := s1.ops ++ [o] } } l
      | .port d g =>
        let o : LongOp := { id := op, tid := t.id, depth := t.depth, flag := flag, writes := [], astat := 0#6
                            src := .port d g, acc := none, dead := false }
        runElems t a flag { z with s := { s1 with ops := s1.ops ++ [o] } } l
      | .acks l' =>
        let o : LongOp := { id := op, tid := t.id, depth := t.depth, flag := flag, writes := [], astat := 0#6
                            src := .acks l', acc := none, dead := false }
        runElems t a flag { z with s := { s1 with ops := s1.ops ++ [o] } } l
      | .window w n c =>
        let o : LongOp := { id := op, tid := t.id, depth := t.depth, flag := flag
                            writes := a.cells i (zeros (4 * c)), astat := 0#6, src := .window w n c
                            acc := some { a with elems := [(i, addr)] }, dead := false }
        runElems t a flag { z with s := { s1 with ops := s1.ops ++ [o] } } l

/-- The access writes, or is atomic. -/
def AccKind.writes : AccKind → Bool
  | .store | .atom _ _ _ | .red _ _ => true
  | _ => false
def AccKind.atomic : AccKind → Bool
  | .atom _ _ _ | .red _ _ => true
  | _ => false
/-- The access writes nothing at its home: it only reads, flushes or waits. -/
def AccKind.onlyReads : AccKind → Bool
  | .load _ | .xb _ _ | .flush _ | .wait => true
  | _ => false
/-- The access returns a value to a register. -/
def AccKind.reads : AccKind → Bool
  | .load _ | .atom _ _ _ | .xb _ _ => true
  | _ => false

/-- The memory cause that an element of n bytes would take (06/R142): of its translation, its page, its aperture or its data
(12/R267). A line that the access hits gives its translation. -/
def State.elemCause (s : State) (t : Thread) (a : Acc) (addr n : Nat) : State × Option Nat :=
  match a.sp with
  | .s =>
    (s, if !(s.team a.team).placed then some 0x14 else if a.kind.reads && (s.team a.team).scrLost addr n then some 0x17 else none)
  | .w => (s, if s.winTarget (some (s.ctxOf t)) addr n == .refused || a.kind.atomic then some 0x14 else none)
  | _ =>
    if 2 ^ 55 ≤ addr then (s, some 0x14)
    else
      let hit := (s.line? t.id.core (s.ctxOf t) (addr / 128)).filter fun l => l.w || !a.kind.writes
      let r := match hit with
        | some l => (s, Except.ok (l.xlat addr))
        | none => s.translateFor t addr
      match r.2 with
      | .error c => (r.1, some c)
      | .ok x =>
        (r.1,
         if a.kind.writes && !x.w then some 0x12
         else if a.kind.atomic && decide (4 ≤ x.apt) then some 0x14
         else if x.apt = 4 ∧ (8 < a.size ∨ r.1.winTarget (some (s.ctxOf t)) (addr % 2 ^ 32) n = WinTarget.refused) then some 0x14
         else if a.kind.atomic && x.apt != 0 && !x.rap then some 0x16
         else if a.kind.reads && x.apt == 0 && r.1.lineBad (x.pa / 128) then some 0x17
         else none)

/-- The lowest memory cause that the elements of an access would take. -/
def State.accCause (s : State) (t : Thread) (a : Acc) : State × Option Nat :=
  a.elems.foldl (fun r x =>
    let q := r.1.elemCause t a x.2 a.elem
    (q.1, match r.2, q.2 with | some c, some d => some (min c d) | none, c => c | c, none => c)) (s, none)

/-- The cause of an access whose address is not a multiple of its alignment: 0x15, or a lower cause (12/R267). -/
def State.misCause (s : State) (t : Thread) (a : Acc) : State × Nat :=
  match a.sp with
  | .w => (s, 0x14)
  | _ => let r := s.accCause t { a with elems := a.elems.take 1 }; (r.1, min (r.2.getD 0x15) 0x15)

/-- The writes that have been sent since `before` are a release at SY of a thread (19/R427). -/
def State.markRelease (s before : State) (tid : Tid) : State :=
  { s with fabric := { s.fabric with reqs := s.fabric.reqs.map fun r =>
      match r.why with
      | .store _ _ => if before.fabric.reqs.any (fun q => q.dst == r.dst && q.tag == r.tag) then r else { r with rel := some tid }
      | _ => r } }

/-- The elements of a lane's access performed and what is left of it logged or begun as operations; the acquire's L1
action follows its read (05/R117). The result says whether a credit overran (one point DEDUCED, log entry 16). -/
def State.access (s : State) (base : Nat) (t : Thread) (flag : Option Nat) (a : Acc) (align ea : Nat) : State × Bool :=
  if a.mis ∨ ea % align ≠ 0 then
    -- the formed address is the lane's, so the lane faults once, whatever parts its elements lie in
    let m := s.misCause t a
    (m.1.logLane base t flag { a with mis := true } (a.elems.headD (0, 0)).2 m.2 false, false)
  else
    let z := runElems t a flag { s := s, writes := [], bad := [], late := [], overran := false } a.elems
    let z : AccRun := if a.ord = .rel ∧ a.sc = .sy then { z with s := z.s.markRelease s t.id } else z
    let s1 := z.s.logFaults base t flag a z.bad
    let s2 := z.late.foldl (fun s x =>
      s.logLane base t flag { a with elems := [(x.1, x.2.1)] } x.2.1 x.2.2.cause true) s1
    let s3 := if a.ord = .acq ∧ z.bad = [] ∧ z.late = [] then s2.acquireL1 t.id.core (s.ctxOf t) a.sc else s2
    let o : LongOp := { id := s3.fresh, tid := t.id, depth := t.depth, flag := flag, writes := z.writes, astat := 0#6
                        src := .done, acc := none, dead := false }
    let keeps : Bool := match a.kind with | .load _ | .atom _ _ _ | .awset _ _ _ _ => true | _ => false
    (if keeps && (z.bad.isEmpty && z.late.isEmpty || !z.writes.isEmpty) then { s3 with ops := s3.ops ++ [o], fresh := s3.fresh + 1 }
     else s3, z.overran)

/-- The F32 pattern of an element of an XB block, exact (08/R183, R185). -/
def xbF32 (ty : Tag) (scale el : Nat) : Nat :=
  match xbVal ty scale el with
  | .num n m e => (fround f32 .rne 0 n m 1 e).1
  | _ => f32.nan

/-- The next reads of a `TLD` of an XB element in memory: its byte, then its block's scale word; with both read the value is
known (18/R398). A fault logs what is left of it, and a response continues it. -/
def State.xbGo (s : State) (base : Nat) (t : Thread) (flag : Option Nat) (a : Acc) : List (Nat × Nat) → State
  | [] =>
    let k := match a.kind with | .xb ty hi => (ty, hi) | _ => (.xb8, false)
    let byte := recField a.data 0 1
    let el := if k.1 = .xb8 then byte else if k.2 then byte / 16 else byte % 16
    let o : LongOp := { id := s.fresh, tid := t.id, depth := t.depth, flag := flag
                        writes := wr a.d (xbF32 k.1 (recField a.data 1 2) el) .f32, astat := 0#6, src := .done, acc := none, dead := false }
    let s1 : State := { s with ops := s.ops ++ [o], fresh := s.fresh + 1 }
    if a.ord = .acq then s1.acquireL1 t.id.core (s.ctxOf t) a.sc else s1
  | (i, addr) :: l =>
    let rest : Acc := { a with elems := (i, addr) :: l }
    if i = 1 ∧ addr % 2 ≠ 0 then s.logLane base t flag rest addr 0x15 false
    else
      match s.loggedLine t a.age (lineKey a.sp addr) with
      | some e => s.logLane base t flag rest addr e.cause true
      | none =>
        let r := if s.lateLine t a.age a.sp addr then (s, .late) else s.elemDo t a i addr s.fresh
        match r.2 with
        | .late =>
          let o : LongOp := { id := r.1.fresh, tid := t.id, depth := t.depth, flag := flag, writes := wr a.d 0 .f32, astat := 0#6
                              src := .late, acc := some rest, dead := false }
          { r.1 with ops := r.1.ops ++ [o], fresh := r.1.fresh + 1 }
        | .got b => State.xbGo r.1 base t flag { a with data := a.data ++ b } l
        | .fault c _ => r.1.logLane base t flag rest addr c false
        | .fabric d g =>
          let o : LongOp := { id := r.1.fresh, tid := t.id, depth := t.depth, flag := flag, writes := wr a.d 0 .f32, astat := 0#6
                              src := .fabric d g, acc := some rest, dead := false }
          { r.1 with ops := r.1.ops ++ [o], fresh := r.1.fresh + 1 }
        | _ => r.1.logLane base t flag rest addr 0x14 false

/-- A lane logged with a trap of its own, which it takes at its next clause boundary as a forwarded entry's lanes do
(06/R146). -/
def State.logTrap (s : State) (l : LogLane) (va cause : Nat) : State :=
  let t := s.thread l.tid
  let e : LogEntry :=
    { id := s.fresh, core := l.tid.core, ctx := s.ctxOf t, team := t.team, slot := l.tid.slot, pc := l.acc.pc, cause := cause, target := 0
      lanes := [l], key := s.keyOf t va cause, forward := true, behind := false }
  { s with log := s.log ++ [e], fresh := s.fresh + 1 }

/-- A lane's access performed from what was kept of it (06/R146): its results go to the destination, and a fault is logged anew.
The result says whether a credit overran. -/
def State.performLane (s : State) (base : Nat) (l : LogLane) : State × Bool :=
  let t := s.thread l.tid
  let t' := { t with depth := l.depth }
  let dead := !t.live && (match l.acc.kind with | .load _ | .xb _ _ => true | _ => false)
  if dead then (s, false)
  else
    match l.acc.kind with
    | .xb _ _ => (s.xbGo base t' l.flag l.acc l.acc.elems, false)
    | _ =>
      let n := match l.acc.elems with | [] => 0 | x :: _ => x.2
      s.access base t' l.flag l.acc (if l.acc.sp = .p then 4 else l.acc.elem) n

/-- An earlier access of the thread is not yet performed (11/R249). -/
def State.earlierOut (s : State) (l : LogLane) : Bool :=
  (s.ops.any fun o => o.tid == l.tid && o.src != .done && o.acc.any fun a => decide (a.age < l.acc.age)) ||
  (s.log.any fun e => e.lanes.any fun x => x.tid == l.tid && (x.depth == l.depth || !e.forward) && decide (x.acc.age < l.acc.age))

/-- A logged release may be performed (11/R249, R257). -/
def State.replayReady (s : State) (l : LogLane) : Bool :=
  let t := s.thread l.tid
  let who := s.who t
  !s.earlierOut l && (l.acc.sc != .sy || s.acksClear l.tid.core (s.ctxOf t) who.1 who.2)

/-- A logged lane performed (06/R146). A release comes after every earlier access and its L1 action; at SY it waits for the
acknowledgements, and with the sticky error set it raises the fabric-write trap in its place (11/R257, 02/R49). -/
def State.replayOne (s : State) (base : Nat) (l : LogLane) : State × Bool :=
  if l.acc.ord != .rel then s.performLane base l
  else
    let t := s.thread l.tid
    let who := s.who t
    let s1 := s.releaseL1 l.tid.core (s.ctxOf t) l.acc.sc (some who)
    if l.acc.sc = .sy ∧ (s1.group who.1 who.2).sticky then
      ((s1.editGroup who.1 who.2 fun g => { g with sticky := false }).logTrap l (l.acc.elems.headD (0, 0)).2 0x0C, false)
    else if s1.replayReady l then s1.performLane base l
    else
      let o : LongOp := { id := s1.fresh, tid := l.tid, depth := l.depth, flag := l.flag, writes := [], astat := 0#6
                          src := .replay, acc := some l.acc, dead := false }
      ({ s1 with ops := s1.ops ++ [o], fresh := s1.fresh + 1 }, false)

/-- A logged lane performed; an `ARRIVE` that overruns with OVRT set then takes its trap (10/R230). -/
def State.replayLane (s : State) (base : Nat) (l : LogLane) : State :=
  let r := s.replayOne base l
  if r.2 then r.1.logTrap l (l.acc.elems.headD (0, 0)).2 0x50 else r.1

/-- An access that was put off performed as its operation completes (11/R247, 01/R12). -/
def State.performOp (s : State) (o : LongOp) : State :=
  match o.acc with
  | none => s
  | some a =>
    let s1 := { s with ops := dropBy (fun x => x.id == o.id) s.ops }
    let l : LogLane := { tid := o.tid, depth := o.depth, flag := o.flag, acc := { a with bound := true } }
    (if o.dead && a.kind.reads then s1 else s1.replayLane s1.fresh l).frameFlags o.tid o.depth

/-- Threads parked for the log are offered again; one whose flag is still pending parks anew (06/R143). One of an evicted team stays
parked: its flag wakes the team (06/R147, 04/R100). -/
def State.unparkLog (s : State) : State :=
  { s with threads := s.threads.map fun t =>
      match t.run with
      | .logWait => if (s.team t.team).image.isSome then t else { t with run := .held }
      | _ => t }

/-- Entries of a report replayed oldest first, then retired. -/
def State.replayEntry (s : State) (e : LogEntry) : State :=
  let s1 := { s with log := dropBy (fun x => x.id == e.id) s.log }
  e.lanes.foldl (fun s l => (s.replayLane s1.fresh l).frameFlags l.tid l.depth) s1

end Sys2Proof.Machine
end

