-- ==== Sys2Proof/Machine/Memory.lean ====
section
/-! DEFINITION. Loads, stores, prefetch, flush, atomics, reductions, fences and the completion of long-latency operations
(17/R364 to R377, 14/R310, R312). -/

namespace Sys2Proof.Machine

/-- The address operand: a pair for `G` and `C`, else one register (17/R364). -/
def addrSrc (p : Pre) (sp : Space) (a : Nat) : Src := if sp.wideAddr then srcP 1 a p.pa else srcR 1 a p.pa

/-- The address of word w of a thread's private array (05/R114). -/
def State.privAddr (s : State) (t : Thread) (w : Nat) : Nat :=
  let tm := s.teamOf t
  tm.privBase + ((groupIndex tm t.id.slot * tm.privWords + w) * 32 + t.id.lane) * 4

/-- The elements of an access of `count` elements from a formed address. In `P` every word is an element of its own
(17/R365). -/
def State.elemsAt (s : State) (t : Thread) (sp : Space) (ea elem count : Nat) : List (Nat × Nat) :=
  (List.range count).map fun i => (i, if sp = .p then s.privAddr t (ea + i) else ea + elem * i)

/-- The address an instruction forms in one lane (17/R365): an offset, a VA, or a private word index, or the cause. -/
def State.effAddr (s : State) (t : Thread) (p : Pre) (sp : Space) (a : Nat) (off : Int) (size : Nat) : Except Nat Nat :=
  let tm := s.teamOf t
  formAddr sp (s.srcVal t p (addrSrc p sp a)) off size tm.scratch tm.privWords (fld (s.ctx (s.ctxOf t)).wincfg 0 1 == 1)

/-- What a release has to wait for or do before its write (11/R249, R257; 05/R117; 02/R49): `none` when it may be
performed (one point DEDUCED, log entry 88). -/
def State.beginRelease (s : State) (t : Thread) (sc : Scope) : State × Option Lane :=
  let who := s.who t
  if s.accPending t then (s, some (s.accHold t))
  else
    let s1 := s.releaseL1 t.id.core (s.ctxOf t) sc (some who)
    if sc = .sy then
      if (s1.group who.1 who.2).sticky then
        (s1.editGroup who.1 who.2 fun g => { g with sticky := false }, some (.trap 0x0C 0 none))
      else if s1.acksClear t.id.core (s.ctxOf t) who.1 who.2 then (s1, none)
      else (s1, some .hold)
    else (s1, none)

/-- What an access's ordering asks for first: a release is performed, and an acquire waits at issue while a log entry of
the thread is pending (06/R144, 11/R249). -/
def State.ordBefore (s : State) (t : Thread) (ord : MemOrd) (sc : Scope) : State × Option Lane :=
  match ord with
  | .rel => s.beginRelease t sc
  | .acq => (s, if s.hasLogged t then some .logHold else none)
  | _ => (s, none)

/-- A lane's access would take a memory fault: of several causes of a lane the lowest code is taken, and a memory cause is lower
than a format fault's (12/R267) (one point DEDUCED, log entry 17). -/
def State.memFaults (s : State) (t : Thread) (a : Acc) (align ea : Nat) : State × Bool :=
  if ea % align ≠ 0 then (s, true) else let r := s.accCause t a; (r.1, r.2.isSome)

/-- One lane of an access instruction: checks, address, release, and the access. `count` elements of `elem` bytes,
`size` bytes in all, aligned together to `align`; `k` gives the lane's access apart from its elements, and `base` is the
first number a log entry of this issue may have (one point DEDUCED, log entry 17). -/
def State.accessLane (s : State) (base : Nat) (p : Pre) (sp : Space) (ord : MemOrd) (sc : Scope) (a : Nat) (off : Int)
    (size elem count align : Nat) (dsts srcs : List Src) (k : AccKind × List Byte) (ty : Tag) (hint : Hint) (d : Nat)
    (t : Thread) : State × Lane :=
  match s.preGate t .any dsts (addrSrc p sp a :: srcs) with
  | some x => (s, x)
  | none =>
    let acc : Acc :=
      { sp := sp, elems := [], elem := elem, kind := k.1, ty := ty, ord := ord, sc := sc, hint := hint, d := d, data := k.2
        team := t.team, pc := t.pc, words := s.ir.2, len := p.len, clause := t.clause, size := size, age := base }
    let bad := s.formatFault t p srcs
    match s.effAddr t p sp a off size with
    | .error c =>
      if c ≠ 0x14 then (s, .trap c 0 none)
      else if s.memHold t base (!k.1.onlyReads) (sp == .c) then (s, s.accHold t)
      else
        let o := wrapTo 32 ((s.srcVal t p (addrSrc p sp a) : Int) + off)
        (s.logFaults base t (t.flagOf p.fs) acc ((s.elemsAt t sp o elem count).map fun x => (x.1, x.2, 0x14)), .done [] 0#6)
    | .ok ea =>
      let acc := { acc with elems := s.elemsAt t sp ea elem count }
      let m := if bad.isSome then s.memFaults t acc align ea else (s, true)
      if !m.2 then (m.1, bad.getD .asIs)
      else if m.1.memHold t base (!k.1.onlyReads) (sp == .c) then (m.1, m.1.accHold t)
      else
        let q := m.1.ordBefore t ord sc
        match q.2 with
        | some x => (q.1, x)
        | none =>
          let r := q.1.access base t (t.flagOf p.fs) acc align ea
          (r.1, if r.2 then .trap 0x50 0 none else .done [] 0#6)

/-- An access instruction over its lanes. -/
def State.accessOp (s : State) (p : Pre) (sp : Space) (ord : MemOrd) (sc : Scope) (a : Nat) (off : Int) (size elem count align : Nat)
    (dsts srcs : List Src) (mk : State → Thread → AccKind × List Byte) (ty : Tag) (hint : Hint) (d : Nat) : State :=
  let base := s.fresh
  s.foldLanes p fun s t => s.accessLane base p sp ord sc a off size elem count align dsts srcs (mk s t) ty hint d t

/-- Bytes of one element and number of elements of a register-width access (17/R366, R368): 64-bit types move pairs, but
words in `P`. -/
def elemSize (sp : Space) (ty : Tag) : Nat := if ty.is64 ∧ sp ≠ .p then 8 else 4

/-- The destination run of a load (one point DEDUCED, log entry 82). -/
def runSrc (f n c : Nat) : Src := { f := f, n := n, c := c, perm := noPerm, want := none }

/-- The bytes of a run of registers. -/
def State.runBytes (s : State) (t : Thread) (p : Pre) (x : Src) : List Byte :=
  (List.range x.c).flatMap fun i => wordBytes (s.srcReg t p x i).1

/-- Bytes, element size, element count and alignment of a single access. -/
def shapeOf (sp : Space) (ty : Tag) (elt : Bool) : Nat × Nat × Nat :=
  if elt then (ty.width / 8, ty.width / 8, 1)
  else
    let n := if ty.is64 then 8 else 4
    (n, elemSize sp ty, n / elemSize sp ty)

/-- In `P` the index is aligned to the words of the access (17/R365). -/
def alignOf (sp : Space) (size : Nat) : Nat := if sp = .p then size / 4 else size

/-- LD (17/R366 to R369). -/
def execLd (p : Pre) (sp : Space) (ty : Tag) (ord : MemOrd) (sc : Scope) (hint : Hint) (elt : Bool) (d a : Nat) (off : Int)
    (s : State) : Out :=
  let q := shapeOf sp ty elt
  .next (s.accessOp p sp ord sc a off q.1 q.2.1 q.2.2 (alignOf sp q.1) [dst d ty.is64] []
    (fun _ _ => (.load (elt && tagSigned ty), [])) ty hint d)

/-- ST (17/R366 to R369). -/
def execSt (p : Pre) (sp : Space) (ty : Tag) (ord : MemOrd) (sc : Scope) (hint : Hint) (elt : Bool) (a b : Nat) (off : Int)
    (s : State) : Out :=
  let q := shapeOf sp ty elt
  let B := runSrc 2 b (if ty.is64 then 2 else 1)
  .next (s.accessOp p sp ord sc a off q.1 q.2.1 q.2.2 (alignOf sp q.1) [] [B]
    (fun s t => (.store, s.runBytes t p B)) ty hint 255)

/-- LDV: n registers, n = 2, 4 or 8 (17/R367). -/
def execLdv (p : Pre) (sp : Space) (ty : Tag) (ord : MemOrd) (sc : Scope) (hint : Hint) (vn : Nat) (d a : Nat) (off : Int)
    (s : State) : Out :=
  let n := 2 ^ (vn + 1)
  let e := elemSize sp ty
  .next (s.accessOp p sp ord sc a off (4 * n) e (4 * n / e) (alignOf sp (4 * n)) [runSrc 0 d n] []
    (fun _ _ => (.load false, [])) ty hint d)

/-- STV: n registers, n = 2, 4 or 8 (17/R367). -/
def execStv (p : Pre) (sp : Space) (ty : Tag) (ord : MemOrd) (sc : Scope) (hint : Hint) (vn : Nat) (a b : Nat) (off : Int)
    (s : State) : Out :=
  let n := 2 ^ (vn + 1)
  let e := elemSize sp ty
  let B := runSrc 2 b n
  .next (s.accessOp p sp ord sc a off (4 * n) e (4 * n / e) (alignOf sp (4 * n)) [] [B]
    (fun s t => (.store, s.runBytes t p B)) ty hint 255)

/-- LDC: a load through the constant path (17/R370, 05/R124). -/
def execLdc (p : Pre) (ty : Tag) (d a : Nat) (off : Int) (s : State) : Out :=
  let q := shapeOf .c ty false
  .next (s.accessOp p .c .none .th a off q.1 q.2.1 q.2.2 q.1 [dst d ty.is64] [] (fun _ _ => (.load false, [])) ty .none d)

/-- PREF: no architectural effect, no fault of any kind (17/R371) (one point DEDUCED, log entry 89). -/
def execPref (p : Pre) (sp : Space) (hint : Hint) (l2 : Bool) (a : Nat) (off : Int) (s : State) : Out :=
  .next (s.foldLanes p fun s t =>
    if ((addrSrc p sp a).bad (s.nrOf t)).isSome then (s, .done [] 0#6)
    else
      match s.effAddr t p sp a off 4 with
      | .error _ => (s, .done [] 0#6)
      | .ok ea => (s.prefetch t (if sp = .p then s.privAddr t ea else ea) l2 hint, .done [] 0#6))

/-- FLUSHL: the line's dirty bytes written back, its update line merged, and with DROP the line dropped (17/R372). -/
def execFlushl (p : Pre) (sp : Space) (drop : Bool) (a : Nat) (off : Int) (s : State) : Out :=
  .next (s.accessOp p sp .none .th a off 4 1 1 1 [] [] (fun _ _ => (.flush drop, [])) .raw .none 255)

/-- ATOM: one atomic action per lane at the element's home (17/R373). -/
def execAtom (p : Pre) (sp : Space) (ty : Tag) (ord : MemOrd) (sc : Scope) (op : AtOp) (d a b c : Nat) (off : Int) (s : State) :
    Out :=
  let n := atWidth ty / 8
  let B := srcT 2 b noPerm ty
  let C := srcT 3 c noPerm ty
  .next (s.accessOp p sp ord sc a off n n 1 (if sp = .p then n / 4 else n) [dst d ty.is64] (if op = .cas then [B, C] else [B])
    (fun s t => (.atom op (BitVec.ofNat 64 (s.srcVal t p B)) (if op = .cas then BitVec.ofNat 64 (s.srcVal t p C) else 0#64), []))
    ty .none d)

/-- RED: a relaxed contribution (17/R374). -/
def execRed (p : Pre) (sp : Space) (ty : Tag) (hint : Hint) (op : AtOp) (a b : Nat) (off : Int) (s : State) : Out :=
  let n := atWidth ty / 8
  let B := srcT 2 b noPerm ty
  .next (s.accessOp p sp .none .th a off n n 1 (if sp = .p then n / 4 else n) [] [B]
    (fun s t => (.red op (BitVec.ofNat 64 (s.srcVal t p B)), [])) ty hint 255)

/-- The L1 actions of a fence that is performed (05/R117, 11/R250). -/
def State.fenceActs (s : State) (core ctx : Nat) (who : Nat × Nat) (ord : MemOrd) (sc : Scope) : State :=
  let s1 := if ord = .acq then s else s.releaseL1 core ctx sc (some who)
  if ord = .rel then s1 else s1.acquireL1 core ctx sc

/-- A fence that has issued and waits for the accesses before it: the thread goes on (17/R376). -/
def State.laterFence (s : State) (p : Pre) (t : Thread) (ord : MemOrd) (sc : Scope) : State :=
  let acc : Acc :=
    { sp := .g, elems := [], elem := 0, kind := .wait, ty := .raw, ord := ord, sc := sc, hint := .none, d := 255, data := []
      team := t.team, pc := t.pc, words := s.ir.2, len := p.len, clause := t.clause, age := s.fresh }
  let o : LongOp :=
    { id := s.fresh, tid := t.id, depth := t.depth, flag := none, writes := [], astat := 0#6, src := .fence, acc := some acc, dead := false }
  { s with ops := s.ops ++ [o], fresh := s.fresh + 1 }

/-- FENCE at a scope: the accesses before it are performed, and the L1 actions of R117 are taken, before the later accesses that it
orders; the thread goes on at once, but for a release at SY, which does not retire until it may be performed or traps (17/R376,
11/R250, 02/R49) (one point DEDUCED, log entry 88). -/
def execFence (p : Pre) (ord : MemOrd) (sc : Scope) (s : State) : Out :=
  .next (s.foldLanes p fun s t =>
    if s.memHold t s.fresh then (s, s.accHold t)
    else if ord ≠ .acq ∧ sc = .sy then
      let q := s.beginRelease t sc
      match q.2 with
      | some x => (q.1, x)
      | none => (if ord = .rel then q.1 else q.1.acquireL1 t.id.core (s.ctxOf t) sc, .done [] 0#6)
    else if s.accPending t then (s.laterFence p t ord sc, .done [] 0#6)
    else (s.fenceActs t.id.core (s.ctxOf t) (s.who t) ord sc, .done [] 0#6))

/-- A core lies in the scope of another (11/R245). -/
def inScope (sc : Scope) (me core : Nat) : Bool :=
  match sc with
  | .th | .gr | .tm => core == me
  | .cl => clusterOf core == clusterOf me
  | .pn => panelOf core == panelOf me
  | .dv | .sy => true

/-- CINV: the context's lines leave the constant caches of the cores in scope and of their clusters (17/R377). What their `LDC`s
under way bring may be older than the home's value now, and enters none (05/R124). -/
def execCinv (p : Pre) (sc : Scope) (s : State) : Out :=
  .next (s.foldLanes p fun s t =>
    let hit : ConstLine → Bool := fun c =>
      c.ctx == s.ctxOf t &&
      (if c.cluster then (List.range 4).any fun i => inScope sc t.id.core (4 * c.unit + i) else inScope sc t.id.core c.unit)
    let older := fun (o : LongOp) =>
      (s.ctxOf (s.thread o.tid) == s.ctxOf t) && inScope sc t.id.core o.tid.core && o.acc.any fun a => a.sp == .c
    ({ s with const := dropBy hit s.const
              ops := editBy older (fun o => { o with acc := o.acc.map fun a => { a with stale := true } }) s.ops }, .done [] 0#6))

/-! ## Completion -/

/-- The MSTAT word of a matrix register (09/R203). -/
def MReg.word (m : MReg) : Nat :=
  let b := fun (x : Bool) (k : Nat) => if x then 2 ^ k else 0
  let occ := match m.form with | .empty => 0 | .dense => 32 | .factor => m.us.length
  let rank := match m.form with | .factor => m.us.length | _ => 0
  let form := match m.form with | .empty => 0 | .dense => 1 | .factor => 2
  occ * 2 ^ 26 + rank * 2 ^ 20 + (if m.form = .empty then 0 else m.tag.code) * 2 ^ 16 + form * 2 ^ 14 + b m.nvt 9 + b m.policy 8 +
    b m.inx 4 + b m.rko 3 + b m.nv 2 + b m.sat 1 + b m.ov 0

/-- The matrix registers an operation of the queue reads or writes (09/R217). -/
def MOpKind.regs : MOpKind → List Nat
  | .mma _ _ _ d _ => [d]
  | .mlru d _ => [d]
  | .mlrmul d a b => [d, a, b]
  | .mlradd d a => [d, a]
  | .mrecomp d _ => [d]
  | .mdense d => [d]
  | .mzero d => [d]
  | .mcopy d a => [d, a]
  | .mswap d a => [d, a]
  | .mclrs d _ => [d]
  | .mpol d _ _ => [d]
  | .xmwr d _ _ _ _ => [d]
  | .drain _ d => [d]
  | .fill _ d _ => [d]
  | .spill _ d => [d]

/-- Operations of a team's queue up to a number that name a register. -/
def State.mqBusy (s : State) (core team m upto : Nat) : Bool :=
  (s.core core).mqueue.any fun o => o.team == team && decide (o.id ≤ upto) && o.kind.regs.contains m

/-- A long-latency operation can complete now. -/
def State.opReady (s : State) (o : LongOp) : Bool :=
  match o.src with
  | .done => true
  | .port d g =>
    !(s.fabric.reqs.any fun r => r.dst == d && r.tag == g &&
      (r.sends == 0 || s.fabric.ports.any fun p => p.queue.any fun x => x.2.dst == d && x.2.tag == r.pkt.tag && !isResponse x.2.typ))
  | .acks l => !(s.fabric.reqs.any fun r => l.contains (r.dst, r.tag))
  | .fence => o.acc.any fun a => !s.earlierOut { tid := o.tid, depth := o.depth, flag := none, acc := a }
  | .window w n c => (List.range c).all fun i => s.ownerSettled { w with lane := w.lane + i } n
  | .elem w n _ sn _ ty => s.ownerSettled w n && s.ownerSettled w sn && (!ty.is64 || s.ownerSettled w (n + 1))
  | .late =>
    o.acc.any fun a =>
      let t := { s.thread o.tid with depth := o.depth }
      !(a.elems.any fun x => s.lateLine t a.age a.sp x.2 ||
        match s.homeLine t a.sp x.2 with | some (0, line) => s.homeWaits line | _ => false)
  | .replay => o.acc.any fun a => s.replayReady { tid := o.tid, depth := o.depth, flag := o.flag, acc := a }
  | .matrix m k => !s.mqBusy o.tid.core (s.thread o.tid).team m k
  | .fabric _ _ | .issueRead _ _ | .issueBad _ _ _ => false

/-- The values of a completed load's registers: the cells with new values in order. -/
def recell : List RegCell → List Word → List RegCell
  | c :: l, v :: r => { c with v := v } :: recell l r
  | l, _ => l

/-- An element of a tensor as `TLD` delivers it (18/R398): XB as F32, signed ones extended, others zero-extended. -/
def elemView (ty : Tag) (x scale : Nat) : Nat :=
  match ty with
  | .xb8 | .xb4 => xbF32 ty scale x
  | .s8 | .s16 => wrapTo 32 (toInt true ty.width x)
  | _ => x

/-- The operation with its result, as it stands when it completes. -/
def State.opResult (s : State) (o : LongOp) : LongOp :=
  match o.src with
  | .window w n c => { o with writes := recell o.writes ((List.range c).map fun i => s.ownerRead { w with lane := w.lane + i } n) }
  | .elem w n bit sn sbit ty =>
    let v := fun k => (s.ownerRead w k).toNat
    let e := elemView ty (bitsAt (v n) bit ty.width + (if ty.is64 then 2 ^ 32 * v (n + 1) else 0)) (bitsAt (v sn) sbit 16)
    { o with writes := recell o.writes ([e % 2 ^ 32, e / 2 ^ 32].map (BitVec.ofNat 32)) }
  | .matrix m _ =>
    let r := ((s.team (s.thread o.tid).team).mregs[m]?).getD MReg.reset
    { o with writes := recell o.writes [BitVec.ofNat 32 r.word] }
  | _ => o

/-- An operation completes: its registers and status are written and its flag is complete; an acquire that waited for its
value takes its L1 action first (14/R310, R312; 05/R117). One that was put off is performed now, and so is a fence. -/
def execLongLatencyComplete (op : Nat) (s : State) : Out :=
  match s.ops.find? fun o => o.id == op with
  | none => .next s
  | some o =>
    if s.opReady o && (o.src == .late || o.src == .replay) then .next ((s.performOp o).reap (s.thread o.tid).team)
    else if s.opReady o then
      let t := s.thread o.tid
      let acq : Option Scope := (o.acc.filter fun a => a.ord == .acq && o.src != .done).map (·.sc)
      let s1 := match (if o.src == .fence then o.acc else none), acq with
        | some a, _ => s.fenceActs o.tid.core (s.ctxOf t) (s.who t) a.ord a.sc
        | none, some sc => s.acquireL1 o.tid.core (s.ctxOf t) sc
        | none, none => s
      .next ((s1.finishOp (s1.opResult o)).reap t.team)
    else .next s

end Sys2Proof.Machine
end

