-- ==== Sys2Proof/Machine/Sync.lean ====
section
/-! DEFINITION. Waiting and synchronising (17/R378 to R385): waits on words, arrival words, stage rings, the engine
counters and their error records (10/R222 to R224), and the steps BLOCKING_WAKE and WINDOW_WRITE_APPLY. -/

namespace Sys2Proof.Machine

/-! ## Waits on words -/

/-- The access of a wait on a word (17/R378). -/
def waitAcc (s : State) (base : Nat) (t : Thread) (sp : Space) (p : Pre) (ea : Nat) : Acc :=
    { sp := sp, elems := [(0, ea)], elem := 1, kind := .wait, ty := .raw, ord := .acq, sc := .th, hint := .none, d := 255
      data := [], team := t.team, pc := t.pc, words := s.ir.2, len := p.len, clause := t.clause, age := base }

/-- The lane whose wait faulted parks at the instruction until its log entry retires (17/R378, 06/R143). -/
def State.waitFault (s : State) (base : Nat) (t : Thread) (sp : Space) (p : Pre) (ea cause : Nat) : State × Lane :=
  ((s.logFaults base t none (waitAcc s base t sp p ea) [(0, ea, cause)]).editThread t.id fun x => { x with run := .logWait }, .asIs)

/-- A wait holds at issue while a log entry of the thread is pending, as an acquire does (06/R144). -/
def State.waitHold (s : State) (t : Thread) (base : Nat) : Bool := s.memHold t base || (s.ordBefore t .acq .th).2.isSome

/-- One lane of a wait on a word at an address: `align` may depend on the word, and `mk` gives the wait. -/
def State.waitLane (s : State) (base : Nat) (p : Pre) (sp : Space) (a : Nat) (off : Int) (size : Nat) (dsts srcs : List Src)
    (lossy : Bool) (mk : Thread → WordLoc → Nat → Wait) (t : Thread) : State × Lane :=
  match s.preGate t .any dsts (addrSrc p sp a :: srcs) with
  | some x => (s, x)
  | none =>
    let bad := s.formatFault t p srcs
    match s.effAddr t p sp a off size with
    | .error c => (s, .trap c 0 none)
    | .ok ea =>
      let acc : Acc := { waitAcc s base t sp p ea with kind := .load false, elem := if sp = .p then 4 else size }
      let m := if bad.isSome then s.memFaults t acc size ea else (s, true)
      if !m.2 then (m.1, bad.getD .asIs)
      else if s.waitHold t base then (s, s.accHold t)
      else
        let r := s.awLoc t sp ea size lossy
        match r.2 with
        | .error f => if f.1 = 0 then (r.1, .hold) else r.1.waitFault base t sp p ea f.1
        | .ok loc =>
          if lossy && r.1.awLossy loc && ea % 32 != 0 then r.1.waitFault base t sp p ea 0x15
          else
            let w := mk t loc ea
            (r.1, .block w (r.1.waitGot t w))

/-- WAITV: a blocking point until the word satisfies the comparison (17/R378). -/
def execWaitv (p : Pre) (sp : Space) (ty : Tag) (sc : Scope) (cond : Cond) (d a b : Nat) (off : Int) (s : State) : Out :=
  let base := s.fresh
  let B := srcT 2 b noPerm ty
  .next (s.foldLanes p fun s t =>
    s.waitLane base p sp a off (atWidth ty / 8) [dst d ty.is64] [B] false
      (fun t loc ea => .waitv loc ea ty cond (BitVec.ofNat 64 (s.srcVal t p B)) d sc) t)

/-- AWAIT: a blocking point until GEN has passed g (17/R381, 10/R229). -/
def execAwait (p : Pre) (sp : Space) (sc : Scope) (d a b : Nat) (off : Int) (s : State) : Out :=
  let base := s.fresh
  let B := srcR 2 b noPerm
  .next (s.foldLanes p fun s t =>
    s.waitLane base p sp a off 16 [dst d false] [B] true (fun t loc _ => .await loc (s.srcVal t p B) d sc) t)

/-- AWSET: the word is armed at its home and D receives the status (17/R379, 10/R228). A lossy lane whose C is odd arms
nothing; the bit added to its control word says so to the arming. -/
def execAwset (p : Pre) (sp : Space) (d a b c : Nat) (off : Int) (s : State) : Out :=
  let base := s.fresh
  let B := srcR 2 b noPerm
  let C := srcR 3 c noPerm
  let R := srcN 3 c 4 none
  .next (s.foldLanes p fun s t =>
    let ctl := s.srcVal t p C
    let lossy : Bool := (C.bad (s.nrOf t)).isNone && bitsAt ctl 0 1 == 1
    let run : Bool := lossy && c % 2 == 0
    let ctl' := if lossy && !run then ctl % 2 ^ 31 + 2 ^ 31 else ctl
    let region := if run then pairOf (s.srcReg t p R 2).1 (s.srcReg t p R 3).1 else 0#64
    let mask := if run then (s.srcReg t p R 1).1.toNat else 0
    s.accessLane base p sp .none .th a off (if lossy then 32 else 16) 1 1 1 [dst d false] (if run then [B, R] else [B, C])
      (.awset (s.srcVal t p B) ctl' mask region, []) .n32 .none d t)

/-- The thread parked at its instruction with the arrival-overrun trap, its place as it was before the issue. -/
def Thread.overrun (t t0 : Thread) (s0 : State) (p : Pre) : Thread :=
  { t with pc := t0.pc, clause := t0.clause, run := .parked (s0.trapRec p true t0 0x50 0 none) }
/-- A thread has just parked with the arrival-overrun trap. -/
def Thread.overran (t : Thread) : Bool := match t.run with | .parked r => r.cause == 0x50 | _ => false

/-- Where a credit of an ARRIVE overran with OVRT set, every lane of that ARRIVE whose credit has been performed takes the trap
(10/R230). `s0` is the state before the issue. -/
def State.overrunAll (s s0 : State) (p : Pre) : State :=
  if (s0.actors p).any fun i => (s.thread i).overran then
    let credited := fun (i : Tid) =>
      s0.guardValue p (s0.thread i) && (s.thread i).isReady && !(s.ops.any fun o => o.tid == i && decide (s0.fresh ≤ o.id)) &&
      !(s.log.any fun e => decide (s0.fresh ≤ e.id) && e.lanes.any fun l => l.tid == i)
    State.settle { s with threads := s.threads.map fun t =>
      if (s0.actors p).contains t.id && ((s.thread t.id).overran || credited t.id) then t.overrun (s0.thread t.id) s0 p else t } (s0.actors p)
  else s

/-- ARRIVE: a credit at the word's home, and a release at the scope (17/R380, 10/R229, R230). -/
def execArrive (p : Pre) (sp : Space) (sc : Scope) (a b : Nat) (off : Int) (s : State) : Out :=
  let B := srcR 2 b noPerm
  .next (s.accessOp p sp .rel sc a off 16 1 1 1 [] [B] (fun s t => (.arrive (s.srcVal t p B), [])) .n32 .none 255 |>.overrunAll s p)

/-! ## Stage rings (10/R233) -/

/-- A ring's offset and number of stages lie in the team's scratchpad. -/
def ringPlace (a n scratch : Nat) : Bool := a % 16 == 0 && decide (16384 ≤ a) && decide (a + 16 + 16 * n ≤ scratch)

/-- A ring's limits (one point DEDUCED, log entry 34). -/
def ringOk (a n ncons rest bytes scratch : Nat) : Bool :=
  decide (1 ≤ n) && decide (n ≤ 64) && decide (1 ≤ ncons) && decide (ncons ≤ 255) && rest == 0 && decide (1 ≤ bytes) &&
  ringPlace a n scratch

/-- The header of a ring as it stands is within its limits and names the stage. -/
def State.ringStage (s : State) (t : Thread) (a stage : Nat) : Bool :=
  let scratch := (s.teamOf t).scratch
  ringPlace a 0 scratch &&
  (let h := s.scrRead t.team a 16
   ringOk a (recField h 0 1) (recField h 1 1) (recField h 2 2) (recField h 4 4) scratch && decide (stage < recField h 0 1))

/-- Stage words armed one after the other. -/
def State.armStages (s : State) (team a bytes : Nat) : Nat → State
  | 0 => s
  | n + 1 => (State.armStages s team a bytes n).scrWrite team (a + 16 + 16 * n) (leBytes 4 bytes ++ zeros 12)

/-- SRINIT (17/R382). -/
def execSrinit (p : Pre) (a b c : Nat) (s : State) : Out :=
  let A := srcR 1 a noPerm
  let B := srcP 2 b noPerm
  let C := srcR 3 c noPerm
  .next (s.foldLanes p fun s t =>
    match s.gate t p .any [] [A, B, C] with
    | some x => (s, x)
    | none =>
      let o := s.srcVal t p A
      let nc := s.srcVal t p B
      let bytes := s.srcVal t p C
      if !ringOk o (bitsAt nc 0 8) (bitsAt nc 8 8) (bitsAt nc 16 16) bytes (s.teamOf t).scratch then (s, .trap 0x52 0 none)
      else if s.memHold t s.fresh then (s, s.accHold t)
      else
        let s1 := s.scrWrite t.team o (leBytes 2 (bitsAt nc 0 16) ++ zeros 2 ++ leBytes 4 bytes ++ leBytes 4 (bitsAt nc 32 32) ++ zeros 4)
        (s1.armStages t.team o bytes (bitsAt nc 0 8), .done [] 0#6))

/-- SRWAIT: a blocking point until the stage's phase matches (17/R383). -/
def execSrwait (p : Pre) (empty : Bool) (a b c : Nat) (s : State) : Out :=
  let A := srcR 1 a noPerm
  let B := srcR 2 b noPerm
  let C := srcR 3 c noPerm
  .next (s.foldLanes p fun s t =>
    match s.gate t p .any [] [A, B, C] with
    | some x => (s, x)
    | none =>
      let o := s.srcVal t p A
      let k := s.srcVal t p B
      if !s.ringStage t o k then (s, .trap 0x52 0 none)
      else if s.waitHold t s.fresh then (s, s.accHold t)
      else
        let w : Wait := .srwait (o + 16 + 16 * k) empty (bitsAt (s.srcVal t p C) 0 1 == 1)
        (s, .block w (s.waitGot t w)))

/-- A free counted on a stage word's FLAGS: FREES in [31:24], and the empty phase that turns at NCONS. -/
def freeFlags (flags ncons : Nat) : Nat :=
  let f := (bitsAt flags 24 8 + 1) % 256
  let low := flags % 2 ^ 24
  if f = ncons then (if bitsAt flags 3 1 = 1 then low - 8 else low + 8) else low + f * 2 ^ 24

/-- SRFREE: a release at TM and one atomic action on the stage word (17/R384, 10/R233). -/
def execSrfree (p : Pre) (a b : Nat) (s : State) : Out :=
  let A := srcR 1 a noPerm
  let B := srcR 2 b noPerm
  .next (s.foldLanes p fun s t =>
    match s.gate t p .any [] [A, B] with
    | some x => (s, x)
    | none =>
      let o := s.srcVal t p A
      let k := s.srcVal t p B
      if !s.ringStage t o k then (s, .trap 0x52 0 none)
      else if s.memHold t s.fresh then (s, s.accHold t)
      else
        let q := s.beginRelease t .tm
        match q.2 with
        | some x => (q.1, x)
        | none =>
          let w := o + 16 + 16 * k
          let flags := leNat (q.1.scrRead t.team (w + 12) 4)
          let ncons := recField (q.1.scrRead t.team o 16) 1 1
          (q.1.scrWrite t.team (w + 12) (leBytes 4 (freeFlags flags ncons)), .done [] 0#6))

/-! ## Engine counters (10/R222 to R224) -/

/-- The counter of a class of a group. -/
def State.counter (s : State) (team gi : Nat) (c : Cls) : Nat := nth (s.group team gi).ctr c.code

/-- Threads that wait on counters keep the passing of their condition. -/
def State.latchCounters (s : State) : State :=
  { s with threads := s.threads.map fun t =>
      match t.run with
      | .blocked (.waitc c n d r) len none =>
        if s.counter t.team (groupIndex (s.teamOf t) t.id.slot) c ≤ n then { t with run := .blocked (.waitc c n d r) len (some 0#64) } else t
      | _ => t }

/-- A counter raised (10/R222). -/
def State.raise (s : State) (team gi : Nat) (c : Cls) : State :=
  s.editGroup team gi fun g => { g with ctr := bump g.ctr c.code (· + 1) }

/-- A counter falls for a command that ended with an error code (0 for none), its memory cause and its scope. -/
def State.fall (s : State) (team gi : Nat) (c : Cls) (err cause scope : Nat) : State :=
  s.editGroup team gi fun g =>
    { g with
      ctr := bump g.ctr c.code (· - 1)
      wide := bump g.wide c.code (max scope)
      errs := g.errs.mapIdx fun i r =>
        if i ≠ c.code ∨ err = 0 then r
        else if r.first = 0 then { first := err, cause := cause, nerr := 1 }
        else { r with nerr := satAdd 255 r.nerr 1 } }

/-- Commands of one class and group. -/
def Cmd.peer (a b : Cmd) : Bool := a.cls == b.cls && a.team == b.team && a.group == b.group

/-- Counter falls in issue order (10/R223): a finished command whose older ones have all fallen falls and leaves; `kept`
are the older commands that stay (one point DEDUCED, log entry 30). -/
def fallGo (s : State) (kept : List Cmd) : List Cmd → State
  | [] => { s with cmds := kept }
  | c :: l =>
    if c.state = .finished && !(kept.any c.peer) then fallGo (s.fall c.team c.group c.cls c.err c.cause c.scope.code) kept l
    else fallGo s (kept ++ [c]) l

/-- Finished commands make their falls, and the threads that wait on the counters see them. -/
def State.falls (s : State) : State := (fallGo s [] s.cmds).latchCounters

/-- The error summary of a class (10/R224). -/
def ErrRec.summary (r : ErrRec) : Nat :=
  if r.first = 0 then 0 else 2 ^ 31 + r.first * 2 ^ 16 + (if r.first = 6 then r.cause * 2 ^ 8 else 0) + r.nerr

/-- WAITC: a blocking point until the counter is at most n (17/R385). -/
def execWaitc (p : Pre) (cls : Cls) (d : Nat) (n : RegImm) (s : State) : Out :=
  .next (s.foldLanes p fun s t =>
    match s.gate t p .any [dst d false] (match n with | .reg b => [srcR 2 b noPerm] | .imm _ => []) with
    | some x => (s, x)
    | none =>
      let k := match n with | .reg b => s.srcVal t p (srcR 2 b noPerm) | .imm k => k
      let pass : Bool := decide (s.counter t.team (groupIndex (s.teamOf t) t.id.slot) cls ≤ k)
      (s, .block (.waitc cls k d (s.trapRec p true t 0x42 0 none)) (if pass then some 0#64 else none)))

/-! ## Waking -/

/-- The threads that pass a WAITC together with a thread: those of its group whose wait on the class has been
satisfied. -/
def State.passing (s : State) (t : Thread) (cls : Cls) : List Tid :=
  (s.threads.filter fun x =>
    x.id.core == t.id.core && x.id.slot == t.id.slot &&
    (match x.run with
     | .blocked (.waitc c _ _ _) _ (some _) => c == cls
     | _ => false)).map (·.id)

/-- A thread goes on after a blocking point, with a value for D if it writes one. -/
def Thread.wake (t : Thread) (w : List RegCell) (len cyc : Nat) : Thread :=
  { (t.putAll w).advance len with run := .ready, readySince := cyc }

/-- A thread that passes a WAITC: D takes the summary, or where the group's accumulator-invalid trap is due it parks at
the instruction (09/R216), with the lanes that trap with it (one point DEDUCED, log entry 30). -/
def Thread.passWaitc (t : Thread) (s : State) (summary lanes : Nat) : Thread :=
  match t.run with
  | .blocked (.waitc _ _ d r) len _ =>
    if lanes ≠ 0 then { t with run := .parked { r with lanes := lanes } } else t.wake (wr d summary .n32) len s.time.cyc
  | _ => t

/-- The threads of a group that pass a WAITC of a class together: they execute the first WAITC that covers what has fallen, so an
accumulator-invalid trap falls on them and on no later WAITC (09/R216). Without one, all receive one summary and the record is cleared; they acquire at
the widest scope of the commands covered (10/R223, R224; 17/R385). -/
def State.passGroup (s : State) (t : Thread) (cls : Cls) : State :=
  let gi := groupIndex (s.teamOf t) t.id.slot
  let g := s.group t.team gi
  let who := s.passing t cls
  let r := (g.errs[cls.code]?).getD { first := 0, cause := 0, nerr := 0 }
  let traps : Bool := cls == .mat && g.nvt
  let lanes := if traps then (who.map fun i => 2 ^ i.lane).sum else 0
  let s1 : State := { s with threads := editBy (fun x => who.contains x.id) (fun x => x.passWaitc s r.summary lanes) s.threads }
  if traps then s1.editGroup t.team gi fun g => { g with nvt := false }
  else
    (s1.editGroup t.team gi fun g =>
      { g with errs := g.errs.mapIdx fun i e => if i = cls.code then { first := 0, cause := 0, nerr := 0 } else e }).acquireL1
      t.id.core (s.ctxOf t) (Scope.ofCode? (nth g.wide cls.code) |>.getD .th)

/-- The threads a SEAM counts, its home group, or a BAR, the team (15/R337, R338; 12/R266). -/
def State.gateCount (s : State) (t : Thread) (seam : Bool) : List Thread :=
  s.threads.filter fun x => x.team == t.team && x.live && (!seam || x.id.slot == t.id.slot)

/-- A thread stands at a SEAM, or at a BAR. -/
def Thread.atGate (t : Thread) (seam : Bool) : Bool :=
  match t.run with
  | .blocked .seam _ _ => seam
  | .blocked .bar _ _ => !seam
  | _ => false

/-- Every thread a SEAM or BAR counts stands at one. -/
def State.gateOpen (s : State) (t : Thread) (seam : Bool) : Bool := (s.gateCount t seam).all fun x => x.atGate seam

/-- All of them released together, each past its own instruction. -/
def State.openGate (s : State) (t : Thread) (seam : Bool) : State :=
  let who := (s.gateCount t seam).map (·.id)
  { s with threads := s.threads.map fun x =>
      if who.contains x.id then
        match x.run with
        | .blocked _ len _ => x.wake [] len s.time.cyc
        | _ => x
      else x }

/-- An in-place recut that has issued and not retired writes a tensor state of the team (07/R173). -/
def State.recutting (s : State) (team ts : Nat) : Bool :=
  s.cmds.any fun c => c.team == team && c.state != .finished &&
    (match c.kind with
     | .recut d r _ _ true _ _ => d == ts || r == ts
     | _ => false)

/-- The wake condition of a blocked thread holds (04/R97). A wait for convergence ends with the issue of the last thread of the
subgroup, or when one of them exits; where the subgroup stands at the instruction and its other home group is not in the active set,
its threads are ready again (14/R316, 04/R87). -/
def State.wakeReady (s : State) (t : Thread) : Bool :=
  match t.run with
  | .blocked w _ got =>
    match w with
    | .seam => s.gateOpen t true
    | .bar => s.gateOpen t false
    | .fabricLoad mask => !(s.ops.any fun o => o.tid == t.id && o.depth == t.depth && (o.flag.any fun f => bitsAt mask f 1 == 1) &&
        (match o.src with | .fabric _ _ => true | _ => false))
    | .recut ts => !s.recutting t.team ts
    | .converge g => s.stands t g && !s.awake t g
    | _ => got.isSome
  | _ => false

/-- BLOCKING_WAKE: a thread whose wake condition holds goes on after its blocking point; one that waited at issue is offered
again. A team that is evicted wakes by reinstatement (04/R100, R101), so its threads do not wake here. -/
def execBlockingWake (tid : Tid) (s : State) : Out :=
  let t := s.thread tid
  if (s.teamOf t).state ≠ .resident ∨ (s.teamOf t).leaving ∨ !s.wakeReady t then .next s
  else
    match t.run with
    | .blocked w len got =>
      match w with
      | .await _ _ d sc =>
        .next ((s.setThread (t.wake (wr d (got.getD 0#64).toNat .n32) len s.time.cyc)).acquireL1 tid.core (s.ctxOf t) sc)
      | .waitv _ _ ty _ _ d sc =>
        .next ((s.setThread (t.wake (wrAny ty.is64 d (got.getD 0#64).toNat ty) len s.time.cyc)).acquireL1 tid.core (s.ctxOf t) sc)
      | .waitc cls _ _ _ => .next (s.passGroup t cls)
      | .srwait _ _ _ => .next (s.setThread (t.wake [] len s.time.cyc))
      | .seam => .next (s.openGate t true)
      | .bar => .next (s.openGate t false)
      | .fabricLoad _ | .recut _ | .converge _ => .next (s.setThread { t with run := .held })
    | _ => .next s

/-! ## Window writes (05/R111) -/

/-- Window writes performed on their owner's registers in the order they arrived. -/
def Thread.applyWin (t : Thread) : List WinWrite → Thread
  | [] => { t with win := [] }
  | w :: l => Thread.applyWin (t.setReg w.n (w.into (t.reg w.n).1) w.tag) l

/-- One waiting window write performed: on the owner's register, or on its save image while it is evicted (04/R100); while the
owner is at level E, one to v0 to v15 on the frame copy, which frame 1 holds (12/R269) (one point DEDUCED, log entry 87). -/
def State.putWin (s : State) (i : Tid) (w : WinWrite) : State :=
  let t := s.thread i
  if t.live && decide (0 < t.depth) && decide (w.n < 16) then
    let g := s.frameGet t 1 w.n
    match g.2 with
    | none => State.frameOk t (g.1, false)
    | some x => State.frameOk t (g.1.frameReg t 1 w.n (w.into x.1) w.tag)
  else
    match (s.team t.team).image with
    | some b => s.imageWrite b (s.team t.team) i w
    | none => s.editThread i fun x => x.setReg w.n (w.into (x.reg w.n).1) w.tag

/-- The waiting window writes of a thread performed in the order they arrived (one point DEDUCED, log entry 79). -/
def State.applyWins (s : State) (i : Tid) : State :=
  ((s.thread i).win.foldl (fun s w => s.putWin i w) s).editThread i fun x => { x with win := [] }

end Sys2Proof.Machine
end

