-- ==== Sys2Proof/Machine/Pattern.lean ====
section
/-! DEFINITION. Tensor states and patterns (07): reading a state, linear algebra over GF(2), places and storage, holes,
footprints, the checks of R165, and the plan of a recut (R166 to R168). -/

namespace Sys2Proof.Machine

/-! ## Linear algebra over GF(2): a matrix is the list of its rows, bit q of row p being entry (p, q) -/

/-- The parity of the low n bits of a number. -/
def parity (x : Nat) : Nat → Nat
  | 0 => 0
  | n + 1 => (parity x n + bitsAt x n 1) % 2
/-- A matrix applied to a vector (07/R157). -/
def mulVec (v : Nat) : List Nat → Nat
  | [] => 0
  | r :: l => parity (r &&& v) 48 + 2 * mulVec v l
/-- The sum of the rows that a vector selects. -/
def rowSum : List Nat → Nat → Nat
  | [], _ => 0
  | r :: l, v => (if v % 2 = 1 then r else 0) ^^^ rowSum l (v / 2)
/-- The product of two matrices. -/
def mulMat (a b : List Nat) : List Nat := a.map fun r => rowSum b r
/-- The identity of size n. -/
def identMat (n : Nat) : List Nat := (List.range n).map fun p => 2 ^ p

/-- One column of Gauss–Jordan elimination on a matrix and its companion; `none` without a pivot. -/
def gjColumn (col : Nat) (l : List (Nat × Nat)) : Option (List (Nat × Nat)) :=
  let has : Nat × Nat → Bool := fun r => bitsAt r.1 col 1 == 1
  match (l.drop col).findIdx? has with
  | none => none
  | some k =>
    let a := l.getD col (0, 0)
    let b := l.getD (col + k) (0, 0)
    let swapped := (l.set (col + k) a).set col b
    some (swapped.mapIdx fun i r => if i ≠ col ∧ has r then (r.1 ^^^ b.1, r.2 ^^^ b.2) else r)
/-- Columns from `col` on eliminated. -/
def gjGo (l : List (Nat × Nat)) (col : Nat) : Nat → Option (List (Nat × Nat))
  | 0 => some l
  | n + 1 => (gjColumn col l).bind fun l' => gjGo l' (col + 1) n
/-- The inverse of a matrix of size n, if it has one. -/
def inverseMat (n : Nat) (rows : List Nat) : Option (List Nat) :=
  (gjGo ((rows.take n).zip (identMat n)) 0 n).map fun l => l.map (·.2)

/-- The topmost set bit of a nonzero number. -/
def topBit (x : Nat) : Nat := Nat.log2 x
/-- A vector reduced by a list of vectors that is in descending order of top bits. -/
def reduceVec : List Nat → Nat → Nat
  | [], v => v
  | b :: l, v => reduceVec l (if bitsAt v (topBit b) 1 = 1 then v ^^^ b else v)
/-- A reduced nonzero vector put in its place. -/
def insertVec (v : Nat) : List Nat → List Nat
  | [] => [v]
  | b :: l => if topBit b < topBit v then v :: b :: l else b :: insertVec v l
/-- A vector added to a basis, unless it lies in its span. -/
def addVec (l : List Nat) (v : Nat) : List Nat :=
  let r := reduceVec l v
  if r = 0 then l else insertVec r l
/-- The greatest element of v + span(basis). -/
def maxOf : List Nat → Nat → Nat
  | [], v => v
  | b :: l, v => maxOf l (if bitsAt v (topBit b) 1 = 1 then v else v ^^^ b)

/-! ## Tensor states (R153 to R156) -/

/-- A tensor state as an instruction reads it. -/
structure TState where
  hdr : Nat
  base : Nat
  sbase : Nat
  ofs : Nat
  /-- The six coordinate words. -/
  coord : List Nat
  rows : List Nat
  rest : Nat
  deriving DecidableEq, Repr

/-- A tensor state from its 512 bytes. -/
def tsOf (b : List Byte) : TState :=
  { hdr := recField b 0 8, base := recField b 8 8, sbase := recField b 16 8, ofs := recField b 24 8
    coord := (List.range 6).map fun k => recField b (32 + 8 * k) 8
    rows := (List.range 48).map fun p => recField b (128 + 8 * p) 8, rest := recField b 88 40 }

/-- Fields of the header word (R155). -/
def TState.cls (t : TState) : Nat := bitsAt t.hdr 0 3
def TState.fmtCode (t : TState) : Nat := bitsAt t.hdr 4 4
def TState.nc (t : TState) : Nat := bitsAt t.hdr 8 3
def TState.nb (t : TState) : Nat := bitsAt t.hdr 16 6
def TState.lb (t : TState) : Nat := bitsAt t.hdr 24 3
def TState.gb (t : TState) : Nat := bitsAt t.hdr 27 1
def TState.cb (t : TState) : Nat := bitsAt t.hdr 28 2
def TState.kb (t : TState) : Nat := bitsAt t.hdr 32 3
def TState.pb (t : TState) : Nat := bitsAt t.hdr 36 2
def TState.frag (t : TState) : Nat := bitsAt t.hdr 40 8
def TState.stat (t : TState) : Nat := bitsAt t.hdr 50 2
/-- The element format. -/
def TState.fmt (t : TState) : Tag := Tag.ofCode t.fmtCode
/-- Bits of an element (R155). -/
def TState.s (t : TState) : Nat := t.fmt.width
/-- The format has an element size. -/
def TState.hasSize (t : TState) : Bool := t.fmt != .raw && t.fmt != .xsc && t.fmt != .foreign
/-- An XB tensor. -/
def TState.xb (t : TState) : Bool := t.fmt == .xb8 || t.fmt == .xb4
/-- A state in registers. -/
def TState.inRegs (t : TState) : Bool := t.cls == 4 || t.cls == 5
/-- Element bits of a register (R158). -/
def TState.eb (t : TState) : Nat := if t.s = 4 then 3 else if t.s = 8 then 2 else if t.s = 16 then 1 else 0
/-- Place bits above the local ones (R158). -/
def TState.high (t : TState) : Nat :=
  if t.inRegs then t.lb + t.gb else if t.cls = 3 then t.cb + t.kb + t.pb else 0
/-- Local place bits. -/
def TState.loc (t : TState) : Nat := t.nb - t.high
/-- Register bits RB. -/
def TState.rb (t : TState) : Nat := t.loc - t.eb
/-- Coordinates: bit count and extent. -/
def TState.dims (t : TState) : List (Nat × Nat) := (t.coord.take t.nc).map fun w => (bitsAt w 0 6, w / 256)
/-- The pattern matrix. -/
def TState.mat (t : TState) : List Nat := t.rows.take t.nb

/-- The words of a `FRAG` state (R161, R390): K's logarithm and the format code. -/
def fragK (frag : Nat) : Nat := if frag < 4 then 4 else if frag < 8 then 5 else 6
def fragFmt (frag : Nat) : Nat := if frag < 2 then 3 else if frag < 4 then 2 else if frag < 6 then 4 else if frag < 8 then 12 else 13
/-- The 512 bytes that `TSINIT.FRAG` writes (R390). -/
def fragBytes (frag reg sreg g : Nat) : List Byte :=
  let k := fragK frag
  let nb := k + 6
  let hdr := 5 + fragFmt frag * 2 ^ 4 + 2 * 2 ^ 8 + nb * 2 ^ 16 + 5 * 2 ^ 24 + 2 ^ 27 + frag * 2 ^ 40
  leBytes 8 hdr ++ leBytes 8 (reg % 256 + g % 64 * 256) ++ leBytes 8 (if 6 ≤ frag then sreg % 256 else 0) ++ zeros 8 ++
    leBytes 8 (k + 2 ^ k * 256) ++ leBytes 8 (6 + 64 * 256) ++ zeros 80 ++ (identMat nb).flatMap (leBytes 8) ++ zeros (8 * (48 - nb))

/-- Coordinate words in use and the sum of their bit counts are within R156. -/
def coordsOk (t : TState) : Bool :=
  ((t.coord.take t.nc).all fun w => bitsAt w 6 2 == 0 && decide (1 ≤ w / 256) && decide (w / 256 ≤ 2 ^ bitsAt w 0 6)) &&
  ((t.coord.drop t.nc).all fun w => w == 0) && (t.dims.map (·.1)).sum == t.nb

/-- Header limits of R155. -/
def headerOk (t : TState) : Bool :=
  let rsv := bitsAt t.hdr 52 12 + bitsAt t.hdr 48 2 + bitsAt t.hdr 38 2 + bitsAt t.hdr 35 1 + bitsAt t.hdr 30 2 + bitsAt t.hdr 22 2 +
    bitsAt t.hdr 11 5 + bitsAt t.hdr 3 1
  rsv == 0 && decide (1 ≤ t.cls) && decide (t.cls ≤ 5) && t.hasSize && decide (1 ≤ t.nc) && decide (t.nc ≤ 6) &&
  decide (1 ≤ t.nb) && decide (t.nb ≤ 48) && decide (t.cb ≤ 2) && decide (t.kb ≤ 5) && decide (t.lb ≤ 5) &&
  (t.gb == 0 || t.lb == 5) && (t.cls == 3 || (t.pb == 0 && t.kb == 0 && t.cb == 0)) && (t.inRegs || (t.lb == 0 && t.gb == 0)) &&
  (if t.cls = 5 then decide (t.frag ≤ 9) else t.frag == 0)

/-- BASE and SBASE hold nothing in their unused bits (R154) (one point DEDUCED, log entry 35). -/
def basesOk (t : TState) : Bool :=
  (t.xb || t.sbase == 0) &&
  (if t.inRegs then decide (t.base < 2 ^ 14) && decide (t.sbase < 2 ^ 8)
   else t.cls != 1 || (decide (t.base < 2 ^ 55) && decide (t.sbase < 2 ^ 55)))

/-- A `FRAG` state holds what its FRAGID fixes (R161) (one point DEDUCED, log entry 35). -/
def fragFixed (t : TState) : Bool :=
  t.cls != 5 ||
  (let r := tsOf (fragBytes t.frag (bitsAt t.base 0 8) (bitsAt t.sbase 0 8) (bitsAt t.base 8 6))
   t.fmt == r.fmt && t.nc == r.nc && t.nb == r.nb && t.lb == r.lb && t.gb == r.gb && t.coord == r.coord && t.rows == r.rows)

/-- The state is valid (R165, cause 0x20). -/
def TState.valid (t : TState) : Bool :=
  headerOk t && basesOk t && coordsOk t && t.rest == 0 && decide (t.ofs < 2 ^ t.nb) &&
  (t.mat.all fun r => decide (r < 2 ^ t.nb)) && ((t.rows.drop t.nb).all fun r => r == 0) &&
  decide (t.high + (if t.inRegs then t.eb else 0) ≤ t.nb) && fragFixed t

/-- The XB conditions of R160. -/
def TState.xbOk (t : TState) : Bool :=
  !t.xb || (decide (4 ≤ t.nb) && t.ofs % 16 == 0 &&
    (t.mat.mapIdx fun p r => if p < 4 then decide (r = 2 ^ p) else r % 16 == 0).all id)

/-! ## Places (R157 to R162) -/

/-- The place of an index. -/
def TState.place (t : TState) (i : Nat) : Nat := mulVec i t.mat ^^^ t.ofs

/-- The coordinates of an index lie below their extents. -/
def inExtents (i : Nat) : List (Nat × Nat) → Bool
  | [] => true
  | (b, e) :: l => decide (i % 2 ^ b < e) && inExtents (i / 2 ^ b) l
/-- An index is a hole (R162); one beyond NB bits counts as one (18/R398). -/
def TState.hole (t : TState) (i : Nat) : Bool := decide (2 ^ t.nb ≤ i) || !inExtents i t.dims

/-- Every index that is not a hole, coordinate 0 running fastest. -/
def indicesOf : List (Nat × Nat) → List Nat
  | [] => [0]
  | (b, e) :: l => (indicesOf l).flatMap fun hi => (List.range e).map fun x => x + 2 ^ b * hi
def TState.indices (t : TState) : List Nat := indicesOf t.dims

/-- Where an element lies: in memory, in a team's scratchpad, in the scratchpad of a team of the grid by number, or in a
register of a thread of the team; with the bit at which it begins. -/
inductive Stor where
  | mem (va bit : Nat)
  | scr (off bit : Nat)
  | spread (t off bit : Nat)
  | reg (g lane n bit : Nat)
  deriving DecidableEq, Repr

/-- The storage of a place (R159). -/
def TState.stor (t : TState) (p : Nat) : Stor :=
  let l := p % 2 ^ t.loc
  let bit := l * t.s
  if t.inRegs then
    let rho := l / 2 ^ t.eb
    .reg (bitsAt t.base 8 6 + bitsAt p (t.loc + t.lb) t.gb) (bitsAt p t.loc t.lb)
      (bitsAt t.base 0 8 + (if t.s = 64 then 2 * rho else rho)) (l % 2 ^ t.eb * t.s)
  else if t.cls = 1 then .mem (t.base + bit / 8) (bit % 8)
  else if t.cls = 2 then .scr (t.base + bit / 8) (bit % 8)
  else .spread (p / 2 ^ t.loc) (t.base + bit / 8) (bit % 8)

/-- The storage of the scale word of a place's block (R160). -/
def TState.scaleStor (t : TState) (p : Nat) : Stor :=
  let l := p % 2 ^ t.loc
  if t.inRegs then
    let beta := l / 2 ^ t.eb / 2 ^ (4 - t.eb)
    .reg (bitsAt t.base 8 6 + bitsAt p (t.loc + t.lb) t.gb) (bitsAt p t.loc t.lb) (bitsAt t.sbase 0 8 + beta / 2) (16 * (beta % 2))
  else if t.cls = 1 then .mem (t.sbase + 2 * (l / 16)) 0
  else if t.cls = 2 then .scr (t.sbase + 2 * (l / 16)) 0
  else .spread (p / 2 ^ t.loc) (t.sbase + 2 * (l / 16)) 0

/-! ## Footprints (R163) -/

/-- Coordinate boxes [0, e) as aligned blocks: the block's base and how many of its low bits are free. -/
def boxBlocks (e : Nat) : Nat → List (Nat × Nat)
  | 0 => if bitsAt e 0 1 = 1 then [(e / 2 * 2, 0)] else []
  | n + 1 => (if bitsAt e (n + 1) 1 = 1 then [(e / 2 ^ (n + 2) * 2 ^ (n + 2), n + 1)] else []) ++ boxBlocks e n
/-- The blocks of all coordinates: the base index and the mask of free bits; `sh` is the first bit of the coordinate. -/
def indexBlocks (sh : Nat) : List (Nat × Nat) → List (Nat × Nat)
  | [] => [(0, 0)]
  | (b, e) :: l =>
    (indexBlocks (sh + b) l).flatMap fun hi =>
      (boxBlocks e b).map fun x => (hi.1 + x.1 * 2 ^ sh, hi.2 + maskBits sh x.2)
/-- The greatest place of an index block. -/
def TState.blockMax (t : TState) (base free : Nat) : Nat :=
  let cols := (List.range t.nb).filter fun q => bitsAt free q 1 == 1
  maxOf ((cols.map fun q => mulVec (2 ^ q) t.mat).foldl addVec []) (t.place base)
/-- The greatest place of an element that is not a hole. -/
def TState.maxPlace (t : TState) : Nat := (indexBlocks 0 t.dims).foldl (fun m x => max m (t.blockMax x.1 x.2)) 0

/-- The top bits of the coordinates. -/
def topBits (sh : Nat) : List (Nat × Nat) → List Nat
  | [] => []
  | (b, _) :: l => if b = 0 then topBits sh l else (sh + b - 1) :: topBits (sh + b) l
/-- The footprint is trimmed (R163). -/
def TState.trimmed (t : TState) : Bool :=
  (t.cls == 1 || t.cls == 2) &&
  (let top := t.mat.getD (t.nb - 1) 0
   let col := topBit top
   top != 0 && top == 2 ^ col && (topBits 0 t.dims).contains col && bitsAt t.ofs (t.nb - 1) 1 == 0 &&
   (t.mat.take (t.nb - 1)).all fun r => bitsAt r col 1 == 0)
/-- Local places of the footprint. -/
def TState.extent (t : TState) : Nat := if t.trimmed then t.maxPlace + 1 else 2 ^ t.loc

/-- One part of a footprint: its space (0 `G`, 1 scratchpads, 2 registers), the teams or groups from `lo` to `hi`, and the
bytes or registers from `a` to `b`. -/
structure Span where
  sp : Nat
  lo : Nat
  hi : Nat
  a : Nat
  b : Nat
  deriving DecidableEq, Repr

/-- The parts of a footprint; `own` is the owning team's number in its grid. -/
def TState.spans (t : TState) (own : Nat) : List Span :=
  if t.inRegs then
    let g := bitsAt t.base 8 6
    let r := bitsAt t.base 0 8
    let n := 2 ^ t.rb * (if t.s = 64 then 2 else 1)
    let sc := (2 ^ t.rb - 1) / 2 ^ (4 - t.eb) / 2 + 1
    let one : Span := { sp := 2, lo := g, hi := g + 2 ^ t.gb, a := r, b := r + n }
    if t.xb then [one, { one with a := bitsAt t.sbase 0 8, b := bitsAt t.sbase 0 8 + sc }] else [one]
  else
    let n := t.extent
    let sp := if t.cls = 1 then 0 else 1
    let lo := if t.cls = 2 then own else 0
    let hi := if t.cls = 2 then own + 1 else if t.cls = 1 then 1 else 2 ^ t.high
    let one : Span := { sp := sp, lo := lo, hi := hi, a := t.base, b := t.base + (n * t.s + 7) / 8 }
    if t.xb then [one, { one with a := t.sbase, b := t.sbase + 2 * ((n + 15) / 16) }] else [one]

/-- Two parts share a location. -/
def Span.meets (x y : Span) : Bool :=
  x.sp == y.sp && decide (x.lo < y.hi) && decide (y.lo < x.hi) && decide (x.a < y.b) && decide (y.a < x.b)

/-- Two footprints coincide (R172). -/
def TState.coincides (x y : TState) : Bool :=
  x.cls == y.cls && x.base == y.base && x.nb == y.nb && (x.cls != 3 || (x.cb == y.cb && x.kb == y.kb && x.pb == y.pb))

/-- Two states name the same storage for every place (R167): their footprints coincide, and so do the scale words of a block and the
lanes and groups of a place. -/
def TState.sameStorage (x y : TState) : Bool :=
  x.coincides y && (!x.xb || x.sbase == y.sbase) && (!x.inRegs || (x.lb == y.lb && x.gb == y.gb))

/-! ## Checks (R165) -/

/-- The storage of a state is within range for its team (R165, cause 0x23). -/
def State.rangeOk (s : State) (tm : Team) (t : TState) : Bool :=
  let g := s.grid tm.grid
  let scratch := if t.cls = 3 then g.scratch else tm.scratch
  (t.cls != 3 || decide (2 ^ t.high ≤ g.teams)) &&
  (t.spans tm.num).all fun x =>
    if x.sp = 0 then decide (x.b ≤ 2 ^ 55)
    else if x.sp = 1 then decide (16384 ≤ x.a) && decide (x.b ≤ scratch)
    else
      (List.range (x.hi - x.lo)).all fun k =>
        match tm.groups[x.lo + k]? with
        | none => false
        | some q => decide (x.b ≤ q.role.nr)

/-- The checks a single use makes: validity, invertibility, and its own footprint (18/R398). -/
def State.useFault (s : State) (tm : Team) (t : TState) : Option Nat :=
  if !t.valid then some 0x20
  else if (inverseMat t.nb t.mat).isNone then some 0x21
  else if !s.rangeOk tm t then some 0x23
  else none

/-- The checks of a recut from `y` to `x` apart from those of R179; the lowest code of those that hold (R165). -/
def State.recutFault (s : State) (tm : Team) (x y : TState) : Option Nat :=
  if !x.valid || !y.valid then some 0x20
  else if (inverseMat x.nb x.mat).isNone || (inverseMat y.nb y.mat).isNone then some 0x21
  else if x.fmt != y.fmt || x.nc != y.nc || x.dims != y.dims then some 0x22
  else if !s.rangeOk tm x || !s.rangeOk tm y ||
      (!x.coincides y && (x.spans tm.num).any fun a => (y.spans tm.num).any fun b => a.meets b) then some 0x23
  else if !x.xbOk || !y.xbOk then some 0x24
  else none

/-- The conditions of R179 that do not need a translation: a `GLOBAL` destination of whole 256-byte blocks without holes,
and a source in memory. -/
def lossyShapeOk (x y : TState) : Bool :=
  x.cls == 1 && !y.inRegs && (x.dims.all fun d => d.2 == 2 ^ d.1) &&
  (x.spans 0).all fun q => q.a % 256 == 0 && q.b % 256 == 0

/-! ## The plan of a recut (R166 to R168) -/

/-- The level of a place bit in one state: 0 local, 1 lane, 2 core, 3 cluster, 4 panel. -/
def TState.levelOf (t : TState) (p : Nat) : Nat :=
  if p < t.loc then 0
  else if t.inRegs then 1
  else
    let k := p - t.loc
    if k < t.cb then 2 else if k < t.cb + t.kb then 3 else 4

/-- The place bits of a level, as a mask. -/
def levelMask (lev : List Nat) (l : Nat) : Nat := (lev.mapIdx fun p x => if x = l then 2 ^ p else 0).sum
/-- The set bits of a mask, lowest first. -/
def bitsOf (m n : Nat) : List Nat := (List.range n).filter fun p => bitsAt m p 1 == 1

/-- The rows of a matrix on some bits differ from identity rows. -/
def changedOn (m : List Nat) (mask : Nat) : Bool := (m.mapIdx fun p r => bitsAt mask p 1 == 1 && r != 2 ^ p).any id

/-- FIXUP (R167): the rows X of the extra pass as masks over H, with the span so far. -/
def fixupGo (m : List Nat) (jm : Nat) (hb : List Nat) : List Nat → List Nat → List (Nat × Nat)
  | _, [] => []
  | v, i :: l =>
    let d := m.getD i 0 &&& jm
    if reduceVec v d ≠ 0 then fixupGo m jm hb (addVec v d) l
    else
      match hb.find? fun h => reduceVec v (m.getD h 0 &&& jm) != 0 with
      | none => fixupGo m jm hb v l
      | some h => (i, 2 ^ h) :: fixupGo m jm hb (addVec v (d ^^^ (m.getD h 0 &&& jm))) l

/-- FACTOR (R167): passes as level and rows, in the order applied; at most one call per level. -/
def factorGo (n : Nat) (masks : List Nat) : Nat → List Nat → List (Nat × List Nat)
  | 0, _ => []
  | k + 1, m =>
    match (List.range 5).filter fun l => changedOn m (masks.getD l 0) with
    | [] => []
    | [j] => [(j, m)]
    | j :: hs =>
      let jm := masks.getD j 0
      let hm := (hs.map fun l => masks.getD l 0).sum
      let x := fixupGo m jm (bitsOf hm n) [] (bitsOf jm n)
      let f := (identMat n).mapIdx fun p r => r + ((x.find? fun y => y.1 == p).map (·.2)).getD 0
      let m2 := mulMat f m
      let lp := (identMat n).mapIdx fun p r => if bitsAt jm p 1 = 1 then m2.getD p 0 else r
      let e := mulMat m2 ((inverseMat n lp).getD [])
      (j, lp) :: factorGo n masks k e ++ (if x.isEmpty then [] else [(j, f)])

/-- The offsets of R168 along a plan: `v` is the running vector. -/
def offsetsGo (masks : List Nat) (q v : Nat) : List (Nat × List Nat) → List Pass
  | [] => []
  | (lev, rows) :: l =>
    let v1 := mulVec v rows
    if l.any fun x => x.1 == lev then { level := lev, rows := rows, off := 0 } :: offsetsGo masks q v1 l
    else
      let lm := masks.getD lev 0
      { level := lev, rows := rows, off := (q ^^^ v1) &&& lm } :: offsetsGo masks q (v1 ^^^ ((v1 ^^^ q) &&& lm)) l

/-- The passes of the recut from `y` to `x` (R166 to R168). -/
def planOf (x y : TState) : List Pass :=
  let n := x.nb
  let lev := (List.range n).map fun p => max (x.levelOf p) (y.levelOf p)
  let masks := (List.range 5).map (levelMask lev)
  let qm := mulMat x.mat ((inverseMat n y.mat).getD [])
  let q := mulVec y.ofs qm ^^^ x.ofs
  let ps := factorGo n masks 6 qm
  let more := (List.range 5).filter fun l => (q &&& masks.getD l 0) != 0 && !(ps.any fun p => p.1 == l)
  let ps2 := ps ++ more.map fun l => (l, identMat n)
  offsetsGo masks q 0 (if ps2.isEmpty && !x.sameStorage y then [(0, identMat n)] else ps2)

/-- The place of an element after the first k passes of a plan, from its place in the source (R168). -/
def passPlace (plan : List Pass) (k p : Nat) : Nat := (plan.take k).foldl (fun v z => mulVec v z.rows ^^^ z.off) p

/-- The word of RECUTQ (R171). -/
def recutWord (fault : Option Nat) (inPlace fabc : Bool) (plan : List Pass) : Nat :=
  match fault with
  | some c => c * 2 ^ 48
  | none =>
    2 ^ 63 + (if inPlace then 2 ^ 62 else 0) + (if fabc then 2 ^ 61 else 0) +
      ((List.range 9).map fun k => ((plan[k]?).map (·.level)).getD 15 * 2 ^ (4 * k + 4)).sum + plan.length

end Sys2Proof.Machine
end

