-- ==== Sys2Proof/Machine/Engine.lean ====
section
/-! DEFINITION. What every engine command shares: reads at issue and their faults (18/R387), the raise of a counter and its
waits (10/R222), the check of a word operand (18/R388), access to memory, scratchpads and registers by an engine
(05/R118, 07/R159, R160), charges against budgets (03/R67), credits (10/R229, 02/R50), faults and their answers
(10/R225), and finishing (10/R223). -/

namespace Sys2Proof.Machine

/-! ## Reads at issue (18/R387) -/

/-- A lane whose read or translation at issue faults parks at the instruction, and the fault is reported. -/
def State.issueFault (s : State) (p : Pre) (t : Thread) (cause va : Nat) : State × Lane :=
  let r := { s.trapRec p true t cause 0 (some (vaValue va)) with lanes := 2 ^ t.id.lane }
  ((s.openReport (s.keyOf t va cause) fun x => { x with tids := x.tids ++ [t.id] }).setThread { t with run := .faulted r }, .asIs)

/-- What reads at issue give. -/
inductive IssueRes where
  | bytes (l : List Byte)
  | hold
  | fault (cause va : Nat)
  deriving DecidableEq, Repr

/-- Reads at issue of the thread that are out or have come (one point DEDUCED, log entry 33). -/
def State.issueReads (s : State) (t : Thread) : List (Nat × List Byte) :=
  s.ops.filterMap fun o =>
    if o.tid == t.id && o.depth == t.depth then
      match o.src with
      | .issueRead b l => some (b, l)
      | _ => none
    else none

/-- The reads at issue of the thread forgotten, when its instruction goes on. -/
def State.dropReads (s : State) (t : Thread) : State :=
  { s with ops := dropBy (fun o => o.tid == t.id && o.depth == t.depth &&
      (match o.src with | .issueRead _ _ | .issueBad _ _ _ => true | _ => false)) s.ops }

/-- The cause of a read at issue of the thread that failed at an address. -/
def State.issueFailed (s : State) (t : Thread) (va : Nat) : Option Nat :=
  (s.ops.filter fun o => o.tid == t.id && o.depth == t.depth).findSome? fun o =>
    match o.src with
    | .issueBad b n c => if b ≤ va ∧ va < b + n then some c else none
    | _ => none

/-- n bytes of `G`, within one flit, read by the thread before its instruction issues: a plain read (one point DEDUCED, log entry 33). -/
def State.issueRead (s : State) (t : Thread) (va n : Nat) : State × IssueRes :=
  let mine := s.issueReads t
  match mine.find? fun x => decide (x.1 ≤ va) && decide (va + n ≤ x.1 + x.2.length) with
  | some x => (s, .bytes ((x.2.drop (va - x.1)).take n))
  | none =>
    if mine.any fun x => x.2.isEmpty && x.1 / 128 == va / 128 then (s, .hold)
    else if let some c := s.issueFailed t va then (s, .fault c va)
    else
      let op := s.fresh
      let r := s.gLoad t va n .none op
      match r.2 with
      | .bytes l => (r.1, .bytes l)
      | .fault c _ => (r.1, .fault c va)
      | .late => (r.1, .hold)
      | .window w m c => (r.1, .bytes (((List.range c).flatMap fun i => wordBytes (r.1.ownerRead { w with lane := w.lane + i } m)).take n))
      | .fabric _ _ =>
        let flits := ((r.1.fabric.reqs.getLast?).map fun q => q.pkt.aux).getD 1
        let o : LongOp := { id := op, tid := t.id, depth := t.depth, flag := none, writes := [], astat := 0#6
                            src := .issueRead (va / (32 * flits) * (32 * flits)) [], acc := none, dead := false }
        ({ r.1 with ops := r.1.ops ++ [o], fresh := r.1.fresh + 1 }, .hold)

/-- `k` chunks of 8 bytes read at issue; every chunk is asked for before the lane waits. -/
def State.issueRun (s : State) (t : Thread) (va : Nat) : Nat → State × IssueRes
  | 0 => (s, .bytes [])
  | k + 1 =>
    let r := s.issueRead t va 8
    match r.2 with
    | .fault c a => (r.1, .fault c a)
    | .hold =>
      let q := State.issueRun r.1 t (va + 8) k
      (q.1, match q.2 with | .fault c a => .fault c a | _ => .hold)
    | .bytes l =>
      let q := State.issueRun r.1 t (va + 8) k
      (q.1, match q.2 with | .bytes m => .bytes (l ++ m) | x => x)

/-- A translation made at issue for an address of the thread (18/R387). -/
def State.issueXlat (s : State) (t : Thread) (va : Nat) : State × Except Nat Xlat := s.translateFor t va

/-- A record of 8k bytes in `G`, aligned, read at issue: its bytes, or what the lane meets. -/
def State.recordG (s : State) (p : Pre) (t : Thread) (va k align : Nat) : State × Except Lane (List Byte) :=
  if va % align ≠ 0 then
    let r := s.translateFor t va
    let c := match r.2 with | .error c => min c 0x15 | .ok _ => 0x15
    let q := r.1.issueFault p t c va
    (q.1, .error q.2)
  else
    let r := s.issueRun t va k
    match r.2 with
    | .bytes l => (r.1.dropReads t, .ok l)
    | .hold => (r.1, .error .hold)
    | .fault c a => let q := (r.1.dropReads t).issueFault p t c a; (q.1, .error q.2)

/-! ## Issue (10/R222, 18/R388) -/

/-- Passes of a command on its core's copy engine (one point DESIGN CHOICE, log entry 28). -/
def Cmd.passes (c : Cmd) : Nat :=
  match c.kind with
  | .recut _ _ _ _ _ plan _ => plan.length
  | _ => 1

/-- A command waits at issue: an earlier access of the thread is not yet performed (11/R249, R254; 07/R178), the counter is full, or
a `COPY` or `FAB` command's passes would take the core past 512. A matrix operation accesses no memory, so it waits only for its
counter. -/
def State.engineFull (s : State) (t : Thread) (cls : Cls) (passes : Nat) : Bool :=
  (cls != .mat && s.accPending t) || decide (1023 ≤ s.counter t.team (groupIndex (s.teamOf t) t.id.slot) cls) ||
  ((cls == .copy || cls == .fab) &&
    decide (Config.passesInFlight <
      (((s.cmds.filter fun c => c.core == t.id.core && (c.cls == .copy || c.cls == .fab) && c.state != .finished).map Cmd.passes).sum + passes)))

/-- The place of a budgeted class: COPY, FAB, COLL, DEC. -/
def budgetIndex : Cls → Option Nat
  | .copy => some 0
  | .fab => some 1
  | .coll => some 2
  | .dec => some 3
  | _ => none

/-- The budget of an activity in the current period; 0 is unlimited. -/
def State.budgetOf (s : State) (ctx job k : Nat) : Nat :=
  if fld s.sys.budcfg 0 1 = 0 then 0
  else
    match s.slots.find? fun x => x.ctx == ctx && x.job == job with
    | none => 0
    | some j => nth (((s.budgets.find? fun b => b.1 == j.slot).map (·.2)).getD []) k

/-- The charges of a job in the current period. -/
def State.chargesOf (s : State) (ctx job : Nat) : List Nat :=
  ((s.charges.find? fun x => x.ctx == ctx && x.job == job).map (·.amt)).getD [0, 0, 0, 0]

/-- An activity charged. -/
def State.charge (s : State) (ctx job k amt : Nat) : State :=
  let c : Charge := { ctx := ctx, job := job, amt := bump (s.chargesOf ctx job) k (· + amt) }
  { s with charges := putBy (fun x => x.ctx == ctx && x.job == job) c s.charges }

/-- The activity has reached its budget. -/
def State.spent (s : State) (ctx job k : Nat) : Bool :=
  let b := s.budgetOf ctx job k
  b != 0 && decide (b ≤ nth (s.chargesOf ctx job) k)

/-- A command issued: its counter rises, its core writes back the context's dirty bytes, and the lines it will write are busy from
now on (05/R118, 10/R222). Where its activity's budget is spent it begins paused (03/R67). -/
def State.newCmd (s : State) (t : Thread) (cls : Cls) (scope : Scope) (kind : CmdKind) (aw : Option AwRef) (st : CmdState)
    (ranges : List (Nat × Nat)) (snap : List UnitVal) (sfx : Bool) : State × Nat :=
  let who := s.who t
  let ctx := s.ctxOf t
  let c : Cmd :=
    { id := s.fresh, cls := cls, core := t.id.core, ctx := ctx, team := t.team, group := who.2, tid := t.id, scope := scope
      kind := kind, aw := aw, state := st, prog := 0, pos := 0, snap := snap, buf := [], owed := 0, sent := [], lossy := [], moved := 0
      ranges := ranges, paused := (budgetIndex cls).any fun k => s.spent ctx (s.gridOf t).job k, err := 0, cause := 0, errcnt := 0, frames := 0, status := 0 }
  let s1 := if sfx then s.setSfx [t.team] else s
  let s2 := (s1.raise who.1 who.2 cls).writeBackAll (fun l => l.core == t.id.core && l.ctx == ctx) none
  ({ s2 with cmds := s2.cmds ++ [c], fresh := s2.fresh + 1 }, s.fresh)

/-- The command of a number. -/
def State.cmd? (s : State) (id : Nat) : Option Cmd := s.cmds.find? fun c => c.id == id
/-- A command rewritten. -/
def State.editCmd (s : State) (id : Nat) (f : Cmd → Cmd) : State := { s with cmds := editBy (fun c => c.id == id) f s.cmds }

/-- A command that owes its word nothing. -/
def Cmd.owesNone (c : Cmd) : Cmd := { c with owed := 0, sent := [] }

/-- A command stops with an error (10/R224): it makes no more accesses, and waits for the answers to those it made. -/
def State.cmdError (s : State) (id err cause : Nat) : State :=
  s.editCmd id fun x =>
    if x.err = 0 then { x with err := err, cause := cause, state := if x.state = .finished then .finished else .acking, paused := false }
    else x

/-- A command reports a fault of an access and pauses there (10/R225); alignment and access causes are always forwarded, so
the command stops with error 6. A fault at its word's credit leaves nothing owed (one point DEDUCED, log entry 26). -/
def State.cmdFault (s : State) (c : Cmd) (cause va stage : Nat) : State :=
  if cause = 0x14 ∨ cause = 0x15 then
    (s.editCmd c.id fun x => if stage = 1 then x else x.owesNone).cmdError c.id 6 cause
  else
    (s.openReport { cluster := clusterOf c.core, ctx := c.ctx, page := va / 65536, cause := cause } fun x =>
      { x with cmds := x.cmds ++ [c.id] }).editCmd c.id fun x => { x with state := .faulted cause va stage }

/-- What the check of a word operand gives: it may go on, error 6 with a cause, or a pause at a translation fault. -/
inductive WordCheck where
  | ok
  | bad (cause : Nat)
  | pause (cause : Nat)
  deriving DecidableEq, Repr

/-- The check of a word operand of n bytes (18/R388): an arrival word lies in scratchpad or a `LOCAL` page, and for a recut
also in a page of another node; a status word may lie in any page (one point DEDUCED, log entry 95). -/
def State.wordCheck (s : State) (c : Cmd) (w : AwRef) (n : Nat) (arrival remote : Bool) : State × WordCheck :=
  if !w.scr && decide (2 ^ 55 ≤ w.addr) then (s, .bad 0x14)
  else if w.scr then
    (s, if w.addr < 16384 ∨ (s.team c.team).scratch < w.addr + n then .bad 0x14 else if w.addr % n ≠ 0 then .bad 0x15 else .ok)
  else if w.addr % n ≠ 0 then (s, .bad 0x15)
  else
    let r := s.translate (clusterOf c.core) c.ctx w.addr
    match r.2 with
    | .error e => (r.1, .pause e)
    | .ok x => (r.1, if !arrival || x.apt == 0 || (remote && decide (x.apt ≤ 3)) then .ok else .bad 0x14)

/-- The check made for a command that has just raised its counter: error 6 finishes it at once. -/
def State.checkCmd (s : State) (id : Nat) (n : Nat) (arrival remote : Bool) : State :=
  match s.cmd? id with
  | none => s
  | some c =>
    match c.aw with
    | none => s
    | some w =>
      let r := s.wordCheck c w n arrival remote
      match r.2 with
      | .ok => r.1
      | .bad cause => r.1.editCmd id fun x => { x with err := 6, cause := cause, state := .acking }
      | .pause cause => r.1.cmdFault c cause w.addr 0

/-! ## Engine accesses -/

/-- What one access of an engine gives. -/
inductive EngRes where
  | ok (l : List Byte)
  /-- An answer from another node is awaited. -/
  | wait
  | fault (cause va : Nat)
  | error (code : Nat)
  deriving DecidableEq, Repr

/-- A status of a response as an error code (10/R224). -/
def errOf (status : Nat) : Nat := if status = 1 then 2 else if status = 2 then 3 else if status = stTIMEOUT then 5 else 4

/-- A request of the command is out. -/
def State.cmdOpen (s : State) (id : Nat) : Bool := s.fabric.reqs.any fun r => r.why == .cmd id || r.why == .credit id

/-- n bytes of `G`, within one flit, read by an engine at their home (05/R118). -/
def State.engRead (s : State) (c : Cmd) (va n : Nat) : State × EngRes :=
  let r := s.translate (clusterOf c.core) c.ctx va
  match r.2 with
  | .error e => (r.1, .fault e va)
  | .ok x =>
    if x.apt = 0 then
      if r.1.homeWaits (x.pa / 128) then (r.1, .wait) else
      let h := r.1.homeRead x.pa n x.comp
      match h.2 with
      | none => (h.1, .error 1)
      | some l => (h.1.noAlloc r.1 x.cache x.pa false, .ok l)
    else if x.apt ≤ 3 then
      let fa := x.pa / 32 * 32
      match c.buf.find? fun b => b.node == x.node && b.addr == fa with
      | some b => (r.1, .ok ((b.data.drop (x.pa % 32)).take n))
      | none =>
        let s1 := r.1
        if s1.fabric.reqs.any fun q => (q.why == .cmd c.id && q.pkt.typ == 0x01 && q.dst == x.node && q.pkt.addr == fa) ||
            (q.dst == x.node && q.pkt.addr / 128 == x.pa / 128 && counted q.pkt) then (s1, .wait)
        else
          let q := s1.request (readPkt x.node fa c.ctx 1 x.hot) (.cmd c.id)
          (q.1, if q.2.1 then .wait else .error 3)
    else if x.apt = 4 then
      match r.1.winLoad (some c.ctx) (va % 2 ^ 32) n with
      | none => if r.1.winTarget (some c.ctx) (va % 2 ^ 32) n = .refused then (r.1, .fault 0x14 va) else (r.1, .error 1)
      | some l => (r.1, .ok l)
    else (r.1, .ok (leBytes n (r.1.freeWord (va % 65536)).toNat))

/-- Bytes of `G`, within one flit, written by an engine at their home, or sent there. -/
def State.engWrite (s : State) (c : Cmd) (va : Nat) (l : List Byte) : State × EngRes :=
  let r := s.translate (clusterOf c.core) c.ctx va
  match r.2 with
  | .error e => (r.1, .fault e va)
  | .ok x =>
    if !x.w then (r.1, .fault 0x12 va)
    else if x.apt = 0 then ((r.1.homeWrite c.ctx x.pa l x.comp).1.noAlloc r.1 x.cache x.pa true, .ok [])
    else if x.apt ≤ 3 then
      let q := r.1.request (smallWrite x.node x.pa c.ctx x.hot l) (.cmd c.id)
      if q.2.1 then (q.1, .ok []) else (q.1, .error 3)
    else if x.apt = 4 then
      let q := r.1.winStore (some c.ctx) (va % 2 ^ 32) l
      (q.1, if q.2 then .ok [] else .fault 0x14 va)
    else (r.1, .ok [])

/-- Bytes of `G` read one by one, as a run that may cross flits and pages. -/
def State.engReadRun (s : State) (c : Cmd) (va : Nat) : Nat → State × EngRes
  | 0 => (s, .ok [])
  | n + 1 =>
    let r := s.engRead c va 1
    match r.2 with
    | .ok l =>
      let q := State.engReadRun r.1 c (va + 1) n
      (q.1, match q.2 with | .ok m => .ok (l ++ m) | x => x)
    | .wait =>
      let q := State.engReadRun r.1 c (va + 1) n
      (q.1, match q.2 with | .ok _ => .wait | x => x)
    | x => (r.1, x)
/-- Bytes of `G` written one by one. -/
def State.engWriteRun (s : State) (c : Cmd) (va : Nat) : List Byte → State × EngRes
  | [] => (s, .ok [])
  | b :: l =>
    let r := s.engWrite c va [b]
    match r.2 with
    | .ok _ => State.engWriteRun r.1 c (va + 1) l
    | x => (r.1, x)

/-- A power of two of bytes at an aligned address, or a run of bytes. -/
def State.engReadN (s : State) (c : Cmd) (va n : Nat) : State × EngRes :=
  if n ≤ 8 then (if va % n ≠ 0 then (s, .fault 0x15 va) else s.engRead c va n) else s.engReadRun c va n
/-- The same for a write. -/
def State.engWriteN (s : State) (c : Cmd) (va : Nat) (l : List Byte) : State × EngRes :=
  if l.length ≤ 8 then (if va % l.length ≠ 0 then (s, .fault 0x15 va) else s.engWrite c va l) else s.engWriteRun c va l

/-- The placed team of a number in a grid (07/R159) (one point DEDUCED, log entry 32). -/
def State.teamNumbered (s : State) (grid num : Nat) : Option Team :=
  s.teams.find? fun t => t.grid == grid && t.num == num && t.placed

/-- The thread in lane and group of the command's team. -/
def State.lanesOf (s : State) (c : Cmd) (g lane : Nat) : Tid :=
  { core := c.core, slot := (s.team c.team).slots.getD g 64, lane := lane }

/-- Bytes of a scratchpad as an engine reads them: error 1 where their line is uncorrectable (02/R54, 06/R151). -/
def State.scrTake (s : State) (team off n : Nat) : EngRes :=
  if (s.team team).scrLost off n then .error 1 else .ok (s.scrRead team off n)

/-- `w` bits at a place of storage read as a number; memory is read in whole bytes. -/
def State.storRead (s : State) (c : Cmd) (st : Stor) (w : Nat) : State × EngRes :=
  let n := max 1 (w / 8)
  match st with
  | .mem va _ => s.engReadN c va n
  | .scr off _ => if n ≤ 8 && off % n != 0 then (s, .fault 0x15 off) else (s, s.scrTake c.team off n)
  | .spread t off _ =>
    match s.teamNumbered (s.team c.team).grid t with
    | none => (s, .fault 0x14 off)
    | some tm => if n ≤ 8 && off % n != 0 then (s, .fault 0x15 off) else (s, s.scrTake tm.id off n)
  | .reg g lane r bit =>
    let v := (s.ownerRead (s.lanesOf c g lane) r).toNat + (if w = 64 then 2 ^ 32 * (s.ownerRead (s.lanesOf c g lane) (r + 1)).toNat else 0)
    (s, .ok (leBytes n (bitsAt v bit w)))

/-- Bytes written at a place of storage; a register's bits take effect at a clause boundary of its owner, with a tag. -/
def State.storWrite (s : State) (c : Cmd) (st : Stor) (w v : Nat) (tag : Tag) : State × EngRes :=
  let n := max 1 (w / 8)
  match st with
  | .mem va _ => s.engWriteN c va (leBytes n v)
  | .scr off _ => if n ≤ 8 && off % n != 0 then (s, .fault 0x15 off) else (s.scrWrite c.team off (leBytes n v), .ok [])
  | .spread t off _ =>
    match s.teamNumbered (s.team c.team).grid t with
    | none => (s, .fault 0x14 off)
    | some tm => if n ≤ 8 && off % n != 0 then (s, .fault 0x15 off) else (s.scrWrite tm.id off (leBytes n v), .ok [])
  | .reg g lane r bit =>
    let me := s.lanesOf c g lane
    let lo : WinWrite := { n := r, v := BitVec.ofNat 32 (v % 2 ^ w * 2 ^ bit), mask := BitVec.ofNat 32 (maskBits bit (min w 32)), tag := tag, pkt := 0 }
    let s1 := s.ownerWrite me lo
    (if w = 64 then s1.ownerWrite me { lo with n := r + 1, v := BitVec.ofNat 32 (v / 2 ^ 32) } else s1, .ok [])

/-! ## Units of a tensor: one element, or one XB block with its scale word (07/R160, R164) -/

/-- Bits of a unit. -/
def TState.unitBits (t : TState) : Nat := if t.xb then 16 * t.s else t.s

/-- The units of a tensor: first index and how many of its elements are not holes. -/
def TState.units (t : TState) : List (Nat × Nat) :=
  if t.xb then
    let bl := (t.indices.map (· / 16)).eraseDups
    bl.map fun b => (16 * b, (t.indices.filter fun i => i / 16 == b).length)
  else t.indices.map fun i => (i, 1)

/-- The elements of an XB block lie apart: in registers, or over several teams of a `SPREAD` tensor with fewer than four local
bits (07/R158, R160). -/
def TState.apart (t : TState) : Bool := t.inRegs || decide (t.loc < 4)
/-- The bit of a byte of memory at which an element begins. -/
def Stor.nibble : Stor → Nat
  | .mem _ b | .scr _ b | .spread _ _ b => b
  | .reg _ _ _ _ => 0

/-- The first n elements of a block read one by one: element k of the block at place p + k. -/
def State.blockRead (s : State) (c : Cmd) (t : TState) (p : Nat) : Nat → Except EngRes Nat
  | 0 => .ok 0
  | n + 1 =>
    match State.blockRead s c t p n, (s.storRead c (t.stor (p + n)) t.s).2 with
    | .ok v, .ok l => .ok (v + leNat l / 2 ^ (t.stor (p + n)).nibble % 2 ^ t.s * 2 ^ (t.s * n))
    | .ok _, x => .error x
    | .error x, _ => .error x
/-- One element of a block written, the other half of its byte as it stands. -/
def State.elemWrite (s : State) (c : Cmd) (t : TState) (p v : Nat) : State × EngRes :=
  let st := t.stor p
  match st with
  | .reg _ _ _ _ => s.storWrite c st t.s v t.fmt
  | _ =>
    match (s.storRead c st t.s).2 with
    | .ok l =>
      let old := leNat l
      s.storWrite c st 8 (old - bitsAt old st.nibble t.s * 2 ^ st.nibble + v % 2 ^ t.s * 2 ^ st.nibble) t.fmt
    | x => (s, x)
/-- The first n elements of a block written one by one. -/
def State.blockWrite (s : State) (c : Cmd) (t : TState) (p v : Nat) : Nat → State × EngRes
  | 0 => (s, .ok [])
  | n + 1 =>
    let r := State.blockWrite s c t p v n
    match r.2 with
    | .ok _ => r.1.elemWrite c t (p + n) (elemAt t.s n v)
    | x => (r.1, x)

/-- n bytes of memory or scratchpad that a block fills, read as a run: a block has no alignment of its own. -/
def State.runRead (s : State) (c : Cmd) (st : Stor) (n : Nat) : State × EngRes :=
  match st with
  | .mem va _ => s.engReadRun c va n
  | .scr off _ => (s, s.scrTake c.team off n)
  | .spread t off _ =>
    match s.teamNumbered (s.team c.team).grid t with
    | none => (s, .fault 0x14 off)
    | some tm => (s, s.scrTake tm.id off n)
  | .reg _ _ _ _ => (s, .ok (zeros n))
/-- The same for a write. -/
def State.runWrite (s : State) (c : Cmd) (st : Stor) (l : List Byte) : State × EngRes :=
  match st with
  | .mem va _ => s.engWriteRun c va l
  | .scr off _ => (s.scrWrite c.team off l, .ok [])
  | .spread t off _ =>
    match s.teamNumbered (s.team c.team).grid t with
    | none => (s, .fault 0x14 off)
    | some tm => (s.scrWrite tm.id off l, .ok [])
  | .reg _ _ _ _ => (s, .ok [])

/-- The scale words of a block: one, or, where its elements lie over several teams, one in each of them (one point DEDUCED, log
entry 109). -/
def TState.scalesOf (t : TState) (p : Nat) : List Stor :=
  if t.inRegs || !t.apart then [t.scaleStor p] else ((List.range 16).map fun k => t.scaleStor (p + k)).eraseDups
/-- A scale word written to each of its places. -/
def State.scaleWrite (s : State) (c : Cmd) (v : Nat) : List Stor → State × EngRes
  | [] => (s, .ok [])
  | st :: l =>
    let r := s.storWrite c st 16 v .xsc
    match r.2 with
    | .ok _ => State.scaleWrite r.1 c v l
    | x => (r.1, x)

/-- The elements of a unit read at a place. -/
def State.unitBody (s : State) (c : Cmd) (t : TState) (p : Nat) : State × EngRes :=
  if !t.xb then s.storRead c (t.stor p) t.s
  else if t.apart then (s, match s.blockRead c t p 16 with | .ok v => .ok (leBytes (t.unitBits / 8) v) | .error x => x)
  else s.runRead c (t.stor p) (t.unitBits / 8)

/-- A unit read at a place, as its value and scale word. -/
def State.unitRead (s : State) (c : Cmd) (t : TState) (p : Nat) : State × EngRes × Nat × Nat :=
  let r := s.unitBody c t p
  match r.2 with
  | .ok l =>
    if t.xb then
      let q := r.1.storRead c (t.scaleStor p) 16
      match q.2 with
      | .ok m => (q.1, .ok [], leNat l, leNat m)
      | x => (q.1, x, 0, 0)
    else (r.1, .ok [], leNat l, 0)
  | x => (r.1, x, 0, 0)

/-- A unit written at a place; registers of a `REG` destination take the tag FMT, and XSC for scale words. -/
def State.unitWrite (s : State) (c : Cmd) (t : TState) (p v scale : Nat) : State × EngRes :=
  let r :=
    if !t.xb then s.storWrite c (t.stor p) t.s v t.fmt
    else if t.apart then s.blockWrite c t p v 16
    else s.runWrite c (t.stor p) (leBytes (t.unitBits / 8) v)
  match r.2 with
  | .ok _ => if t.xb then r.1.scaleWrite c scale (t.scalesOf p) else (r.1, .ok [])
  | x => (r.1, x)

/-! ## Budgets (03/R67, R68) -/

/-- The job of a command. -/
def State.jobOf (s : State) (c : Cmd) : Nat := (s.grid (s.team c.team).grid).job

/-- A spent activity's commands that stand at a block boundary pause; the others pause at their next one (03/R67). -/
def State.pauseSpent (s : State) (ctx job k : Nat) : State :=
  if s.spent ctx job k then
    let here : Cmd → Bool := fun c =>
      c.ctx == ctx && s.jobOf c == job && budgetIndex c.cls == some k && c.moved == 0 && c.state != .finished
    { s with cmds := editBy here (fun c => { c with paused := true }) s.cmds }
  else s

/-- Bytes moved by a command: counted for its group (19/R426), charged block by block of 256, and the command pauses at
the boundary where its activity's budget is reached. -/
def State.moved (s : State) (id n : Nat) : State :=
  match s.cmd? id with
  | none => s
  | some c =>
    let sel := match c.cls with | .copy => some 4 | .fab => some 5 | .gath => some 6 | _ => none
    let s0 := match sel with | some k => s.countGroup c.team c.group k n | none => s
    match budgetIndex c.cls with
    | none => s0
    | some k =>
      let m := c.moved + n
      let whole := m / 256 * 256
      let s1 := if whole = 0 then s0 else s0.charge c.ctx (s.jobOf c) k whole
      (s1.editCmd id fun x => { x with moved := m % 256, paused := x.paused || (decide (0 < whole) && s1.spent c.ctx (s.jobOf c) k) }).pauseSpent
        c.ctx (s.jobOf c) k

/-- What is left of a command's last block charged as it ends. -/
def State.chargeRest (s : State) (c : Cmd) : State :=
  match budgetIndex c.cls with
  | none => s
  | some k =>
    if c.moved = 0 then s
    else ((s.charge c.ctx (s.jobOf c) k c.moved).editCmd c.id fun x => { x with moved := 0 }).pauseSpent c.ctx (s.jobOf c) k

/-! ## Credits (10/R229, R230; 02/R50) -/

/-- Where a command's arrival word lies: on this device, or at a physical address of another node with its leaf's HOT. -/
def State.wordPlace (s : State) (c : Cmd) (w : AwRef) : State × Except Nat (WordLoc ⊕ (Nat × Nat × Bool)) :=
  if w.scr then (s, .ok (.inl (.scr c.team w.addr)))
  else
    let r := s.translate (clusterOf c.core) c.ctx w.addr
    match r.2 with
    | .error e => (r.1, .error e)
    | .ok x => (r.1, .ok (if x.apt = 0 then .inl (.mem x.pa) else .inr (x.node, x.pa, x.hot)))

/-- CREDIT packets of at most 2^24 − 1 bytes each toward a word of another node (02/R50) (one point DEDUCED, log entry 31). -/
def State.sendCredits (s : State) (c : Cmd) (node pa : Nat) (hot : Bool) : Nat → Nat → State
  | 0, _ => s
  | k + 1, n =>
    if n = 0 then s
    else
      let m := min n 16777215
      let q := s.request (creditPkt node pa c.ctx m hot) (.credit c.id)
      State.sendCredits (if q.2.1 then q.1 else q.1.cmdError c.id 3 0) c node pa hot k (n - m)

/-- A place of another node that a command writes, by flit. -/
def farKey (node pa : Nat) : Nat := node * 2 ^ 52 + pa / 32 * 32
/-- The place of another node that a command's write at a place of storage goes to. -/
def State.farOf (s : State) (c : Cmd) (st : Stor) : Option Nat :=
  match st with
  | .mem va _ =>
    match (s.translate (clusterOf c.core) c.ctx va).2 with
    | .ok x => if 1 ≤ x.apt ∧ x.apt ≤ 3 then some (farKey x.node x.pa) else none
    | .error _ => none
  | _ => none
/-- Bits that a unit written at a place of storage adds to what the word is owed: on this device, or at another node. -/
def State.owe (s : State) (c : Cmd) (st : Stor) (bits : Nat) : State :=
  let far := s.farOf c st
  s.editCmd c.id fun x =>
    match far with
    | none => { x with owed := x.owed + bits }
    | some k => { x with sent := countBy x.sent k (· + bits) }

/-- A unit written at its place is owed to the command's word: its elements that are not holes, and the scale word of a block
(07/R178). -/
def State.oweUnit (s : State) (c : Cmd) (t : TState) (p count : Nat) : State :=
  let s1 := s.owe c (t.stor p) (count * t.s)
  if t.xb then s1.owe c (t.scaleStor p) 16 else s1
/-- Bytes that a unit written at a place counts for its command: every byte moved, and of a `FAB` command those sent to another
node (03/R67, 19/R426). -/
def State.unitBytes (s : State) (c : Cmd) (t : TState) (p : Nat) : Nat :=
  let n := fun (st : Stor) (k : Nat) => if c.cls == .fab && (s.farOf c st).isNone then 0 else k
  n (t.stor p) ((t.unitBits + 7) / 8) + (if t.xb then n (t.scaleStor p) 2 else 0)

/-- A command owes its word something. -/
def Cmd.owes (c : Cmd) : Bool := c.owed != 0 || !c.sent.isEmpty
/-- Bytes a command owes its word: bits written, rounded up over the command to a whole byte (07/R178). -/
def Cmd.owedBytes (c : Cmd) : Nat := (c.owed + (c.sent.map (·.2)).sum + 7) / 8

/-- The bytes owed to a word of another node, divided by the node they were written to: what was written on this device, and with it
the rounding, is one share (02/R50) (one point DEDUCED, log entry 31). -/
def Cmd.shares (c : Cmd) : List Nat :=
  let nodes := (c.sent.map fun x => x.1 / 2 ^ 52).eraseDups
  let far := nodes.map fun n => ((c.sent.filter fun x => x.1 / 2 ^ 52 == n).map (·.2)).sum / 8
  let near := c.owedBytes - far.sum
  if c.owed ≠ 0 then near :: far
  else
    match far with
    | [] => []
    | n :: l => (n + near) :: l

/-- A data WRITE of a command was answered other than OK: what was written there is owed to no word (02/R50, 10/R224). A word of
another node is credited for a node only after every WRITE there was OK. -/
def State.writeFailed (s : State) (id node pa : Nat) : State :=
  match s.cmds.find? fun c => c.id == id with
  | none => s
  | some c =>
    let remote : Bool := match c.aw with
      | some w => (match (s.wordPlace c w).2 with | .ok (.inr _) => true | _ => false)
      | none => false
    s.editCmd id fun x => { x with sent := dropBy (fun k => if remote then k.1 / 2 ^ 52 == node else k.1 == farKey node pa) x.sent }

/-- A command whose writes are answered credits its word. The local credit is the step ARRIVAL_CREDIT; a word of another
node is credited with packets whose answers the command awaits. -/
def State.creditWord (s : State) (c : Cmd) : State :=
  match c.aw with
  | none => s.editCmd c.id Cmd.owesNone
  | some w =>
    let r := s.wordPlace c w
    match r.2 with
    | .error e => r.1.cmdFault c e w.addr 2
    | .ok (.inl loc) => (r.1.due (.arrivalCredit loc c.owedBytes c.id)).editCmd c.id Cmd.owesNone
    | .ok (.inr (node, pa, hot)) =>
      (c.shares.foldl (fun s n => s.sendCredits c node pa hot (n / 16777215 + 1) n) r.1).editCmd c.id Cmd.owesNone

/-- A credit of the command is due. -/
def State.creditDue (s : State) (id : Nat) : Bool :=
  s.agenda.any fun i => match i with | .arrivalCredit _ _ k => k == id | _ => false

/-- ARRIVAL_CREDIT: an engine's credit performed at the word's home; an overrun finishes the command with error 9. -/
def execArrivalCredit (loc : WordLoc) (bytes cmd : Nat) (s : State) : Out :=
  let r := s.credit loc bytes
  .next (if r.2 then r.1.cmdError cmd 9 0 else r.1)

/-! ## Finishing (10/R223) and answers to faults (10/R225) -/

/-- A command over: its last block is charged, the L1 lines it wrote are dropped, and it waits for its counter fall. -/
def State.cmdOver (s : State) (c : Cmd) : State :=
  let s1 := (s.chargeRest c).evictAll (fun l => l.core == c.core && l.ctx == c.ctx && inRanges c.ranges l.line) none
  s1.editCmd c.id fun x => { x with state := .finished, paused := false, snap := [], buf := [] }

/-- The work of a command that has no further accesses to make: once the answers have come it credits its word, and then it
is over. -/
def State.wrapUp (s : State) (c : Cmd) : State :=
  if s.cmdOpen c.id || s.creditDue c.id then s
  else if c.owes then s.creditWord c
  else s.cmdOver c

/-- A report with nothing left that waits for its answer is closed (06/R146). -/
def State.pruneReports (s : State) : State :=
  { s with reports := s.reports.filter fun r =>
      (s.log.any fun e => e.key == r.key && !e.forward) ||
      (s.cmds.any fun c => r.cmds.contains c.id && (match c.state with | .faulted _ _ _ => true | _ => false)) ||
      (r.tids.any fun t => match (s.thread t).run with | .faulted _ => true | _ => false) || !r.grids.isEmpty }

/-- The command's faulting access is tried again (10/R225); a paused check of its word is made again (18/R388). -/
def execEngineFaultReplay (cmd : Nat) (s : State) : Out :=
  match s.cmd? cmd with
  | none => .next s
  | some c =>
    match c.state with
    | .faulted _ _ stage =>
      let s1 := s.editCmd cmd fun x => { x with state := if stage = 0 then .queued else if stage = 1 then .running else .acking }
      if stage = 0 then
        let status : Bool := match c.kind with | .mdrain _ _ _ => true | _ => false
        let recut : Bool := match c.kind with | .recut _ _ _ _ _ _ _ => true | _ => false
        .next (s1.checkCmd cmd (if status then 8 else 16) (!status) recut).pruneReports
      else .next s1.pruneReports
    | _ => .next s

/-- The command finishes with error 6 and the fault's cause (10/R225); a fault at its word's credit leaves nothing owed. -/
def execEngineFaultForward (cmd : Nat) (s : State) : Out :=
  match s.cmd? cmd with
  | none => .next s
  | some c =>
    match c.state with
    | .faulted cause _ stage =>
      .next (s.editCmd cmd fun x => let y := { x with err := 6, cause := cause, state := .acking }; if stage = 1 then y else y.owesNone).pruneReports
    | _ => .next s

/-- The grid ends with status 3 (10/R225). -/
def execEngineFaultEnd (cmd : Nat) (s : State) : Out :=
  match s.cmd? cmd with
  | none => .next s
  | some c =>
    match c.state with
    | .faulted _ _ _ => .next (s.endGrid (s.team c.team).grid 3).pruneReports
    | _ => .next s

end Sys2Proof.Machine
end

