-- ==== Sys2Proof/Machine/Tensor.lean ====
section
/-! DEFINITION. Tensor states, element access through them, and recuts (18/R389 to R399; 07). -/

namespace Sys2Proof.Machine

/-! ## Tensor states in the scratchpad (07/R153) -/

/-- The 512 bytes of a team's tensor state k. -/
def State.tsBytes (s : State) (team k : Nat) : List Byte := s.scrRead team (512 * k) 512
/-- STAT of a state. -/
def State.tsStat (s : State) (team k : Nat) : Nat := bitsAt (recField (s.tsBytes team k) 0 8) 50 2
/-- Word w of a state written. -/
def State.tsPut (s : State) (team k w v : Nat) : State := s.scrWrite team (512 * k + 8 * w) (leBytes 8 v)
/-- A header word with a STAT. -/
def withStatField (hdr st : Nat) : Nat := hdr - bitsAt hdr 50 2 * 2 ^ 50 + st * 2 ^ 50

/-- STAT of state k as a recut held it when it was issued. -/
def statThen (k d a : Nat) (db ab : List Byte) : Nat :=
  if k = d then bitsAt (recField db 0 8) 50 2 else if k = a then bitsAt (recField ab 0 8) 50 2 else 0
/-- A write of a state waits at issue: its STAT is not 0, or a recut that names it was queued behind such a one and has not retired
(07/R176) (one point DEDUCED, log entry 110). -/
def State.tsBusy (s : State) (team k : Nat) : Bool :=
  s.tsStat team k != 0 ||
  (s.cmds.any fun c => c.team == team && c.state != .finished &&
    (match c.kind with
     | .recut d a db ab _ _ _ => (d == k || a == k) && statThen k d a db ab != 0
     | _ => false))

/-- A state written whole: STAT and CURSOR as zero (18/R389). -/
def State.tsWrite (s : State) (team k : Nat) (b : List Byte) : State :=
  s.scrWrite team (512 * k) (leBytes 8 (withStatField (recField b 0 8) 0) ++ ((b.drop 8).take 72) ++ zeros 8 ++ ((b.drop 88).take 424))

/-- TSINIT, image form: 512 bytes from `G` or `S` (18/R389). -/
def execTsinit (p : Pre) (sp : Bool) (d a : Nat) (s : State) : Out :=
  let A := if sp then srcR 1 a noPerm else srcP 1 a noPerm
  .next (s.foldLanes p fun s t =>
    match s.gate t p .any [] [A] with
    | some x => (s, x)
    | none =>
      if s.tsBusy t.team d then (s, .hold)
      else
        let va := s.srcVal t p A
        if sp then
          if va < 16384 ∨ (s.teamOf t).scratch < va + 512 then (s, .trap 0x09 0 none)
          else if va % 8 ≠ 0 then s.issueFault p t 0x15 va
          else if (s.teamOf t).scrLost va 512 then s.issueFault p t 0x17 va
          else (s.tsWrite t.team d (s.scrRead t.team va 512), .done [] 0#6)
        else
          let r := s.recordG p t va 64 8
          match r.2 with
          | .error x => (r.1, x)
          | .ok b => (r.1.tsWrite t.team d b, .done [] 0#6))

/-- TSINIT.FRAG (18/R390). -/
def execTsinitFrag (p : Pre) (frag : Nat) (d a b g : Nat) (s : State) : Out :=
  .next (s.foldLanes p fun s t =>
    match s.gate t p .any [] [] with
    | some x => (s, x)
    | none =>
      if s.tsBusy t.team d then (s, .hold) else (s.tsWrite t.team d (fragBytes frag a b g), .done [] 0#6))

/-- TSSET: one word of a state (18/R391). -/
def execTsset (p : Pre) (d a w : Nat) (s : State) : Out :=
  let A := srcP 1 a noPerm
  .next (s.foldLanes p fun s t =>
    match s.gate t p .any [] [A] with
    | some x => (s, x)
    | none =>
      if s.tsBusy t.team d then (s, .hold)
      else
        let v := s.srcVal t p A
        let cls := recField (s.tsBytes t.team d) 0 8 % 8
        if w = 10 ∨ (w = 0 ∧ v % 8 = 5) ∨ (cls = 5 ∧ w ≠ 1 ∧ w ≠ 2) then (s, .trap 0x20 0 none)
        else (s.tsPut t.team d w (if w = 0 then withStatField v (s.tsStat t.team d) else v), .done [] 0#6))

/-- TSGET: one word of a state, as it stands (18/R392). -/
def execTsget (p : Pre) (d a w : Nat) (s : State) : Out :=
  .next (s.regOp p .any [dst d true] [] fun t =>
    .done (wrPair d (leNat (s.scrRead t.team (512 * a + 8 * w) 8)) .n64) 0#6)

/-! ## TLD and TST (18/R397 to R399) -/

/-- The in-place recut in flight that names a state (07/R174). -/
def State.inPlaceOf (s : State) (team ts : Nat) : Option Cmd :=
  s.cmds.find? fun c => c.team == team && c.state != .finished &&
    (match c.kind with
     | .recut d r _ _ true _ _ => d == ts || r == ts
     | _ => false)

/-- The access of one element of a tensor in memory or scratchpad. -/
def tensorAcc (s : State) (base : Nat) (t : Thread) (p : Pre) (ts : TState) (sp : Space) (team : Nat) (kind : AccKind) (ord : MemOrd)
    (sc : Scope) (hint : Hint) (d : Nat) (elems : List (Nat × Nat)) (data : List Byte) : Acc :=
  { sp := sp, elems := elems, elem := max 1 (ts.s / 8), kind := kind, ty := ts.fmt, ord := ord, sc := sc, hint := hint, d := d
    data := data, team := team, pc := t.pc, words := s.ir.2, len := p.len, clause := t.clause, age := base, size := max 1 (ts.s / 8) }

/-- The space, team and address of a place in memory or a scratchpad; a team that is not placed is the window's access
fault. -/
def State.tensorAt (s : State) (t : Thread) (st : Stor) : Option (Space × Nat × Nat) :=
  match st with
  | .mem va _ => some (.g, t.team, va)
  | .scr off _ => some (.s, t.team, off)
  | .spread n off _ => (s.teamNumbered (s.teamOf t).grid n).map fun tm => (.s, tm.id, off)
  | .reg _ _ _ _ => none

/-- One element read through a state's storage. -/
def State.tldAt (s : State) (base : Nat) (p : Pre) (ts : TState) (ord : MemOrd) (sc : Scope) (hint : Hint) (d i : Nat) (t : Thread) :
    State :=
  let pl := ts.place i
  let flag := t.flagOf p.fs
  let signed : Bool := ts.fmt == .s8 || ts.fmt == .s16
  match ts.stor pl with
  | .reg g lane n bit =>
    let own : Tid := { core := t.id.core, slot := (s.teamOf t).slots.getD g 64, lane := lane }
    let sc2 := match ts.scaleStor pl with | .reg _ _ sn sb => (sn, sb) | _ => (255, 0)
    let q := if ts.xb then sc2 else (255, 0)
    let tag : Tag := if ts.xb then .f32 else ts.fmt
    let acc := tensorAcc s base t p ts .w t.team (.load false) ord sc hint d [] []
    let o : LongOp :=
      { id := s.fresh, tid := t.id, depth := t.depth, flag := flag, writes := wrAny ts.fmt.is64 d 0 tag, astat := 0#6
        src := .elem own n bit q.1 q.2 ts.fmt, acc := some acc, dead := false }
    { s with ops := s.ops ++ [o], fresh := s.fresh + 1 }
  | st =>
    match s.tensorAt t st with
    | none =>
      let va := match st with | .spread _ off _ => off | _ => 0
      s.logFaults base t flag (tensorAcc s base t p ts .w t.team (.load signed) ord sc hint d [] []) [(0, va, 0x14)]
    | some (sp, team, ea) =>
      if ts.xb then
        let sa := match s.tensorAt t (ts.scaleStor pl) with | some x => x.2.2 | none => 0
        let hi : Bool := pl % 2 == 1
        let elems := [(0, ea), (1, sa)]
        s.xbGo base t flag (tensorAcc s base t p ts sp team (.xb ts.fmt hi) ord sc hint d elems []) elems
      else (s.access base t flag (tensorAcc s base t p ts sp team (.load signed) ord sc hint d [(0, ea)] []) (ts.s / 8) ea).1

/-- The value of an element, as TLD delivers it, begun as an operation whose result is known. -/
def State.tldDone (s : State) (p : Pre) (t : Thread) (ts : TState) (d x scale : Nat) : State :=
  s.newOp t p (wrAny ts.fmt.is64 d (elemView ts.fmt x scale) (if ts.xb then .f32 else ts.fmt)) 0#6 .done none

/-- TLD (18/R398). -/
def execTld (p : Pre) (ord : MemOrd) (sc : Scope) (hint : Hint) (d a k : Nat) (s : State) : Out :=
  let base := s.fresh
  let A := srcP 1 a noPerm
  .next (s.foldLanes p fun s t =>
    let ts := tsOf (s.tsBytes t.team k)
    let D : Src := { f := 0, n := d, c := if ts.fmt.is64 then 2 else 1, perm := noPerm, want := none }
    let odd : Bool := ts.valid && ts.fmt.is64 && !isPair d
    match (if odd then some (.trap 0x01 0 none) else s.gate t p .any [D] [A]) with
    | some x => (s, x)
    | none =>
        match s.useFault (s.teamOf t) ts with
        | some c => (s, .trap c 0 none)
        | none =>
          if s.memHold t base then (s, s.accHold t)
          else
            let q := s.ordBefore t ord sc
            match q.2 with
            | some x => (q.1, x)
            | none =>
              let s1 := q.1
              let i := s.srcVal t p A
              if ts.hole i then
                (s1.newOp t p (wrAny ts.fmt.is64 d 0 (if ts.xb then .f32 else ts.fmt)) 0#6 .done none, .done [] 0#6)
              else
                match s1.inPlaceOf t.team k with
                | none => (s1.tldAt base p ts ord sc hint d i t, .done [] 0#6)
                | some c =>
                  match c.kind with
                  | .recut _ _ _ srcSt _ _ _ =>
                    let ss := tsOf srcSt
                    let u := if ss.xb then i / 16 * 16 else i
                    match c.snap.find? fun x => x.n == u with
                    | some v =>
                      let e := if ss.xb then elemAt ss.s (i % 16) v.v else v.v
                      (s1.tldDone p t ts d e v.scale, .done [] 0#6)
                    | none => (s1.tldAt base p ss ord sc hint d i t, .done [] 0#6)
                  | _ => (s1, .done [] 0#6))

/-- A lane's TST would take a memory fault, whose code is lower than a format fault's (12/R267) (one point DEDUCED, log entry 17). -/
def State.tstFaults (s : State) (base : Nat) (p : Pre) (t : Thread) (ts fin : TState) (ord : MemOrd) (sc : Scope) (hint : Hint) (i : Nat) :
    State × Bool :=
  if ts.hole i then (s, false)
  else
    match fin.stor (fin.place i) with
    | .reg _ _ _ _ => (s, false)
    | st =>
      match s.tensorAt t st with
      | none => (s, true)
      | some (sp, team, ea) => s.memFaults t (tensorAcc s base t p ts sp team .store ord sc hint 255 [(0, ea)] []) (ts.s / 8) ea

/-- TST (18/R399). One that waited for an in-place recut stores to the element's final place: the place that the destination state
of that recut gives it (07/R174). -/
def execTst (p : Pre) (ord : MemOrd) (sc : Scope) (hint : Hint) (a b k : Nat) (s : State) : Out :=
  let base := s.fresh
  let A := srcP 1 a noPerm
  .next (s.foldLanes p fun s t =>
    let ts := tsOf (s.tsBytes t.team k)
    let B : Src := { f := 2, n := b, c := if ts.fmt.is64 then 2 else 1, perm := noPerm, want := if ts.valid then some ts.fmt else none }
    let odd : Bool := ts.valid && ts.fmt.is64 && !isPair b
    match (if odd then some (.trap 0x01 0 none) else s.preGate t .any [] [A, B]) with
    | some x => (s, x)
    | none =>
        match s.useFault (s.teamOf t) ts, s.formatFault t p [B] with
        | some c, _ => (s, .trap c 0 none)
        | none, bad =>
          if ts.xb then (s, .trap 0x24 0 none)
          else
          let i := s.srcVal t p A
          let fin := if t.tstTo.isEmpty then ts else tsOf t.tstTo
          let m := if bad.isSome then s.tstFaults base p t ts fin ord sc hint i else (s, true)
          if !m.2 then (m.1, bad.getD .asIs)
          else if m.1.memHold t base then (m.1, m.1.accHold t)
          else if m.1.recutting t.team k then (m.1, .block (.recut k) none)
          else
            let q := m.1.ordBefore t ord sc
            match q.2 with
            | some x => (q.1, x)
            | none =>
              let s1 := q.1.setThread { q.1.thread t.id with tstTo := [] }
              if ts.hole i then (s1, .done [] 0#6)
              else
                let v := s.srcVal t p B
                let flag := t.flagOf p.fs
                match fin.stor (fin.place i) with
                | .reg g lane n bit =>
                  let own : Tid := { core := t.id.core, slot := (s.teamOf t).slots.getD g 64, lane := lane }
                  let w : WinWrite :=
                    { n := n, v := BitVec.ofNat 32 (v % 2 ^ ts.s * 2 ^ bit), mask := BitVec.ofNat 32 (maskBits bit (min ts.s 32)), tag := ts.fmt, pkt := 0 }
                  let s2 := s1.ownerWrite own w
                  (if ts.fmt.is64 then s2.ownerWrite own { w with n := n + 1, v := BitVec.ofNat 32 (v / 2 ^ 32) } else s2, .done [] 0#6)
                | st =>
                  match s1.tensorAt t st with
                  | none =>
                    let va := match st with | .spread _ off _ => off | _ => 0
                    (s1.logFaults base t flag (tensorAcc s1 base t p ts .w t.team .store ord sc hint 255 [] (leBytes (ts.s / 8) v)) [(0, va, 0x14)],
                     .done [] 0#6)
                  | some (sp, team, ea) =>
                    ((s1.access base t flag (tensorAcc s1 base t p ts sp team .store ord sc hint 255 [(0, ea)] (leBytes (ts.s / 8) v)) (ts.s / 8) ea).1,
                     .done [] 0#6))

/-! ## RECUT (18/R394, R395) -/

/-- The aperture of a `GLOBAL` state's BASE page, translated at issue (07/R177). -/
def State.baseApt (s : State) (t : Thread) (ts : TState) : State × Except (Nat × Nat) (Option Nat) :=
  if ts.cls ≠ 1 then (s, .ok none)
  else
    let r := s.issueXlat t ts.base
    match r.2 with
    | .error c => (r.1, .error (c, ts.base))
    | .ok x => (r.1, .ok (some x.apt))

/-- An aperture of another node. -/
def farApt (a : Option Nat) : Bool := a.any fun x => decide (1 ≤ x) && decide (x ≤ 3)
/-- The conditions of R179 on the apertures: a `POOL` or `PEER` destination, and a source on this device. -/
def lossyAptOk (dst src : Option Nat) : Bool := (dst == some 1 || dst == some 2) && !farApt src

/-- The `G` ranges a state's footprint covers. -/
def TState.gRanges (t : TState) : List (Nat × Nat) := if t.cls = 1 then (t.spans 0).map fun x => (x.a, x.b) else []

/-- A recut's writes or credits leave the team's own scratchpad and registers (04/R104). -/
def recutSfx (tm : Team) (t : TState) (aw : Option AwRef) : Bool :=
  t.cls == 1 || (t.cls == 3 && (t.spans tm.num).any fun x => !(x.lo == tm.num && x.hi == tm.num + 1)) || (aw.any fun w => !w.scr)

/-- A unit as a pass meets it: its input place, its first index, and how many of its elements are not holes. -/
structure PassUnit where
  place : Nat
  n : Nat
  count : Nat
  deriving DecidableEq, Repr

/-- A unit put into its place in the order of input places. -/
def insertUnit (x : PassUnit) : List PassUnit → List PassUnit
  | [] => [x]
  | y :: l => if x.place ≤ y.place then x :: y :: l else y :: insertUnit x l
/-- The units of a recut from `y` in the order of their input places of pass k, counted from 0 (07/R175). -/
def passOrder (y : TState) (plan : List Pass) (k : Nat) : List PassUnit :=
  y.units.foldr (fun u l => insertUnit { place := passPlace plan k (y.place u.1), n := u.1, count := u.2 } l) []
/-- σ: one step moves the elements of 2^σ places (07/R175). -/
def TState.stepBits (t : TState) : Nat := min t.nb (Nat.log2 (1024 / t.s))
/-- The units at the head of an order that belong to one step. -/
def stepHead (sigma : Nat) : List PassUnit → List PassUnit
  | [] => []
  | u :: l => u :: l.takeWhile fun v => v.place / 2 ^ sigma == u.place / 2 ^ sigma
/-- The steps that the pass in progress has completed: those before the step of its next unit, and all of them once its last pass is
over (07/R175). -/
def stepsDone (y : TState) (plan : List Pass) (prog pos : Nat) : Nat :=
  if plan.isEmpty then 0
  else if plan.length ≤ prog then 2 ^ (y.nb - y.stepBits)
  else ((passOrder y plan prog)[pos]?.map fun u => u.place / 2 ^ y.stepBits).getD (2 ^ (y.nb - y.stepBits))

/-- STAT and CURSOR of a state follow the recuts in flight that name it (07/R174 to R176). -/
def State.restat (s : State) (team k : Nat) : State :=
  let mine := s.cmds.filter fun c => c.team == team && c.state != .finished
  let inp := mine.find? fun c => match c.kind with | .recut d r _ _ true _ _ => d == k || r == k | _ => false
  let out := mine.any fun c => match c.kind with | .recut d _ _ _ false _ _ => d == k | _ => false
  let st := if inp.isSome then 2 else if out then 1 else 0
  let cur := match inp with
    | none => 0
    | some c =>
      match c.kind with
      | .recut _ _ _ srcSt _ plan _ =>
        plan.length + min (c.prog + 1) plan.length * 2 ^ 8 + stepsDone (tsOf srcSt) plan c.prog c.pos * 2 ^ 16
      | _ => 0
  let hdr := recField (s.tsBytes team k) 0 8
  let s1 := if bitsAt hdr 50 2 = st then s else s.tsPut team k 0 (withStatField hdr st)
  if recField (s1.tsBytes team k) 80 8 = cur then s1 else s1.tsPut team k 10 cur

/-- RECUT: one command per executing lane (18/R395). -/
def execRecut (p : Pre) (aws lossy : Bool) (sc : Option Scope) (d a b c : Nat) (off : Int) (s : State) : Out :=
  let B := if aws then srcR 2 b noPerm else srcP 2 b noPerm
  let C := srcR 3 c noPerm
  .next (s.foldLanes p fun s t =>
    match s.gate t p .engine [] ((if b = 255 then [] else [B]) ++ (if lossy then [C] else [])) with
    | some x => (s, x)
    | none =>
      let tm := s.teamOf t
      let db := s.tsBytes t.team d
      let ab := s.tsBytes t.team a
      let x := tsOf db
      let y := tsOf ab
      let r1 := s.baseApt t x
      let r2 := r1.1.baseApt t y
      match r1.2, r2.2 with
      | .error f, _ => r2.1.issueFault p t f.1 f.2
      | _, .error f => r2.1.issueFault p t f.1 f.2
      | .ok ax, .ok ay =>
        match r2.1.recutFault tm x y with
        | some k => (r2.1, .trap k 0 none)
        | none =>
          if lossy && !(lossyShapeOk x y && lossyAptOk ax ay) then (r2.1, .trap 0x25 0 none)
          else
            let cls : Cls := if farApt ax || farApt ay then .fab else .copy
            let plan := planOf x y
            if r2.1.engineFull t cls plan.length then (r2.1, r2.1.accHold t)
            else
              let aw : Option AwRef :=
                if b = 255 then none
                else
                  let e := (s.srcVal t p B : Int) + off
                  some { scr := aws, addr := if aws then (if e < 0 then 0 else e.toNat) else wrapTo 64 e }
              let gen : Option Nat := if lossy then some (s.srcVal t p C % 256) else none
              let kind : CmdKind := .recut d a db ab (x.coincides y) plan gen
              let q := r2.1.newCmd t cls (sc.getD .tm) kind aw .queued x.gRanges [] (recutSfx tm x aw)
              (((q.1.checkCmd q.2 16 true true).restat t.team d).restat t.team a, .done [] 0#6))

/-- RECUTQ: the word of R171, long-latency, without a fault of any kind (18/R396). -/
def execRecutq (p : Pre) (lossy : Bool) (d a b : Nat) (s : State) : Out :=
  .next (s.foldLanes p fun s t =>
    match s.gate t p .engine [dst d true] [] with
    | some x => (s, x)
    | none =>
      let tm := s.teamOf t
      let x := tsOf (s.tsBytes t.team a)
      let y := tsOf (s.tsBytes t.team b)
      let f := s.recutFault tm x y
      let apt := fun (ts : TState) => match (s.baseApt t ts).2 with | .ok o => o | .error _ => none
      let f2 := if f.isNone && lossy && !(lossyShapeOk x y && lossyAptOk (apt x) (apt y)) then some 0x25 else f
      let w := recutWord f2 (x.coincides y) (farApt (apt x) || farApt (apt y)) (if f2.isNone then planOf x y else [])
      (s.newOp t p (wrPair d w .n64) 0#6 .done none, .done [] 0#6))

/-! ## Recuts in flight (07/R170 to R176) -/

/-- What a command's work has given so far. -/
structure Work where
  s : State
  got : List UnitVal
  stop : Option EngRes

/-- Units of the source read: one that awaits an answer does not keep the later ones from being asked for. -/
def readUnits (c : Cmd) (t : TState) (z : Work) : List PassUnit → Work
  | [] => z
  | u :: l =>
    let r := z.s.unitRead c t (t.place u.n)
    match r.2.1 with
    | .ok _ => readUnits c t { z with s := r.1, got := z.got ++ [{ n := u.n, v := r.2.2.1, scale := r.2.2.2 }] } l
    | .wait => readUnits c t { z with s := r.1, stop := some .wait } l
    | x => { z with s := r.1, stop := some x }

/-- Bits a unit adds to the credit: its elements that are not holes, and the scale word of a block (07/R178). -/
def TState.unitCredit (t : TState) (n : Nat) : Nat := n * t.s + (if t.xb then 16 else 0)

/-- A unit of the tensor has its place at p. -/
def TState.unitAt (t : TState) (p : Nat) : Bool := t.units.any fun u => t.place u.1 == p

/-- A recut whose pass has moved all n units goes on to its next pass, or is done with its writes. -/
def Cmd.passEnd (c : Cmd) (n passes : Nat) : Cmd :=
  if c.pos < n then c
  else { c with prog := c.prog + 1, pos := 0, state := if passes ≤ c.prog + 1 then .acking else c.state }

/-- Units moved by a pass, one after the other, until one stops or the budget pauses the command: the last pass writes each at its
place in the destination; a pass before it, of a recut in place, leaves it at the pass's output place in the tensor's own storage. A
unit whose output place is no unit of the destination, a hole's or one outside the footprint, waits in the unit's buffer, so that holes
keep their content (07/R170, R174) (one point DEDUCED, log entry 111). -/
def State.moveUnits (s : State) (id : Nat) (x y : TState) (plan : List Pass) (vals : List UnitVal) : List PassUnit → State
  | [] => s
  | u :: l =>
    match s.cmd? id with
    | none => s
    | some c =>
      if c.paused then s
      else
        let v := (vals.find? fun z => z.n == u.n).getD { n := u.n, v := 0, scale := 0 }
        let last : Bool := c.prog + 1 == plan.length
        let p := if last then x.place u.n else passPlace plan (c.prog + 1) (y.place u.n)
        let r := if last || x.unitAt p then s.unitWrite c x p v.v v.scale else (s, .ok [])
        match r.2 with
        | .ok _ =>
          let s1 := r.1.editCmd id fun z => { z with pos := z.pos + 1 }
          let s2 := if last then (s1.oweUnit c x p u.count).moved id (s1.unitBytes c x p) else s1
          State.moveUnits s2 id x y plan vals l
        | .fault k va => r.1.cmdFault c k va 1
        | .error e => r.1.cmdError id e 0
        | .wait => r.1

/-- The bytes of a destination footprint part as an image, from the units read. -/
def lossyImage (t : TState) (vals : List UnitVal) (base : Nat) (scale : Bool) : Memory :=
  vals.foldl (fun m v =>
    match (if scale then t.scaleStor (t.place v.n) else t.stor (t.place v.n)) with
    | .mem va bit =>
      let w := if scale then 16 else t.unitBits
      let x := if scale then v.scale else v.v
      if w < 8 then
        let old := (memGet m (va - base)).toNat
        memSet m (va - base) (BitVec.ofNat 8 (old - bitsAt old bit w * 2 ^ bit + x % 2 ^ w * 2 ^ bit))
      else memWrite m (va - base) (leBytes (w / 8) x)
    | _ => m) []

/-- One destination block sent as a LOSSY WRITE of 256 bytes (07/R179, 02/R38). -/
def State.sendBlock (s : State) (c : Cmd) (va gen : Nat) (b : List Byte) : State × EngRes :=
  let r := s.translate (clusterOf c.core) c.ctx va
  match r.2 with
  | .error e => (r.1, .fault e va)
  | .ok x =>
    if !x.w then (r.1, .fault 0x12 va)
    else if x.apt = 0 ∨ 3 < x.apt then (r.1, .fault 0x14 va)
    else
      let k : Packet :=
        { dst := x.node, src := 0, typ := 0x03, cls := 1, len := 8, hot := x.hot, rsv := false, tag := 0, addr := x.pa, ctx := c.ctx
          bmask := allBytes, aux := gen * 2 ^ 16, etag := 0, data := b }
      if r.1.node = 0xFFFF ∨ (r.1.firstHop k).isNone then (r.1, .error 3)
      else ((r.1.sendLossy k).editCmd c.id fun z => { z with lossy := z.lossy ++ [sealPkt { k with src := r.1.node }] }, .ok [])

/-- Blocks of a lossy recut sent from `pos` on: address and bytes. -/
def State.sendBlocks (s : State) (id gen : Nat) : List (Nat × List Byte) → State
  | [] => s.editCmd id fun x => { x with state := .acking, pos := 0 }
  | b :: l =>
    match s.cmd? id with
    | none => s
    | some c =>
      if c.paused then s
      else
        let r := s.sendBlock c b.1 gen b.2
        match r.2 with
        | .ok _ => State.sendBlocks ((r.1.editCmd id fun x => { x with pos := x.pos + 1 }).moved id 256) id gen l
        | .fault k va => r.1.cmdFault c k va 1
        | .error e => r.1.cmdError id e 0
        | .wait => r.1

/-- The blocks of a lossy recut: the footprint's elements, then its scale words. -/
def lossyBlocks (t : TState) (vals : List UnitVal) : List (Nat × List Byte) :=
  let part := fun (scale : Bool) (x : Span) =>
    let m := lossyImage t vals x.a scale
    (List.range ((x.b - x.a) / 256)).map fun k => (x.a + 256 * k, memRead m (256 * k) 256)
  match t.spans 0 with
  | [x] => part false x
  | x :: y :: _ => part false x ++ part true y
  | [] => []

/-- The recut is queued: it named a state whose STAT was not 0, and a recut issued before it that names the state has not retired
(07/R176). -/
def State.recutBehind (s : State) (c : Cmd) : Bool :=
  match c.kind with
  | .recut d a db ab _ _ _ =>
    s.cmds.any fun o => decide (o.id < c.id) && o.team == c.team && o.state != .finished &&
      (match o.kind with
       | .recut d2 a2 _ _ _ _ _ => [d2, a2].any fun k => statThen k d a db ab != 0
       | _ => false)
  | _ => false

/-- A command is able to go on with its work. -/
def Cmd.going (c : Cmd) : Bool := (c.state == .queued || c.state == .running) && !c.paused

/-- RECUT_PASS: the next step of a recut's pass (07/R175). The first pass reads the source, the last writes the destination (07/R170).
A step of a recut out of place reads the units it moves when it comes to them; a recut in place reads every unit before its first step,
and so does a lossy one, whose blocks are sent once its last pass is reached (07/R173, R174, R179) (one point DEDUCED, log entry 29; one
point DESIGN CHOICE, log entry 112). A plan without a pass moves nothing: every element stands at its place already. -/
def execRecutPass (cmd : Nat) (s : State) : Out :=
  match s.cmd? cmd with
  | none => .next s
  | some c =>
    match c.kind with
    | .recut d a dstSt srcSt inp plan lossy =>
      if !c.going || s.recutBehind c then .next s
      else
        let x := tsOf dstSt
        let y := tsOf srcSt
        if plan.isEmpty then
          let s1 := x.units.foldl (fun s u => s.oweUnit c x (x.place u.1) u.2) s
          .next (s1.editCmd cmd fun z => { z with state := .acking })
        else
          let order := passOrder y plan c.prog
          let now := stepHead y.stepBits (order.drop c.pos)
          let need := if c.prog ≠ 0 then [] else (if inp || lossy.isSome then order else now).filter fun u => !(c.snap.any fun v => v.n == u.n)
          let w := readUnits c y { s := s, got := c.snap, stop := none } need
          let s1 := w.s.editCmd cmd fun z => { z with state := .running, snap := w.got }
          match w.stop with
          | some (.fault k va) => .next (s1.cmdFault c k va 1)
          | some (.error e) => .next (s1.cmdError cmd e 0)
          | some _ => .next s1
          | none =>
            let s2 := s1.editCmd cmd fun z => { z with buf := [] }
            let last : Bool := c.prog + 1 == plan.length
            let s3 :=
              match lossy with
              | some gen =>
                if last then s2.sendBlocks cmd gen ((lossyBlocks x w.got).drop c.pos) else s2.editCmd cmd fun z => { z with prog := z.prog + 1 }
              | none =>
                (if inp || last then s2.moveUnits cmd x y plan w.got now
                 else s2.editCmd cmd fun z => { z with pos := z.pos + now.length }).editCmd cmd fun z => z.passEnd order.length plan.length
            .next ((s3.restat c.team d).restat c.team a)
    | _ => .next s

/-- Threads whose TST waited for an in-place recut learn where its destination has their elements, as it retires (07/R174). -/
def State.settleTst (s : State) (c : Cmd) : State :=
  match c.kind with
  | .recut d a dstSt _ true _ _ =>
    { s with threads := s.threads.map fun t =>
        match t.run with
        | .blocked (.recut k) _ _ => if t.team = c.team ∧ (k = d ∨ k = a) then { t with tstTo := dstSt } else t
        | _ => t }
  | _ => s

/-- RECUT_RETIRE: a recut whose writes are answered credits its word; then it is over and STAT and CURSOR of its states
return to zero (18/R395). A lossy recut is over once its packets have left their ports (02/R48). -/
def execRecutRetire (cmd : Nat) (s : State) : Out :=
  match s.cmd? cmd with
  | none => .next s
  | some c =>
    match c.kind, c.state with
    | .recut d a _ _ _ _ _, .acking =>
      if s.fabric.ports.any fun p => p.queue.any fun x => c.lossy.contains x.2 then .next s
      else
        let s1 := s.wrapUp c
        let s2 := if (s1.cmd? cmd).any fun z => z.state == .finished then s1.settleTst c else s1
        .next ((s2.restat c.team d).restat c.team a)
    | _, _ => .next s

end Sys2Proof.Machine
end

