-- ==== Sys2Proof/Machine/Matrix.lean ====
section
/-! DEFINITION. Matrix registers, tack registers and the matrix unit's queue (09; 18/R401 to R410; 08/R196, R197, R201),
the work of the commands that move tiles, and the step
MATRIX_OP_COMPLETE. -/

namespace Sys2Proof.Machine

/-! ## Shapes and the checks at entry (09/R207 to R211) -/

/-- What the checks know of a matrix register. -/
structure MShape where
  form : MForm
  tag : Tag
  rank : Nat
  policy : Bool
  deriving DecidableEq, Repr

/-- The shape of a register. -/
def MReg.shape (m : MReg) : MShape :=
  { form := m.form, tag := m.tag, rank := if m.form = .factor then m.us.length else 0, policy := m.policy }
/-- Units held (09/R203). -/
def MShape.occ (m : MShape) : Nat := match m.form with | .empty => 0 | .dense => 32 | .factor => m.rank
/-- The shape made dense with a tag. -/
def MShape.toDense (m : MShape) (tag : Tag) : MShape := { m with form := .dense, tag := tag, rank := 0 }
/-- The shape of another register under this one's policy. -/
def MShape.copy (m a : MShape) : MShape := { a with policy := m.policy }
/-- A register tagged `FOREIGN` (09/R204). -/
def MShape.foreign (m : MShape) : Bool := m.form == .dense && m.tag == .foreign

/-- How an operation lands on its destination: it appends ranks, or acts on the dense tile, after a densify that resolves a
rank overflow or without one. -/
inductive MPlan where
  | append
  | dense (overflow : Bool)
  deriving DecidableEq, Repr

/-- The DETAIL of a format fault (12/R271) (one point DEDUCED, log entry 19). -/
def fmtDetail (tag : Tag) (field : Nat) : Nat := tag.code * 256 + field

/-- k ranks added to a register that is not dense (09/R211). -/
def MShape.grow (m : MShape) (k : Nat) : Except (Nat × Nat) MPlan :=
  if m.rank + k ≤ 32 then .ok .append else if m.policy then .ok (.dense true) else .error (0x40, 0)

/-- The ranks a fragment format adds (09/R208). -/
def mmaK (fmt : Tag) : Nat := match fmt with | .xb4 => 64 | .xb8 | .s8 => 32 | _ => 16

/-- How an `MMA` lands (09/R209). -/
def MShape.mma (m : MShape) (ap : Bool) (fmt : Tag) : Except (Nat × Nat) MPlan :=
  let i8 : Bool := fmt == .s8
  if m.foreign then .error (0x31, fmtDetail .foreign 0)
  else if ap ∧ m.form ≠ .dense then
    match m.grow (mmaK fmt) with
    | .ok (.dense b) => if i8 then .error (0x30, fmtDetail .f32 0) else .ok (.dense b)
    | x => x
  else
    match m.form with
    | .empty => .ok (.dense false)
    | .dense => if (m.tag == .s32) == i8 then .ok (.dense false) else .error (0x30, fmtDetail m.tag 0)
    | .factor => if i8 then .error (0x30, fmtDetail .f32 0) else .ok (.dense false)

/-- How an `MLRU` lands (09/R209). -/
def MShape.mlru (m : MShape) : Except (Nat × Nat) MPlan :=
  if m.foreign then .error (0x31, fmtDetail .foreign 0)
  else
    match m.form with
    | .dense => if m.tag = .s32 then .error (0x30, fmtDetail .s32 0) else .ok (.dense false)
    | _ => m.grow 1

/-- How an `MLRADD` of a register that is not empty lands on one that is not empty (09/R209). -/
def MShape.mlradd (m a : MShape) : Except (Nat × Nat) MPlan :=
  let is32 := fun (x : MShape) => x.form == .dense && x.tag == .s32
  match m.form, a.form with
  | .factor, .factor => m.grow a.rank
  | _, _ => if is32 m == is32 a then .ok (.dense false) else .error (0x30, fmtDetail a.tag 1)

/-- A shape of a team's registers. -/
def mshapeAt (l : List MShape) (m : Nat) : MShape := l.getD m MReg.reset.shape

/-- The shapes after an operation, or the cause and DETAIL of its trap (09/R204, R209 to R211; 19/R423). A recompression's
result is not known before it completes (09/R217). -/
def MOpKind.shapes (k : MOpKind) (l : List MShape) : Except (Nat × Nat) (List MShape) :=
  let at_ := mshapeAt l
  let reads := fun (m f : Nat) => if (at_ m).foreign then some (f : Nat) else none
  let foreign := fun (o : Option Nat) (x : Except (Nat × Nat) (List MShape)) =>
    match o with
    | some f => .error (0x31, fmtDetail .foreign f)
    | none => x
  match k with
  | .mma ap fmt _ d _ =>
    match (at_ d).mma ap fmt with
    | .error e => .error e
    | .ok .append => .ok (l.set d { at_ d with form := .factor, tag := .f32, rank := (at_ d).rank + mmaK fmt })
    | .ok (.dense _) => .ok (l.set d ((at_ d).toDense (if fmt = .s8 then .s32 else .f32)))
  | .mlru d _ =>
    match (at_ d).mlru with
    | .error e => .error e
    | .ok .append => .ok (l.set d { at_ d with form := .factor, tag := .f32, rank := (at_ d).rank + 1 })
    | .ok (.dense _) => .ok (l.set d ((at_ d).toDense .f32))
  | .mlradd d a =>
    foreign ((reads d 0).or (reads a 1))
      (if (at_ d).form = .empty then .ok (l.set d ((at_ d).copy (at_ a)))
       else if (at_ a).form = .empty then .ok l
       else
         match (at_ d).mlradd (at_ a) with
         | .error e => .error e
         | .ok .append => .ok (l.set d { at_ d with rank := (at_ d).rank + (at_ a).rank })
         | .ok (.dense _) => .ok (l.set d ((at_ d).toDense (if (at_ d).form = .dense then (at_ d).tag else .f32))))
  | .mlrmul d a b =>
    foreign ((reads a 1).or (reads b 2))
      (if (at_ b).form ≠ .dense ∨ (at_ b).tag ≠ .f32 ∨ ((at_ a).form = .dense ∧ (at_ a).tag ≠ .f32) then .error (0x44, 0)
       else .ok (l.set d ((at_ d).copy (at_ a))))
  | .mrecomp d _ => foreign (reads d 0) (.ok l)
  | .mdense d => foreign (reads d 0) (.ok (if (at_ d).form = .dense then l else l.set d ((at_ d).toDense .f32)))
  | .mzero d => .ok (l.set d { at_ d with form := .empty, tag := .raw, rank := 0 })
  | .mcopy d a => .ok (l.set d ((at_ d).copy (at_ a)))
  | .mswap d a => .ok ((l.set d ((at_ d).copy (at_ a))).set a ((at_ a).copy (at_ d)))
  | .mclrs _ _ => .ok l
  | .mpol d densify _ => .ok (l.set d { at_ d with policy := densify })
  | .xmwr d _ _ tag init =>
    if init then .ok (l.set d ((at_ d).toDense tag))
    else if (at_ d).form = .dense ∧ (at_ d).tag = tag then .ok l else .error (0x44, 0)
  | .drain _ d => foreign (reads d 0) (.ok l)
  | .spill _ d => foreign (reads d 0) (.ok l)
  | .fill _ d ty => .ok (l.set d ((at_ d).toDense ty))

/-- Units that a change of shapes needs beyond those held (09/R207). -/
def unitsNeeded (old new : List MShape) : Nat := (new.map MShape.occ).sum - (old.map MShape.occ).sum

/-- The shapes that every queued operation of a team will leave, and the units reserved for them. -/
def State.projected (s : State) (team : Nat) : List MShape × Nat :=
  let tm := s.team team
  let mine := (s.core tm.core).mqueue.filter fun o => o.team == team
  mine.foldl (fun z o =>
    match o.kind.shapes z.1 with
    | .ok l => (l, z.2 + unitsNeeded z.1 l)
    | .error _ => z) (tm.mregs.map MReg.shape, 0)

/-- Accumulator units a team holds or has reserved. -/
def State.unitsHeld (s : State) (tm : Team) : Nat := (tm.mregs.map fun m => m.shape.occ).sum + (s.projected tm.id).2

/-- Free accumulator units of a core (09/R206, R207). -/
def State.unitsFree (s : State) (core : Nat) : Nat :=
  let accg := match (s.core core).partword with | some w => fld w 16 8 | none => 0
  32 * accg - ((s.teams.filter fun t => t.core == core && t.state == .resident).map fun t => s.unitsHeld t).sum

/-- Units that evicted teams of a core whose wakes have fired take before any other (09/R207). -/
def State.unitsOwed (s : State) (core : Nat) : Nat :=
  ((s.teams.filter fun t => t.core == core && t.state == .evicted && t.woken.isSome).map fun t =>
    (t.mregs.map fun m => m.shape.occ).sum).sum

/-- The check of an operation at its entry into the queue: the cause and DETAIL of its trap, if any (one point DEDUCED, log entry 19). -/
def State.mcheck (s : State) (team : Nat) (k : MOpKind) : Option (Nat × Nat) :=
  let z := s.projected team
  match k.shapes z.1 with
  | .error e => some e
  | .ok l =>
    let n := unitsNeeded z.1 l
    let core := (s.team team).core
    if n ≠ 0 ∧ s.unitsFree core < n + s.unitsOwed core then some (0x41, 0) else none

/-- A queued recompression of one of the operation's registers makes it wait at issue (09/R217). -/
def State.mwaits (s : State) (team : Nat) (k : MOpKind) : Bool :=
  (s.core (s.team team).core).mqueue.any fun o =>
    o.team == team && (match o.kind with | .mrecomp d _ => k.regs.contains d | _ => false)

/-! ## Tiles (08/R196, R197; 09/R210, R212) -/

/-- x × y + z in F32, RNE, on patterns. -/
def fmaF (x y z : Nat) : Nat × Status := ffmaVal f32 .rne 0 (fdecode f32 x) (fdecode f32 y) (fdecode f32 z)
/-- fma ascending from +0 (08/R201). -/
def dotF (a b : List Nat) : Nat × Status :=
  (a.zip b).foldl (fun z p => let r := fmaF p.1 p.2 z.1; (r.1, z.2 ||| r.2)) (0, 0#6)

/-- A sparse tile's elements from index i on, n of them. -/
def expand : Nat → Nat → List (Nat × Word) → List Nat
  | 0, _, _ => []
  | n + 1, i, [] => 0 :: expand n (i + 1) []
  | n + 1, i, (k, v) :: l => if k = i then v.toNat :: expand n (i + 1) l else 0 :: expand n (i + 1) ((k, v) :: l)
/-- The nonzero elements of a tile with their indices. -/
def sparse : Nat → List Nat → List (Nat × Word)
  | _, [] => []
  | i, x :: l => if x % 2 ^ 32 = 0 then sparse (i + 1) l else (i, BitVec.ofNat 32 x) :: sparse (i + 1) l
/-- A list cut in runs of 64. -/
def rows64 (l : List Nat) : List (List Nat) := (List.range 64).map fun i => (l.drop (64 * i)).take 64
/-- Rows and columns exchanged; a list of columns gives its 64 rows. -/
def turn64 (l : List (List Nat)) : List (List Nat) := (List.range 64).map fun i => l.map fun c => c.getD i 0
/-- Words as numbers. -/
def natsOf (l : List Word) : List Nat := l.map (·.toNat)
/-- Numbers as words. -/
def wordsOfNats (l : List Nat) : List Word := l.map (BitVec.ofNat 32)

/-- A tile of which element (i, j) is a function of row i and column j and of the tile before. -/
def tileBy (f : Nat → List Nat → List Nat → Nat × Status) (prior rows cols : List (List Nat)) : List Nat × Status :=
  let all := (rows.zip prior).flatMap fun r => (cols.zip r.2).map fun c => f c.2 r.1 c.1
  (all.map (·.1), (all.map (·.2)).foldl (· ||| ·) 0#6)

/-- A zero tile. -/
def zeroTile : List (List Nat) := List.replicate 64 (List.replicate 64 0)

/-- The elements of a register, row by row, with the status of a densify (09/R204, R212). -/
def MReg.tile (m : MReg) : List Nat × Status :=
  match m.form with
  | .empty => (zeroTile.flatten, 0#6)
  | .dense => (expand 4096 0 m.dense, 0#6)
  | .factor => tileBy (fun _ r c => dotF r c) zeroTile (turn64 (m.us.map natsOf)) (turn64 (m.vs.map natsOf))

/-- Status of F32 arithmetic ORed into a register: OF as OV, NV, SAT, and NX of a densify as INX (09/R203, R212). -/
def MReg.orStat (m : MReg) (st : Status) (densify : Bool) : MReg :=
  let has := fun (b : Status) => st &&& b != 0#6
  { m with ov := m.ov || has stOF, nv := m.nv || has stNV, sat := m.sat || has stSAT, inx := m.inx || (densify && has stNX) }

/-- The register holding a dense tile. -/
def MReg.putDense (m : MReg) (tag : Tag) (l : List Nat) : MReg :=
  { m with form := .dense, tag := tag, dense := sparse 0 l, us := [], vs := [] }
/-- The register emptied; its status is kept (09/R205). -/
def MReg.toEmpty (m : MReg) : MReg := { m with form := .empty, tag := .raw, dense := [], us := [], vs := [] }
/-- The register holding a factor pair, oldest rank first. -/
def MReg.putFactor (m : MReg) (us vs : List (List Word)) : MReg :=
  { m with form := .factor, tag := .f32, dense := [], us := us, vs := vs }
/-- A register densified, and whether that set NV (09/R212). -/
def MReg.densify (m : MReg) (overflow : Bool) : MReg × Bool :=
  match m.form with
  | .dense => (m, false)
  | _ =>
    let t := m.tile
    ({ (m.putDense .f32 t.1).orStat t.2 true with rko := m.rko || overflow }, t.2 &&& stNV != 0#6)

/-! ## The operations -/

/-- The K values of a row or column that a member captured: eight registers and their scale words (07/R161). -/
def fragVals (fmt : Tag) (regs scales : List Word) : List FVal :=
  let x := packElems 32 (natsOf regs)
  let sc := packElems 32 (natsOf scales)
  (List.range (mmaK fmt)).map fun k =>
    let e := elemAt fmt.width k x
    match fmt with
    | .xb8 | .xb4 => xbVal fmt (elemAt 16 (k / 16) sc) e
    | .s8 => let i := toInt true 8 e; .num (decide (i < 0)) i.natAbs 0
    | _ => fdecode (fmtOf fmt) e

/-- The captured row (false) or column (true) of member m; zeros for a member without a capture. -/
def memberVals (fmt : Tag) (col : Bool) (caps : List TackCap) (m : Nat) : List FVal :=
  match caps.find? fun c => c.m == m with
  | none => List.replicate (mmaK fmt) (.num false 0 0)
  | some c =>
    let n := if fmt = .xb8 then 1 else 2
    let regs := (c.regs.drop (if col then 8 else 0)).take 8
    fragVals fmt regs ((c.regs.drop (if col then 16 + n else 16)).take n)

/-- The F32 pattern of a value, which each fragment format converts to exactly. -/
def exactF32 (v : FVal) : Nat := (froundVal f32 .rne 0 v).1

/-- The dense column of `MMA` (08/R196, R197). -/
def mmaDense (fmt : Tag) (sat : Bool) (caps : List TackCap) (prior : List Nat) : List Nat × Status :=
  let rows := (List.range 64).map (memberVals fmt false caps)
  let cols := (List.range 64).map (memberVals fmt true caps)
  let one := fun (p : Nat) (r c : List FVal) =>
    if fmt = .s8 then dotInt sat (toInt true 32 p) ((r.zip c).map fun x => x.1.atExp 0 * x.2.atExp 0)
    else dotVal f32 .rne (fdecode f32 p) (r.zip c)
  let all := (rows.zip (rows64 prior)).flatMap fun r => (cols.zip r.2).map fun c => one c.2 r.1 c.1
  (all.map (·.1), (all.map (·.2)).foldl (· ||| ·) 0#6)

/-- `MMA` performed on its destination; whether it set NV. -/
def MReg.mma (m : MReg) (ap : Bool) (fmt : Tag) (sat : Bool) (caps : List TackCap) : MReg × Bool :=
  match m.shape.mma ap fmt with
  | .error _ => (m, false)
  | .ok .append =>
    let side := fun (col : Bool) =>
      let vals := (List.range 64).map (memberVals fmt col caps)
      (List.range (mmaK fmt)).map fun k => vals.map fun r => BitVec.ofNat 32 (exactF32 (r.getD k (.num false 0 0)))
    (m.putFactor (m.us ++ side false) (m.vs ++ side true), false)
  | .ok (.dense over_) =>
    let d := if m.form = .factor ∨ over_ then m.densify over_ else (m, false)
    let r := mmaDense fmt sat caps d.1.tile.1
    ((d.1.putDense (if fmt = .s8 then .s32 else .f32) r.1).orStat r.2 false, d.2 || r.2 &&& stNV != 0#6)

/-- `MLRU` performed (09/R209, 18/R404). -/
def MReg.mlru (m : MReg) (caps : List TackCap) : MReg × Bool :=
  let vec := fun (k : Nat) => (List.range 64).map fun i =>
    ((caps.find? fun c => c.m == i).map fun c => c.regs.getD k 0#32).getD 0#32
  match m.shape.mlru with
  | .error _ => (m, false)
  | .ok .append => (m.putFactor (m.us ++ [vec 0]) (m.vs ++ [vec 1]), false)
  | .ok (.dense over_) =>
    let d := m.densify over_
    let one := fun (p : Nat) (r c : List Nat) => fmaF (r.headD 0) (c.headD 0) p
    let r := tileBy one (rows64 d.1.tile.1) ((natsOf (vec 0)).map ([·])) ((natsOf (vec 1)).map ([·]))
    ((d.1.putDense .f32 r.1).orStat r.2 false, d.2 || r.2 &&& stNV != 0#6)

/-- `MCOPY`: form, tag, contents and status, not POLICY and NVT (09/R205). -/
def MReg.copy (m a : MReg) : MReg := { a with policy := m.policy, nvt := m.nvt }

/-- `MLRADD` performed (09/R209). -/
def MReg.mlradd (m a : MReg) : MReg × Bool :=
  if m.form = .empty then (m.copy a, false)
  else if a.form = .empty then (m, false)
  else
    match m.shape.mlradd a.shape with
    | .error _ => (m, false)
    | .ok .append => (m.putFactor (m.us ++ a.us) (m.vs ++ a.vs), false)
    | .ok (.dense over_) =>
      let d := m.densify over_
      let src := a.tile
      if d.1.tag = .s32 then
        (d.1.putDense .s32 ((d.1.tile.1.zip src.1).map fun x => (x.1 + x.2) % 2 ^ 32), false)
      else
        let sums := (d.1.tile.1.zip src.1).map fun x => faddVal f32 .rne 0 (fdecode f32 x.1) (fdecode f32 x.2)
        let st := (sums.map (·.2)).foldl (· ||| ·) 0#6
        (((d.1.putDense .f32 (sums.map (·.1))).orStat st false).orStat src.2 true,
         d.2 || (st ||| src.2) &&& stNV != 0#6)

/-- `MLRMUL` performed (09/R210). -/
def MReg.mlrmul (m a b : MReg) : MReg × Bool :=
  let cols := turn64 (rows64 b.tile.1)
  let mul := fun (rows : List (List Nat)) => rows.map fun r => cols.map fun c => dotF r c
  let stat := fun (l : List (List (Nat × Status))) => (l.flatten.map (·.2)).foldl (· ||| ·) 0#6
  match a.form with
  | .empty => (m.toEmpty, false)
  | .factor =>
    let r := mul (a.vs.map natsOf)
    ((m.putFactor a.us (r.map fun l => l.map fun x => BitVec.ofNat 32 x.1)).orStat (stat r) false, stat r &&& stNV != 0#6)
  | .dense =>
    let r := mul (rows64 a.tile.1)
    ((m.putDense .f32 (r.flatten.map (·.1))).orStat (stat r) false, stat r &&& stNV != 0#6)

/-! ## Recompression (08/R201) -/

/-- One F32 operation each, RNE, on patterns. -/
def mulF (x y : Nat) : Nat := (fmulVal f32 .rne 0 (fdecode f32 x) (fdecode f32 y)).1
def addF (x y : Nat) : Nat := (faddVal f32 .rne 0 (fdecode f32 x) (fdecode f32 y)).1
def divF (x y : Nat) : Nat := (fdivVal f32 .rne (fdecode f32 x) (fdecode f32 y)).1
def sqrtF (x : Nat) : Nat := (fsqrtVal f32 .rne (fdecode f32 x)).1
def rsqF (x : Nat) : Nat := (frsqVal f32 .rne (fdecode f32 x)).1
/-- The pattern with its sign changed. -/
def negF (x : Nat) : Nat := x ^^^ 2 ^ 31
/-- The pattern's magnitude. -/
def absF (x : Nat) : Nat := x % 2 ^ 31
/-- The pattern is neither NaN nor infinite. -/
def finiteF (x : Nat) : Bool := bitsAt x 23 8 != 255

/-- A reflection of a column from row j on. -/
def reflectCol (v : List Nat) (beta j : Nat) (col : List Nat) : List Nat :=
  let y := col.drop j
  let ns := negF (mulF beta (dotF v y).1)
  col.take j ++ (v.zip y).map fun x => (fmaF ns x.1 x.2).1

/-- One column of the triangular factorisation: the columns and the reflectors so far. -/
def qrStep (z : List (List Nat) × List (Option (List Nat × Nat))) (j : Nat) : List (List Nat) × List (Option (List Nat × Nat)) :=
  let x := (z.1.getD j []).drop j
  let nrm := sqrtF (dotF x x).1
  if absF nrm = 0 then (z.1, z.2 ++ [none])
  else
    let x0 := x.headD 0
    let alpha := if bitsAt x0 31 1 = 0 then negF nrm else nrm
    let v := addF x0 (negF alpha) :: x.drop 1
    let beta := divF 0x40000000 (dotF v v).1
    (z.1.mapIdx fun k col =>
       if k = j then col.take j ++ [alpha] ++ List.replicate (63 - j) 0
       else if j < k then reflectCol v beta j col else col,
     z.2 ++ [some (v, beta)])

/-- The reflectors of a matrix of r columns, and the rows of its triangle. -/
def qrF (cols : List (List Nat)) : List (Option (List Nat × Nat)) × List (List Nat) :=
  let r := cols.length
  let z := (List.range r).foldl qrStep (cols, [])
  (z.2, (List.range r).map fun i => z.1.map fun c => c.getD i 0)

/-- The orthogonal factor applied to a vector. -/
def applyF (h : List (Option (List Nat × Nat))) (y : List Nat) : List Nat :=
  (h.mapIdx fun j x => (j, x)).foldr (fun q y =>
    match q.2 with
    | none => y
    | some (v, beta) => reflectCol v beta q.1 y) y

/-- Two columns of a matrix rotated. -/
def rotateF (c s p q : Nat) (m : List (List Nat)) : List (List Nat) :=
  let xs := (m.getD p []).zip (m.getD q [])
  (m.set p (xs.map fun x => (fmaF c x.1 (negF (mulF s x.2))).1)).set q (xs.map fun x => (fmaF s x.1 (mulF c x.2)).1)

/-- One rotation of the pair (p, q) of the columns of C and W. -/
def jacobiF (z : List (List Nat) × List (List Nat)) (pq : Nat × Nat) : List (List Nat) × List (List Nat) :=
  let x := z.1.getD pq.1 []
  let y := z.1.getD pq.2 []
  let g := (dotF x y).1
  if absF g = 0 then z
  else
    let zeta := divF (addF (dotF y y).1 (negF (dotF x x).1)) (mulF 0x40000000 g)
    let t := divF (if bitsAt zeta 31 1 = 0 then 0x3F800000 else 0xBF800000)
      (addF (absF zeta) (sqrtF (fmaF zeta zeta 0x3F800000).1))
    let c := rsqF (fmaF t t 0x3F800000).1
    let s := mulF c t
    (rotateF c s pq.1 pq.2 z.1, rotateF c s pq.1 pq.2 z.2)

/-- The pairs of one sweep. -/
def pairsOf (r : Nat) : List (Nat × Nat) :=
  (List.range r).flatMap fun p => (List.range (r - p - 1)).map fun k => (p, p + 1 + k)

/-- A column's index put in its place by falling σ, after equal ones. -/
def insertSigma (x : Nat × Nat) : List (Nat × Nat) → List (Nat × Nat)
  | [] => [x]
  | y :: l => if y.2 < x.2 then x :: y :: l else y :: insertSigma x l

/-- The result of R201: the columns of U′ and the rows of V′, or none where a NaN or an infinity appears. -/
def recompF (us vs : List (List Nat)) (tol : Nat) : Option (List (List Nat) × List (List Nat)) :=
  let r := us.length
  let hu := qrF us
  let hv := qrF vs
  let c0 := (List.range r).map fun k => (List.range r).map fun i => (dotF (hu.2.getD i []) (hv.2.getD k [])).1
  let w0 := (List.range r).map fun k => (List.range r).map fun i => if i = k then 0x3F800000 else 0
  let z := ((List.replicate 8 (pairsOf r)).flatten).foldl jacobiF (c0, w0)
  let sig := z.1.map fun c => sqrtF (dotF c c).1
  if !sig.all finiteF then none
  else
    let order := (sig.mapIdx fun k x => (k, x)).foldl (fun l x => insertSigma x l) []
    let lim := mulF tol ((order.head?.map (·.2)).getD 0)
    let keep := (order.takeWhile fun x => fless false (fdecode f32 lim) (fdecode f32 x.2)).map (·.1)
    let pad := List.replicate (64 - r) 0
    let us' := keep.map fun p => applyF hu.1 (z.1.getD p [] ++ pad)
    let vs' := keep.map fun p => applyF hv.1 (z.2.getD p [] ++ pad)
    if finiteF lim && (us'.flatten.all finiteF && vs'.flatten.all finiteF) then some (us', vs') else none

/-- `MRECOMP` performed with a tolerance (08/R201, 09/R213). -/
def MReg.mrecomp (m : MReg) (tol : Word) : MReg × Bool :=
  match m.form with
  | .factor =>
    let us := m.us.map natsOf
    let vs := m.vs.map natsOf
    let nan : Bool := decide (0x7F800000 < absF tol.toNat)
    let tol' := if nan ∨ (bitsAt tol.toNat 31 1 = 1 ∧ absF tol.toNat ≠ 0) then 0 else tol.toNat
    if !(us.flatten.all finiteF && vs.flatten.all finiteF) then ({ m with nv := true }, true)
    else
      match recompF us vs tol' with
      | none => ({ m with nv := true }, true)
      | some r =>
        let m1 := { m with nv := m.nv || nan }
        (if r.1.isEmpty then m1.toEmpty else m1.putFactor (r.1.map wordsOfNats) (r.2.map wordsOfNats), nan)
  | _ => (m, false)

/-- Status bits cleared by a mask in the places of R203. -/
def MReg.clear (m : MReg) (mask : Nat) : MReg :=
  let off := fun (k : Nat) (b : Bool) => b && bitsAt mask k 1 == 0
  { m with inx := off 4 m.inx, rko := off 3 m.rko, nv := off 2 m.nv, sat := off 1 m.sat, ov := off 0 m.ov }

/-- An element of a dense tile written. -/
def setElem (e : Nat) (v : Word) (l : List (Nat × Word)) : List (Nat × Word) :=
  match l with
  | [] => if v = 0#32 then [] else [(e, v)]
  | x :: r =>
    if e < x.1 then (if v = 0#32 then x :: r else (e, v) :: x :: r)
    else if e = x.1 then (if v = 0#32 then r else (e, v) :: r)
    else x :: setElem e v r

/-- An operation performed on a team's registers; whether it set NV in its destination. Operations that move memory are
performed by their commands. -/
def MOpKind.run (k : MOpKind) (l : List MReg) : List MReg × Bool :=
  let r := fun (m : Nat) => l.getD m MReg.reset
  let one := fun (d : Nat) (x : MReg × Bool) => (l.set d x.1, x.2)
  match k with
  | .mma ap fmt sat d caps => one d ((r d).mma ap fmt sat caps)
  | .mlru d caps => one d ((r d).mlru caps)
  | .mlradd d a => one d ((r d).mlradd (r a))
  | .mlrmul d a b => one d ((r d).mlrmul (r a) (r b))
  | .mrecomp d tol => one d ((r d).mrecomp tol)
  | .mdense d => one d ((r d).densify false)
  | .mzero d => one d ((r d).toEmpty, false)
  | .mcopy d a => one d ((r d).copy (r a), false)
  | .mswap d a => ((l.set d ((r d).copy (r a))).set a ((r a).copy (r d)), false)
  | .mclrs d mask => one d ((r d).clear mask, false)
  | .mpol d densify nvt => one d ({ r d with policy := densify, nvt := nvt }, false)
  | .xmwr d e v tag init =>
    let m := if init then (r d).putDense tag [] else r d
    one d ({ m with dense := setElem e v m.dense }, false)
  | .drain _ _ | .fill _ _ _ | .spill _ _ => (l, false)

/-! ## The `MAT` counter (09/R215, R218; 10/R223) -/

/-- The completed operations at the head of a group's order make their falls (one point DEDUCED, log entry 27). -/
def matFalls (g : Group) : List MatCmd → Group
  | [] => { g with mats := [] }
  | c :: l =>
    if c.done then matFalls { g with ctr := bump g.ctr 3 (· - 1), nvt := g.nvt || c.nv } l else { g with mats := c :: l }

/-- A group's counter raised for an operation that stands at a place of its order. -/
def State.matRaise (s : State) (team gi id : Nat) : State :=
  (s.raise team gi .mat).editGroup team gi fun g => { g with mats := g.mats ++ [{ id := id, done := false, nv := false }] }
/-- An operation complete in a group. -/
def State.matDone (s : State) (team : Nat) (nv : Bool) (x : Nat × Nat) : State :=
  (s.editGroup team x.1 fun g =>
    matFalls g (editBy (fun c => c.id == x.2) (fun c => { c with done := true, nv := nv }) g.mats)).latchCounters
/-- An operation taken out of a group's count without completing: a discarded tack (09/R214). -/
def State.matDrop (s : State) (team : Nat) (x : Nat × Nat) : State :=
  (s.editGroup team x.1 fun g =>
    if g.mats.any fun c => c.id == x.2 then
      matFalls { g with ctr := bump g.ctr 3 (· - 1) } (dropBy (fun c => c.id == x.2) g.mats)
    else g).latchCounters

/-- An operation enters the queue of its team's core. -/
def State.mpush (s : State) (team : Nat) (falls : List (Nat × Nat)) (k : MOpKind) : State :=
  let o : MOp := { id := s.fresh, team := team, falls := falls, kind := k }
  ({ s with fresh := s.fresh + 1 }).editCore (s.team team).core fun c => { c with mqueue := c.mqueue ++ [o] }

/-! ## Instructions that are not tacked (18/R401, R405, R406) -/

/-- One lane's operation: it waits behind a recompression or a full counter, traps, or enters the queue. -/
def State.matLane (s : State) (t : Thread) (k : MOpKind) : State × Lane :=
  let who := s.who t
  if s.mwaits t.team k || s.engineFull t .mat 0 then (s, .hold)
  else
    match s.mcheck t.team k with
    | some e => (s, .trap e.1 e.2 none)
    | none =>
      let id := s.fresh
      (((({ s with fresh := id + 1 } : State).matRaise who.1 who.2 id).mpush t.team [(who.2, id)] k), .done [] 0#6)

/-- A register-to-register matrix instruction. -/
def State.matOp (s : State) (p : Pre) (k : MOpKind) : State :=
  s.foldLanes p fun s t =>
    match s.preGate t .matrix [] [] with
    | some x => (s, x)
    | none => s.matLane t k

/-- MLRMUL (09/R210). -/
def execMlrmul (p : Pre) (d a b : Nat) (s : State) : Out := .next (s.matOp p (.mlrmul d a b))
/-- MLRADD (09/R209). -/
def execMlradd (p : Pre) (d a : Nat) (s : State) : Out := .next (s.matOp p (.mlradd d a))
/-- MDENSE (09/R209, R212). -/
def execMdense (p : Pre) (d : Nat) (s : State) : Out := .next (s.matOp p (.mdense d))
/-- MZERO (09/R209). -/
def execMzero (p : Pre) (d : Nat) (s : State) : Out := .next (s.matOp p (.mzero d))
/-- MCOPY (09/R209). -/
def execMcopy (p : Pre) (d a : Nat) (s : State) : Out := .next (s.matOp p (.mcopy d a))
/-- MSWAP (09/R209). -/
def execMswap (p : Pre) (d a : Nat) (s : State) : Out := .next (s.matOp p (.mswap d a))
/-- MCLRS (09/R203). -/
def execMclrs (p : Pre) (d mask : Nat) (s : State) : Out := .next (s.matOp p (.mclrs d mask))
/-- MPOL (18/R405). -/
def execMpol (p : Pre) (d : Nat) (densify nvt : Bool) (s : State) : Out := .next (s.matOp p (.mpol d densify nvt))

/-- MRECOMP: it uses the team's tolerance at its entry, which `.SET` writes first (18/R406). -/
def execMrecomp (p : Pre) (set : Bool) (d a : Nat) (s : State) : Out :=
  let A := srcT 1 a noPerm .f32
  .next (s.foldLanes p fun s t =>
    match s.gate t p .matrix [] (if set then [A] else []) with
    | some x => (s, x)
    | none =>
      let tol : Word := if set then BitVec.ofNat 32 (s.srcVal t p A) else (s.teamOf t).tol
      let r := s.matLane t (.mrecomp d tol)
      (match r.2 with | .done _ _ => r.1.editTeam t.team fun x => { x with tol := tol } | _ => r.1, r.2))

/-- MSTAT: long-latency; it waits for the operations queued earlier on its register (18/R407) (one point DEDUCED, log entry 13). -/
def execMstat (p : Pre) (d a : Nat) (s : State) : Out :=
  .next (s.foldLanes p fun s t =>
    match s.gate t p .matrix [dst d false] [] with
    | some x => (s, x)
    | none => (s.newOp t p (wr d 0 .n32) 0#6 (.matrix a s.fresh) none, .done [] 0#6))

/-! ## Tacked instructions (09/R214 to R216, 18/R402 to R404) -/

/-- The tack register of a team. -/
def Team.tack (tm : Team) (k : Nat) : Tack := tm.tacks.getD k Tack.reset
/-- A tack register rewritten. -/
def State.setTack (s : State) (team k : Nat) (x : Tack) : State := s.editTeam team fun t => { t with tacks := t.tacks.set k x }

/-- The member number of a team index, if it is a member. -/
def Tack.member (x : Tack) (idx : Nat) : Option Nat :=
  if 32 * x.g ≤ idx ∧ idx < 32 * x.g + x.n then some (idx - 32 * x.g) else none

/-- Every non-exited member has tacked; `me` counts as having done so. -/
def State.allTacked (s : State) (team : Nat) (x : Tack) (me : Option Nat) : Bool :=
  s.threads.all fun t =>
    if t.team == team && t.live then
      match x.member (s.teamIndex t) with
      | none => true
      | some m => me == some m || x.caps.any fun c => c.m == m
    else true

/-- The operation that a tack register's captures make. -/
def TackOp.kind (o : TackOp) (caps : List TackCap) : MOpKind :=
  if o.lru then .mlru o.d caps else .mma o.ap o.fmt o.sat o.d caps

/-- One lane's tack. -/
def State.tackLane (s : State) (t : Thread) (k : Nat) (o : TackOp) (regs : List Word) : State × Lane :=
  let x := (s.teamOf t).tack k
  let gi := groupIndex (s.teamOf t) t.id.slot
  match x.member (s.teamIndex t) with
  | none => (s, .trap 0x43 0 none)
  | some m =>
    if x.caps.any fun c => c.m == m then (s, .hold)
    else if x.op.any fun q => q.w0 != o.w0 || q.w1 != o.w1 then (s, .trap 0x43 0 none)
    else
      let first := !(x.cmds.any fun c => c.1 == gi)
      let id := s.fresh
      let caps := x.caps ++ [{ m := m, regs := regs }]
      let cmds := if first then x.cmds ++ [(gi, id)] else x.cmds
      let kind := o.kind caps
      let all := s.allTacked t.team x (some m)
      if (first && s.engineFull t .mat 0) || (all && s.mwaits t.team kind) then (s, .hold)
      else
        match (if all then s.mcheck t.team kind else none) with
        | some e => (s, .trap e.1 e.2 none)
        | none =>
          let s0 : State := { s with fresh := id + 1 }
          let s1 := if first then s0.matRaise t.team gi id else s0
          if all then
            ((s1.setTack t.team k { x with op := none, caps := [], cmds := [] }).mpush t.team cmds kind, .done [] 0#6)
          else (s1.setTack t.team k { x with op := some o, caps := caps, cmds := cmds }, .done [] 0#6)

/-- Words 0 and 1 of the item being issued. -/
def State.irW0 (s : State) : DWord := pairOf (s.ir.2.getD 0 0#32) (s.ir.2.getD 1 0#32)
def State.irW1 (s : State) : Word := s.ir.2.getD 2 0#32

/-- MMA (18/R402, R403). -/
def execMma (p : Pre) (ap : Bool) (fmt : Tag) (sat : Bool) (d a b tk sa sb : Nat) (s : State) : Out :=
  let n := match fmt with | .xb8 => 1 | .xb4 => 2 | _ => 0
  let srcs := [srcN 1 a 8 (some fmt), srcN 2 b 8 (some fmt)] ++
    (if n = 0 then [] else [srcN 1 sa n (some .xsc), srcN 2 sb n (some .xsc)])
  .next (s.foldLanes p fun s t =>
    match s.gate t p .matrix [] srcs with
    | some x => (s, x)
    | none =>
      let regs := srcs.flatMap fun x => (List.range x.c).map fun i => (s.srcReg t p x i).1
      s.tackLane t tk { w0 := s.irW0, w1 := s.irW1, lru := false, ap := ap, fmt := fmt, sat := sat, d := d } regs)

/-- MLRU (18/R404). -/
def execMlru (p : Pre) (d a b tk : Nat) (s : State) : Out :=
  let srcs := [srcN 1 a 1 (some .f32), srcN 2 b 1 (some .f32)]
  .next (s.foldLanes p fun s t =>
    match s.gate t p .matrix [] srcs with
    | some x => (s, x)
    | none =>
      let regs := srcs.map fun x => (s.srcReg t p x 0).1
      s.tackLane t tk { w0 := s.irW0, w1 := s.irW1, lru := true, ap := false, fmt := .f32, sat := false, d := d } regs)

/-- TKSET (09/R214, 18/R410). -/
def execTkset (p : Pre) (d g n : Nat) (s : State) : Out :=
  .next (s.foldLanes p fun s t =>
    let tm := s.teamOf t
    match s.preGate t .matrix [] [] with
    | some x => (s, x)
    | none =>
      if n ≠ 0 ∧ tm.groups.length < g + (n + 31) / 32 then (s, .trap 0x43 0 none)
      else if s.engineFull t .mat 0 then (s, .hold)
      else
        let gi := groupIndex tm t.id.slot
        let id := s.fresh
        let s1 := (tm.tack d).cmds.foldl (fun s x => s.matDrop t.team x) { s with fresh := id + 1 }
        let s2 := s1.setTack t.team d { g := g, n := n, op := none, caps := [], cmds := [] }
        ((s2.matRaise t.team gi id).matDone t.team false (gi, id), .done [] 0#6))

/-! ## Moving tiles (09/R219, R220; 18/R408, R409) -/

/-- The limits of a shape record (09/R219). -/
def shapeOk (t : TState) : Bool :=
  t.valid && (t.cls == 1 || t.cls == 2) && t.nc == 2 && t.dims.all fun d => d.1 == 6 && decide (1 ≤ d.2) && decide (d.2 ≤ 64)

/-- The pattern fault of a shape record for a register of a shape. -/
def State.shapeFault (s : State) (tm : Team) (t : TState) (m : MShape) : Option Nat :=
  let want : Tag := if m.form = .dense ∧ m.tag = .s32 then .s32 else .f32
  if !shapeOk t then some 0x20
  else if (inverseMat t.nb t.mat).isNone then some 0x21
  else if t.fmt ≠ want ∧ !m.foreign then some 0x22
  else if !s.rangeOk tm t then some 0x23
  else none

/-- MDRAIN: the tile as it stands at the command's place in the queue (18/R408). -/
def execMdrain (p : Pre) (add ssp : Bool) (sc : Option Scope) (d a b : Nat) (off : Int) (s : State) : Out :=
  let B := if ssp then srcR 2 b noPerm else srcP 2 b noPerm
  .next (s.foldLanes p fun s t =>
    match s.preGate t .matrix [] (if b = 255 then [] else [B]) with
    | some x => (s, x)
    | none =>
      let tm := s.teamOf t
      let bytes := s.tsBytes t.team a
      let ts := tsOf bytes
      let kind : MOpKind := .drain 0 d
      if s.mwaits t.team kind then (s, .hold)
      else
        match s.shapeFault tm ts (mshapeAt (s.projected t.team).1 d) with
        | some c => (s, .trap c 0 none)
        | none =>
          match s.mcheck t.team kind with
          | some e => (s, .trap e.1 e.2 none)
          | none =>
            if s.engineFull t .copy 1 then (s, .hold)
            else
              let e := (s.srcVal t p B : Int) + off
              let aw : Option AwRef :=
                if b = 255 then none
                else some { scr := ssp, addr := if ssp then (if e < 0 then 0 else e.toNat) else wrapTo 64 e }
              let sfx : Bool := ts.cls == 1 || aw.any fun w => !w.scr
              let q := s.newCmd t .copy (sc.getD .tm) (.mdrain bytes add d) aw .queued ts.gRanges [] sfx
              ((q.1.checkCmd q.2 8 false true).mpush t.team [] (.drain q.2 d), .done [] 0#6))

/-- The offset of a scratchpad transfer, or what the lane meets (18/R409). -/
def State.imageOffset (s : State) (p : Pre) (t : Thread) (a : Nat) (off : Int) : State × Except Lane Nat :=
  let o := (s.srcVal t p (srcR 1 a noPerm) : Int) + off
  if o < 16384 ∨ ((s.teamOf t).scratch : Int) - 16384 < o then (s, .error (.trap 0x09 0 none))
  else if o.toNat % 128 ≠ 0 then
    let r := s.issueFault p t 0x15 o.toNat
    (r.1, .error r.2)
  else (s, .ok o.toNat)

/-- A scratchpad transfer over its lanes. -/
def State.imageOp (s : State) (p : Pre) (a : Nat) (off : Int) (kind : Nat → CmdKind) (op : Nat → MOpKind) : State :=
  s.foldLanes p fun s t =>
    match s.preGate t .matrix [] [srcR 1 a noPerm] with
    | some x => (s, x)
    | none =>
      let r := s.imageOffset p t a off
      match r.2 with
      | .error x => (r.1, x)
      | .ok o =>
        if s.mwaits t.team (op 0) then (s, .hold)
        else
          match s.mcheck t.team (op 0) with
          | some e => (s, .trap e.1 e.2 none)
          | none =>
            if s.engineFull t .copy 1 then (s, .hold)
            else
              let q := s.newCmd t .copy .tm (kind o) none .queued [] [] false
              (q.1.mpush t.team [] (op q.2), .done [] 0#6)

/-- MFILL (09/R220, 18/R409). -/
def execMfill (p : Pre) (ty : Tag) (d a : Nat) (off : Int) (s : State) : Out :=
  .next (s.imageOp p a off (fun o => .mfill d o ty) fun c => .fill c d ty)

/-- MSPILL (09/R220, 18/R409). -/
def execMspill (p : Pre) (d a : Nat) (off : Int) (s : State) : Out :=
  .next (s.imageOp p a off (fun o => .mspill d o) fun c => .spill c d)

/-! ## The queue's turn (09/R217, R218) -/

/-- An operation can take its turn: its command, if it has one, is neither paused nor stopped at its word check. -/
def State.mReady (s : State) (o : MOp) : Bool :=
  match o.kind with
  | .drain c _ | .fill c _ _ | .spill c _ =>
    (match s.cmd? c with
     | none => true
     | some x => !x.paused && (match x.state with | .faulted _ _ _ => false | _ => true))
  | _ => true

/-- The oldest operation of a queue that is ready and names no register of an older one of its team. -/
def mNextGo (s : State) (ahead : List MOp) : List MOp → Option MOp
  | [] => none
  | o :: l =>
    let behind := ahead.any fun a => a.team == o.team && a.kind.regs.any o.kind.regs.contains
    if s.mReady o && !behind then some o else mNextGo s (ahead ++ [o]) l
/-- The operation that completes next. -/
def State.mNext (s : State) (core : Nat) : Option MOp := mNextGo s [] (s.core core).mqueue

/-- A register's tile at a command's turn: the tile's values are taken, and INX is set by an inexact densify
(09/R212). -/
def State.takeTile (s : State) (team d : Nat) : State × List Nat × Nat :=
  let m := ((s.team team).mregs[d]?).getD MReg.reset
  let t := m.tile
  let m' := { m with inx := m.inx || t.2 &&& stNX != 0#6 }
  (s.editTeam team fun x => { x with mregs := x.mregs.set d m' }, t.1, m'.word)

/-- Values as units in index order. -/
def unitsFrom : Nat → List Nat → List UnitVal
  | _, [] => []
  | i, x :: l => { n := i, v := x, scale := 0 } :: unitsFrom (i + 1) l

/-- Rows of a scratchpad image read until the budget pauses the command. -/
def State.fillRows (s : State) (id team off : Nat) : Nat → State
  | 0 => s
  | n + 1 =>
    match s.cmd? id with
    | none => s
    | some c =>
      if c.paused then s
      else
        match s.scrTake team (off + 256 * c.pos) 256 with
        | .ok b =>
          let w := (wordsOf 64 b).map fun x => ({ n := 0, v := x.toNat, scale := 0 } : UnitVal)
          State.fillRows ((s.editCmd id fun x => { x with pos := x.pos + 1, snap := x.snap ++ w }).moved id 256) id team off n
        | _ => s.cmdError id 1 0

/-- The clocks that PERFQ counts for an operation (09/R208, 19/R426); the manual gives none for the others
(04/R437) (DESIGN CHOICE, log entry 20). -/
def State.matClocks (s : State) (k : MOpKind) (m : MReg) : Nat :=
  match k with
  | .mma ap fmt _ _ _ =>
    (match m.shape.mma ap fmt with
     | .ok .append => 8
     | .ok (.dense b) => if m.form = .factor ∨ b then (s.freeWord 1).toNat else 32
     | .error _ => 0)
  | _ => (s.freeWord 1).toNat

/-- An operation leaves the queue. -/
def State.mpop (s : State) (core id : Nat) : State :=
  s.editCore core fun c => { c with mqueue := dropBy (fun o => o.id == id) c.mqueue }

/-- An MSTAT that waits for no operation any more reports its register as the operations before it left it, so a later
operation that is about to take effect on that register fixes its value (09/R218, 18/R407). -/
def State.latchMstat (s : State) (core : Nat) (o : MOp) : State :=
  { s with ops := s.ops.map fun p =>
      match p.src with
      | .matrix m k =>
        if p.tid.core == core && (s.thread p.tid).team == o.team && o.kind.regs.contains m && decide (k < o.id) && s.opReady p then
          { s.opResult p with src := .done }
        else p
      | _ => p }

/-- MATRIX_OP_COMPLETE: the next operation of a core's queue takes effect (09/R217, R218). A command's turn takes the tile
or fills the register; its memory work follows in ENGINE_COMMAND_FINISH. -/
def execMatrixOpComplete (core : Nat) (s : State) : Out :=
  match s.mNext core with
  | none => .next s
  | some o =>
    let s := s.latchMstat core o
    let live := fun (c : Nat) => (s.cmd? c).any fun x => x.state == .queued
    match o.kind with
    | .drain c d =>
      if live c then
        let r := s.takeTile o.team d
        let units := unitsFrom 0 r.2.1 ++ [{ n := 4096, v := r.2.2, scale := 0 }]
        .next ((r.1.mpop core o.id).editCmd c fun x => { x with state := .running, snap := units })
      else .next (s.mpop core o.id)
    | .spill c d =>
      if live c then
        let r := s.takeTile o.team d
        .next ((r.1.mpop core o.id).editCmd c fun x => { x with state := .running, snap := unitsFrom 0 r.2.1 })
      else .next (s.mpop core o.id)
    | .fill c d ty =>
      if live c then
        let off := match (s.cmd? c).map (·.kind) with | some (.mfill _ off _) => off | _ => 0
        let pos := ((s.cmd? c).map (·.pos)).getD 0
        let s1 := s.fillRows c o.team off (64 - pos)
        match s1.cmd? c with
        | none => .next s1
        | some x =>
          if x.err ≠ 0 then .next (s1.mpop core o.id)
          else if x.pos < 64 then .next s1
          else
            let s2 := s1.editTeam o.team fun t =>
              { t with mregs := t.mregs.set d ((t.mregs.getD d MReg.reset).putDense ty (x.snap.map (·.v))) }
            .next ((s2.mpop core o.id).editCmd c fun x => { x with state := .acking, snap := [] })
      else .next (s.mpop core o.id)
    | k =>
      let tm := s.team o.team
      let d := k.regs.headD 0
      let r := k.run tm.mregs
      let nv : Bool := r.2 && ((r.1[d]?).getD MReg.reset).nvt
      let clocks := s.matClocks k ((tm.mregs[d]?).getD MReg.reset)
      let s1 := s.editTeam o.team fun t => { t with mregs := r.1, clocks := (t.clocks + clocks) % 2 ^ 64 }
      .next ((o.falls.foldl (fun s x => s.matDone o.team nv x) (s1.mpop core o.id)).reap o.team)

/-! ## The commands' memory work and finish -/

/-- One element added at its home (09/R219). -/
def State.engAdd (s : State) (c : Cmd) (st : Stor) (ty : Tag) (v : Nat) : State × EngRes :=
  match st with
  | .mem va _ =>
    let r := s.translate (clusterOf c.core) c.ctx va
    match r.2 with
    | .error e => (r.1, .fault e va)
    | .ok x =>
      if !x.w then (r.1, .fault 0x12 va)
      else if x.apt = 4 then (r.1, .fault 0x14 va)
      else if va % 4 ≠ 0 then (r.1, .fault 0x15 va)
      else if x.apt = 0 then
        let q := r.1.homeAtom c.ctx x.pa .add ty v 0
        (q.1, if q.2.isNone then .error 1 else .ok [])
      else if x.apt ≤ 3 then
        if !x.rap then (r.1, .fault 0x16 va)
        else
          let q := r.1.request (atomicPkt x.node x.pa c.ctx x.hot true .add ty v 0) (.cmd c.id)
          (q.1, if q.2.1 then .ok [] else .error 3)
      else (r.1, .ok [])
  | .scr off _ =>
    if off % 4 ≠ 0 then (s, .fault 0x15 off)
    else if (s.team c.team).scrLost off 4 then (s, .error 1)
    else
      let old := leNat (s.scrRead c.team off 4)
      (s.scrWrite c.team off (leBytes 4 (atomNew .add ty old v 0)), .ok [])
  | _ => (s, .ok [])

/-- The elements of a drain stored or added from `pos` on. -/
def State.drainUnits (s : State) (id : Nat) (t : TState) (add : Bool) : List UnitVal → State
  | [] => s
  | u :: l =>
    match s.cmd? id with
    | none => s
    | some c =>
      if c.paused || c.state != .running then s
      else if t.hole u.n then State.drainUnits (s.editCmd id fun x => { x with pos := x.pos + 1 }) id t add l
      else
        let st := t.stor (t.place u.n)
        let r := if add then s.engAdd c st t.fmt u.v else s.storWrite c st 32 u.v t.fmt
        match r.2 with
        | .ok _ => State.drainUnits ((r.1.editCmd id fun x => { x with pos := x.pos + 1 }).moved id 4) id t add l
        | .fault k va => r.1.cmdFault c k va 1
        | .error e => r.1.cmdError id e 0
        | .wait => r.1

/-- The status word of a drain, after its elements (18/R408). -/
def State.drainStatus (s : State) (c : Cmd) (word : Nat) : State :=
  match c.aw with
  | none => s.editCmd c.id fun x => { x with state := .acking }
  | some w =>
    if w.scr then (s.scrWrite c.team w.addr (leBytes 8 word)).editCmd c.id fun x => { x with state := .acking }
    else
      let r := s.engWriteN c w.addr (leBytes 8 word)
      match r.2 with
      | .ok _ => r.1.editCmd c.id fun x => { x with state := .acking }
      | .fault k va => r.1.cmdFault c k va 1
      | .error e => r.1.cmdError c.id e 0
      | .wait => r.1

/-- The work of a drain: its elements, then, once they are answered, its status word (one point DEDUCED, log entry 94). -/
def State.drainWork (s : State) (c : Cmd) (shape : List Byte) (add : Bool) : State :=
  let tile := c.snap.take 4096
  let s1 := if c.pos < 4096 then s.drainUnits c.id (tsOf shape) add (tile.drop c.pos) else s
  match s1.cmd? c.id with
  | none => s1
  | some x =>
    if x.pos < 4096 ∨ x.state ≠ .running ∨ s1.cmdOpen c.id then s1
    else s1.drainStatus x ((x.snap.getLast?.map (·.v)).getD 0)

/-- Rows of a spilled image written from `pos` on. -/
def State.spillRows (s : State) (id team off : Nat) : Nat → State
  | 0 => s.editCmd id fun x => if x.pos = 64 then { x with state := .acking } else x
  | n + 1 =>
    match s.cmd? id with
    | none => s
    | some c =>
      if c.paused then s
      else
        let row := ((c.snap.drop (64 * c.pos)).take 64).flatMap fun u => leBytes 4 u.v
        State.spillRows (((s.scrWrite team (off + 256 * c.pos) row).editCmd id fun x => { x with pos := x.pos + 1 }).moved id 256) id team off n

end Sys2Proof.Machine
end

