-- ==== Sys2Proof/Machine/Gather.lean ====
section
/-! DEFINITION. Gather and scatter (10/R238, R239; 18/R400) and the step GATHER_SCATTER_COMPLETE. -/

namespace Sys2Proof.Machine

/-! ## The record (10/R238) -/

/-- Bytes of an element. -/
def gsSize (r : List Byte) : Nat := 2 ^ recField r 0 1
/-- Bytes of an index. -/
def gsIdx (r : List Byte) : Nat := if recField r 1 1 = 0 then 4 else 8
/-- The index list, or the dense side, lies in scratchpad. -/
def gsIdxS (r : List Byte) : Bool := bitsAt (recField r 2 1) 0 1 == 1
def gsDenseS (r : List Byte) : Bool := bitsAt (recField r 2 1) 1 1 == 1
/-- COUNT, TABLE, LIMIT, INDEX, DENSE and AW. -/
def gsCount (r : List Byte) : Nat := recField r 4 4
def gsTable (r : List Byte) : Nat := recField r 8 8
def gsLimit (r : List Byte) : Nat := recField r 16 8
def gsIndex (r : List Byte) : Nat := recField r 24 8
def gsDense (r : List Byte) : Nat := recField r 32 8
def gsAw (r : List Byte) : Nat := recField r 40 8

/-- A range in scratchpad lies within the team's. -/
def inScratch (scratch a n : Nat) : Bool := decide (16384 ≤ a) && decide (a + n ≤ scratch)

/-- The limits of a record. -/
def gsOk (r : List Byte) (scratch : Nat) : Bool :=
  decide (recField r 0 1 ≤ 8) && decide (recField r 1 1 ≤ 1) && decide (recField r 2 1 < 4) && recField r 3 1 == 0 &&
  decide (1 ≤ gsCount r) && decide (gsCount r ≤ 2 ^ 24) && gsTable r % gsSize r == 0 && decide (gsTable r < 2 ^ 55) &&
  decide (1 ≤ gsLimit r) && gsIndex r % gsIdx r == 0 && gsDense r % gsSize r == 0 && recField r 48 8 == 0 && recField r 56 8 == 0 &&
  (!gsIdxS r || inScratch scratch (gsIndex r) (gsCount r * gsIdx r)) &&
  (!gsDenseS r || inScratch scratch (gsDense r) (gsCount r * gsSize r))

/-- A 64-byte record read at issue from `G` or scratchpad, or what the lane meets (18/R387). -/
def State.gsRecord (s : State) (p : Pre) (t : Thread) (rsp : Bool) (addr : Nat) : State × Except Lane (List Byte) :=
  if rsp then
    if !inScratch (s.teamOf t).scratch addr 64 then (s, .error (.trap 0x09 0 none))
    else if addr % 64 ≠ 0 then let r := s.issueFault p t 0x15 addr; (r.1, .error r.2)
    else if (s.teamOf t).scrLost addr 64 then let r := s.issueFault p t 0x17 addr; (r.1, .error r.2)
    else (s, .ok (s.scrRead t.team addr 64))
  else s.recordG p t addr 8 64

/-- One lane of a gather or a scatter. -/
def State.gsLane (s : State) (p : Pre) (t : Thread) (rsp scatter : Bool) (sc : Option Scope) (a : Nat) : State × Lane :=
  let A := if rsp then srcR 1 a noPerm else srcP 1 a noPerm
  match s.gate t p .engine [] [A] with
  | some x => (s, x)
  | none =>
    let q := s.gsRecord p t rsp (s.srcVal t p A)
    match q.2 with
    | .error x => (q.1, x)
    | .ok r =>
      if !gsOk r (s.teamOf t).scratch then (q.1, .trap 0x54 0 none)
      else if q.1.engineFull t .gath 0 then (q.1, q.1.accHold t)
      else
        let aw : Option AwRef := if gsAw r = 0 then none else some { scr := gsDenseS r, addr := gsAw r }
        let ranges :=
          if scatter then [(gsTable r, gsTable r + gsLimit r * gsSize r)]
          else if gsDenseS r then [] else [(gsDense r, gsDense r + gsCount r * gsSize r)]
        let sfx : Bool := scatter || !gsDenseS r
        let c := q.1.newCmd t .gath (sc.getD .tm) (if scatter then .scatter r else .gather r) aw .running ranges [] sfx
        (c.1.checkCmd c.2 16 true false, .done [] 0#6)

/-- GATHER (18/R400). -/
def execGather (p : Pre) (rsp : Bool) (sc : Option Scope) (a : Nat) (s : State) : Out :=
  .next (s.foldLanes p fun s t => s.gsLane p t rsp false sc a)
/-- SCATTER (18/R400). -/
def execScatter (p : Pre) (rsp : Bool) (sc : Option Scope) (a : Nat) (s : State) : Out :=
  .next (s.foldLanes p fun s t => s.gsLane p t rsp true sc a)

/-! ## The work (10/R239) -/

/-- Bytes of one side read, or written. -/
def State.sideRead (s : State) (c : Cmd) (scr : Bool) (addr n : Nat) : State × EngRes :=
  if scr then (s, s.scrTake c.team addr n) else s.engReadN c addr n
def State.sideWrite (s : State) (c : Cmd) (scr : Bool) (addr : Nat) (l : List Byte) : State × EngRes :=
  if scr then (s.scrWrite c.team addr l, .ok []) else s.engWriteN c addr l
/-- An element written on one side, and owed to the command's word once it is. -/
def State.sideGive (s : State) (c : Cmd) (scr : Bool) (addr : Nat) (l : List Byte) : State × EngRes :=
  let w := s.sideWrite c scr addr l
  match w.2 with
  | .ok _ => (w.1.owe c (if scr then .scr addr 0 else .mem addr 0) (8 * l.length), w.2)
  | _ => w

/-- Element k of a command, and the bytes it moves. -/
def State.gsElem (s : State) (c : Cmd) (r : List Byte) (scatter : Bool) (k : Nat) : State × EngRes × Nat :=
  let n := gsSize r
  let q := s.sideRead c (gsIdxS r) (gsIndex r + k * gsIdx r) (gsIdx r)
  match q.2 with
  | .ok b =>
    let i := leNat b
    let inside : Bool := decide (i < gsLimit r)
    let entry := gsTable r + i * n
    let dense := gsDense r + k * n
    if scatter then
      if !inside then (q.1, .ok [], 0)
      else
        let x := q.1.sideRead c (gsDenseS r) dense n
        match x.2 with
        | .ok v => let w := x.1.sideGive c false entry v; (w.1, w.2, n)
        | e => (x.1, e, 0)
    else
      let x := if inside then q.1.sideRead c false entry n else (q.1, .ok (zeros n))
      match x.2 with
      | .ok v => let w := x.1.sideGive c (gsDenseS r) dense v; (w.1, w.2, n)
      | e => (x.1, e, 0)
  | e => (q.1, e, 0)

/-- Elements performed in ascending order from `pos` on, `n` of them at most. -/
def State.gsGo (s : State) (id : Nat) (r : List Byte) (scatter : Bool) : Nat → State
  | 0 => s.editCmd id fun x => if x.state = .running ∧ gsCount r ≤ x.pos then { x with state := .acking } else x
  | n + 1 =>
    match s.cmd? id with
    | none => s
    | some c =>
      let e := s.gsElem c r scatter c.pos
      match e.2.1 with
      | .ok _ =>
        let s1 := e.1.editCmd id fun x => { x with pos := x.pos + 1 }
        State.gsGo (s1.moved id e.2.2) id r scatter n
      | .fault k va => e.1.cmdFault c k va 1
      | .error k => e.1.cmdError id k 0
      | .wait => e.1

/-- GATHER_SCATTER_COMPLETE: the elements that remain are performed; where one waits for an answer from another node, the
step is taken again once it has come (10/R239). -/
def execGatherScatterComplete (cmd : Nat) (s : State) : Out :=
  match s.cmd? cmd with
  | none => .next s
  | some c =>
    if !c.going then .next s
    else
      match c.kind with
      | .gather r => .next (s.gsGo cmd r false (gsCount r - c.pos))
      | .scatter r => .next (s.gsGo cmd r true (gsCount r - c.pos))
      | _ => .next s

end Sys2Proof.Machine
end

