-- ==== Sys2Proof/Machine/Coll.lean ====
section
/-! DEFINITION. Collectives (10/R235 to R237, 08/R198, 18/R411) and the steps COLLECTIVE_COMPLETE and
ENGINE_COMMAND_FINISH. -/

namespace Sys2Proof.Machine

/-! ## The record (10/R235) -/

/-- The operation: 1 all-gather, 2 reduce-scatter, 3 all-to-all, 4 barrier, 5 broadcast. -/
def collOp (r : List Byte) : Nat := recField r 0 1
/-- The members are devices, not clusters. -/
def collDev (r : List Byte) : Bool := recField r 1 1 == 1
/-- The element format of a reduce-scatter. -/
def collFmt (r : List Byte) : Tag := Tag.ofCode (recField r 2 1)
/-- ROP, CHUNK, SEND, RECV, AW and MSTRIDE. -/
def collRop (r : List Byte) : Nat := recField r 3 1
def collChunk (r : List Byte) : Nat := recField r 4 4
def collSend (r : List Byte) : Nat := recField r 8 8
def collRecv (r : List Byte) : Nat := recField r 16 8
def collAw (r : List Byte) : Nat := recField r 24 8
def collStride (r : List Byte) : Nat := recField r 32 8
/-- The cluster mask. -/
def collMask (r : List Byte) : Nat := leNat ((r.drop 48).take 32)
/-- The node ids up to 0xFFFF. -/
def collNodes (r : List Byte) : List Nat :=
  ((List.range 16).map fun i => recField r (48 + 2 * i) 2).takeWhile fun n => n != 0xFFFF

/-- The members: cluster numbers in ascending order, or node ids in list order. -/
def collMembers (r : List Byte) : List Nat :=
  if collDev r then collNodes r else bitsOf (collMask r) Config.clusters
/-- The member number of a cluster or node. -/
def memberOf (r : List Byte) (me : Nat) : Option Nat :=
  let i := (collMembers r).findIdx fun x => x == me
  if i < (collMembers r).length then some i else none

/-- The formats of a reduction. -/
def collFmtOk (f : Nat) : Bool :=
  let t := Tag.ofCode f
  decide (f < 16) && (t == .f32 || t == .bf16 || t == .s32 || t == .n32 || t == .s64 || t == .n64)
/-- The limits of a record that do not depend on the issuer (10/R235, R237). -/
def collOk (r : List Byte) : Bool :=
  let op := collOp r
  let rop := collRop r
  let int := collFmt r != .f32 && collFmt r != .bf16
  decide (1 ≤ op) && decide (op ≤ 5) && decide (recField r 1 1 ≤ 1) &&
  (if op = 2 then collFmtOk (recField r 2 1) else recField r 2 1 == 0) &&
  decide (bitsAt rop 0 2 ≤ 2) && bitsAt rop 3 5 == 0 &&
  (bitsAt rop 2 1 == 0 || (op == 2 && int && bitsAt rop 0 2 == 0)) &&
  collChunk r % 256 == 0 && (op != 4 || collChunk r == 0) && recField r 40 8 == 0 &&
  ((r.drop 80).take 48).all (· == 0#8) &&
  (!collDev r || (collNodes r).eraseDups.length == (collNodes r).length)

/-- The collective fault of an issuer (10/R237): `me` is its cluster or node, `part` the partition's clusters. -/
def collFault (r : List Byte) (me part : Nat) : Bool :=
  !collOk r ||
  (!(collMembers r).isEmpty &&
    ((!collDev r && decide (collMask r &&& part ≠ collMask r)) || (decide (collOp r ≤ 4) && (memberOf r me).isNone)))

/-- A member's address. -/
def memberAddr (r : List Byte) (base i : Nat) : Nat := (base + i * collStride r) % 2 ^ 64

/-- The members a command serves: itself, or for a broadcast every member. -/
def collTargets (r : List Byte) (me : Option Nat) : List Nat :=
  if collOp r = 5 then List.range (collMembers r).length
  else
    match me with
    | some i => [i]
    | none => []

/-- The device of a member that is another than this one. -/
def collFar (r : List Byte) (node i : Nat) : Option Nat :=
  if collDev r then (collMembers r)[i]?.filter fun n => n != node else none

/-- 256-byte blocks that a member receives. -/
def collBlocks (r : List Byte) : Nat :=
  let c := collChunk r / 256
  if collOp r = 1 ∨ collOp r = 3 then (collMembers r).length * c else if collOp r = 4 then 0 else c

/-! ## Issue (18/R411) -/

/-- The word of a member on this device, if the record names one. -/
def collWord (r : List Byte) (node i : Nat) : Option AwRef :=
  if collAw r = 0 ∨ (collFar r node i).isSome then none else some { scr := false, addr := memberAddr r (collAw r) i }

/-- COLL (18/R411). -/
def execColl (p : Pre) (sc : Option Scope) (a : Nat) (s : State) : Out :=
  let A := srcP 1 a noPerm
  .next (s.foldLanes p fun s t =>
    match s.gate t p .engine [] [A] with
    | some x => (s, x)
    | none =>
      let va := s.srcVal t p A
      let q := s.recordG p t va 16 128
      match q.2 with
      | .error x => (q.1, x)
      | .ok r =>
        let me := if collDev r then s.node else clusterOf t.id.core
        if collFault r me (s.gridOf t).clusters then (q.1, .trap 0x51 0 none)
        else if q.1.engineFull t .coll 0 then (q.1, q.1.accHold t)
        else
          let m := memberOf r me
          let targets := collTargets r m
          let ranges := (targets.filter fun i => (collFar r s.node i).isNone).map fun i => (memberAddr r (collRecv r) i, memberAddr r (collRecv r) i + 256 * collBlocks r)
          let empty := (collMembers r).isEmpty
          let aw := if empty then none else (targets.head?).bind (collWord r s.node)
          let c := q.1.newCmd t .coll (sc.getD .tm) (.coll r va none m) aw (if empty then .acking else .running)
            (if empty then [] else ranges) [] (!empty)
          (c.1.checkCmd c.2 16 true false, .done [] 0#6))

/-! ## Members meet (10/R236) -/

/-- A command's record, if it is a collective's. -/
def Cmd.collRec (c : Cmd) : Option (List Byte) := match c.kind with | .coll r _ _ _ => some r | _ => none

/-- The oldest command of a member on a record's address, in a grid, that has not met the others. -/
def State.collAt (s : State) (grid addr m : Nat) : Option Cmd :=
  s.cmds.find? fun c => (s.team c.team).grid == grid && c.state != .finished &&
    (match c.kind with | .coll _ a none (some i) => a == addr && i == m | _ => false)

/-- A command's collective set. -/
def State.setColl (s : State) (id g : Nat) : State :=
  s.editCmd id fun c => { c with kind := match c.kind with | .coll r a _ m => .coll r a (some g) m | k => k }

/-- The members of a collective on this device brought together, with error 7 in each where their records differ. -/
def State.collMeet (s : State) (l : List Cmd) : State :=
  let g := s.fresh
  let s1 := l.foldl (fun s c => s.setColl c.id g) { s with fresh := g + 1 }
  let recs := l.filterMap Cmd.collRec
  if recs.eraseDups.length ≤ 1 then s1 else l.foldl (fun s c => s.cmdError c.id 7 0) s1

/-- Where the bytes of another device's member are kept. -/
def peerAddr : Nat := 2 ^ 60

/-- The records and send buffers of the other devices, as their collective engines deliver them: each member's copy of the
record, then its buffer. -/
def State.collPeers (s : State) (c : Cmd) (r : List Byte) (peers : List (List Byte)) : State :=
  let mine := (memberOf r s.node).getD 16
  let others := (peers.mapIdx fun i b => (i, b)).filter fun x => x.1 != mine
  let s1 := (s.setColl c.id s.fresh)
  let s2 : State := { s1 with fresh := s.fresh + 1 }
  if others.any fun x => x.2.take 128 != r then s2.cmdError c.id 7 0
  else s2.editCmd c.id fun x => { x with buf := others.map fun o => { node := o.1, addr := peerAddr, data := o.2.drop 128 } }

/-! ## The data -/

/-- 256 bytes of member j's send buffer at an offset. -/
def State.collSendRead (s : State) (c : Cmd) (r : List Byte) (j off : Nat) : State × EngRes :=
  match c.buf.find? fun b => b.addr == peerAddr && b.node == j with
  | some b => (s, .ok ((b.data.drop off).take 256))
  | none => s.engReadN c (memberAddr r (collSend r) j + off) 256

/-- Two contributions of one element combined (08/R198). -/
def collCombine (r : List Byte) (x y : Nat) : Nat :=
  let f := collFmt r
  let op := bitsAt (collRop r) 0 2
  if f = .f32 ∨ f = .bf16 then
    let g := fmtOf f
    if op = 0 then (faddVal g .rne 0 (fdecode g x) (fdecode g y)).1 else (fminmaxBits g (op == 2) x y).1
  else
    let w := f.width
    let a := toInt (tagSigned f) w x
    let b := toInt (tagSigned f) w y
    if op = 0 then (intResult (tagSigned f) (bitsAt (collRop r) 2 1 == 1) w (a + b)).1
    else if op = 1 then wrapTo w (min a b) else wrapTo w (max a b)

/-- Blocks of every member reduced element by element with the tree of R198 (one point DEDUCED, log entry 23). -/
def collReduce (r : List Byte) (blocks : List (List Byte)) : List Byte :=
  let n := (collFmt r).width / 8
  (List.range (256 / n)).flatMap fun e =>
    let xs := blocks.map fun b => leNat ((b.drop (e * n)).take n)
    leBytes n ((pairTree (collCombine r) xs.length xs).getD 0)

/-- A block of every member's buffer read. -/
def collReadAll (c : Cmd) (r : List Byte) (off : Nat) (s : State) (got : List (List Byte)) : List Nat → State × EngRes × List (List Byte)
  | [] => (s, .ok [], got)
  | j :: l =>
    let q := s.collSendRead c r j off
    match q.2 with
    | .ok b => collReadAll c r off q.1 (got ++ [b]) l
    | x => (q.1, x, got)

/-- Block b of what member i receives. -/
def State.collBlock (s : State) (c : Cmd) (r : List Byte) (me : Option Nat) (i b : Nat) : State × EngRes :=
  let n := (collMembers r).length
  let chunk := collChunk r
  let at_ := 256 * b
  match collOp r with
  | 1 => s.collSendRead c r (at_ / chunk) (at_ % chunk)
  | 2 =>
    let q := collReadAll c r (i * chunk + at_) s [] (List.range n)
    (q.1, match q.2.1 with | .ok _ => .ok (collReduce r q.2.2) | x => x)
  | 3 => s.collSendRead c r (at_ / chunk) (i * chunk + at_ % chunk)
  | _ => s.engReadN c ((match me with | some j => memberAddr r (collSend r) j | none => collSend r) + at_) 256

/-- A block delivered to member i: written at its buffer and owed to its word, or handed to the collective engines of the member's
device, which write it in that device's memory; the spec gives that message no packet (10/R236) (one point DEDUCED, log entry 23). -/
def State.collGive (s : State) (c : Cmd) (r : List Byte) (i : Nat) (b : List Byte) : State × EngRes :=
  let va := memberAddr r (collRecv r) i + 256 * c.pos
  match collFar r s.node i with
  | some n => ({ s with fabric := { s.fabric with coll := s.fabric.coll ++ [{ node := n, ctx := c.ctx, va := va, data := b, credit := 0 }] } }, .ok [])
  | none =>
    let w := s.engWriteN c va b
    match w.2 with
    | .ok _ => (w.1.owe c (.mem va 0) 2048, w.2)
    | _ => w
/-- A member of another device credited with the bytes written to its buffer. -/
def State.collCredit (s : State) (c : Cmd) (r : List Byte) (i : Nat) : State :=
  match collFar r s.node i with
  | some n =>
    if collAw r = 0 then s
    else
      let m : CollMsg := { node := n, ctx := c.ctx, va := memberAddr r (collAw r) i, data := [], credit := 256 * collBlocks r }
      { s with fabric := { s.fabric with coll := s.fabric.coll ++ [m] } }
  | none => s

/-- Blocks of member i delivered from `pos` on, n of them at most. -/
def State.collGo (s : State) (id : Nat) (r : List Byte) (me : Option Nat) (i : Nat) : Nat → State
  | 0 => s
  | n + 1 =>
    match s.cmd? id with
    | none => s
    | some c =>
      if c.paused then s
      else
        let x := s.collBlock c r me i c.pos
        let y := match x.2 with
          | .ok b => x.1.collGive c r i b
          | e => (x.1, e)
        match y.2 with
        | .ok _ =>
          let s1 := y.1.editCmd id fun z => { z with pos := z.pos + 1 }
          State.collGo (s1.moved id 256) id r me i n
        | .fault k va => y.1.cmdFault c k va 1
        | .error k => y.1.cmdError id k 0
        | .wait => y.1

/-- Each of n members credits one byte to a word (10/R236, barrier) (one point DEDUCED, log entry 23). -/
def State.barrierCredits (s : State) (c : Cmd) (n : Nat) : State :=
  match c.aw with
  | none => s
  | some w =>
    let r := s.wordPlace c w
    match r.2 with
    | .ok (.inl loc) => (List.range n).foldl (fun s _ => s.due (.arrivalCredit loc 1 c.id)) r.1
    | .ok (.inr _) => r.1.cmdError c.id 6 0x14
    | .error e => r.1.cmdFault c e w.addr 1

/-- The member a command serves now has everything it receives: its word is credited, and the next member's turn comes. -/
def State.collNext (s : State) (c : Cmd) (r : List Byte) (targets : List Nat) : State :=
  if s.cmdOpen c.id || s.creditDue c.id then s
  else if c.owes && c.aw.isSome then s.creditWord c
  else
    let s1 := if collOp r = 4 then s.barrierCredits c (collMembers r).length else (targets[c.prog]?).elim s (s.collCredit c r)
    let k := c.prog + 1
    let more : Bool := decide (k < targets.length)
    let aw := if more then (targets[k]?).bind (collWord r s.node) else c.aw
    if (s1.cmd? c.id).any fun x => x.state == .running then
      let s2 := s1.editCmd c.id fun x =>
        { x.owesNone with prog := k, pos := 0, aw := aw, state := if more then .running else .acking }
      if more then s2.checkCmd c.id 16 true false else s2
    else s1

/-- The work of a command whose collective has met. -/
def State.collWork (s : State) (c : Cmd) (r : List Byte) (me : Option Nat) : State :=
  let targets := collTargets r me
  match targets[c.prog]? with
  | none => s.editCmd c.id fun x => { x with state := .acking }
  | some i =>
    let s1 := s.collGo c.id r me i (collBlocks r - c.pos)
    match s1.cmd? c.id with
    | none => s1
    | some x => if x.going && decide (collBlocks r ≤ x.pos) then s1.collNext x r targets else s1

/-- COLLECTIVE_COMPLETE: the members of a collective meet once each has issued; then each member's command delivers what it
receives and credits its word, and a broadcast's serves every member. `peers` are the copies of the record and the send
buffers of the other devices' members (10/R236, R237). -/
def execCollectiveComplete (cmd : Nat) (peers : List (List Byte)) (s : State) : Out :=
  match s.cmd? cmd with
  | none => .next s
  | some c =>
    match c.kind with
    | .coll r addr group me =>
      let targets := collTargets r me
      let back : Bool := c.state == .acking && c.err == 0 && decide (c.prog < targets.length)
      let c' : Cmd := if back then { c with state := .running } else c
      if !c'.going then .next s
      else if collDev r && (collNodes r).any fun n => n != s.node && (s.candidates n).isEmpty then .next (s.cmdError cmd 3 0)
      else
        let s0 := s.editCmd cmd fun x => { x with state := .running }
        if collOp r = 5 ∨ group.isSome then .next (s0.collWork c' r me)
        else if collDev r then
          if peers.length = (collMembers r).length then .next (s0.collPeers c' r peers) else .next s
        else
          let l := (List.range (collMembers r).length).filterMap fun m => s.collAt (s.team c.team).grid addr m
          if l.length = (collMembers r).length ∧ (l.any fun x => x.id == cmd) then .next (s0.collMeet l) else .next s
    | _ => .next s

/-- Every command of a collective on this device has made its writes and its credits (10/R236). -/
def State.collDone (s : State) (g : Nat) : Bool :=
  s.cmds.all fun c =>
    match c.kind with
    | .coll r _ (some k) me =>
      k != g || c.state == .finished ||
      (c.state == .acking && !(s.cmdOpen c.id) && !(s.creditDue c.id) &&
        (c.err != 0 || decide ((collTargets r me).length ≤ c.prog)))
    | _ => true

/-- ENGINE_COMMAND_FINISH: a command goes on to its end: a drain or a spill makes its writes, a command whose answers have
come credits its word and is over, and one that is over makes its counter's fall in order (10/R223). -/
def execEngineCommandFinish (cmd : Nat) (s : State) : Out :=
  match s.cmd? cmd with
  | none => .next s
  | some c =>
    match c.state, c.kind with
    | .finished, _ => .next (s.falls.reap c.team)
    | .acking, .recut _ _ _ _ _ _ _ => .next s
    | .acking, .coll r _ g me =>
      if c.err = 0 ∧ c.prog < (collTargets r me).length ∨ (s.creditDue cmd : Bool) then .next s
      else if s.cmdOpen cmd || (c.owes && c.aw.isSome) then .next (s.wrapUp c)
      else .next (if c.err ≠ 0 || g.all fun k => s.collDone k then s.cmdOver c else s)
    | .acking, .mdrain _ _ _ => .next (if s.cmdOpen cmd then s else s.cmdOver c)
    | .acking, _ => .next (s.wrapUp c)
    | .running, .mdrain shape add _ => .next (if c.paused then s else s.drainWork c shape add)
    | .running, .mspill _ off => .next (if c.paused then s else s.spillRows cmd c.team off (64 - c.pos))
    | _, _ => .next s

end Sys2Proof.Machine
end

