-- ==== Sys2Proof/Machine/Capture.lean ====
section
/-! DEFINITION. Capture and replay (03/R73, R74): the records a captured grid makes, and the next recorded value of a
replay. -/

namespace Sys2Proof.Machine

/-- The region's first byte and its size. -/
def State.capBase (s : State) : Nat := fld s.sys.capcfg 12 40 * 4096
def State.capSize (s : State) : Nat := fld s.sys.capcfg 52 12 * 1048576

/-- A 32-byte record, and the data that follows it, appended for a grid launched with FLAGS[1]; a record that does not fit
sets OVF and ends the recording (03/R73). `value` stands in bytes 16 to 23 (one point DESIGN CHOICE, log entry 24). -/
def State.capRecord (s : State) (gid kind unit_ detail value : Nat) (data : List Byte) : State :=
  let n := 32 + (data.length + 255) / 256 * 256
  if !(s.grid gid).capture || fld s.sys.capcfg 0 1 == 0 || fld s.sys.capcfg 2 1 == 1 then s
  else if s.capSize < s.capture.pos + n then
    { s with sys := { s.sys with capcfg := setFld s.sys.capcfg 2 1 1 } }
  else
    let a := s.capBase + s.capture.pos
    let b := leBytes 8 s.time.ns ++ leBytes 1 kind ++ leBytes 3 unit_ ++ leBytes 4 detail ++ leBytes 8 value ++
      leBytes 8 (if data.isEmpty then 0 else a + 32) ++ data ++ zeros (n - 32 - data.length)
    let s1 := s.homeStore 0 a b
    { s1 with capture := { s1.capture with pos := s1.capture.pos + n } }

/-- A grid re-run from its capture: FLAGS[2] set while REPLAY is set (03/R74). -/
def State.replays (s : State) (gid : Nat) : Bool := (s.grid gid).determ && fld s.sys.capcfg 1 1 == 1

/-- One record of the region at an offset: its kind, unit, detail, value, data address and the offset of the next. -/
structure CapRec where
  pos : Nat
  kind : Nat
  unit : Nat
  detail : Nat
  value : Nat
  data : Nat
  deriving DecidableEq, Repr

/-- The record at an offset of the region. -/
def State.capAt (s : State) (pos : Nat) : CapRec :=
  let b := memRead s.mem (s.capBase + pos) 32
  { pos := pos, kind := recField b 8 1, unit := recField b 9 3, detail := recField b 12 4, value := recField b 16 8
    data := recField b 24 8 }

/-- Bytes of data that follow a record of kind 1 or 5: the region gives their place, and one unit of 256 bytes is read. -/
def CapRec.next (r : CapRec) : Nat := r.pos + 32 + (if r.data = 0 then 0 else 256)

/-- The records from an offset on, at most n; a record of kind 0 ends them. -/
def State.capList (s : State) (pos : Nat) : Nat → List CapRec
  | 0 => []
  | n + 1 =>
    let r := s.capAt pos
    if r.kind = 0 then [] else r :: State.capList s r.next n

/-- The next unused record that meets a test. -/
def State.capNext (s : State) (p : CapRec → Bool) : Option CapRec :=
  (s.capList 0 (s.capSize / 32)).find? fun r => p r && !(s.capture.used.contains r.pos)

/-- The next record of the capture that a replay has not used (03/R74). -/
def State.capHead (s : State) : Option CapRec := s.capNext fun _ => true

/-- A record used. -/
def State.capUse (s : State) (r : CapRec) : State := { s with capture := { s.capture with used := s.capture.used ++ [r.pos] } }

/-- A value read by a thread: recorded in a captured grid, and in replay the recorded one (19/R425, R426). -/
def State.capValue (s : State) (t : Thread) (detail : Nat) (x : Nat) : State × Nat :=
  let gid := (s.teamOf t).grid
  if s.replays gid then
    match s.capNext fun r => r.kind == 6 && r.unit == t.id.core && r.detail == detail with
    | some r => (s.capUse r, r.value)
    | none => (s, x)
  else (s.capRecord gid 6 t.id.core detail x [], x)

end Sys2Proof.Machine
end

