-- ==== Sys2Proof/Machine/Decoder.lean ====
section
/-! DEFINITION. The decode engines (10/R240 to R244, 18/R412, R413): the record and its limits, the output of decoded
units, and the steps DECODE_UNIT_OUTPUT and BUDGET_PERIOD. -/

namespace Sys2Proof.Machine

/-! ## The record (10/R241) -/

/-- BITS, LENGTH, FIRST, NFRAMES, OFMT, PLANES. -/
def decBits (r : List Byte) : Nat := recField r 0 8
def decLength (r : List Byte) : Nat := recField r 8 4
def decFirst (r : List Byte) : Nat := recField r 12 4
def decFrames (r : List Byte) : Nat := recField r 16 4
def decOfmt (r : List Byte) : Nat := recField r 20 1
def decPlanes (r : List Byte) : Nat := recField r 21 1
/-- The crop. -/
def decX (r : List Byte) : Nat := recField r 24 2
def decY (r : List Byte) : Nat := recField r 26 2
def decW (r : List Byte) : Nat := recField r 28 2
def decH (r : List Byte) : Nat := recField r 30 2
/-- The tensor state number, SCALE and OFFSET of a plane. -/
def decState (r : List Byte) (k : Nat) : Nat := recField r (32 + k) 1
def decScale (r : List Byte) (k : Nat) : Nat := recField r (40 + 8 * k) 4
def decOffset (r : List Byte) (k : Nat) : Nat := recField r (44 + 8 * k) 4
/-- AW, MASK and SIDE. -/
def decAw (r : List Byte) : Nat := recField r 64 8
def decMask (r : List Byte) : Nat := recField r 72 8
def decSide (r : List Byte) : Nat := recField r 80 8

/-- A plane is output. -/
def decHas (r : List Byte) (k : Nat) : Bool := bitsAt (decPlanes r) k 1 == 1
/-- The output format. -/
def decFmt (r : List Byte) : Tag := if decOfmt r = 0 then .bf16 else if decOfmt r = 1 then .xb8 else .n8

/-- The limits of a record that do not depend on tensor states or the arrival word (one point DEDUCED, log entry 21). -/
def decOk (r : List Byte) : Bool :=
  decide (1 ≤ decLength r) && decide (1 ≤ decFrames r) && decide (decFrames r ≤ 2 ^ 16) && decide (decOfmt r ≤ 2) &&
  decPlanes r != 0 && decide (decPlanes r < 8) && recField r 22 2 == 0 && decX r % 64 == 0 && decY r % 64 == 0 &&
  decW r % 2 == 0 && decide (2 ≤ decW r) && decH r % 2 == 0 && decide (2 ≤ decH r) &&
  decide (decX r + decW r ≤ 8192) && decide (decY r + decH r ≤ 4352) &&
  ((List.range 3).all fun k => if decHas r k then decide (decState r k < 32) else decState r k == 0) &&
  ((r.drop 35).take 5).all (· == 0#8) && decMask r % 8 == 0 && ((r.drop 100).take 28).all (· == 0#8)

/-- A plane's tensor state is as the record needs it: for XB8 a block lies along x, so coordinate 0 holds its four bits. -/
def State.decStateOk (s : State) (tm : Team) (r : List Byte) (k : Nat) (t : TState) : Bool :=
  let h := if k = 0 then 1 else 2
  (s.useFault tm t).isNone && t.nc == 3 && (t.dims.map (·.2)) == [decW r / h, decH r / h, decFrames r] && t.fmt == decFmt r && t.xbOk &&
    (!t.xb || decide (4 ≤ ((t.dims[0]?).map (·.1)).getD 0))

/-- The address names a scratchpad offset of the team; any other is in `G`. -/
def decAwRef (tm : Team) (r : List Byte) : AwRef := { scr := decide (decAw r < tm.scratch), addr := decAw r }

/-- The word's FLAGS.LOSSY reads 1 at issue. -/
def State.decLossy (s : State) (t : Thread) (w : AwRef) : State × Bool :=
  if w.scr then (s, s.awLossy (.scr t.team w.addr))
  else
    let r := s.issueXlat t w.addr
    match r.2 with
    | .ok x => (r.1, x.apt == 0 && r.1.awLossy (.mem x.pa))
    | .error _ => (r.1, false)

/-- Records queued or running on an engine (one point DEDUCED, log entry 21). -/
def State.decQueue (s : State) (engine : Nat) : List Cmd :=
  s.cmds.filter fun c => c.state != .finished && (match c.kind with | .decode _ _ _ e => e == engine | _ => false)

/-- DECODE (18/R412). -/
def execDecode (p : Pre) (sc : Option Scope) (a : Nat) (s : State) : Out :=
  let A := srcP 1 a noPerm
  .next (s.foldLanes p fun s t =>
    match s.gate t p .engine [] [A] with
    | some x => (s, x)
    | none =>
      let va := s.srcVal t p A
      let q := s.recordG p t va 16 128
      match q.2 with
      | .error x => (q.1, x)
      | .ok r =>
        let tm := s.teamOf t
        let states := (List.range 3).map fun k => if decHas r k then s.tsBytes t.team (decState r k) else []
        let planesOk := (List.range 3).all fun k => !decHas r k || s.decStateOk tm r k (tsOf (states.getD k []))
        let aw := decAwRef tm r
        let l := q.1.decLossy t aw
        if !decOk r || !planesOk || l.2 then (l.1, .trap 0x53 0 none)
        else
          let e0 := 2 * panelOf t.id.core
          let n0 := (s.decQueue e0).length
          let n1 := (s.decQueue (e0 + 1)).length
          if (32 ≤ n0 ∧ 32 ≤ n1) ∨ (l.1.engineFull t .dec 0 : Bool) then (l.1, l.1.accHold t)
          else
            let e := if n1 < n0 then e0 + 1 else e0
            let ranges := (List.range 3).flatMap fun k => if decHas r k then (tsOf (states.getD k [])).gRanges else []
            let c := l.1.newCmd t .dec (sc.getD .tm) (.decode r states va e) (some aw) .queued ranges [] true
            (c.1.checkCmd c.2 16 true false, .done [] 0#6))

/-- DECQ: the word of R244, without waiting; a record that the issuing panel's engines do not hold gives zero (18/R413). -/
def execDecq (p : Pre) (d a : Nat) (s : State) : Out :=
  let A := srcP 1 a noPerm
  .next (s.funcOp p .engine [dst d true] [A] fun t =>
    let va := s.srcVal t p A
    let e0 := 2 * panelOf t.id.core
    let hit := fun (e : Nat) => (s.decQueue e).find? fun c =>
      c.ctx == s.ctxOf t && (match c.kind with | .decode _ _ x _ => x == va | _ => false)
    let word := fun (e : Nat) (c : Cmd) =>
      let status := if c.state = .queued then 3 else c.status
      min c.frames 65535 * 2 ^ 48 + min c.errcnt 65535 * 2 ^ 32 + status * 2 ^ 16 + e * 2 ^ 8 + (32 - (s.decQueue e).length)
    let w := match hit e0, hit (e0 + 1) with
      | some c, _ => word e0 c
      | none, some c => word (e0 + 1) c
      | none, none => 0
    (wrPair d w .n64, 0#6))

/-! ## Output (10/R242, R243) -/

/-- v := fma(sample, SCALE, OFFSET) in F32 (one point DESIGN CHOICE, log entry 22). -/
def decValue (r : List Byte) (k sample : Nat) : FVal :=
  fdecode f32 (ffmaVal f32 .rne 0 (.num false sample 0) (fdecode f32 (decScale r k)) (fdecode f32 (decOffset r k))).1

/-- A plane's part of a unit, zeros where the unit is damaged: the units of its tensor with their values, and the elements of each that
are not holes. The side of a unit is 64 samples, or 32 for chroma. -/
def decUnits (r : List Byte) (t : TState) (k : Nat) (u : DecodedUnit) (damaged : Bool) : List (UnitVal × Nat) :=
  let side := if k = 0 then 64 else 32
  let w := if k = 0 then decW r else decW r / 2
  let h := if k = 0 then decH r else decH r / 2
  let samples := u.planes.getD k []
  let b0 := ((t.dims[0]?).map (·.1)).getD 0
  let b1 := ((t.dims[1]?).map (·.1)).getD 0
  let val := fun (x y : Nat) => decValue r k (samples.getD (side * y + x) 0)
  let index := fun (x y : Nat) => u.col * side + x + 2 ^ b0 * (u.row * side + y) + 2 ^ (b0 + b1) * (u.frame - decFirst r)
  let inside := fun (x y : Nat) => decide (u.col * side + x < w) && decide (u.row * side + y < h)
  let f := decFmt r
  (List.range side).flatMap fun y =>
    if f = .xb8 then
      (List.range (side / 16)).filterMap fun b =>
        let live := (List.range 16).filter fun i => inside (16 * b + i) y
        if live.isEmpty then none
        else
          let xs := (List.range 16).map fun i => if inside (16 * b + i) y then val (16 * b + i) y else .num false 0 0
          let blk := xbBlock .xb8 .rne 0 xs
          some (if damaged then ({ n := index (16 * b) y, v := 0, scale := 0 }, live.length)
                else ({ n := index (16 * b) y, v := packElems 8 blk.2.1, scale := blk.1 }, live.length))
    else
      (List.range side).filterMap fun x =>
        if !inside x y then none
        else
          let v := if f = .bf16 then (froundVal bf16 .rne 0 (val x y)).1 else (floatToInt .n8 .rne 0 (val x y)).1
          some ({ n := index x y, v := if damaged then 0 else v, scale := 0 }, 1)

/-- Units of one plane written. -/
def State.decWrite (s : State) (c : Cmd) (t : TState) : List (UnitVal × Nat) → State × EngRes
  | [] => (s, .ok [])
  | u :: l =>
    let r := s.unitWrite c t (t.place u.1.n) u.1.v u.1.scale
    match r.2 with
    | .ok _ => State.decWrite r.1 c t l
    | x => (r.1, x)

/-- The planes of a unit written one after the other. -/
def State.decPlanesGo (s : State) (c : Cmd) (r : List Byte) (states : List (List Byte)) (u : DecodedUnit) (damaged : Bool) :
    List Nat → State × EngRes
  | [] => (s, .ok [])
  | k :: l =>
    if !decHas r k then State.decPlanesGo s c r states u damaged l
    else
      let t := tsOf (states.getD k [])
      let x := s.decWrite c t (decUnits r t k u damaged)
      match x.2 with
      | .ok _ => State.decPlanesGo x.1 c r states u damaged l
      | e => (x.1, e)
/-- What the written planes of a unit are owed to the command's word (10/R242). -/
def State.decOwe (s : State) (c : Cmd) (r : List Byte) (states : List (List Byte)) (u : DecodedUnit) : State :=
  ((List.range 3).filter (decHas r)).foldl (fun s k =>
    let t := tsOf (states.getD k [])
    (decUnits r t k u true).foldl (fun s x => s.oweUnit c t (t.place x.1.n) x.2) s) s

/-- Units across and down the crop. -/
def decCols (r : List Byte) : Nat := (decW r + 63) / 64
def decRows (r : List Byte) : Nat := (decH r + 63) / 64

/-- The mask bit of an undamaged unit set (10/R242). -/
def State.decSetMask (s : State) (c : Cmd) (r : List Byte) (bit : Nat) : State × EngRes :=
  let a := decMask r + bit / 8
  let q := s.engReadN c a 1
  match q.2 with
  | .ok b => q.1.engWriteN c a [BitVec.ofNat 8 (recField b 0 1 ||| 2 ^ (bit % 8))]
  | x => (q.1, x)

/-- Writes made one after the other until one does not succeed. -/
def State.engWrites (s : State) (c : Cmd) : List (Nat × List Byte) → State × EngRes
  | [] => (s, .ok [])
  | w :: l =>
    let r := s.engWriteN c w.1 w.2
    match r.2 with
    | .ok _ => State.engWrites r.1 c l
    | x => (r.1, x)

/-- A command stopped or paused by what an access gave. -/
def State.engStop (s : State) (c : Cmd) (e : EngRes) : State :=
  match e with
  | .fault k va => s.cmdFault c k va 1
  | .error k => s.cmdError c.id k 0
  | _ => s

/-- The number of a unit in the batch. -/
def decIndex (r : List Byte) (frame row col : Nat) : Nat :=
  (frame - decFirst r) * (decCols r * decRows r) + row * decCols r + col

/-- What the command remembers of a unit it has output: its tile, and whether it was damaged, an error had been found in its tile, and
its frame's header was in error. -/
def decMemo (n tile : Nat) (damaged error header : Bool) : UnitVal :=
  { n := n, v := (if damaged then 1 else 0) + (if error then 2 else 0) + (if header then 4 else 0), scale := tile }

/-- An error has been found in the unit's frame header; the frame's first unit says so for all of them (10/R243). -/
def decHeaderBad (c : Cmd) (r : List Byte) (u : DecodedUnit) (n : Nat) : Bool :=
  let per := decCols r * decRows r
  match c.snap.find? fun x => x.n / per == n / per with
  | some x => bitsAt x.v 2 1 == 1
  | none => u.header
/-- An error has been found in the unit's tile, at it or earlier in the tile's decode order (10/R243). -/
def decTileBad (c : Cmd) (r : List Byte) (u : DecodedUnit) (n : Nat) : Bool :=
  let per := decCols r * decRows r
  u.error || c.snap.any fun x => x.n / per == n / per && x.scale == u.tile && bitsAt x.v 1 1 == 1
/-- The stream is outside R240; the batch's first unit says so for all of them (10/R243). -/
def decOutside (c : Cmd) (u : DecodedUnit) : Bool := if c.prog = 0 then u.outside else c.status == 2
/-- In a replay a unit is damaged where the capturing run found it so: the next record is its decoder error, which it uses
(03/R74). -/
def State.decReplayed (s : State) (c : Cmd) (addr : Nat) : Option CapRec :=
  s.capHead.filter fun r => r.kind == 3 && r.unit == c.core && r.detail == c.errcnt + 1 && r.value == addr
/-- A unit of the batch is damaged (10/R243): the stream lies outside R240, its frame's header or its tile is in error, or a block in it
is predicted from a damaged unit. -/
def decDamaged (c : Cmd) (r : List Byte) (u : DecodedUnit) (n : Nat) : Bool :=
  decOutside c u || decHeaderBad c r u n || decTileBad c r u n || u.lost ||
  u.refs.any fun f => c.snap.any fun x => x.n == decIndex r f.1 f.2.1 f.2.2 && bitsAt x.v 0 1 == 1

/-- A unit of the running batch of an engine that has not been output: the command and the unit's number in the batch. -/
def State.decNext (s : State) (engine : Nat) (u : DecodedUnit) : Option (Cmd × List Byte × List (List Byte) × Nat × Nat) :=
  match (s.decQueue engine).head? with
  | none => none
  | some c =>
    match c.kind with
    | .decode r states addr _ =>
      let n := decIndex r u.frame u.row u.col
      let bad := u.frame < decFirst r ∨ decFirst r + decFrames r ≤ u.frame ∨ decRows r ≤ u.row ∨ decCols r ≤ u.col
      if !c.going || decide bad || (c.snap.any fun x => x.n == n) then none else some (c, r, states, addr, n)
    | _ => none

/-- The stream's bytes are read before the first unit is output. -/
def State.decRead (s : State) (c : Cmd) (r : List Byte) : State × EngRes :=
  if c.prog = 0 then s.engReadRun c (decBits r) (decLength r) else (s, .ok [])

/-- DECODE_UNIT_OUTPUT: one unit written through the planes' tensor states, its mask bit set or left clear, the record's
counts written and its bytes credited; the last unit writes STATUS (10/R242, R243) (one point DEDUCED, log entry 21). -/
def execDecodeUnitOutput (engine : Nat) (u : DecodedUnit) (s : State) : Out :=
  match s.decNext engine u with
  | none => .next s
  | some (c, r, states, addr, n) =>
    let per := decCols r * decRows r
    let replay : Bool := s.replays (s.team c.team).grid
    let hit := if replay then s.decReplayed c addr else none
    let damaged : Bool := if replay then hit.isSome else decDamaged c r u n
    let b := s.decRead c r
    match b.2 with
    | .ok _ =>
      let w := b.1.decPlanesGo c r states u damaged [0, 1, 2]
      match w.2 with
      | .ok _ =>
        let m := if damaged then (w.1, EngRes.ok []) else w.1.decSetMask c r n
        match m.2 with
        | .ok _ =>
          let seen := c.snap ++ [decMemo n u.tile damaged (decTileBad c r u n) (decHeaderBad c r u n)]
          let frameDone : Bool := (seen.filter fun x => x.n / per == n / per).length == per
          let frames := c.frames + (if frameDone then 1 else 0)
          let errcnt := c.errcnt + (if damaged then 1 else 0)
          let last : Bool := seen.length == per * decFrames r
          let status := if decOutside c u then 2 else if last then 1 else c.status
          let side := (u.side ++ zeros 128).take 128
          let writes :=
            (if frameDone then [(decSide r + 128 * (n / per), side)] else []) ++
            [(addr + 88, leBytes 4 errcnt), (addr + 92, leBytes 4 frames)] ++ (if last then [(addr + 96, leBytes 4 status)] else [])
          let q := m.1.engWrites c writes
          match q.2 with
          | .ok _ =>
            let s1 := (q.1.editCmd c.id fun x =>
              { x with state := if last then .acking else .running, snap := seen, buf := [], prog := x.prog + 1, frames := frames
                       errcnt := errcnt, status := status }).decOwe c r states u
            let s2 := (s1.charge c.ctx (s1.jobOf c) 3 1).pauseSpent c.ctx (s1.jobOf c) 3
            let s3 := (hit.elim s2 s2.capUse)
            let s3 := if damaged then s3.capRecord (s3.team c.team).grid 3 c.core errcnt addr [] else s3
            (match s3.cmd? c.id with
             | some x => .next (if s3.cmdOpen c.id || s3.creditDue c.id then s3 else s3.creditWord x)
             | none => .next s3)
          | e => .next (q.1.engStop c e)
        | e => .next (m.1.engStop c e)
      | e => .next (w.1.engStop c e)
    | e => .next (b.1.engStop c e)

/-! ## Budgets (03/R67, R68) -/

/-- The budget table as it stands in memory: slot by slot, four budgets each. -/
def State.readBudgets (s : State) : List (Nat × List Nat) :=
  let base := fld s.sys.budcfg 13 39 * 8192
  (s.slots.map (·.slot)).eraseDups.map fun k => (k, (List.range 4).map fun i => s.physNat (base + 32 * k + 8 * i) 8)

/-- The runtime's map of jobs to budget slots as a period begins: each live job keeps its slot, or takes one, or none, as the runtime
chooses (03/R68) (DESIGN CHOICE, log entry 40). -/
def State.mapSlots (s : State) : List JobSlot :=
  let jobs := ((s.grids.filter fun g => g.status.isNone).map fun g => (g.ctx, g.job)).eraseDups
  let new := jobs.mapIdx fun i j => (i, j)
  new.filterMap fun x =>
    match s.slots.find? fun y => y.ctx == x.2.1 && y.job == x.2.2 with
    | some y => some y
    | none => if s.freeBit (4000 + x.1) then some { ctx := x.2.1, job := x.2.2, slot := (s.freeWord (5000 + x.1)).toNat % 256 } else none

/-- BUDGET_PERIOD: a period ends: charges start from zero, the runtime's map and the table's values take effect, and paused commands go
on. -/
def execBudgetPeriod (s : State) : Out :=
  let s1 : State := { s with slots := s.mapSlots }
  .next
    { s1 with charges := [], budgets := s1.readBudgets, periodStart := s.time.ns
              cmds := s.cmds.map fun c => { c with paused := false } }

end Sys2Proof.Machine
end

