-- ==== Sys2Proof/Machine/Launch.lean ====
section
/-! DEFINITION. Launch requests (03/R58 to R63, 19/R427): the launch record and its limits, the partition word and
footprint (04/R75 to R79), private regions (05/R114), the checks in their order, and LAUNCH. -/

namespace Sys2Proof.Machine

/-! ## Free ranges -/

/-- A number rounded up to a multiple. -/
def roundUp (x a : Nat) : Nat := (x + a - 1) / a * a
/-- The least of a list. -/
def leastNat : List Nat → Option Nat
  | [] => none
  | x :: l => match leastNat l with | none => some x | some y => some (min x y)

/-- The lowest aligned start in [lo, hi) of a range of n that meets no range in use (one point DESIGN CHOICE, log entry 36). -/
def firstFit (lo hi align n : Nat) (used : List (Nat × Nat)) : Option Nat :=
  let starts := lo :: used.map fun u => roundUp (u.1 + u.2) align
  leastNat (starts.filter fun c => decide (lo ≤ c) && decide (c + n ≤ hi) && !(used.any fun u => overlap c n u.1 u.2))

/-! ## The partition word and footprints (04/R75 to R78) -/

/-- Granules of slow file, of scratchpad and of accumulator storage. -/
def regG (w : DWord) : Nat := fld w 0 8
def scrG (w : DWord) : Nat := fld w 8 8
def accG (w : DWord) : Nat := fld w 16 8
/-- The limits of a partition word. -/
def partwordOk (w : DWord) : Bool :=
  fld w 24 40 == 0 && decide (accG w ≤ 64) && decide (1 ≤ scrG w) && decide (scrG w ≤ 64) && decide (1 ≤ regG w) &&
  decide (regG w ≤ 64) && regG w + scrG w + accG w == 64

/-- A footprint: slow-file KiB, scratchpad granules, group slots. -/
structure Footprint where
  kib : Nat
  gran : Nat
  slots : Nat
  deriving DecidableEq, Repr

/-- KiB of one group. -/
def kibOf (nr : Nat) : Nat := (nr + 7) / 8
/-- The footprint of groups with these roles and a scratchpad. -/
def footprint (roles : List Role) (scratch : Nat) : Footprint :=
  { kib := (roles.map fun r => kibOf r.nr).sum, gran := scratch / 16384, slots := roles.length }
/-- A footprint that an empty core of a partition word holds. -/
def Footprint.fits (f : Footprint) (w : DWord) : Bool :=
  decide (f.kib ≤ 16 * regG w) && decide (f.gran ≤ scrG w) && decide (f.slots ≤ Config.slots)

/-! ## The launch record (03/R61) -/

/-- A role entry: kind, groups, NR and the zero byte. -/
def recRole (r : List Byte) (i k : Nat) : Nat := recField r (16 + 4 * i + k) 1
/-- The entries in use. -/
def recUsed (r : List Byte) : List Nat := (List.range 4).takeWhile fun i => recRole r i 0 != 0
/-- Each group's role, in team-group order. -/
def recRoles (r : List Byte) : List Role :=
  if (recUsed r).isEmpty then List.replicate (recField r 12 1) { kind := 4, nr := 255 }
  else (recUsed r).flatMap fun i => List.replicate (recRole r i 1) { kind := recRole r i 0, nr := recRole r i 2 }
/-- The limits of the role table. -/
def recRolesOk (r : List Byte) : Bool :=
  let used := recUsed r
  used.all (fun i => decide (recRole r i 0 ≤ 4) && decide (1 ≤ recRole r i 2) && recRole r i 3 == 0) &&
  ((List.range 4).drop used.length).all (fun i => recField r (16 + 4 * i) 4 == 0) &&
  (used.isEmpty || (used.map fun i => recRole r i 1).sum == recField r 12 1) &&
  (recField r 49 1 != 3 || (recField r 12 1 % 2 == 0 && used.all fun i => recRole r i 1 % 2 == 0))

/-- PRIVATE is allowed: a private window stands, and the region does not exceed it (03/R61, 05/R114). -/
def State.privateOk (s : State) (ctx words bytes : Nat) : Bool :=
  let w := (s.ctx ctx).privwin
  decide (words ≤ 2 ^ 20) && (words == 0 || (fld w 0 1 == 1 && fld w 55 9 != 0 && decide (bytes ≤ fld w 55 9 * 2 ^ 30)))

/-- The cluster mask of a partition; zero when the table or the entry is not valid (03/R63). -/
def State.partMask (s : State) (part : Nat) : Nat :=
  if fld s.sys.parttab 0 1 = 0 then 0 else s.physNat (fld s.sys.parttab 6 46 * 64 + 32 * part) 32

/-- Bytes of the private region of a grid. -/
def recPrivate (r : List Byte) : Nat := recField r 8 4 * recField r 12 1 * recField r 44 4 * 128

/-- Every limit of R61, R75, R79 and R114, and R74's on a replay. -/
def State.recordOk (s : State) (ctx : Nat) (r : List Byte) : Bool :=
  let f := recField
  f r 0 8 % 32 == 0 && decide (f r 0 8 < 2 ^ 55) && decide (1 ≤ f r 8 4) && decide (f r 8 4 ≤ 2 ^ 24) && decide (1 ≤ f r 12 1) &&
  decide (f r 12 1 ≤ 64) && f r 13 3 == 0 && recRolesOk r && partwordOk (BitVec.ofNat 64 (f r 32 8)) &&
  f r 40 4 % 16384 == 0 && decide (16384 ≤ f r 40 4) && s.privateOk ctx (f r 44 4) (recPrivate r) && decide (f r 48 1 ≤ 127) &&
  decide (f r 49 1 ≤ 3) && decide (f r 50 1 < 16) && decide (f r 51 1 ≤ 12) && decide (1 ≤ f r 56 4) && decide (f r 60 1 ≤ 63) &&
  s.partMask (f r 60 1) != 0 && f r 61 3 == 0 && f r 72 8 % 8 == 0 &&
  ((List.range 12).drop (f r 51 1)).all (fun i => f r (80 + 4 * i) 4 == 0) &&
  !(bitsAt (f r 50 1) 2 1 == 1 && fld s.sys.capcfg 1 1 == 1 && fld s.sys.capcfg 2 1 == 1)

/-- A grid with teams still to be placed (03/R59 BUSY). -/
def State.isPending (s : State) (g : Grid) : Bool :=
  g.status.isNone && (decide (g.nextTeam < g.teams) || s.teams.any fun t => t.grid == g.id && t.state == .pending)

/-- The acceptance status of a record that could be read, or could not (03/R59), below the checks of the source
(one point DEDUCED, log entry 37). -/
def State.launchStatus (s : State) (ctx : Nat) (data : Option (List Byte)) : Nat :=
  match data with
  | none => 6
  | some r =>
    if !s.recordOk ctx r then 7
    else if !(recField r 52 4 &&& fld s.sys.features 0 32 == recField r 52 4) then 8
    else if !(footprint (recRoles r) (recField r 40 4)).fits (BitVec.ofNat 64 (recField r 32 8)) then 9
    else if s.stops.any fun x => x.ctx == ctx && x.jobs.contains (recField r 56 4) then 10
    else if Config.pendingGrids ≤ (s.grids.filter s.isPending).length then 11
    else 0

/-! ## Private regions (05/R114) -/

/-- A private region taken at the lowest free range of the context's window. -/
def State.takePriv (s : State) (ctx grid : Nat) (team : Option Nat) (size : Nat) : State × Option Nat :=
  let w := (s.ctx ctx).privwin
  let lo := fld w 30 25 * 2 ^ 30
  let used := (s.privs.filter fun p => p.ctx == ctx).map fun p => (p.base, p.size)
  match (if fld w 0 1 = 0 then none else firstFit lo (lo + fld w 55 9 * 2 ^ 30) 65536 size used) with
  | none => (s, none)
  | some b => ({ s with privs := s.privs ++ [{ ctx := ctx, grid := grid, team := team, base := b, size := size }] }, some b)

/-- A grid that needs a private region and has none takes one if it can. -/
def State.privGrid (s : State) (gid : Nat) : State :=
  let g := s.grid gid
  let size := g.teams * g.roles.length * g.privWords * 128
  if size = 0 ∨ g.priv.isSome then s
  else
    let r := s.takePriv g.ctx gid none size
    match r.2 with
    | none => s
    | some b => r.1.editGrid gid fun x => { x with priv := some (b, size) }

/-! ## Acceptance -/

/-- The grid of an accepted record (03/R61). -/
def gridOfRecord (id ctx va cookie clusters : Nat) (req : Option (Nat × Nat × Nat)) (r : List Byte) : Grid :=
  let flag := fun k => bitsAt (recField r 50 1) k 1 == 1
  { id := id, ctx := ctx, record := va, cookie := cookie, requester := req, entry := recField r 0 8, teams := recField r 8 4
    roles := recRoles r, partword := BitVec.ofNat 64 (recField r 32 8), scratch := recField r 40 4, privWords := recField r 44 4
    prio := recField r 48 1, width := recField r 49 1, idem := flag 0, capture := flag 1, determ := flag 2, notify := flag 3
    featmask := recField r 52 4, job := recField r 56 4, part := recField r 60 1, clusters := clusters
    args := BitVec.ofNat 64 (recField r 64 8), done := recField r 72 8
    edges := (List.range (recField r 51 1)).map fun i => recField r (80 + 4 * i) 4
    priv := none, nextTeam := 0, spawned := 0, status := none, finished := false }

/-- The request accepted: the grid is pending, and takes its private region if one is free. -/
def State.accept (s : State) (ctx va cookie : Nat) (req : Option (Nat × Nat × Nat)) (r : List Byte) : State :=
  let g := gridOfRecord s.fresh ctx va cookie (s.partMask (recField r 60 1)) req r
  ({ s with fresh := s.fresh + 1, grids := s.grids ++ [g] }).privGrid g.id

/-! ## Reading the record (03/R61, R62) -/

/-- What reading a record gives. -/
inductive RecordRes where
  | bytes (l : List Byte)
  | wait
  | fault
  deriving DecidableEq, Repr

/-- Words of the window read as a record. -/
def State.winRecord (s : State) (ctx off : Nat) : Nat → Option (List Byte)
  | 0 => some []
  | n + 1 =>
    match s.winLoad (some ctx) off 8, State.winRecord s ctx (off + 8) n with
    | some a, some b => some (a ++ b)
    | _, _ => none

/-- The 128 bytes of a record read once at their home for a request; those of another node come in a packet
(one point DEDUCED, log entry 44). -/
def State.readRecord (s : State) (pkt : Option (Nat × Packet)) (tid : Option Tid) (ctx va : Nat) : State × RecordRes :=
  let mine : RecordRead → Bool := fun x => x.pkt == pkt && x.tid == tid
  match s.records.find? mine with
  | some x =>
    match x.data with
    | none => (s, .wait)
    | some none => ({ s with records := dropBy mine s.records }, .fault)
    | some (some l) => ({ s with records := dropBy mine s.records }, .bytes l)
  | none =>
    if va % 128 ≠ 0 ∨ 2 ^ 55 ≤ va then (s, .fault)
    else
      let w := s.walk ctx va
      match w.2 with
      | .fault _ => (w.1, .fault)
      | .leaf level e =>
        let x := leafXlat level e va
        if x.apt = 0 then
          let h := w.1.homeRead x.pa 128
          (h.1, match h.2 with | none => .fault | some l => .bytes l)
        else if x.apt ≤ 3 then
          let id := w.1.fresh
          let q := ({ w.1 with fresh := id + 1 }).request (readPkt x.node x.pa ctx 4 x.hot) (.record id)
          if q.2.1 then ({ q.1 with records := q.1.records ++ [{ id := id, pkt := pkt, tid := tid, data := none }] }, .wait)
          else (q.1, .fault)
        else if x.apt = 4 then
          (w.1, match w.1.winRecord ctx (va % 2 ^ 32) 16 with | none => .fault | some l => .bytes l)
        else (w.1, .bytes ((List.range 16).flatMap fun i => leBytes 8 (w.1.freeWord i).toNat))

/-- A release at SY of the thread has been issued and is not yet performed: it is logged, its answer is awaited, or its write is
unanswered. So is a fence that the thread has issued, for which `LAUNCH` counts as a write (19/R427, 17/R376). -/
def State.releaseOpen (s : State) (t : Thread) : Bool :=
  let rel : Acc → Bool := fun a => a.ord == .rel && a.sc == .sy
  (s.log.any fun e => e.lanes.any fun l => l.tid == t.id && rel l.acc) ||
  (s.ops.any fun o => o.tid == t.id && o.src != .done && (o.src == .fence || o.acc.any rel)) ||
  s.fabric.reqs.any fun r => r.rel == some t.id

/-- LAUNCH: one request per executing lane into its own context; D takes the status (19/R427). -/
def execLaunch (p : Pre) (d a : Nat) (s : State) : Out :=
  let A := srcP 1 a noPerm
  .next (s.foldLanes p fun s t =>
    match s.gate t p .any [dst d false] [A] with
    | some x => (s, x)
    | none =>
      let va := s.srcVal t p A
      let ctx := s.ctxOf t
      if s.releaseOpen t then (s, .hold) else
      let r := s.readRecord none (some t.id) ctx va
      match r.2 with
      | .wait => (r.1, .hold)
      | x =>
        let data := match x with | .bytes l => some l | _ => none
        let st := r.1.launchStatus ctx data
        let s1 := if st = 0 then (r.1.setSfx [t.team]).accept ctx va 0 none (data.getD []) else r.1
        (s1.newOp t p (wr d st .n32) 0#6 .done none, .done [] 0#6))

end Sys2Proof.Machine
end

