-- ==== Sys2Proof/Machine/Place.lean ====
section
/-! DEFINITION. Teams on cores: the starting state of threads (04/R86), placement (03/R63, 04/R76 to R78), save areas and
their contents (12/R280, R281), spawning and bobbins (04/R81 to R85, 15/R341), and the end of a thread (15/R342). -/

namespace Sys2Proof.Machine

/-! ## Starting state (04/R86) -/

/-- The registers of a thread that begins: the argument in `v0:v1`, as far as NR reaches. -/
def startRegs (nr : Nat) (arg : DWord) : List RegCell :=
  let r0 := regSet [] 0 (loWord arg) .n64
  if nr ≤ 1 then r0 else regSet r0 1 (hiWord arg) .n64

/-- A thread at the team's entry, or exited from the start (04/R84, 12/R278). -/
def startThread (tm : Team) (width cyc : Nat) (gi slot lane : Nat) : Thread :=
  let idx := 32 * gi + lane
  let there : Bool := (width != 16 || decide (lane < 16)) && (tm.spawner.isNone || decide (idx < tm.args.length))
  let arg := if tm.spawner.isNone then tm.arg else tm.args.getD idx 0#64
  let nr := ((tm.groups[gi]?).map fun g => g.role.nr).getD 255
  let t := { Thread.blank { core := tm.core, slot := slot, lane := lane } with team := tm.id, pc := tm.entry }
  if there then { t with run := .ready, regs := startRegs nr arg, lastIssue := cyc, readySince := cyc } else t

/-- Every thread of a placed team. -/
def startThreads (tm : Team) (width cyc : Nat) : List Thread :=
  (tm.slots.mapIdx fun gi slot => (List.range 32).map fun lane => startThread tm width cyc gi slot lane).flatten

/-- A team's own state as it starts. -/
def Team.start (tm : Team) : Team :=
  { tm with
    groups := tm.groups.map fun g => Group.fresh g.role
    scr := [], mregs := List.replicate 16 MReg.reset, tacks := List.replicate 16 Tack.reset, tol := 0#32, sfx := false
    blockedSince := none, woken := none, clocks := 0 }

/-- A team of a launched grid. -/
def gridTeam (g : Grid) (id num : Nat) : Team :=
  let base := match g.priv with | some p => p.1 + num * g.roles.length * g.privWords * 128 | none => 0
  ({ Team.blank id with
     grid := g.id, num := num, state := .pending, groups := g.roles.map Group.fresh, entry := g.entry, arg := g.args
     scratch := g.scratch, privWords := g.privWords, privBase := base, prio := g.prio, idem := g.idem
     partword := g.partword, featmask := g.featmask } : Team).start

/-! ## Room on a core (04/R76 to R78, R101) -/

/-- A team's roles and footprint. -/
def Team.foot (tm : Team) : Footprint := footprint (tm.groups.map fun g => g.role) tm.scratch
/-- The teams placed on a core. -/
def State.placedOn (s : State) (core : Nat) : List Team := s.teams.filter fun t => t.core == core && t.placed
/-- Free slow-file KiB of a core that holds teams; an evicted team holds none. -/
def State.kibFree (s : State) (core : Nat) (w : DWord) : Nat :=
  16 * regG w - (((s.placedOn core).filter fun t => t.state == .resident).map fun t => t.foot.kib).sum
/-- Group slots that no placed team holds, ascending. -/
def State.freeSlots (s : State) (core : Nat) : List Nat :=
  (List.range Config.slots).filter fun k => !((s.placedOn core).any fun t => t.slots.contains k)
/-- Scratchpad granules in use. -/
def State.granUsed (s : State) (core : Nat) : List (Nat × Nat) := (s.placedOn core).map fun t => (t.gran, t.foot.gran)

/-- The slots and the first granule that a team would take on a core, if it has room there (04/R76, R78, R101). -/
def State.roomOn (s : State) (core : Nat) (tm : Team) : Option (List Nat × Nat) :=
  let f := tm.foot
  let placed := s.placedOn core
  if placed.isEmpty then (if f.fits tm.partword then some (List.range f.slots, 0) else none)
  else
    let c := s.core core
    let free := s.freeSlots core
    let used := s.granUsed core
    let granFree := scrG tm.partword - (used.map (·.2)).sum
    let ok : Bool := c.partword == some tm.partword && !(placed.any fun t => t.state == .evicted && t.woken.isSome) &&
      decide (f.kib + max c.reserve.1 f.kib ≤ s.kibFree core tm.partword) &&
      decide (f.gran + max c.reserve.2.1 f.gran ≤ granFree) && decide (f.slots + max c.reserve.2.2 f.slots ≤ free.length)
    if ok then (firstFit 0 (scrG tm.partword) 1 f.gran used).map fun g => (free.take f.slots, g) else none

/-! ## Save areas (12/R281) -/

/-- Bytes of a team's save area. -/
def saveSize (tm : Team) : Nat := 4096 + tm.scratch + 16 * 16384 + 16 * 8192 + tm.groups.length * 40960

/-- A save area of a panel's part of the pool: none when no range is free; no area while the pool is not valid. -/
def State.takeSave (s : State) (panel : Nat) (tm : Team) : Option (Option (Nat × Nat)) :=
  if fld s.sys.savepool 0 1 = 0 then some none
  else
    let part := fld s.sys.savepool 52 12 * 2 ^ 30 / 8
    let lo := fld s.sys.savepool 30 22 * 2 ^ 30 + panel * part
    let n := roundUp (saveSize tm) 65536
    (firstFit lo (lo + part) 65536 n (s.teams.filterMap fun t => t.save)).map fun b => some (b, n)

/-- The disable map, as a core reads it when a team is placed (12/R276). -/
def State.disableMap (s : State) : Nat :=
  if fld s.sys.opdis 0 1 = 0 then 0 else s.physNat (fld s.sys.opdis 7 45 * 128) 128

/-- Groups of a team wait in the slow file. -/
def Core.addSlow (c : Core) (slots : List Nat) (cyc : Nat) : Core := { c with slow := c.slow ++ slots.map fun k => (k, cyc, 0) }
/-- Groups leave a core's file. -/
def Core.dropSlots (c : Core) (slots : List Nat) : Core :=
  { c with active := c.active.filter fun x => !slots.contains x.1
           slow := c.slow.filter fun x => !slots.contains x.1
           moves := c.moves.filter fun x => !slots.contains x.slot }

/-- The constant caches hold nothing of a context for a core and its cluster (05/R124). -/
def State.dropConst (s : State) (core ctx : Nat) : State :=
  { s with const := dropBy (fun c => c.ctx == ctx && c.unit == (if c.cluster then clusterOf core else core)) s.const }

/-- A pending team placed: the core's PARTWORD and reserve follow, and its threads begin (04/R76 to R78, R86). -/
def State.place (s : State) (tm : Team) (core : Nat) (slots : List Nat) (gran : Nat) (save : Option (Nat × Nat)) : State :=
  let g := s.grid tm.grid
  let f := tm.foot
  let tm1 : Team := { tm with state := .resident, core := core, slots := slots, gran := gran, save := save, disabled := s.disableMap }
  let empty := (s.placedOn core).isEmpty
  let s1 : State :=
    { s with teams := putBy (fun t => t.id == tm.id) tm1 s.teams
             threads := s.threads ++ startThreads tm1 (widthOf g.width) s.time.cyc }
  let s2 := s1.editCore core fun c =>
    let r := if empty then (0, 0, 0) else c.reserve
    { c.addSlow slots s.time.cyc with
      partword := some tm.partword, reserve := (max r.1 f.kib, max r.2.1 f.gran, max r.2.2 f.slots) }
  ((s2.acquireL1 core g.ctx .sy).dropConst core g.ctx).editPanel (panelOf core) fun p => { p with lastPlaced := some core }

/-! ## TEAM_PLACEMENT (03/R63) -/

/-- A team that a panel may place next: its priority, its grid's acceptance order, and the team. -/
structure Cand where
  prio : Nat
  order : Nat
  team : Team
  deriving DecidableEq, Repr

/-- A partition mask includes a core. -/
def inPart (mask core : Nat) : Bool := bitsAt mask (clusterOf core) 1 == 1

/-- The pending teams of a grid that were placed before and return, by number. -/
def State.returning (s : State) (gid : Nat) : Option Team :=
  (s.teams.filter fun t => t.grid == gid && t.state == .pending && t.spawner.isNone).foldl
    (fun b t => match b with | none => some t | some x => if t.num < x.num then some t else some x) none

/-- The next team of a grid's launch, if it may be placed. -/
def State.nextOfGrid (s : State) (g : Grid) : Option Team :=
  if g.status.isSome ∨ (g.privWords ≠ 0 ∧ g.priv.isNone) then none
  else
    match s.returning g.id with
    | some t => some t
    | none => if g.nextTeam < g.teams then some (gridTeam g s.fresh g.nextTeam) else none

/-- A spawned team's private region stands. -/
def State.privReady (s : State) (t : Team) : Bool := t.privWords == 0 || s.privs.any fun p => p.team == some t.id

/-- The candidates of a panel. -/
def State.cands (s : State) (panel : Nat) : List Cand :=
  let here := fun (g : Grid) => (List.range 32).any fun i => bitsAt g.clusters (32 * panel + i) 1 == 1
  ((s.grids.filter here).filterMap fun g => (s.nextOfGrid g).map fun t => { prio := g.prio, order := g.id, team := t }) ++
  ((s.teams.filter fun t => t.state == .pending && s.privReady t && t.spawner.any fun c => c / 32 == panel).map fun t =>
    { prio := t.prio, order := t.grid, team := t })

/-- The candidate taken first: highest PRIO, then acceptance order. -/
def firstCand : List Cand → Option Cand
  | [] => none
  | c :: l =>
    match firstCand l with
    | none => some c
    | some b => if c.prio < b.prio ∨ (c.prio = b.prio ∧ b.order < c.order) then some b else some c

/-- The cores of a panel in the order they are tried. -/
def State.scanCores (s : State) (panel : Nat) (tm : Team) : List Nat :=
  let g := s.grid tm.grid
  let all := (List.range 128).map (128 * panel + ·)
  let from_ := match (if g.determ then none else (s.panel panel).lastPlaced) with
    | none => all
    | some k => let n := k % 128 + 1; all.drop n ++ all.take n
  let l := from_.filter (inPart g.clusters)
  match tm.spawner with
  | none => l
  | some c => (l.filter fun k => clusterOf k == c) ++ l

/-- Private regions taken by those that wait for one (05/R114). -/
def State.privRetry (s : State) : State :=
  let s1 := s.grids.foldl (fun s g => if g.status.isNone then s.privGrid g.id else s) s
  (s1.teams.filter fun t => t.state == .pending && t.spawner.isSome && !s1.privReady t).foldl (fun s t =>
    let r := s.takePriv (s.grid t.grid).ctx t.grid (some t.id) (t.groups.length * t.privWords * 128)
    match r.2 with
    | none => s
    | some b => r.1.editTeam t.id fun x => { x with privBase := b }) s1

/-- What a panel can place now: the team, and where. -/
def State.placeable (s : State) (panel : Nat) : Option (Team × Nat × List Nat × Nat × Option (Nat × Nat)) :=
  match firstCand (s.cands panel) with
  | none => none
  | some c =>
    match (s.scanCores panel c.team).findSome? fun k => (s.roomOn k c.team).map fun r => (k, r) with
    | none => none
    | some (k, slots, gran) => (s.takeSave panel c.team).map fun save => (c.team, k, slots, gran, save)

/-- TEAM_PLACEMENT: the panel's launch unit places the team whose turn it is, if a core has room. -/
def execTeamPlacement (panel : Nat) (s : State) : Out :=
  let s1 := s.privRetry
  match s1.placeable panel with
  | none => .next s1
  | some (tm, core, slots, gran, save) =>
    let new : Bool := !(s1.teams.any fun t => t.id == tm.id)
    let s2 : State := if new then { s1 with fresh := s1.fresh + 1 } else s1
    let s3 := if new then s2.editGrid tm.grid fun g => { g with nextTeam := g.nextTeam + 1 } else s2
    .next (s3.place tm core slots gran save)

/-! ## Spawning (04/R81 to R85, 15/R341) -/

/-- A bobbin's capacity (04/R84). -/
def bobbinCap (width : Nat) : Nat := if width = 1 then 16 else if width = 3 then 64 else 32

/-- A spawn profile's limits (04/R81, R82): the 32 bytes before the entry. -/
def State.profileOk (s : State) (ctx : Nat) (r : List Byte) : Bool :=
  let f := recField r
  let w : DWord := BitVec.ofNat 64 (f 16 8)
  decide (1 ≤ f 0 1) && decide (f 0 1 ≤ 255) && decide (f 1 1 ≤ 127) && decide (f 2 1 ≤ 1) && f 3 1 == 0 &&
  s.privateOk ctx (f 4 4) 0 && f 8 4 % 16384 == 0 && decide (16384 ≤ f 8 4) &&
  (f 12 4 &&& fld s.sys.features 0 32) == f 12 4 && partwordOk w && f 24 8 == 0 &&
  (footprint [{ kind := 4, nr := f 0 1 }] (f 8 4)).fits w

/-- A bobbin opened for a profile. -/
def State.newBobbin (s : State) (g : Grid) (index entry : Nat) (r : List Byte) : Bobbin :=
  let f := recField r
  let timer := fld (s.ctx g.ctx).spawncfg 0 32
  { index := index, ctx := g.ctx, entry := entry, grid := g.id, opened := s.time.cyc, timer := if timer = 0 then 1 else timer
    nr := f 0 1, prio := f 1 1, idem := f 2 1 == 1, privWords := f 4 4, scratch := f 8 4, featmask := f 12 4
    partword := BitVec.ofNat 64 (f 16 8), kids := [] }

/-- Instructions issued in a cluster by a context (04/R106); the count from which a determinism-mode bobbin's timer runs. -/
def State.clusterIssued (s : State) (cluster ctx : Nat) : Nat :=
  ((List.range 4).map fun i => (((s.core (4 * cluster + i)).issuedBy.find? fun x => x.1 == ctx).map (·.2)).getD 0).sum

/-- A bobbin forms its team: a pending team of its grid; the bobbin is free again (04/R84). -/
def State.formBobbin (s : State) (cluster : Nat) (b : Bobbin) : State :=
  let g := s.grid b.grid
  let id := s.fresh
  let n := (b.kids.length + 31) / 32
  let tm : Team :=
    ({ Team.blank id with
       grid := g.id, num := g.teams + g.spawned, state := .pending, spawner := some cluster
       groups := List.replicate n (Group.fresh { kind := 4, nr := b.nr }), entry := b.entry, args := b.kids, scratch := b.scratch
       privWords := b.privWords, prio := b.prio, idem := b.idem, partword := b.partword, featmask := b.featmask } : Team).start
  let s1 : State :=
    { s with fresh := id + 1, teams := s.teams ++ [tm]
             bobbins := dropBy (fun x => x.1 == cluster && x.2.index == b.index) s.bobbins }
  (s1.editGrid g.id fun x => { x with spawned := x.spawned + 1 }).privRetry

/-- The child of a lane put in a bobbin, which forms its team at its capacity. -/
def State.addChild (s : State) (cluster : Nat) (b : Bobbin) (arg : DWord) : State :=
  let b1 : Bobbin := { b with kids := b.kids ++ [arg] }
  let s1 : State := { s with bobbins := putBy (fun x => x.1 == cluster && x.2.index == b.index) (cluster, b1) s.bobbins }
  if bobbinCap (s.grid b.grid).width ≤ b1.kids.length then s1.formBobbin cluster b1 else s1

/-- The bobbin that a child of a grid joins, or the free one it opens (04/R83). -/
def State.bobbinFor (s : State) (cluster : Nat) (g : Grid) (entry : Nat) (r : List Byte) : Option Bobbin :=
  let mine := (s.bobbins.filter fun x => x.1 == cluster).map (·.2)
  match mine.find? fun b => b.ctx == g.ctx && b.entry == entry && b.grid == g.id with
  | some b => some b
  | none =>
    ((List.range Config.bobbins).find? fun i => !(mine.any fun b => b.index == i)).map fun i =>
      let b := s.newBobbin g i entry r
      if g.determ then { b with opened := s.clusterIssued cluster g.ctx } else b

/-- The child of one lane of SPAWN. A lane that finds no bobbin free stalls with its operands as it has read them, so that the other
lanes of its subgroup go on (04/R83). -/
def State.spawnLane (s : State) (t : Thread) (entry : Nat) (arg : DWord) : State × Lane :=
  let g := s.gridOf t
  if entry % 32 ≠ 0 ∨ entry < 32 ∨ 2 ^ 55 ≤ entry then (s, .trap 0x0B 0 none)
  else
    let r := s.issueRun t (entry - 32) 4
    match r.2 with
    | .hold => (r.1, .hold)
    | .fault _ _ => (r.1.dropReads t, .trap 0x0B 0 none)
    | .bytes l =>
      let s1 := r.1.dropReads t
      if !s1.profileOk g.ctx l then (s1, .trap 0x0B 0 none)
      else
        let cl := clusterOf t.id.core
        match s1.bobbinFor cl g entry l with
        | none => (s1.editThread t.id fun x => { x with run := .held, child := some (entry, arg) }, .asIs)
        | some bb =>
          -- the child happens after everything before the SPAWN, at `.DV`
          let q := s1.beginRelease t .dv
          match q.2 with
          | some x => (q.1, x)
          | none => (((q.1.setSfx [t.team]).editThread t.id fun x => { x with child := none }).addChild cl bb arg, .done [] 0#6)

/-- A lane that has stalled at its SPAWN tries again. -/
def State.spawnAgain (s : State) (p : Pre) (i : Tid) : State :=
  match (s.thread i).child with
  | none => s
  | some (entry, arg) =>
    let r := s.spawnLane (s.thread i) entry arg
    match r.2 with
    | .asIs => r.1
    | x => r.1.setThread ((r.1.thread i).after r.1 p true x)

/-- SPAWN: one child per executing lane, in lane order (15/R341). -/
def execSpawn (p : Pre) (a b : Nat) (s : State) : Out :=
  let A := srcP 1 a p.pa
  let B := srcP 2 b p.pb
  let stalled := s.issue.filter fun i => (s.thread i).child.isSome
  let s1 := (laneOrder stalled).foldl (fun s i => s.spawnAgain p i) { s with issue := s.issue.filter fun i => !stalled.contains i }
  .next ((s1.foldOnly p fun s t =>
    match s.gate t p .any [] [A, B] with
    | some x => (s, x)
    | none => s.spawnLane t (s.srcVal t p A) (BitVec.ofNat 64 (s.srcVal t p B))).settle (s.actors p))

/-- A bobbin's timer has run out (04/R84, R106). -/
def State.bobbinDue (s : State) (cluster : Nat) (b : Bobbin) : Bool :=
  let now := if (s.grid b.grid).determ then s.clusterIssued cluster b.ctx else s.time.cyc
  decide (b.opened + b.timer ≤ now)

/-- BOBBIN_TIMER: the bobbin forms its team when its timer has expired; a captured grid records the expiry, and in a replay the bobbin
forms its team where the capturing run's record says so (03/R73, R74). -/
def execBobbinTimer (cluster index : Nat) (s : State) : Out :=
  match s.bobbins.find? fun x => x.1 == cluster && x.2.index == index with
  | none => .next s
  | some (_, b) =>
    if s.replays b.grid then
      match s.capHead.filter fun r => r.kind == 4 && r.unit == 4 * cluster && r.detail == index with
      | some r => .next ((s.capUse r).formBobbin cluster b)
      | none => .next s
    else if s.bobbinDue cluster b then .next ((s.capRecord b.grid 4 (4 * cluster) index 0 []).formBobbin cluster b)
    else .next s

/-! ## EXIT (15/R342) -/

/-- The tacks of a team whose set is complete once a thread no longer counts: their operations enter the queue. A failed
check ends the grid (09/R215, R216). -/
def State.issueTacks (s : State) (team : Nat) : Nat → State
  | 0 => s
  | n + 1 =>
    let s1 := State.issueTacks s team n
    let x := (s1.team team).tack n
    match x.op with
    | none => s1
    | some o =>
      if !s1.allTacked team x none then s1
      else
        let kind := o.kind x.caps
        match s1.mcheck team kind with
        | some _ => s1.endGrid (s1.team team).grid 3
        | none => (s1.setTack team n { x with op := none, caps := [], cmds := [] }).mpush team x.cmds kind

/-- An exit that would complete a tack waits while a recompression of its register is queued (09/R217). -/
def State.exitWaits (s : State) (t : Thread) : Bool :=
  let s1 := s.setThread { t with run := .exited }
  (List.range 16).any fun k =>
    let x := (s.teamOf t).tack k
    x.op.any fun o => s1.allTacked t.team x none && s.mwaits t.team (o.kind x.caps)

/-- A logged lane that the exit of its thread retires without replay: a load's, and a forwarded one's. -/
def LogLane.endsWith (l : LogLane) (tid : Tid) (forward : Bool) (logged : List Nat) (id : Nat) : Bool :=
  l.tid == tid && (forward || logged.contains id ||
    (match l.acc.kind with | .load _ | .xb _ _ | .wait => true | _ => false))

/-- What a member captured before it exited is not used: its row and column are zero (09/R215). -/
def State.dropTacks (s : State) (t : Thread) : State :=
  let clear : Tack → Tack := fun x =>
    match x.member (s.teamIndex t) with
    | some m => { x with caps := dropBy (fun c => c.m == m) x.caps }
    | none => x
  s.editTeam t.team fun tm => { tm with tacks := tm.tacks.map clear }

/-- A thread ended: window writes that waited are performed, pending loads lose their destination, and threads that waited
for it to converge are offered again (one point DEDUCED, log entry 45). -/
def State.exitThread (s : State) (t : Thread) : State :=
  let gone : Thread := { (t.applyWin t.win).issued s.time.cyc with run := .exited, clause := none, traps := [], child := none }
  let logged := t.traps.filterMap fun r => r.logged
  let s1 := s.setThread gone
  let s2 : State :=
    { s1 with
      ops := dropBy (fun o => o.tid == t.id && (match o.src with | .issueRead _ _ | .issueBad _ _ _ => true | _ => false))
        (editBy (fun o => o.tid == t.id) (fun o => { o with dead := true }) s1.ops)
      log := (s1.log.map fun e => { e with lanes := dropBy (fun l => l.endsWith t.id e.forward logged e.id) e.lanes }).filter
        fun e => !e.lanes.isEmpty
      records := dropBy (fun r => r.tid == some t.id) s1.records
      threads := s1.threads.map fun x =>
        if x.team == t.team then
          match x.run with
          | .blocked (.converge _) _ _ => { x with run := .held }
          | _ => x
        else x }
  ((s2.dropTacks t).issueTacks t.team 16).reap t.team

/-- EXIT (15/R335, R342). -/
def execExit (p : Pre) (s : State) : Out :=
  .next (s.foldLanes p fun s t => if s.exitWaits t then (s, .hold) else (s.exitThread t, .asIs))

/-! ## The save area's contents (12/R280) -/

/-- The memory without the bytes of a range. -/
def memClear (m : Memory) (a n : Nat) : Memory := m.filter fun c => decide (c.1 < a) || decide (a + n ≤ c.1)
/-- The bytes of a range moved to begin at 0. -/
def memSlice (m : Memory) (a n : Nat) : Memory :=
  (m.filter fun c => decide (a ≤ c.1) && decide (c.1 < a + n)).map fun c => (c.1 - a, c.2)
/-- Cells written at an offset. -/
def memPaste (m : Memory) (a : Nat) : Memory → Memory
  | [] => m
  | c :: l => memPaste (memSet m (a + c.1) c.2) a l
/-- Fields written one after the other: address, bytes, value. -/
def memFields (m : Memory) : List (Nat × Nat × Nat) → Memory
  | [] => m
  | f :: l => memFields (memWrite m f.1 (leBytes f.2.1 f.2.2)) l

/-- A thread's state code, and its wait's kind, address and value. -/
def Thread.saveState (t : Thread) : Nat × Nat × Nat × Nat :=
  let at_ := fun (l : WordLoc) => match l with | .mem pa => pa | .scr _ o => o
  match t.run with
  | .exited => (3, 0, 0, 0)
  | .mgmt _ => (4, 0, 0, 0)
  | .parked _ | .faulted _ | .logWait => (2, 0, 0, 0)
  | .blocked w _ _ =>
    match w with
    | .await loc gen _ _ => (1, 1, at_ loc, gen)
    | .waitv loc _ _ _ b _ _ => (1, 2, at_ loc, b.toNat)
    | .waitc _ n _ _ => (1, 3, 0, n)
    | .srwait off _ phase => (1, 4, off, if phase then 1 else 0)
    | .bar | .seam | .converge _ => (1, 5, 0, 0)
    | .fabricLoad _ => (1, 6, 0, 0)
    | .recut ts => (1, 7, ts, 0)
  | _ => (0, 0, 0, 0)

/-- The fields of one lane of a group block. -/
def State.saveLane (s : State) (b : Nat) (t : Thread) : List (Nat × Nat × Nat) :=
  let a := b + 36864 + 64 * t.id.lane
  let w := t.saveState
  (t.regs.map fun c => (b + 128 * c.n + 4 * t.id.lane, 4, c.v.toNat)) ++
  [(a, 8, t.pc), (a + 8, 2, s.flagMask t.id t.depth), (a + 10, 1, w.1), (a + 11, 1, t.depth), (a + 12, 4, t.astat.toNat),
   (a + 16, 1, w.2.1), (a + 24, 8, w.2.2.1), (a + 32, 8, w.2.2.2)]

/-- The tag nibbles of a lane written. -/
def saveTags (m : Memory) (b lane : Nat) : List RegCell → Memory
  | [] => m
  | c :: l =>
    let a := b + 32768 + 16 * c.n + lane / 2
    saveTags (memWrite m a [setNibble (memGet m a) lane c.tag.code]) b lane l

/-- The fields of a group that stand after its lanes. -/
def saveGroupTail (b : Nat) (g : Group) : List (Nat × Nat × Nat) :=
  let a := b + 38912
  (List.range 6).map (fun i => (a + 2 * i, 2, nth g.ctr i)) ++ [(a + 12, 2, g.ack), (a + 14, 1, if g.sticky then 1 else 0)] ++
  (g.errs.mapIdx fun i e => (a + 16 + 8 * i, 8, e.summary)) ++ [(a + 64, 1, g.role.kind), (a + 65, 1, g.role.nr)]

/-- A matrix register's units. -/
def saveMreg (b : Nat) (m : MReg) : List (Nat × Nat × Nat) :=
  match m.form with
  | .empty => []
  | .dense => m.dense.map fun x => (b + 4 * x.1, 4, x.2.toNat)
  | .factor =>
    ((m.us.mapIdx fun j u => u.mapIdx fun i x => (b + 512 * j + 4 * i, 4, x.toNat)).flatten) ++
    ((m.vs.mapIdx fun j v => v.mapIdx fun i x => (b + 512 * j + 256 + 4 * i, 4, x.toNat)).flatten)

/-- A tack register's header entry and captures. -/
def saveTack (h c : Nat) (x : Tack) : List (Nat × Nat × Nat) :=
  [(h, 1, x.g), (h + 1, 1, x.n), (h + 8, 8, (x.caps.map fun q => 2 ^ q.m).sum),
   (h + 16, 8, (x.op.map fun o => o.w0.toNat).getD 0), (h + 24, 4, (x.op.map fun o => o.w1.toNat).getD 0)] ++
  ((x.caps.map fun q => q.regs.mapIdx fun i v => (c + 128 * q.m + 4 * i, 4, v.toNat)).flatten)

/-- The header. -/
def State.saveHeader (s : State) (tm : Team) (b : Nat) : List (Nat × Nat × Nat) :=
  let g := s.grid tm.grid
  [(b, 4, 1), (b + 4, 4, saveSize tm / 4096), (b + 8, 4, g.job), (b + 12, 2, g.ctx), (b + 14, 1, g.part), (b + 15, 1, tm.groups.length),
   (b + 16, 4, tm.num), (b + 24, 8, if tm.spawner.isNone then g.record else 0), (b + 32, 8, tm.partword.toNat), (b + 40, 4, tm.scratch),
   (b + 44, 4, tm.privWords), (b + 48, 1, tm.prio), (b + 49, 1, g.width), (b + 50, 1, (if tm.idem then 2 else 0) + (if tm.sfx then 1 else 0)),
   (b + 52, 2, tm.restarts), (b + 54, 2, tm.core), (b + 192, 4, tm.tol.toNat)] ++
  (tm.slots.mapIdx fun i k => (b + 64 + i, 1, k)) ++ (tm.mregs.mapIdx fun k m => (b + 128 + 4 * k, 4, m.word))

/-- The team's context as it stands in its save area (one point DEDUCED, log entry 43). -/
def State.saveImage (s : State) (tm : Team) (b : Nat) : Memory :=
  let m0 := memPaste (memClear s.mem b (saveSize tm)) (saveScr b) tm.scr
  let mb := b + 4096 + tm.scratch
  let m1 := memFields m0 (s.saveHeader tm b)
  let m2 := memFields m1 ((tm.mregs.mapIdx fun k m => saveMreg (mb + 16384 * k) m).flatten)
  let m3 := memFields m2 ((tm.tacks.mapIdx fun k x => saveTack (b + 256 + 32 * k) (mb + 16 * 16384 + 8192 * k) x).flatten)
  let m4 := memFields m3 ((tm.groups.mapIdx fun gi g => saveGroupTail (saveGroup b tm gi) g).flatten)
  (s.threads.filter fun t => t.team == tm.id).foldl (fun m t =>
    let gb := saveGroup b tm (groupIndex tm t.id.slot)
    saveTags (memFields m (s.saveLane gb t)) gb t.id.lane t.regs) m4

/-- A thread with the registers and status that its save image holds; its counts of events start at zero (12/R280, 19/R426). -/
def State.loadLane (s : State) (tm : Team) (b : Nat) (t : Thread) : Thread :=
  let gi := groupIndex tm t.id.slot
  let nr := ((tm.groups[gi]?).map fun g => g.role.nr).getD 0
  let reg := fun (l : List RegCell) (n : Nat) =>
    regSet l n (BitVec.ofNat 32 (leNat (memRead s.mem (saveReg b tm t.id n) 4)))
      (Tag.ofCode (tagNibble (memGet s.mem (saveTag b tm t.id n)) t.id.lane))
  let a := saveGroup b tm gi + 36864 + 64 * t.id.lane + 12
  { t with regs := (List.range nr).foldl reg [], astat := BitVec.ofNat 6 (leNat (memRead s.mem a 4)), perf := [0, 0, 0, 0, 0]
           readySince := s.time.cyc }

/-- The lines of a team's frames written back (12/R280). -/
def State.frameLines (s : State) (tm : Team) : L1Line → Bool := fun l =>
  let base := fld (s.ctx (s.grid tm.grid).ctx).trapfrm 30 25 * 2 ^ 30
  l.core == tm.core && l.ctx == (s.grid tm.grid).ctx &&
  tm.slots.any fun k => let a := base + (tm.core * 64 + k) * 16384; decide (a ≤ 128 * l.line) && decide (128 * l.line < a + 16384)

/-! ## Eviction, reinstatement and discard (04/R98 to R104) -/

/-- The thread waits on an external condition (04/R97, 06/R147). -/
def Thread.external (t : Thread) : Bool :=
  match t.run with
  | .blocked w _ _ => (match w with | .bar | .seam | .converge _ => false | _ => true)
  | .logWait => true
  | _ => false

/-- The thread is at a blocking point or parked. -/
def Thread.stopped (t : Thread) : Bool :=
  match t.run with
  | .blocked _ _ _ | .parked _ | .logWait | .faulted _ | .mgmt _ => true
  | _ => false

/-- Every non-exited thread of a team is at a blocking point or parked, itself or with its whole group (12/R277). -/
def State.allStopped (s : State) (team : Nat) : Bool :=
  s.threads.all fun t => t.team != team || !t.live || t.stopped || s.groupParked t.id.core t.id.slot

/-- A parked thread at a header whose flags have completed, or whose blocked wait has been satisfied. -/
def State.wakeFires (s : State) (t : Thread) : Bool :=
  match t.run with
  | .blocked _ _ _ => t.external && s.wakeReady t
  | .logWait => !(s.log.any fun e => e.lanes.any fun l => l.tid == t.id && l.depth == t.depth)
  | _ => false

/-- A team is evictable, and has a save area (04/R98, 12/R281). -/
def State.evictable (s : State) (tm : Team) : Bool :=
  tm.state == .resident && tm.save.isSome && s.allStopped tm.id && s.threads.any fun t => t.team == tm.id && t.external
/-- The commands of a team whose eviction has begun are over, and its loads have returned (04/R98 step 2). -/
def State.teamQuiet (s : State) (tm : Team) : Bool :=
  !(s.cmds.any fun c => c.team == tm.id) && !((s.core tm.core).mqueue.any fun o => o.team == tm.id) &&
  !(s.ops.any fun o => (s.thread o.tid).team == tm.id && o.src != .done)
/-- A wake condition of the team holds, or a thread of it is not stopped any more, so that its eviction is abandoned
(04/R98 step 3). -/
def State.evictEnds (s : State) (tm : Team) : Bool :=
  !s.evictable tm || s.threads.any fun t => t.team == tm.id && (s.wakeFires t || s.wakeReady t)

/-- An idempotent team without a side effect may be discarded at any point (04/R103). -/
def State.discardable (s : State) (tm : Team) : Bool :=
  tm.state == .resident && tm.idem && !tm.sfx && (s.grid tm.grid).status.isNone

/-- A team evicted to its save area: its registers and units are free, and its slots and granules stay its own. -/
def State.evict (s : State) (tm : Team) (b : Nat) : State :=
  let s1 := s.writeBackAll (s.frameLines tm) none
  let s2 : State :=
    { s1 with mem := s1.saveImage tm b
              entries := (s1.entries.map fun e => { e with members := e.members.filter fun i => (s1.thread i).team != tm.id }).filter
                fun e => !e.members.isEmpty }
  (s2.editTeam tm.id fun t => { t with state := .evicted, leaving := false, scr := [], blockedSince := none, woken := none }).editCore tm.core fun c =>
    c.dropSlots tm.slots

/-- Room for an evicted team that returns: slow-file bytes, the reserve included, and accumulator units (04/R101, 09/R207). -/
def State.returns (s : State) (tm : Team) : Bool :=
  decide (tm.foot.kib ≤ s.kibFree tm.core tm.partword) && decide ((tm.mregs.map fun m => m.shape.occ).sum ≤ s.unitsFree tm.core)

/-- The demand for room on a core: its priority, and the team that needs it (04/R99). An evicted team whose wake has fired
comes first, where it has no room; then the team whose turn it is on the panel and that no core can hold. -/
def State.demand (s : State) (core : Nat) : Option (Nat × Team) :=
  let woken := (s.placedOn core).filter fun t => t.state == .evicted && t.woken.isSome
  match woken.foldl (fun b t => match b with | none => some t | some x => if t.woken.getD 0 < x.woken.getD 0 then some t else some x) (none : Option Team) with
  | some t => if s.returns t then none else some (t.prio, t)
  | none =>
    if (s.placeable (panelOf core)).isSome then none
    else
      match firstCand (s.cands (panelOf core)) with
      | none => none
      | some c => if inPart (s.grid c.team.grid).clusters core then some (c.prio, c.team) else none

/-- The demand fits on a core. -/
def State.demandFits (s : State) (core : Nat) (tm : Team) : Bool :=
  if tm.state = .evicted then s.returns tm else (s.roomOn core tm).isSome

/-- A team that may make room: its priority, whether it is discarded, and how long it has been blocked or when it came. -/
structure VictimTeam where
  prio : Nat
  discard : Bool
  rank : Nat
  team : Team
  deriving DecidableEq, Repr

/-- The order of R99 (one point DESIGN CHOICE, log entry 39). -/
def victimTeamLess (a b : VictimTeam) : Bool :=
  decide (a.prio < b.prio) || (decide (a.prio = b.prio) && ((!a.discard && b.discard) || (a.discard == b.discard && decide (a.rank < b.rank))))
/-- The first of least order. -/
def firstVictimTeam : List VictimTeam → Option VictimTeam
  | [] => none
  | a :: l =>
    match firstVictimTeam l with
    | none => some a
    | some b => if victimTeamLess b a then some b else some a

/-- The victim that a core's demand takes (04/R99): its room makes the demand fit. -/
def State.victim (s : State) (core : Nat) : Option VictimTeam :=
  match s.demand core with
  | none => none
  | some (prio, want) =>
    let l := (s.placedOn core).filterMap fun t =>
      if prio < t.prio then none
      else if s.evictable t then
        let after := s.editTeam t.id fun x => { x with state := .evicted }
        if after.demandFits core want then some { prio := t.prio, discard := false, rank := t.blockedSince.getD s.time.cyc, team := t } else none
      else if s.discardable t then
        let after := s.editTeam t.id fun x => { x with state := .gone }
        if after.demandFits core want then some { prio := t.prio, discard := true, rank := 2 ^ 64 - t.id, team := t } else none
      else none
    firstVictimTeam l

/-- The eviction of a team that has stopped issuing goes on: it waits for the team's commands and loads, and is then abandoned or
writes the team to its save area (04/R98 steps 2 to 4). -/
def State.evictOn (s : State) (tm : Team) : State :=
  if !s.teamQuiet tm then s
  else
    match if s.evictEnds tm then none else tm.save with
    | none => s.editTeam tm.id fun t => { t with leaving := false }
    | some (b, _) => s.evict tm b

/-- EVICTION: the eviction of a team of the core that has begun goes on, or that of the core's victim begins (04/R98, R99). -/
def execEviction (core : Nat) (s : State) : Out :=
  match (s.placedOn core).find? fun t => t.state == .resident && t.leaving with
  | some tm => .next (s.evictOn tm)
  | none =>
    match s.victim core with
    | none => .next s
    | some v => .next (if v.discard then s else s.editTeam v.team.id fun t => { t with leaving := true })

/-- The evicted team of a core whose wake fired first. -/
def State.firstWoken (s : State) (core : Nat) : Option Team :=
  ((s.placedOn core).filter fun t => t.state == .evicted && t.woken.isSome).foldl
    (fun b t => match b with | none => some t | some x => if t.woken.getD 0 < x.woken.getD 0 then some t else some x) none

/-- A team back from its save area, in its own slots and granules (04/R101, R102). -/
def State.reinstate (s : State) (tm : Team) (b : Nat) : State :=
  let threads := s.threads.map fun t => if t.team == tm.id then s.loadLane tm b t else t
  let groups := tm.groups.mapIdx fun gi g =>
    { g with sticky := bitsAt (memGet s.mem (saveGroup b tm gi + 38912 + 14)).toNat 0 1 == 1, perf := [0, 0, 0, 0, 0, 0, 0] }
  let s1 : State := { s with threads := threads }
  (s1.editTeam tm.id fun t =>
    { t with state := .resident, woken := none, blockedSince := none, groups := groups, scr := memSlice s.mem (saveScr b) tm.scratch
             clocks := 0 }).editCore tm.core fun c => c.addSlow tm.slots s.time.cyc

/-- REINSTATEMENT: the core's evicted team whose wake fired first returns, once there is room (04/R101). -/
def execReinstatement (core : Nat) (s : State) : Out :=
  match s.firstWoken core with
  | none => .next s
  | some tm =>
    match tm.save with
    | none => .next s
    | some (b, _) => .next (if s.returns tm then s.reinstate tm b else s)

/-- A team discarded: it goes back to its grid's pending teams with its number, as at first placement (04/R103). Whether the
lines that only it had stored to are dropped the spec leaves open (one point DESIGN CHOICE, log entry 39). -/
def State.discard (s : State) (tm : Team) : State :=
  let s1 := s.freeTeam tm.id
  let s2 : State :=
    if s.freeBit 0 then
      { s1 with l1 := dropBy (fun l => l.core == tm.core && l.ctx == (s.grid tm.grid).ctx && l.stored == [tm.id] && !s1.lineBusy l) s1.l1 }
    else s1
  let id := s2.fresh
  let back : Team := ({ tm with id := id, state := .pending, leaving := false, slots := [], save := none, restarts := satAdd 65535 tm.restarts 1 } : Team).start
  { s2 with fresh := id + 1, teams := dropBy (fun t => t.id == tm.id) s2.teams ++ [back]
            privs := s2.privs.map fun p => if p.team = some tm.id then { p with team := some id } else p }

/-- IDEMPOTENT_DISCARD: the victim of its core's demand, where that is this team. -/
def execIdempotentDiscard (team : Nat) (s : State) : Out :=
  let tm := s.team team
  match s.victim tm.core with
  | none => .next s
  | some v => .next (if v.discard && v.team.id == team then s.discard tm else s)

end Sys2Proof.Machine
end

