-- ==== Sys2Proof/Machine/Jobs.lean ====
section
/-! DEFINITION. The end of grids and their completion words (03/R64, 15/R342), and the stop walk (03/R65, R66). -/

namespace Sys2Proof.Machine

/-! ## GRID_COMPLETE -/

/-- Every team of a grid has exited and its commands are over (03/R64). -/
def State.teamsDone (s : State) (g : Grid) : Bool :=
  decide (g.teams ≤ g.nextTeam) && !(s.teams.any fun t => t.grid == g.id && t.state != .gone) &&
  !(s.bobbins.any fun b => b.2.grid == g.id) && !(s.cmds.any fun c => (s.team c.team).grid == g.id)

/-- The writes of a grid's teams have been answered (11/R257, 15/R342). -/
def State.gridQuiet (s : State) (g : Grid) : Bool :=
  !(s.fabric.reqs.any fun r =>
    match r.why with
    | .store tm _ => (s.team tm).grid == g.id
    | .wbGroup tm _ _ _ _ => (s.team tm).grid == g.id
    | .wbCtx _ ctx _ => ctx == g.ctx
    | _ => false) &&
  !(s.teams.any fun t => t.grid == g.id && t.groups.any fun x => x.ack != 0) &&
  !(s.cores.any fun c => c.ctxAck.any fun x => x.1 == g.ctx) &&
  !(s.cmds.any fun c => (s.team c.team).grid == g.id)

/-- Every dirty byte and update line of a context sent toward its home. -/
def State.flushCtx (s : State) (ctx : Nat) : State :=
  (s.writeBackAll (fun l => l.ctx == ctx) none).mergeAll fun u => u.ctx == ctx

/-- The notice of a grid's end to its fabric requester (03/R64). -/
def State.notify (s : State) (g : Grid) : State :=
  match g.requester with
  | none => s
  | some (port, src, tag) =>
    if !g.notify then s
    else
      s.sendResponse port false (sealPkt
        { dst := src, src := s.node, typ := 0x11, cls := 2, len := 0, hot := false, rsv := false, tag := tag, addr := 0, ctx := g.ctx
          bmask := allBytes, aux := 0x80 + g.status.getD 0, etag := 0, data := [] })

/-- A grid over: its regions and its lossy words leave, and its requester is told. -/
def State.finishGrid (s : State) (gid : Nat) : State :=
  let g := s.grid gid
  let s1 : State :=
    { s with privs := dropBy (fun p => p.grid == gid) s.privs
             teams := dropBy (fun t => t.grid == gid) s.teams
             fabric := { s.fabric with lossy := dropBy (fun e => e.grid == gid) s.fabric.lossy } }
  (s1.editGrid gid fun x => { x with finished := true }).notify g

/-- A completion word that could not be written is reported to the runtime (one point DESIGN CHOICE, log entry 38). -/
def State.wordFault (s : State) (g : Grid) (cause : Nat) : State :=
  let cl := ((List.range Config.clusters).find? fun c => bitsAt g.clusters c 1 == 1).getD 0
  (s.openReport { cluster := cl, ctx := g.ctx, page := g.done / 65536, cause := cause } fun r => { r with grids := r.grids ++ [g.id] }).post
    (.doneFault g.id g.done cause)

/-- The completion word written as an access of the grid's context: 8 bytes, status low, cookie high. -/
def State.writeWord (s : State) (g : Grid) : State :=
  let b := leBytes 4 (g.status.getD 0) ++ leBytes 4 g.cookie
  if g.done = 0 then s.finishGrid g.id
  else if 2 ^ 55 ≤ g.done then s.wordFault g 0x14
  else
    let w := s.walk g.ctx g.done
    match w.2 with
    | .fault c => w.1.wordFault g c
    | .leaf level e =>
      let x := leafXlat level e g.done
      if !x.w then w.1.wordFault g 0x12
      else if x.apt = 0 then
        let h := w.1.homeWrite g.ctx x.pa b x.comp
        if h.2 then h.1.finishGrid g.id else h.1.wordFault g 0x17
      else if x.apt ≤ 3 then
        let q := w.1.request (smallWrite x.node x.pa g.ctx x.hot b) (.word g.id)
        if q.2.1 then q.1 else q.1.wordFault g 0x14
      else if x.apt = 4 then
        let q := w.1.winStore (some g.ctx) (g.done % 2 ^ 32) b
        if q.2 then q.1.finishGrid g.id else q.1.wordFault g 0x14
      else w.1.finishGrid g.id

/-- The completion word has been sent, or waits for the runtime. -/
def State.wordOut (s : State) (g : Grid) : Bool :=
  (s.fabric.reqs.any fun r => r.why == .word g.id) || s.reports.any fun r => r.grids.contains g.id

/-- GRID_COMPLETE: a grid whose teams and commands are over has every write performed, and then writes its completion
word (03/R64). -/
def execGridComplete (gid : Nat) (s : State) : Out :=
  let g := s.grid gid
  if g.finished then .next s
  else if g.status.isNone then
    .next (if s.teamsDone g then (s.flushCtx g.ctx).editGrid gid fun x => { x with status := some 0 } else s)
  else .next (if s.gridQuiet g && !s.wordOut g then s.writeWord g else s)

/-- COMPLETION_WORD_ANSWER: replay writes the word; forward and end leave it unwritten (03/R64). -/
def execCompletionWordAnswer (gid : Nat) (ans : Answer) (s : State) : Out :=
  if s.reports.any fun r => r.grids.contains gid then
    let s1 : State := { s with reports := s.reports.map fun r => { r with grids := dropBy (· == gid) r.grids } }
    .next (((match ans with | .replay => s1.writeWord (s1.grid gid) | _ => s1.finishGrid gid)).pruneReports)
  else .next s

/-! ## The stop walk (03/R65, R66) -/

/-- A grid of a context that has not ended. -/
def Grid.alive (g : Grid) (ctx : Nat) : Bool := g.ctx == ctx && g.status.isNone
/-- Jobs of a context with a live grid. -/
def State.liveJobs (s : State) (ctx : Nat) : List Nat := ((s.grids.filter fun g => g.alive ctx).map (·.job)).eraseDups
/-- The consumers of a job with a live grid: live grids name it in their edges. Edges that name another job are ignored (03/R65). -/
def State.consumers (s : State) (ctx job : Nat) : List Nat :=
  if !(s.liveJobs ctx).contains job then []
  else ((s.grids.filter fun g => g.alive ctx && g.edges.contains job).map (·.job)).eraseDups
/-- Jobs reached from some within n edges. -/
def State.reach (s : State) (ctx : Nat) : Nat → List Nat → List Nat
  | 0, l => l
  | n + 1, l =>
    let new := ((l.flatMap fun j => s.consumers ctx j).eraseDups).filter fun j => !l.contains j
    if new.isEmpty then l else State.reach s ctx n (l ++ new)
/-- Jobs downstream of a job, itself included. -/
def State.downstream (s : State) (ctx job : Nat) : List Nat := s.reach ctx (s.grids.length + 1) [job]

/-- A job put in an ascending list. -/
def insertNat (x : Nat) : List Nat → List Nat
  | [] => [x]
  | y :: l => if x ≤ y then x :: y :: l else y :: insertNat x l
/-- A list in ascending order. -/
def sortNat : List Nat → List Nat
  | [] => []
  | x :: l => insertNat x (sortNat l)

/-- Stop sets in topological order: at each turn the set of a job that no other job left over reaches, of the least job; n
turns at most. -/
def State.stopSets (s : State) (ctx : Nat) : Nat → List Nat → List (List Nat)
  | 0, _ => []
  | n + 1, jobs =>
    let below := fun (a b : Nat) => (s.downstream ctx a).contains b
    let first := (sortNat jobs).find? fun j => jobs.all fun k => !below k j || below j k
    match first with
    | none => []
    | some j =>
      let set := (sortNat jobs).filter fun k => below k j && below j k
      set :: State.stopSets s ctx n (jobs.filter fun k => !set.contains k)

/-- The grids of a set of jobs, in ascending job id (03/R65). -/
def State.gridsOf (s : State) (ctx : Nat) (jobs : List Nat) : List Grid :=
  (sortNat jobs).flatMap fun j => s.grids.filter fun g => g.alive ctx && g.job == j

/-- A team is clean: exited, or every non-exited thread at a blocking point, with its commands over (03/R65). -/
def State.cleanTeam (s : State) (t : Team) : Bool :=
  t.state != .resident ||
  ((s.threads.all fun x => x.team != t.id || !x.live || (match x.run with | .blocked _ _ _ => true | _ => false)) &&
   !(s.cmds.any fun c => c.team == t.id) && !((s.core t.core).mqueue.any fun o => o.team == t.id))

/-- A set of jobs is clean. -/
def State.cleanSet (s : State) (ctx : Nat) (jobs : List Nat) : Bool :=
  let gs := (s.gridsOf ctx jobs).map (·.id)
  s.teams.all fun t => !gs.contains t.grid || s.cleanTeam t

/-- The contexts of a grid's clean resident teams written to their save areas (one point DEDUCED, log entry 46). -/
def State.saveClean (s : State) (gid : Nat) : State :=
  (s.teams.filter fun t => t.grid == gid && t.state == .resident && s.cleanTeam t).foldl (fun s t =>
    match t.save with
    | some (b, _) => { s with mem := s.saveImage t b }
    | none => s) s

/-- A clean grid stopped: its teams are saved and it ends with status 1; a team without a save area is discarded, and the
status is 2 (03/R65, 12/R281). -/
def State.stopGrid (s : State) (g : Grid) : State :=
  let bare := s.teams.any fun t => t.grid == g.id && t.state == .resident && t.save.isNone
  (s.saveClean g.id).endGrid g.id (if bare then 2 else 1)

/-- The stop of a job. -/
def State.stopOf (s : State) (ctx job : Nat) : Option Stop := s.stops.find? fun x => x.ctx == ctx && x.jobs.head? == some job
/-- The stop's record replaced. -/
def State.setStop (s : State) (ctx job : Nat) (x : Option Stop) : State :=
  let rest := dropBy (fun y => y.ctx == ctx && y.jobs.head? == some job) s.stops
  { s with stops := match x with | none => rest | some y => rest ++ [y] }

/-- JOB_STOP: the request builds the walk; then, each time, the set whose turn it is is stopped once it is clean. -/
def execJobStop (ctx job : Nat) (s : State) : Out :=
  match s.stopOf ctx job with
  | none =>
    let down := s.downstream ctx job
    let x : Stop := { ctx := ctx, sets := s.stopSets ctx down.length down, jobs := down, began := s.time.ns, head := true }
    .next (s.setStop ctx job (some x))
  | some x =>
    match x.sets with
    | [] => .next (s.setStop ctx job none)
    | set :: rest =>
      if s.cleanSet ctx set then
        let s1 := (s.gridsOf ctx set).foldl (fun s g => s.stopGrid g) s
        .next (s1.setStop ctx job (if rest.isEmpty then none else some { x with sets := rest, began := s.time.ns, head := false }))
      else .next s

/-- The limit of a stop's turn has passed with its set not clean (03/R66). -/
def State.stopLate (s : State) (x : Stop) : Bool :=
  let limit := fld s.sys.stoplim 0 32
  match x.sets with
  | [] => false
  | set :: _ => limit != 0 && decide (x.began + 1000 * limit ≤ s.time.ns) && !s.cleanSet x.ctx set

/-- STOP_LIMIT: the teams that are not clean are discarded, and their grids end with status 2 (03/R66). -/
def execStopLimit (ctx job : Nat) (s : State) : Out :=
  match s.stopOf ctx job with
  | none => .next s
  | some x =>
    if s.stopLate x then
      let bad := (s.gridsOf ctx (x.sets.headD [])).filter fun g => s.teams.any fun t => t.grid == g.id && !s.cleanTeam t
      .next (bad.foldl (fun s g => (s.saveClean g.id).endGrid g.id 2) s)
    else .next s

end Sys2Proof.Machine
end

