-- ==== Sys2Proof/Machine/Trap.lean ====
section
/-! DEFINITION. Clause headers (14/R308, R309), items that are not instructions (14/R318, 12/R275), entry to handlers
(12/R267 to R269), the management-core path (12/R277), the answers to fault reports (06/R146), lazy binding (12/R279), and
the report of a write to an uncorrectable line (06/R152). -/

namespace Sys2Proof.Machine

/-- The state a step answers with; a step that stops leaves the state. -/
def nextOr (s : State) (o : Out) : State := match o with | .next t => t | _ => s

/-! ## CLAUSE_START -/

/-- A forwarded operand-log entry of the thread at its depth, with its lane: the thread parks at its next clause boundary
(06/R146) (one point DEDUCED, log entry 49). -/
def State.forwarded (s : State) (t : Thread) : Option (LogEntry × LogLane) :=
  s.log.findSome? fun e =>
    if e.forward then (e.lanes.find? fun l => l.tid == t.id && l.depth == t.depth).map fun l => (e, l) else none

/-- The flags of a mask are pending for the thread by operations that meet a test. -/
def State.opFlag (s : State) (t : Thread) (mask : Nat) (p : LongOp → Bool) : Bool :=
  s.ops.any fun o => o.tid == t.id && o.depth == t.depth && p o && (o.flag.any fun f => bitsAt mask f 1 == 1)

/-- What keeps a thread at a header whose WAIT names pending flags: a load of another node is a blocking point (04/R97), a
logged access parks the thread (06/R143), and any other operation only keeps it waiting (14/R309) (one point DEDUCED, log entry 49). -/
def State.headerWait (s : State) (t : Thread) (wait : Nat) : Option Run :=
  if s.flagMask t.id t.depth &&& wait = 0 then none
  else if s.log.any fun e => e.lanes.any fun l =>
      l.tid == t.id && l.depth == t.depth && (l.flag.any fun f => bitsAt wait f 1 == 1) then some .logWait
  else if s.opFlag t wait fun o => match o.src with | .fabric _ _ => true | _ => false then some (.blocked (.fabricLoad wait) 0 none)
  else some (.flagWait wait)

/-- The clause that a header begins. -/
def clauseOf (h : Header) : Clause :=
  { seta := h.seta, setb := h.setb, pred := h.pred, count := h.count, idx := 0, yield := h.yield }

/-- A thread at a header: its waiting window writes are performed; then its clause starts, or it waits. -/
def State.startClause (s : State) (h : Header) (i : Tid) : State :=
  let t := s.thread i
  if t.clause.isSome then s
  else
    let s1 := s.applyWins i
    if (s.forwarded t).isSome then s1.editThread i fun x => { x with run := .held }
    else
      match s.headerWait t h.wait with
      | some r => s1.editThread i fun x => { x with run := r }
      | none =>
        s1.editThread i fun x =>
          { x with clause := some (clauseOf h), pc := t.pc + 8, perf := bump x.perf 1 fun x => (x + 1) % 2 ^ 64 }

/-- CLAUSE_START: every thread of the issue that stands at the header. -/
def execClauseStart (h : Header) (s : State) : Out := .next ((s.issue.foldl (fun s i => s.startClause h i) s).settle s.issue)

/-! ## Items that are not instructions (14/R318, 12/R275) -/

/-- The fields of a raw item that guard and shape its trap. -/
def rawPre (r : RawItem) (words : List Word) : Pre :=
  { len := r.len, fs := false, ge := r.ge, gn := r.gn, gb := r.gb
    sg := if r.len = .l64 then 0 else bitsAt (words.getD 2 0#32).toNat 24 3, pa := noPerm, pb := noPerm, pc := noPerm }

/-- Earlier memory accesses of the thread are not yet performed, or stand in the operand log (12/R275). -/
def State.accessesOut (s : State) (t : Thread) : Bool :=
  s.accPending t || s.ops.any fun o => o.tid == t.id && (match o.src with | .port _ _ | .acks _ => true | _ => false)

/-- One lane of an undefined or disabled instruction of class 00, 01 or 11: it falls on lanes whose guard passes. A lane that
also meets the register range in its guard takes the lower code (12/R267) (one point DEDUCED, log entry 52). -/
def State.undefLane (s : State) (p : Pre) (r : RawItem) (t : Thread) : Lane :=
  match s.guard t p with
  | .ok false => .done [] 0#6
  | _ => if r.op / 256 = 1 && s.accessesOut t then s.accHold t else .trap r.cause 0 none

/-- UNDEFINED_ENCODING: causes 0x01 and 0x02 are taken as the class prescribes, and a malformed item, cause 0x04, by every
thread that reaches it. -/
def execUndefinedEncoding (r : RawItem) (s : State) : Out :=
  let p := rawPre r s.ir.2
  let each := fun (who : List Tid) (f : Thread → Lane) =>
    let s1 : State :=
      { s with threads := s.threads.map fun t => if who.contains t.id then t.after s p (s.guardValue p t) (f t) else t }
    s1.settle who
  if r.cause = 4 then .next (each s.issue fun _ => .trap 4 0 none)
  else if r.op / 256 = 2 then
    let g := fun (t : Thread) => min (s.gSize t p) (s.width t)
    .next (each (s.convGroup g) fun t => if s.converged t (g t) then .trap r.cause 0 none else s.convWait t (g t))
  else .next (each s.issue fun t => s.undefLane p r t)

/-! ## HANDLER_ENTRY -/

/-- The value of `ow8`–`ow9` for a logged lane: its faulting VA, or the leaf entry for 0x16 (12/R271). -/
def State.laneValue (s : State) (t : Thread) (e : LogEntry) (l : LogLane) : DWord :=
  let va := (l.acc.elems.headD (0, 0)).2
  match l.acc.sp with
  | .w => BitVec.ofNat 64 (s.windowVa t va)
  | _ =>
    if e.cause = 0x16 then
      match (s.walk (s.ctxOf t) va).2 with
      | .leaf _ leaf => leaf
      | .fault _ => vaValue va
    else vaValue va

/-- The record of a forwarded lane's trap: that of its item, with the place where the thread parks, which is the header, the held
instruction, or the wait whose address faulted: a return with NEXT resumes there, and that wait then begins (06/R146, 12/R273,
17/R378). -/
def State.loggedRec (s : State) (t : Thread) (e : LogEntry) (l : LogLane) : TrapRec :=
  let c := l.acc.clause
  { cause := e.cause, detail := 0, value := some (s.laneValue t e l), words := l.acc.words, len := l.acc.len, pc := l.acc.pc
    pred := (c.map (·.pred)).getD 0, guard := true, pos := s.subPos t (s.width t), width := s.width t, size := s.width t
    lanes := (e.lanes.map fun x => if x.tid.slot = t.id.slot then 2 ^ x.tid.lane else 0).sum
    count1 := (c.map fun c => c.count - 1).getD 0, idx := (c.map (·.idx)).getD 31, clause := c, park := t.pc, parkClause := t.clause
    logged := some e.id }

/-- The thread stands where a forwarded entry parks it: at a clause boundary, or mid-clause where it is held by R144 or by a full log,
or stands at a wait whose address faulted (06/R146, 17/R378) (one point DEDUCED, log entry 9). -/
def Thread.parksHere (t : Thread) : Bool :=
  match t.run with
  | .held => t.clause.isNone || t.logHeld
  | .logWait | .flagWait _ => true
  | .ready | .paused _ => t.clause.isNone
  | .blocked (.fabricLoad _) _ _ => true
  | _ => false

/-- The service numbers the runtime takes itself (12/R279). -/
def bindNumber : Nat := 0x8001

/-- HANDLER_ENTRY: a thread with a forwarded entry parks; a parked one enters its handler once its writes into `v0` to `v15`
have completed (12/R269). Service 0x8001 goes to the runtime, and any other service is forwarded as cause 0x05. -/
def execHandlerEntry (tid : Tid) (s : State) : Out :=
  let t := s.thread tid
  if (s.teamOf t).state ≠ .resident ∨ (s.teamOf t).leaving then .next s
  else
    match t.run with
    | .parked r =>
      if r.cause = 0x0D ∧ r.detail = bindNumber then
        .next (if s.board.events.contains (.service tid r.detail) then s else s.post (.service tid r.detail))
      else if s.lowWritesPending t then .next s
      else .next (s.takeException t (if r.cause = 0x0D then { r with cause := 0x05 } else r))
    | _ =>
      match s.forwarded t with
      | some (e, l) =>
        .next (if t.parksHere then
          { s.setThread { t with run := .parked (s.loggedRec t e l) } with
            entries := (s.entries.map fun x => { x with members := x.members.filter fun i => i != tid }).filter fun x => !x.members.isEmpty }
          else s)
      | none => .next s

/-! ## MGMT_CORE_PATH (12/R277) -/

/-- MGMT_CORE_PATH: the runtime executes the instruction in software on the thread's registers, or on its save image while its team is
evicted, and the thread advances as NEXT does; any other cause, and an instruction that it cannot execute, ends the grid with
status 3. -/
def execMgmtCorePath (tid : Tid) (r : MgmtResult) (s : State) : Out :=
  let t := s.thread tid
  match t.run with
  | .mgmt rec =>
    match r with
    | .cannot => .next (s.endGrid (s.team t.team).grid 3)
    | .executed writes stat stores =>
      if routeOf rec.cause = 2 then
        let s1 := stores.foldl (fun s x => s.homeStore (s.ctxOf t) x.1 x.2) s
        let s2 := (writes.foldl (fun s w => s.putCell tid t.depth ⟨w.1, w.2.1, w.2.2⟩) s1).putStat tid t.depth stat
        .next (s2.editThread tid fun t => { t.resumeAt rec 0 true with run := .ready, readySince := s.time.cyc })
      else .next (s.endGrid (s.team t.team).grid 3)
  | _ => .next s

/-! ## Answers to fault reports (06/R146) -/

/-- The open report of a key. -/
def State.report? (s : State) (k : ReportKey) : Option Report := s.reports.find? fun r => r.key == k
/-- The report closed. -/
def State.dropReport (s : State) (k : ReportKey) : State := { s with reports := dropBy (fun r => r.key == k) s.reports }
/-- The runtime always forwards or ends what it was told of an alignment or access cause, and forwards 0x16. -/
def neverReplayed (cause : Nat) : Bool := cause == 0x14 || cause == 0x15 || cause == 0x16

/-- A thread parked at an instruction or a header for a report is offered again. -/
def State.offerAgain (s : State) (l : List Tid) : State :=
  { s with threads := s.threads.map fun t =>
      match t.run with
      | .faulted _ => if l.contains t.id then { t with run := .held } else t
      | _ => t }

/-- REPORT_REPLAY: every joined access is performed from its entry, oldest first, commands try again, and threads are offered
again. Of a cause that is never replayed only the completion words are written again (03/R64). -/
def execReportReplay (k : ReportKey) (s : State) : Out :=
  match s.report? k with
  | none => .next s
  | some r =>
    if neverReplayed k.cause then
      let s1 : State := { s with reports := editBy (fun x => x.key == k) (fun x => { x with grids := [] }) s.reports }
      .next ((r.grids.foldl (fun s g => s.writeWord (s.grid g)) s1).pruneReports)
    else
      let mine := s.log.filter fun e => e.key == k && !e.forward
      let s1 := mine.foldl (fun s e => s.replayEntry e) (s.dropReport k)
      let s2 := (s1.offerAgain r.tids).unparkLog
      let s3 := r.cmds.foldl (fun s c => nextOr s (execEngineFaultReplay c s)) s2
      .next ((r.grids.foldl (fun s g => s.writeWord (s.grid g)) s3).pruneReports)

/-- The lanes of a group that stand at one faulting item of a report. -/
def State.faultLanes (s : State) (l : List Tid) (i : Tid) (pc : Nat) : Nat :=
  (l.map fun j =>
    match (s.thread j).run with
    | .faulted r => if j.core = i.core ∧ j.slot = i.slot ∧ r.pc = pc then 2 ^ j.lane else 0
    | _ => 0).sum

/-- REPORT_FORWARD: logged lanes trap at their next clause boundary, threads parked at an item trap there, commands finish with
error 6, and a completion word stays unwritten. -/
def execReportForward (k : ReportKey) (s : State) : Out :=
  match s.report? k with
  | none => .next s
  | some r =>
    let s1 : State :=
      { s.dropReport k with
        log := editBy (fun e => e.key == k) (fun e => { e with forward := true }) s.log
        threads := s.threads.map fun t =>
          match t.run with
          | .faulted q => if r.tids.contains t.id then { t with run := .parked { q with lanes := s.faultLanes r.tids t.id q.pc } } else t
          | _ => t }
    let s2 := r.cmds.foldl (fun s c => nextOr s (execEngineFaultForward c s)) s1
    .next ((r.grids.foldl (fun s g => s.finishGrid g) s2).pruneReports)

/-- REPORT_END: every grid with an access, a command or a thread in the report ends with status 3; a completion word stays
unwritten. -/
def execReportEnd (k : ReportKey) (s : State) : Out :=
  match s.report? k with
  | none => .next s
  | some r =>
    let gids :=
      (((s.log.filter fun e => e.key == k && !e.forward).map fun e => (s.team e.team).grid) ++
       ((s.cmds.filter fun c => r.cmds.contains c.id).map fun c => (s.team c.team).grid) ++
       (r.tids.map fun t => (s.team (s.thread t).team).grid)).eraseDups
    let s1 := gids.foldl (fun s g => s.endGrid g 3) (s.dropReport k)
    .next ((r.grids.foldl (fun s g => s.finishGrid g) s1).pruneReports)

/-! ## BIND_SERVICE (12/R279) -/

/-- BIND_SERVICE: the runtime stores the target in the stub's state word and resumes the caller after its `TRAP`; a binding
that fails ends the grid with status 3 (one point DEDUCED, log entry 42). -/
def execBindService (tid : Tid) (word : Nat) (target : DWord) (s : State) : Out :=
  let t := s.thread tid
  match t.run with
  | .parked r =>
    if r.cause ≠ 0x0D ∨ r.detail ≠ bindNumber then .next s
    else
      let s0 : State := { s with board := { s.board with events := dropBy (fun e => e == .service tid r.detail) s.board.events } }
      let w := s0.translate (clusterOf tid.core) (s0.ctxOf t) word
      let bad := w.1.endGrid (s.team t.team).grid 3
      match w.2 with
      | .error _ => .next bad
      | .ok x =>
        if target.toNat % 32 ≠ 0 ∨ target.toNat ≤ 1 ∨ word % 8 ≠ 0 ∨ !x.w ∨ x.apt ≠ 0 then .next bad
        else
          let h := w.1.homeWrite (s.ctxOf t) x.pa (leBytes 8 target.toNat) x.comp
          if h.2 then .next (h.1.setThread { t.resumeAt r 0 true with run := .ready, readySince := s.time.cyc })
          else .next (h.1.endGrid (s.team t.team).grid 3)
  | _ => .next s

/-- UNCORRECTABLE_WRITE_REPORT: the slice reports the line to the runtime (06/R152). -/
def execUncorrectableWriteReport (pa ctx : Nat) (s : State) : Out := .next (s.post (.badWrite pa ctx))

end Sys2Proof.Machine
end

