-- ==== Sys2Proof/Machine/System.lean ====
section
/-! DEFINITION. System, trap and emulation instructions (19/R414 to R428, 22/R431) and the runtime's writes of system
registers (03/R69, 02/R57, 06/R140, R145). -/

namespace Sys2Proof.Machine

/-! ## System registers read by threads (19/R415, R416) -/

/-- `JOBID` for a grid (03/R69). -/
def State.jobidOf (s : State) (g : Grid) : Nat :=
  let slot := s.slots.find? fun x => x.ctx == g.ctx && x.job == g.job
  g.ctx * 2 ^ 52 + (match slot with | some x => x.slot % 256 * 2 ^ 44 + 2 ^ 32 | none => 0) + g.part * 2 ^ 38 + g.job
/-- `BUDUSE` for a job (03/R69). -/
def State.buduse (s : State) (ctx job : Nat) : Nat :=
  let c := s.chargesOf ctx job
  let kib := fun k => min 65535 (nth c k / 4096)
  min 65535 (nth c 3) * 2 ^ 48 + kib 2 * 2 ^ 32 + kib 1 * 2 ^ 16 + kib 0
/-- `TEAMSTAT` of a team (04/R105). -/
def Team.stat (tm : Team) : Nat := min 65535 tm.restarts * 2 ^ 16 + (if tm.idem then 2 else 0) + (if tm.sfx then 1 else 0)

/-- System register n in the view of levels U and E (19/R416). -/
def State.viewU (s : State) (t : Thread) (n : Nat) : Nat :=
  let g := s.gridOf t
  let c := s.ctx g.ctx
  match n with
  | 0x040 => s.jobidOf g
  | 0x041 => s.buduse g.ctx g.job
  | 0x046 => s.sys.features.toNat
  | 0x050 => c.spawncfg.toNat
  | 0x051 => (s.teamOf t).stat
  | 0x060 => c.wincfg.toNat
  | 0x062 => c.privwin.toNat
  | 0x080 => t.astat.toNat
  | 0x090 => c.trapvec.toNat
  | 0x091 => c.emuvec.toNat
  | 0x092 => c.trapfrm.toNat
  | _ => 0

/-- SRD (19/R415). -/
def execSrd (p : Pre) (n d : Nat) (s : State) : Out :=
  .next (s.regOp p .any [dst d true] [] fun t => .done (wrPair d (s.viewU t n) .n64) 0#6)

/-- The thread past an instruction that has changed it. -/
def Thread.gone (t : Thread) (cyc len : Nat) : Thread := { (t.issued cyc).advance len with run := .ready }

/-- SWR: `ASTAT` bits written as 1 are cleared; any other register is the privilege trap (19/R416, R417). -/
def execSwr (p : Pre) (n a : Nat) (s : State) : Out :=
  let A := srcP 1 a noPerm
  .next (s.foldLanes p fun s t =>
    if n ≠ 0x080 then (s, .trap 0x06 0 none)
    else
      match s.gate t p .any [] [A] with
      | some x => (s, x)
      | none =>
        let clear : Status := BitVec.ofNat 6 (s.srcVal t p A)
        (s.setThread ({ t with astat := t.astat &&& ~~~clear }.gone s.time.cyc p.len.bytes), .asIs))

/-! ## TRAP and ERET (19/R418, R419; 12/R273; 22/R431) -/

/-- TRAP: service numbers from 0x8000 on go to the runtime (19/R418). -/
def execTrap (p : Pre) (n : Int) (a : Nat) (s : State) : Out :=
  let k := n.toNat % 65536
  .next (s.regOp p .any [] (if a = 255 then [] else [srcP 1 a noPerm]) fun _ => .trap (if 0x8000 ≤ k then 0x0D else 0x05) k none)

/-- The physical address of the leaf entry that a walk ends at, with its level (06/R133). -/
def State.leafPlaceGo (s : State) (va : Nat) : Nat → Nat → Nat → Option (Nat × Nat)
  | 0, _, _ => none
  | n + 1, level, table =>
    let a := table + 8 * bitsAt va (pageBits level) 13
    let e : DWord := BitVec.ofNat 64 (s.physNat a 8)
    if fld e 0 1 = 0 then none
    else if fld e 1 1 = 1 then some (a, level)
    else State.leafPlaceGo s va n (level + 1) (fld e 12 36 * 65536)
/-- The leaf entry of a context's address. -/
def State.leafPlace (s : State) (ctx va : Nat) : Option (Nat × Nat) :=
  if fld s.sys.ctxtab 0 1 = 0 then none
  else s.leafPlaceGo va 3 1 (fld (BitVec.ofNat 64 (s.physNat (fld s.sys.ctxtab 15 37 * 32768 + 8 * ctx) 8)) 12 36 * 65536)

/-- The leaf that `REMAP` writes: RAP set. -/
def remapLeaf (e : DWord) : DWord := setFld e 7 1 1
/-- The leaf that `MIGRATE` writes: `LOCAL`, NODE zero, and a new frame; every other field is kept (DESIGN CHOICE, log entry 41). -/
def migrateLeaf (e : DWord) (frame : Nat) : DWord := setFld (setFld (setFld e 4 3 0) 48 16 0) 12 36 frame

/-- Byte k of the copy of a page of another node, which the machine does not hold (log entry 4). -/
def State.freeByte (s : State) (k : Nat) : Byte := BitVec.ofNat 8 (Config.freeValue (2 ^ 64 * (s.free + 1) + k)).toNat

/-- A leaf rewritten by the runtime, and the page invalidated (06/R140, R150) (DESIGN CHOICE, log entry 41). -/
def State.rewriteLeaf (s : State) (ctx va a level : Nat) (e : DWord) : State :=
  let s1 := (s.homeWrite ctx a (leBytes 8 e.toNat) false).1
  nextOr s1 (execTlbinvPage (3 - level) ctx (va / 65536) s1)

/-- The answer of a handler to a remote atomic fault carried out by the runtime (06/R150, 22/R431): 1 `REMAP`, 2 `MIGRATE`. An
answer that would change no mapping changes none. The new frame is the runtime's choice (log entry 4). A page that migrates is
unmapped, so that accesses to it take cause 0x10, until its invalidation retires; then it is mapped again. -/
def State.answerRemote (s : State) (ctx va answer : Nat) : State :=
  match s.leafPlace ctx va with
  | none => s
  | some (a, level) =>
    let e : DWord := BitVec.ofNat 64 (s.physNat a 8)
    if fld e 4 3 = 0 then s
    else if answer = 1 then (if fld e 7 1 = 1 then s else s.rewriteLeaf ctx va a level (remapLeaf e))
    else
      let b := pageBits level
      let frame := (s.freeWord 1).toNat % 2 ^ 36 / 2 ^ (b - 16) * 2 ^ (b - 16)
      let s1 := (s.homeWrite ctx a (leBytes 8 0) false).1
      let s2 := s1.beginInval 0 (3 - level) ctx (va / 65536) (some { va := va, place := a, level := level, leaf := migrateLeaf e frame })
      { s2 with mem := memWrite s2.mem (frame * 65536) ((List.range (2 ^ b)).map fun k => s.freeByte k) }

/-- The thread's lane of a log entry. -/
def State.laneOf (s : State) (id : Nat) (tid : Tid) : Option LogLane :=
  (s.log.find? fun e => e.id == id).bind fun e => e.lanes.find? fun l => l.tid == tid
/-- The thread's lanes of a log entry retired, and the entry with its last. -/
def State.retireLanes (s : State) (id : Nat) (tid : Tid) : State :=
  { s with log := (s.log.map fun e => if e.id = id then { e with lanes := dropBy (fun l => l.tid == tid) e.lanes } else e).filter
                    fun e => !e.lanes.isEmpty }

/-- Results that are known of operations begun from a number on are delivered at once. -/
def State.finishKnown (s : State) (tid : Tid) (base : Nat) : State :=
  (s.ops.filter fun o => o.tid == tid && decide (base ≤ o.id) && o.src == .done).foldl (fun s o => s.finishOp o) s

/-- A replay of the thread's logged access at a depth and PC is not yet performed. -/
def State.replayOut (s : State) (tid : Tid) (depth pc : Nat) : Bool :=
  (s.ops.any fun o => o.tid == tid && o.depth == depth && o.acc.any fun a => a.pc == pc) ||
  (s.log.any fun e => !e.forward && e.lanes.any fun l => l.tid == tid && l.depth == depth && l.acc.pc == pc)

/-- The handler's own operations and logged accesses are over. -/
def State.handlerQuiet (s : State) (t : Thread) : Bool :=
  !(s.ops.any fun o => o.tid == t.id && o.depth == t.depth) && !(s.log.any fun e => e.lanes.any fun l => l.tid == t.id && l.depth == t.depth)

/-- The return, and the retirement of the lane it was entered for. -/
def State.leaveHandler (s : State) (t : Thread) (r : TrapRec) : State :=
  let q := (s.returnFrom (t.issued s.time.cyc) r).1
  match r.logged with
  | none => q
  | some id => (q.retireLanes id t.id).unparkLog

/-- One lane of ERET. For a logged remote atomic the answer in `ow8` is carried out first, and the return waits for the
replay (22/R431). -/
def State.eretLane (s : State) (t : Thread) : State × Lane :=
  match t.traps with
  | [] => (s, .hold)
  | r :: _ =>
    if !s.handlerQuiet t then (s, .hold)
    else
      let lane := match r.logged with | some id => if r.cause = 0x16 then s.laneOf id t.id else none | none => none
      match lane with
      | none => if r.cause = 0x16 && s.replayOut t.id (t.depth - 1) r.pc then (s, .hold) else (s.leaveHandler t r, .asIs)
      | some l =>
        let w := s.frameWord t t.depth (offOw t 8)
        match w.2 with
        | none => (w.1.endGrid (s.team t.team).grid 3, .asIs)
        | some x =>
          if x ≠ 1 ∧ x ≠ 2 then (w.1.endGrid (s.team t.team).grid 3, .asIs)
          else
            let s1 := w.1.answerRemote (s.ctxOf t) (l.acc.elems.headD (0, 0)).2 x
            let base := s1.fresh
            let s2 := (s1.retireLanes (r.logged.getD 0) t.id).replayLane base l
            let s3 := s2.finishKnown t.id base
            if s3.replayOut t.id (t.depth - 1) r.pc then (s3, .hold) else (s3.leaveHandler t r, .asIs)

/-- ERET (19/R419). -/
def execEret (p : Pre) (s : State) : Out :=
  .next (s.foldLanes p fun s t =>
    match s.gate t p .levelE [] [] with
    | some x => (s, x)
    | none => s.eretLane t)

/-! ## The operand window (19/R420) -/

/-- The grid ends because a frame page is not a writable `LOCAL` page (12/R270) (one point DEDUCED, log entry 96). -/
def State.frameLost (s : State) (t : Thread) : State × Lane := (s.endGrid (s.team t.team).grid 3, .asIs)

/-- OWRD (19/R420). -/
def execOwrd (p : Pre) (d k : Nat) (s : State) : Out :=
  .next (s.foldLanes p fun s t =>
    match s.gate t p .levelE [dst d false] [] with
    | some x => (s, x)
    | none =>
      let r := s.frameWord t t.depth (offOw t k)
      match r.2 with
      | none => r.1.frameLost t
      | some x => (r.1.newOp t p (wr d x .n32) 0#6 .done none, .done [] 0#6))

/-- What `OWWR` leaves in `ow`k: only the fields marked W change (12/R271). -/
def owNew (k old new : Nat) : Nat :=
  if k = 8 ∨ k = 9 ∨ k = 12 ∨ k = 13 then new
  else if k = 15 then old - bitsAt old 24 1 * 2 ^ 24 + bitsAt new 24 1 * 2 ^ 24
  else old

/-- OWWR (19/R420). -/
def execOwwr (p : Pre) (k b : Nat) (s : State) : Out :=
  let B := srcR 2 b noPerm
  .next (s.foldLanes p fun s t =>
    match s.gate t p .levelE [] [B] with
    | some x => (s, x)
    | none =>
      let r := s.frameWord t t.depth (offOw t k)
      match r.2 with
      | none => r.1.frameLost t
      | some old =>
        let w := r.1.frameWr t t.depth (offOw t k) (leBytes 4 (owNew k old (s.srcVal t p B)))
        if w.2 then (w.1.newOp t p [] 0#6 .done none, .done [] 0#6) else w.1.frameLost t)

/-! ## The trapped thread's registers and flags (19/R421, R424) -/

/-- The index operand of XRD and XWR. -/
def indexSrc (f : Nat) (n : RegImm) : List Src := match n with | .reg k => [srcR f k noPerm] | .imm _ => []
/-- The index: the C byte, or bits [7:0] of the lane's register. -/
def State.indexVal (s : State) (t : Thread) (p : Pre) (f : Nat) (n : RegImm) : Nat :=
  match n with | .reg k => s.srcVal t p (srcR f k noPerm) % 256 | .imm k => k

/-- XRD (19/R421). -/
def execXrd (p : Pre) (d : Nat) (n : RegImm) (s : State) : Out :=
  .next (s.foldLanes p fun s t =>
    match s.gate t p .levelE [dst d false] (indexSrc 2 n) with
    | some x => (s, x)
    | none =>
      let k := s.indexVal t p 2 n
      if k = 255 then (s.newOp t p (wr d 0 .raw) 0#6 .done none, .done [] 0#6)
      else if s.nrOf t ≤ k then (s, .trap 0x08 k none)
      else if k < 16 then
        let r := s.frameGet t t.depth k
        match r.2 with
        | none => r.1.frameLost t
        | some x => (r.1.newOp t p (wr d x.1.toNat x.2) 0#6 .done none, .done [] 0#6)
      else
        let x := t.reg k
        (s.newOp t p (wr d x.1.toNat x.2) 0#6 .done none, .done [] 0#6))

/-- XWR (19/R421). -/
def execXwr (p : Pre) (tag : Option Tag) (b : Nat) (n : RegImm) (s : State) : Out :=
  let B := srcR 2 b noPerm
  .next (s.foldLanes p fun s t =>
    match s.gate t p .levelE [] (B :: indexSrc 3 n) with
    | some x => (s, x)
    | none =>
      let k := s.indexVal t p 3 n
      let v : Word := BitVec.ofNat 32 (s.srcVal t p B)
      let tg := tag.getD (s.srcTag t p B)
      if k = 255 then (s.newOp t p [] 0#6 .done none, .done [] 0#6)
      else if s.nrOf t ≤ k then (s, .trap 0x08 k none)
      else if k < 16 then
        let r := s.frameReg t t.depth k v tg
        if r.2 then (r.1.newOp t p [] 0#6 .done none, .done [] 0#6) else r.1.frameLost t
      else if s.writePending t k then (s, .hold)
      else ((s.newOp t p [] 0#6 .done none).editThread t.id fun x => x.setReg k v tg, .done [] 0#6))

/-- XFLG: a load and a store of the mask of the frame column (19/R424). -/
def execXflg (p : Pre) (done : Bool) (d b : Nat) (s : State) : Out :=
  let B := srcR 2 b noPerm
  .next (s.foldLanes p fun s t =>
    match s.gate t p .levelE [dst d false] (if done then [B] else []) with
    | some x => (s, x)
    | none =>
      let r := s.frameWord t t.depth (offMask t)
      match r.2 with
      | none => r.1.frameLost t
      | some old =>
        if done then
          let b12 := s.srcVal t p B % 4096
          let new := old - (old &&& b12)
          let w := r.1.frameWr t t.depth (offMask t) (leBytes 4 new)
          if w.2 then (w.1, .done (wr d new .n32) 0#6) else w.1.frameLost t
        else (r.1, .done (wr d old .n32) 0#6))

/-! ## Matrix registers (19/R422, R423) -/

/-- Element e of a register's dense view, with its tag (19/R422). -/
def MReg.element (m : MReg) (e : Nat) : Nat × Tag :=
  match m.form with
  | .empty => (0, .f32)
  | .dense => (((m.dense.find? fun x => x.1 == e).map fun x => x.2.toNat).getD 0, m.tag)
  | .factor =>
    ((dotF (m.us.map fun u => (u.getD (e / 64) 0#32).toNat) (m.vs.map fun v => (v.getD (e % 64) 0#32).toNat)).1, .f32)

/-- XMRD: it waits for the operations queued earlier on its register (19/R422). -/
def execXmrd (p : Pre) (d a b : Nat) (s : State) : Out :=
  let B := srcR 2 b noPerm
  .next (s.foldLanes p fun s t =>
    match s.gate t p .levelE [dst d false] [B] with
    | some x => (s, x)
    | none =>
      if s.mqBusy t.id.core t.team a s.fresh then (s, .hold)
      else
        let r := (((s.teamOf t).mregs[a]?).getD MReg.reset).element (s.srcVal t p B % 4096)
        (s, .done (wr d r.1 r.2) 0#6))

/-- XMWR: it enters the matrix queue once per lane (19/R423). -/
def execXmwr (p : Pre) (tag : Tag) (init : Bool) (d a b : Nat) (s : State) : Out :=
  let A := srcR 1 a noPerm
  let B := srcR 2 b noPerm
  .next (s.foldLanes p fun s t =>
    match s.gate t p .levelE [] [A, B] with
    | some x => (s, x)
    | none => s.matLane t (.xmwr d (s.srcVal t p B % 4096) (BitVec.ofNat 32 (s.srcVal t p A)) tag init))

/-! ## Clocks, counters and capture (19/R425, R426, R428) -/

/-- CLOCK (19/R425). -/
def execClock (p : Pre) (cyc : Bool) (d : Nat) (s : State) : Out :=
  .next (s.foldLanes p fun s t =>
    match s.gate t p .any [dst d true] [] with
    | some x => (s, x)
    | none =>
      let r := s.capValue t (if cyc then 1 else 0) ((if cyc then s.time.cyc else s.time.ns) % 2 ^ 64)
      (r.1, .done (wrPair d r.2 .n64) 0#6))

/-- A counter of PERFQ (19/R426). -/
def State.perfOf (s : State) (t : Thread) (sel : Nat) : Nat :=
  let tm := s.teamOf t
  if sel < 8 then nth t.perf sel
  else if sel < 15 then nth (s.group t.team (groupIndex tm t.id.slot)).perf (sel - 8)
  else tm.clocks
/-- The counter zeroed. -/
def State.perfClear (s : State) (t : Thread) (sel : Nat) : State :=
  if sel < 8 then s.editThread t.id fun x => { x with perf := bump x.perf sel fun _ => 0 }
  else if sel < 15 then
    s.editGroup t.team (groupIndex (s.teamOf t) t.id.slot) fun g => { g with perf := bump g.perf (sel - 8) fun _ => 0 }
  else s.editTeam t.team fun x => { x with clocks := 0 }

/-- PERFQ (19/R426). -/
def execPerfq (p : Pre) (clr : Bool) (d sel : Nat) (s : State) : Out :=
  .next (s.foldLanes p fun s t =>
    match s.gate t p .any [dst d true] [] with
    | some x => (s, x)
    | none =>
      let r := s.capValue t (0x100 + sel) (s.perfOf t sel % 2 ^ 64)
      (if clr then r.1.perfClear t sel else r.1, .done (wrPair d r.2 .n64) 0#6))

/-- CAPMARK: a record in a captured grid, and in replay a match with the next one of its core (19/R428). -/
def execCapmark (p : Pre) (imm : Int) (s : State) : Out :=
  let v := wrapTo 32 imm
  .next (s.foldLanes p fun s t =>
    let gid := (s.teamOf t).grid
    if s.replays gid then
      match s.capNext fun r => r.kind == 7 && r.unit == t.id.core with
      | some r => if r.detail = v then (s.capUse r, .done [] 0#6) else (s.endGrid gid 3, .asIs)
      | none => (s.endGrid gid 3, .asIs)
    else (s.capRecord gid 7 t.id.core v t.pc [], .done [] 0#6))

/-! ## System registers written by the runtime -/

/-- A register whose bits of a mask are writable. -/
def masked (mask : Nat) (old v : DWord) : DWord := (old &&& ~~~BitVec.ofNat 64 mask) ||| (v &&& BitVec.ofNat 64 mask)
/-- The bits of a field. -/
def fieldMask (lo n : Nat) : Nat := (2 ^ n - 1) * 2 ^ lo
/-- A counter field that a write of 0 clears and any other value leaves. -/
def zeroClears (lo n : Nat) (old v : DWord) : DWord := if fld v lo n = 0 then setFld old lo n 0 else old
/-- A register whose named bits are cleared by writing 1. -/
def w1c (mask : Nat) (old v : DWord) : DWord := old &&& ~~~(v &&& BitVec.ofNat 64 mask)

/-- FLOOR written: the clock is at once at the least STEP it imposes (01/R23, R24) (one point DEDUCED, log entry 47). -/
def State.writeFloor (s : State) (v : DWord) : State :=
  let c := setFld s.sys.clkstep 8 4 (fld v 8 4)
  let fl := min (fld v 8 4) 8
  { s with sys := { s.sys with clkstep := if fld c 0 4 < fl then setFld (setFld c 0 4 fl) 4 4 3 else c } }

/-- The entry of a port's counter cache. -/
def State.hotEntry (s : State) (port index : Nat) : Option HotEntry := s.fabric.hot.find? fun e => e.port == port && e.index == index
/-- `HOTDAT` of an entry (02/R57). -/
def hotdatOf (e : Option HotEntry) : DWord :=
  match e with
  | none => 0#64
  | some e => BitVec.ofNat 64 (e.page % 2 ^ 36 * 2 ^ 28 + e.src % 2 ^ 16 * 2 ^ 12 + e.count % 2 ^ 12)

/-- A write of `HOTSEL` (02/R57): CLR zeroes the selected entry, and `HOTDAT` is loaded (one point DEDUCED, log entry 95). -/
def execHotselWrite (v : DWord) (s : State) : Out :=
  let port := fld v 10 6
  let index := fld v 0 10
  let s1 : State :=
    if fld v 31 1 = 1 ∧ port < Config.ports then
      { s with fabric := { s.fabric with hot := dropBy (fun e => e.port == port && e.index == index) s.fabric.hot } }
    else s
  .next { s1 with sys := { s1.sys with
    hotsel := BitVec.ofNat 64 (fld v 0 16), hotdat := hotdatOf (if port < Config.ports then s1.hotEntry port index else none) } }

/-- A write of `OPLOGSTAT` (06/R145): CORE is set, and for the newly selected core a FULL or PEAK field written as 0 is cleared;
PEAK then counts from the entries in use (one point DEDUCED, log entry 48). -/
def execOplogstatWrite (v : DWord) (s : State) : Out :=
  let core := fld v 16 10
  let s1 : State := { s with sys := { s.sys with oplogCore := core } }
  .next (s1.editCore core fun c =>
    { c with logFull := if fld v 32 32 = 0 then 0 else c.logFull, logPeak := if fld v 8 8 = 0 then s.logUsed core else c.logPeak })

/-- A write of a register that holds one value per context. -/
def Ctx.write (c : Ctx) (n : Nat) (v : DWord) : Ctx :=
  match n with
  | 0x050 => { c with spawncfg := masked (fieldMask 0 32) c.spawncfg v }
  | 0x060 => { c with wincfg := masked (fieldMask 32 23 + 1) c.wincfg v }
  | 0x062 => { c with privwin := masked (fieldMask 30 34 + 1) c.privwin v }
  | 0x090 => { c with trapvec := masked (fieldMask 5 50) c.trapvec v }
  | 0x091 => { c with emuvec := masked (fieldMask 5 50) c.emuvec v }
  | 0x092 => { c with trapfrm := masked (fieldMask 30 25 + 1) c.trapfrm v }
  | _ => c

/-- A write of a register that holds one value for the device; the others are read-only. -/
def SysRegs.write (r : SysRegs) (n : Nat) (v : DWord) : SysRegs :=
  match n with
  | 0x024 => { r with thermstat := w1c (fieldMask 32 2) r.thermstat v }
  | 0x025 => { r with pwrcap := masked (fieldMask 0 32) r.pwrcap v }
  | 0x030 => { r with nodeid := masked (fieldMask 0 16) r.nodeid v }
  | 0x031 => { r with fprtab := masked (fieldMask 16 36 + 1) r.fprtab v }
  | 0x032 => { r with fpintab := masked (fieldMask 16 36 + 1) r.fpintab v }
  | 0x033 => { r with hotcfg := masked (fieldMask 16 16 + fieldMask 8 4 + 1) r.hotcfg v }
  | 0x036 => { r with fperr := zeroClears 0 16 (zeroClears 16 16 (zeroClears 32 16 (zeroClears 48 16 r.fperr v) v) v) v }
  | 0x042 => { r with budcfg := masked (fieldMask 13 39 + fieldMask 0 8) r.budcfg v }
  | 0x043 => { r with lacl := masked (fieldMask 6 46 + 1) r.lacl v }
  | 0x044 => { r with parttab := masked (fieldMask 6 46 + 1) r.parttab v }
  | 0x045 => { r with stoplim := masked (fieldMask 0 32) r.stoplim v }
  | 0x047 => { r with capcfg := w1c 4 (masked (fieldMask 12 52 + 3) r.capcfg v) v }
  | 0x052 => { r with savepool := masked (fieldMask 30 34 + 1) r.savepool v }
  | 0x061 => { r with detstat := zeroClears 0 32 r.detstat v }
  | 0x070 => { r with ctxtab := masked (fieldMask 15 37 + 1) r.ctxtab v }
  | 0x093 => { r with opdis := masked (fieldMask 7 45 + 1) r.opdis v }
  | _ => r

/-- A write of `TLBINV` begins the invalidation that it names (06/R140). -/
def State.writeTlbinv (s : State) (v : DWord) : State :=
  let x := match fld v 62 2 with
    | 0 => execTlbinvPage (fld v 60 2) (fld v 48 12) (fld v 0 39) s
    | 1 => execTlbinvContext (fld v 48 12) s
    | 2 => execTlbinvAll s
    | _ => .next s
  nextOr s x

/-- REGISTER_WRITE: the runtime writes a register in the S view; `ctx` names the context of a register kept per context. A
write of `CAPCFG` begins the region anew. -/
def execRegisterWrite (n ctx : Nat) (v : DWord) (s : State) : Out :=
  if n = 0x026 then .next (s.writeFloor v)
  else if n = 0x034 then execHotselWrite v s
  else if n = 0x071 then .next (s.writeTlbinv v)
  else if n = 0x072 then execOplogstatWrite v s
  else if n = 0x050 ∨ n = 0x060 ∨ n = 0x062 ∨ n = 0x090 ∨ n = 0x091 ∨ n = 0x092 then .next (s.editCtx ctx fun c => c.write n v)
  else
    .next { s with
      sys := s.sys.write n v
      capture := if n = 0x047 then { pos := 0, next := 0, used := [] } else s.capture }

/-- System register n in the S view, as the runtime reads it; `ctx` names the context of a register kept per context
(03/R69). The rule does not say whose job JOBID, and with it BUDUSE, names where no thread reads: JOBID keeps its reset value
(DESIGN CHOICE, log entry 116). -/
def State.viewS (s : State) (n ctx : Nat) : Nat :=
  let c := s.ctx ctx
  let r := s.sys
  match n with
  | 0x020 => r.bootstat.toNat
  | 0x021 => r.d2dstat.toNat
  | 0x022 => r.mlstat.toNat
  | 0x023 => r.fpstat.toNat
  | 0x024 => r.thermstat.toNat
  | 0x025 => r.pwrcap.toNat
  | 0x026 => r.clkstep.toNat
  | 0x030 => r.nodeid.toNat
  | 0x031 => r.fprtab.toNat
  | 0x032 => r.fpintab.toNat
  | 0x033 => r.hotcfg.toNat
  | 0x034 => r.hotsel.toNat
  | 0x035 => r.hotdat.toNat
  | 0x036 => r.fperr.toNat
  | 0x040 => r.jobid.toNat
  | 0x041 => s.buduse (fld r.jobid 52 12) (fld r.jobid 0 32)
  | 0x042 => r.budcfg.toNat
  | 0x043 => r.lacl.toNat
  | 0x044 => r.parttab.toNat
  | 0x045 => r.stoplim.toNat
  | 0x046 => r.features.toNat
  | 0x047 => r.capcfg.toNat
  | 0x050 => c.spawncfg.toNat
  | 0x052 => r.savepool.toNat
  | 0x060 => c.wincfg.toNat
  | 0x061 => r.detstat.toNat
  | 0x062 => c.privwin.toNat
  | 0x070 => r.ctxtab.toNat
  | 0x072 =>
    let k := s.core r.oplogCore
    min (2 ^ 32 - 1) k.logFull * 2 ^ 32 + r.oplogCore * 2 ^ 16 + min 255 k.logPeak * 2 ^ 8 + s.logUsed r.oplogCore
  | 0x090 => c.trapvec.toNat
  | 0x091 => c.emuvec.toNat
  | 0x092 => c.trapfrm.toNat
  | 0x093 => r.opdis.toNat
  | _ => 0

end Sys2Proof.Machine
end

