-- ==== Sys2Proof/Machine/Sched.lean ====
section
/-! DEFINITION. Scheduling on a core (04/R87 to R96, R106): the active set and its rotation, issue formation, the choice of
what issues, ageing and the fairness switch. -/

namespace Sys2Proof.Machine

/-! ## What may issue -/

/-- The count that limits of cycles run on for a thread's grid: cycles, or in determinism mode instructions issued by the core
(04/R106) (one point DEDUCED, log entry 97). -/
def State.clockOf (s : State) (t : Thread) : Nat := if (s.gridOf t).determ then (s.core t.id.core).issued else s.time.cyc

/-- A thread is offered for formation (04/R91): it stands ready at a header, or in the middle of a clause, in no entry. -/
def State.offered (s : State) (t : Thread) : Bool :=
  s.mayIssue t && (t.clause.isSome || (s.forwarded t).isNone) &&
  (match t.run with
   | .ready | .held => true
   | .flagWait m => s.flagMask t.id t.depth &&& m == 0
   | .paused til => decide (til ≤ s.clockOf t)
   | _ => false) &&
  !(s.entries.any fun e => e.members.contains t.id)

/-! ## ISSUE_FORMATION (04/R90, R91) -/

/-- A thread's place in the order of offering: by age, oldest first; in determinism mode by group slot and lane. -/
def State.offerKey (s : State) (t : Thread) : Nat × Nat × Nat :=
  (if (s.gridOf t).determ then 0 else t.lastIssue + 1, t.id.slot, t.id.lane)
/-- The order of keys. -/
def keyLess (a b : Nat × Nat × Nat) : Bool :=
  decide (a.1 < b.1) || (a.1 == b.1 && (decide (a.2.1 < b.2.1) || (a.2.1 == b.2.1 && decide (a.2.2 < b.2.2))))
/-- Insertion in the order of offering. -/
def State.offerInsert (s : State) (t : Thread) : List Thread → List Thread
  | [] => [t]
  | x :: l => if keyLess (s.offerKey t) (s.offerKey x) then t :: x :: l else x :: State.offerInsert s t l
/-- The threads of a core that are offered, in order. -/
def State.offers (s : State) (core : Nat) : List Thread :=
  (s.threads.filter fun t => t.id.core == core && s.offered t).foldl (fun l t => s.offerInsert t l) []

/-- An entry takes a thread: it has its key, and its lane clear (04/R91). -/
def State.takes (s : State) (e : Entry) (t : Thread) : Bool :=
  e.pc == t.pc && e.ctx == s.ctxOf t && !(e.members.any fun i => i.lane == t.id.lane)

/-- A thread that joins an entry is ready. -/
def State.joined (s : State) (t : Thread) : State := s.setThread { t with run := .ready }

/-- A thread offered to its core's table. -/
def State.offer (s : State) (t : Thread) : State :=
  let ctx := s.ctxOf t
  let set := setOf ctx t.pc
  let mine := s.entries.filter fun e => e.core == t.id.core && e.set == set
  match (List.range 4).find? fun w => mine.any fun e => e.way == w && s.takes e t with
  | some w =>
    let es := editBy (fun e => e.core == t.id.core && e.set == set && e.way == w)
      (fun e => { e with members := e.members ++ [t.id] }) s.entries
    { s.joined t with entries := es }
  | none =>
    match freeWay s.entries t.id.core set with
    | none => s
    | some w =>
      let e : Entry :=
        { id := s.fresh, core := t.id.core, set := set, way := w, ctx := ctx, pc := t.pc, members := [t.id], since := s.time.cyc, aged := 0 }
      { s.joined t with entries := s.entries ++ [e], fresh := s.fresh + 1 }

/-- Members that may no longer issue leave their entries, and an entry with no members is freed. -/
def State.pruneEntries (s : State) (core : Nat) : State :=
  let es := s.entries.map fun (e : Entry) =>
    if e.core = core then { e with members := e.members.filter (fun i => s.mayIssue (s.thread i)) } else e
  let kept := es.filter fun e => !e.members.isEmpty
  { s with entries := kept }

/-- ISSUE_FORMATION. -/
def execIssueFormation (core : Nat) (s : State) : Out :=
  let s1 := s.pruneEntries core
  .next ((s1.offers core).foldl (fun s t => s.offer t) s1)

/-! ## Priorities (04/R94) -/

/-- The priority of an entry: that of its highest-priority member. -/
def State.entryPrio (s : State) (e : Entry) : Nat := (e.members.map fun i => (s.teamOf (s.thread i)).prio).foldl max 0
/-- Its effective priority. -/
def State.effective (s : State) (e : Entry) : Nat := min 127 (s.entryPrio e + e.aged)
/-- The priority of the group in a slot of a core. -/
def State.slotPrio (s : State) (core slot : Nat) : Nat := ((s.teamAtSlot core slot).map (·.prio)).getD 0
/-- The effective priority of a group that waits in the slow file (one point DEDUCED, log entry 54). -/
def State.slowEff (s : State) (core : Nat) (x : Nat × Nat × Nat) : Nat := min 127 (s.slotPrio core x.1 + x.2.2)
/-- The effective priority of an active group: its own, or that of an entry it has members in (one point DEDUCED, log entry 54). -/
def State.activeEff (s : State) (core slot : Nat) : Nat :=
  ((s.entries.filter fun e => e.core == core && e.members.any fun i => i.slot == slot).map s.effective).foldl max (s.slotPrio core slot)

/-- What ageing adds after standing ready since a cycle without issuing: plus 1 for every 4,096 cycles. -/
def agedAt (cyc since : Nat) : Nat := min 127 ((cyc - since) / 4096)
/-- An entry aged. -/
def Entry.age (e : Entry) (cyc : Nat) : Entry := { e with aged := agedAt cyc e.since }
/-- The groups of a core's slow file aged. -/
def Core.age (c : Core) (cyc : Nat) : Core := { c with slow := c.slow.map fun x => (x.1, x.2.1, agedAt cyc x.2.1) }

/-- PRIORITY_AGING: the entries of a core, and the groups of its slow file, aged. Every cycle ages those of every core, so that no
choice is made with an older priority. -/
def execPriorityAging (core : Nat) (s : State) : Out :=
  let s1 : State := { s with entries := editBy (fun e => e.core == core) (fun e => e.age s.time.cyc) s.entries }
  .next (s1.editCore core fun c => c.age s.time.cyc)

/-! ## ISSUE_SLOT_CHOICE and FAIRNESS_SWITCH (04/R93, R95) -/

/-- The issue slot of a number, and the other. -/
def Core.slotOf (c : Core) (k : Nat) : IssueSlot := if k = 0 then c.slot0 else c.slot1
def Core.setSlot (c : Core) (k : Nat) (x : IssueSlot) : Core := if k = 0 then { c with slot0 := x } else { c with slot1 := x }
/-- An entry is the one a slot issues from. -/
def IssueSlot.has (i : IssueSlot) (e : Entry) : Bool := i.entry == some e.id

/-- The entries that a slot may issue from: those of its core other than the other slot's. -/
def State.slotEntries (s : State) (core slot : Nat) : List Entry :=
  s.entries.filter fun e => e.core == core && !(((s.core core).slotOf (1 - slot)).has e)

/-- The age of an entry's oldest member, as the cycle of its last issue. -/
def State.entryOldest (s : State) (e : Entry) : Nat :=
  (e.members.map fun i => (s.thread i).lastIssue).foldl min s.time.cyc

/-- One entry goes before another: a higher effective priority, then the older. -/
def State.entryBefore (s : State) (a b : Entry) : Bool :=
  decide (s.effective b < s.effective a) || (s.effective a == s.effective b && decide (s.entryOldest a < s.entryOldest b))
/-- The first of a list of entries. -/
def State.bestEntry (s : State) : List Entry → Option Entry
  | [] => none
  | a :: l =>
    match State.bestEntry s l with
    | none => some a
    | some b => if s.entryBefore b a then some b else some a

/-- The greedy choice: the entry it issued from last, until its 64th consecutive issue while a higher one waits. -/
def State.greedy (s : State) (core slot : Nat) : Option Entry :=
  let i := (s.core core).slotOf slot
  match s.entries.find? fun e => e.core == core && i.has e with
  | none => none
  | some e => if i.run < 64 || !((s.slotEntries core slot).any fun x => decide (s.effective e < s.effective x)) then some e else none

/-- What a slot issues next. -/
def State.choice (s : State) (core slot : Nat) : Option Entry :=
  match s.greedy core slot with
  | some e => some e
  | none => s.bestEntry (s.slotEntries core slot)

/-- The members of an entry in lane order. -/
def inLanes (l : List Tid) : List Tid := (List.range 32).filterMap fun k => l.find? fun i => i.lane == k

/-- The clause of an entry ends with this issue and its header hints YIELD: the slot then prefers another entry of equal
effective priority (14/R308). -/
def State.yields (s : State) (core slot : Nat) (e : Entry) : Bool :=
  (e.members.any fun i => (s.thread i).clause.any fun c => c.yield && decide (c.count ≤ c.idx + 1)) &&
  (s.slotEntries core slot).any fun x => !(x.set == e.set && x.way == e.way) && s.effective x == s.effective e

/-- The members of an entry that issue together, in lane order: those that stand as the first of them does, at a header or at the
same place of a clause. -/
def State.issuing (s : State) (e : Entry) : List Tid :=
  match inLanes e.members with
  | [] => []
  | i :: l => i :: l.filter fun j => (s.thread j).clause == (s.thread i).clause

/-- An entry issues from a slot: its members' next item is examined in the next step. -/
def State.issueFrom (s : State) (core slot : Nat) (e : Entry) : State :=
  let i := (s.core core).slotOf slot
  let mid : Bool := e.members.any fun t => (s.thread t).clause.isSome
  let n := (s.core core).issued + (if mid then 1 else 0)
  let next : IssueSlot :=
    if s.yields core slot e then { entry := none, run := 0 }
    else { entry := some e.id, run := if i.has e then i.run + 1 else 1 }
  let s1 : State :=
    { s with
      entries := editBy (fun x => x.core == core && x.set == e.set && x.way == e.way) (fun x => { x with since := s.time.cyc, aged := 0 }) s.entries
      threads := s.threads.map fun t => if (s.issuing e).contains t.id then { t with sinceCount := n } else t
      issue := s.issuing e }
  s1.editCore core fun c =>
    { c.setSlot slot next with issued := n, issuedBy := if mid then countBy c.issuedBy e.ctx (· + 1) else c.issuedBy }

/-- A thread has waited long enough, and another path of its home group has issued meanwhile (04/R95). -/
def State.waitedLong (s : State) (t : Thread) : Bool :=
  let from_ := max t.lastIssue t.readySince
  let long : Bool := if (s.gridOf t).determ then decide (t.sinceCount + 4096 ≤ (s.core t.id.core).issued) else decide (from_ + 4096 ≤ s.time.cyc)
  long && s.threads.any fun x => x.id.core == t.id.core && x.id.slot == t.id.slot && x.id != t.id && x.pc != t.pc && decide (from_ < x.lastIssue)

/-- The entry that the fairness switch gives a slot. -/
def State.unfair (s : State) (core slot : Nat) : Option Entry :=
  (s.slotEntries core slot).find? fun e => e.members.any fun i => s.waitedLong (s.thread i)

/-- ISSUE_SLOT_CHOICE: the slot's entry issues, unless another issue is still to be examined. -/
def execIssueSlotChoice (core slot : Nat) (s : State) : Out :=
  if !s.issue.isEmpty then .next s
  else
    let s1 := s.pruneEntries core
    match s1.choice core slot with
    | none => .next s1
    | some e => .next (s1.issueFrom core slot e)

/-- FAIRNESS_SWITCH: the slot issues the entry of a thread that has waited long enough; it goes before greedy choice and
priority. -/
def execFairnessSwitch (core slot : Nat) (s : State) : Out :=
  if !s.issue.isEmpty then .next s
  else
    let s1 := s.pruneEntries core
    match s1.unfair core slot with
    | none => .next s1
    | some e => .next (s1.issueFrom core slot e)

/-! ## The active set (04/R87 to R89) -/

/-- KiB of the context of the group in a slot. -/
def State.slotKib (s : State) (core slot : Nat) : Nat :=
  match s.teamAtSlot core slot with
  | none => 0
  | some tm => ((tm.groups[groupIndex tm slot]?).map fun g => kibOf g.role.nr).getD 0

/-- A thread is ready in the sense of R89: not at a blocking point, not parked, not waiting on a clause flag. -/
def State.threadReady (s : State) (t : Thread) : Bool :=
  match t.run with
  | .ready | .held | .paused _ => true
  | .flagWait m => s.flagMask t.id t.depth &&& m == 0
  | _ => false
/-- A group is ready. -/
def State.groupReady (s : State) (core slot : Nat) : Bool :=
  !s.groupParked core slot && s.threads.any fun t => t.id.core == core && t.id.slot == slot && t.live && s.threadReady t
/-- Every non-exited thread of a group is at a blocking point or parked. -/
def State.groupStopped (s : State) (core slot : Nat) : Bool :=
  s.groupParked core slot || s.threads.all fun t => !(t.id.core == core && t.id.slot == slot && t.live) || t.stopped

/-- Determinism mode governs a core: a team of such a grid is placed on it. -/
def State.coreDeterm (s : State) (core : Nat) : Bool := (s.placedOn core).any fun t => (s.grid t.grid).determ

/-- One waiting group enters before another: a higher effective priority, then the longer wait, or in determinism mode the lower
slot. -/
def State.entersBefore (s : State) (core : Nat) (a b : Nat × Nat × Nat) : Bool :=
  decide (s.slowEff core b < s.slowEff core a) ||
  (s.slowEff core a == s.slowEff core b && (if s.coreDeterm core then decide (a.1 < b.1) else decide (a.2.1 < b.2.1)))
/-- The ready group of the slow file that enters next. -/
def State.entrant (s : State) (core : Nat) : Option (Nat × Nat × Nat) :=
  ((s.core core).slow.filter fun x => s.groupReady core x.1).foldl
    (fun b x => match b with | none => some x | some y => if s.entersBefore core x y then some x else some y) none

/-- KiB of the fast file in use. -/
def State.fastKib (s : State) (core : Nat) : Nat := ((s.core core).active.map fun x => s.slotKib core x.1).sum
/-- A group has room in the active set once the groups of a list have left. -/
def State.fastRoom (s : State) (core slot : Nat) (gone : List Nat) : Bool :=
  let stay := (s.core core).active.filter fun x => !gone.contains x.1
  decide (stay.length < 16) && decide ((stay.map fun x => s.slotKib core x.1).sum + s.slotKib core slot ≤ 128)

/-- Cycles that a group's context takes to move, at 256 bytes per cycle. -/
def State.moveCycles (s : State) (core slot : Nat) : Nat := 4 * s.slotKib core slot
/-- The cycle at which a move in a direction that begins now ends: contexts that move the same way follow one another
(04/R88). -/
def State.moveEnd (s : State) (core slot : Nat) (into : Bool) : Nat :=
  (((s.core core).moves.filter fun m => m.into == into).map (·.til)).foldl max s.time.cyc + s.moveCycles core slot

/-- A group begins to enter. -/
def State.enterGroup (s : State) (core slot : Nat) : State :=
  let til := s.moveEnd core slot true
  s.editCore core fun c =>
    { c with active := c.active ++ [(slot, s.time.cyc)], slow := c.slow.filter fun x => x.1 != slot
             moves := c.moves ++ [{ slot := slot, into := true, til := til }] }
/-- A group begins to leave. -/
def State.leaveGroup (s : State) (core slot : Nat) : State :=
  let til := s.moveEnd core slot false
  s.editCore core fun c => { c with moves := c.moves ++ [{ slot := slot, into := false, til := til }] }

/-- Active groups that do not move. -/
def Core.settled (c : Core) : List (Nat × Nat) := c.active.filter fun x => !(c.moves.any fun m => m.slot == x.1)

/-- ROTATION_BLOCKED: while a ready group waits in the slow file, the active groups with every thread blocked or parked leave, and the
waiting group whose turn it is enters as soon as there is room. -/
def execRotationBlocked (core : Nat) (s : State) : Out :=
  match s.entrant core with
  | none => .next s
  | some x =>
    let s1 := ((s.core core).settled.filter fun a => s.groupStopped core a.1).foldl (fun s a => s.leaveGroup core a.1) s
    .next (if s1.fastRoom core x.1 [] then s1.enterGroup core x.1 else s1)

/-- Active groups in the order in which the quantum takes them: least effective priority, then longest active
(one point DEDUCED, log entry 55). -/
def State.leavers (s : State) (core : Nat) : List (Nat × Nat) :=
  let before := fun (a b : Nat × Nat) =>
    decide (s.activeEff core a.1 < s.activeEff core b.1) || (s.activeEff core a.1 == s.activeEff core b.1 && decide (a.2 < b.2))
  let rec insert (a : Nat × Nat) : List (Nat × Nat) → List (Nat × Nat)
    | [] => [a]
    | b :: l => if before a b then a :: b :: l else b :: insert a l
  (s.core core).settled.foldl (fun l a => insert a l) []

/-- The count on which a core's quantum runs. -/
def State.quantumClock (s : State) (core : Nat) : Nat := if s.coreDeterm core then (s.core core).issued else s.time.cyc
/-- A quantum of a core has passed. -/
def State.quantumDue (s : State) (core : Nat) : Bool := decide ((s.core core).lastQuantum + 65536 ≤ s.quantumClock core)

/-- ROTATION_QUANTUM: the active group of least effective priority leaves if a ready group of equal or higher one waits; more
leave where the limits ask for it. -/
def execRotationQuantum (core : Nat) (s : State) : Out :=
  if !s.quantumDue core then .next s
  else
    let now := s.quantumClock core
    let s1 := s.editCore core fun c => { c with lastQuantum := now }
    match s.entrant core with
    | none => .next s1
    | some x =>
      let l := ((s.leavers core).filter fun a => decide (s.activeEff core a.1 ≤ s.slowEff core x)).map (·.1)
      match (List.range l.length).find? fun n => s.fastRoom core x.1 (l.take (n + 1)) with
      | none => .next s1
      | some n => .next ((l.take (n + 1)).foldl (fun s k => s.leaveGroup core k) s1)

/-- A leaving group's clauses in progress are complete. -/
def State.clausesDone (s : State) (core slot : Nat) : Bool :=
  s.threads.all fun t => !(t.id.core == core && t.id.slot == slot && t.live && t.clause.isSome) || t.stopped

/-- CONTEXT_MOVE_COMPLETE: a group's context is wholly in the file it moved to. -/
def execContextMoveComplete (core slot : Nat) (s : State) : Out :=
  match (s.core core).moves.find? fun m => m.slot == slot with
  | none => .next s
  | some m =>
    if s.time.cyc < m.til ∨ (!m.into ∧ !s.clausesDone core slot) then .next s
    else
      let s1 := s.editCore core fun c => { c with moves := c.moves.filter fun x => x.slot != slot }
      if m.into then .next s1
      else
        .next ((s1.editCore core fun c => { c.addSlow [slot] s.time.cyc with active := c.active.filter fun x => x.1 != slot }).pruneEntries core)

end Sys2Proof.Machine
end

