-- ==== Sys2Proof/Machine/Fabric.lean ====
section
/-! DEFINITION. What arrives on the fabric (02): malformed packets, duplicates, inbound access and hotness, requests performed
at their homes, lossy blocks and deadlines (10/R231, R232), launch requests (03/R58 to R60), responses and their issuers,
retransmission, buffer-release flits, and bolts. -/

namespace Sys2Proof.Machine

/-! ## FPERR (02/R57) -/

/-- A counter of FPERR raised; it saturates. -/
def State.fperr (s : State) (lo : Nat) : State :=
  { s with sys := { s.sys with fperr := setFld s.sys.fperr lo 16 (satAdd 0xFFFF (fld s.sys.fperr lo 16) 1) } }
/-- DISCARD, TAGFAIL, LINKRETRY and TIMEOUT. TAGFAIL counts a received packet whose ETAG failed, with data flits or without: the rule
names blocks (DESIGN CHOICE, log entry 114). -/
def fpDISCARD : Nat := 16
def fpTAGFAIL : Nat := 48
def fpLINKRETRY : Nat := 32
def fpTIMEOUT : Nat := 0

/-! ## Malformed packets (02/R40) -/

/-- The class and length that R38 lists for a type. -/
def shapeListed (k : Packet) : Bool :=
  let rel : Bool := k.cls == 0
  let ctl : Bool := k.cls == 2
  match k.typ with
  | 0x01 => rel && k.len == 0
  | 0x02 => (rel || ctl) && decide (1 ≤ k.len)
  | 0x03 => (rel || k.cls == 1) && decide (1 ≤ k.len)
  | 0x04 => (rel || ctl) && k.len == 0
  | 0x05 => rel && k.len == 1
  | 0x06 => (rel || ctl) && k.len == 1
  | 0x07 => (rel || ctl) && k.len == 0
  | 0x08 => rel && k.len == 0
  | 0x10 => ctl && decide (1 ≤ k.len)
  | 0x11 => ctl && k.len == 0
  | 0x12 => ctl && decide (1 ≤ k.len)
  | _ => false

/-- An ATOMIC's AUX names an operation and a type of ATOM or RED (17/R373 to R375). -/
def atomicAuxOk (aux : Nat) : Bool :=
  let ty := Tag.ofCode (bitsAt aux 3 4)
  match AtOp.ofCode? (bitsAt aux 0 3) with
  | none => false
  | some op => bitsAt aux 8 16 == 0 && Tag.isAtom ty && (if bitsAt aux 7 1 = 1 then redOk ty op else atomOk ty op)

/-- AUX holds a value that R38 allows for the type. -/
def auxAllowed (k : Packet) : Bool :=
  match k.typ with
  | 0x01 => decide (1 ≤ k.aux) && decide (k.aux ≤ 8)
  | 0x02 | 0x04 | 0x06 | 0x11 => decide (k.aux < 256)
  | 0x03 => if k.cls = 1 then bitsAt k.aux 0 16 == 0 else k.aux == 0
  | 0x05 => atomicAuxOk k.aux
  | 0x07 => k.aux == 0
  | _ => true

/-- A LAUNCH has the header and reserved bytes of R58. A packet addressed by port holds the port in ADDR (02/R33)
(one point DEDUCED, log entry 58). -/
def launchShape (k : Packet) : Bool :=
  k.len == 1 && (if k.dst = 0xFFFF then decide (k.addr < 64) else k.addr == 0) && k.bmask == allBytes && k.aux == 0 &&
  recField k.data 12 20 == 0 && recField k.data 0 8 % 128 == 0 && decide (recField k.data 0 8 < 2 ^ 55)

/-- A malformed packet (02/R40, 03/R58) (one point DEDUCED, log entry 57). -/
def malformed (k : Packet) : Bool :=
  !shapeListed k || decide (2 < k.cls) || decide (8 < k.len) || k.rsv || (k.bmask != allBytes && k.len != 1) || !auxAllowed k ||
  (k.typ == 0x03 && k.cls == 1 && !(k.len == 8 && k.addr % 256 == 0)) || (k.typ == 0x10 && !launchShape k)

/-- A packet addressed to this device (02/R33): by port in class CONTROL whatever NODEID holds, else to its node once it has
one (one point DEDUCED, log entry 56). -/
def State.accepts (s : State) (k : Packet) : Bool := (k.cls == 2 && k.dst == 0xFFFF) || (s.node != 0xFFFF && k.dst == s.node)

/-- The answer to a malformed request, if it has one (02/R40). -/
def State.answerMalformed (s : State) (port : Nat) (k : Packet) : State :=
  let r := s.responseTo k
  let byPort : Bool := k.dst == 0xFFFF
  if isResponse k.typ || (k.cls != 0 && k.cls != 2) then s
  else
    match k.typ with
    | 0x01 => s.sendResponse port byPort (r 0x02 stUNSUPPORTED 1 (zeros 32))
    | 0x05 => s.sendResponse port byPort (r 0x06 stUNSUPPORTED 1 (zeros 32))
    | 0x03 | 0x08 => s.sendResponse port byPort (r 0x04 stUNSUPPORTED 0 [])
    | 0x10 | 0x12 => s.sendResponse port byPort (r 0x11 stUNSUPPORTED 0 [])
    | _ => s.sendResponse port byPort (r (if k.cls = 0 then 0x04 else 0x11) stUNSUPPORTED 0 [])

/-- A port in service (01/R31). -/
def State.portUp (s : State) (port : Nat) : Bool := bitsAt s.sys.fpstat.toNat port 1 == 1

/-- A buffer-release flit that returns credits of one channel; the device reports no depths (02/R42). -/
def releaseFlit (vc n : Nat) : Nat := n * 2 ^ (224 + 8 * vc) + ((List.range 7).map fun k => 0xFFFF * 2 ^ (208 - 24 * k)).sum
/-- The device has taken a packet in from a port, and returns the credits of its flits at once, one flit a packet (02/R42)
(DESIGN CHOICE, log entry 12). -/
def State.release (s : State) (port : Nat) (k : Packet) : State :=
  { s with fabric := { s.fabric with releases := s.fabric.releases ++ [(port, releaseFlit (vcOf k) (1 + k.len))] } }

/-- A packet received on a port: its buffer is returned; it is discarded and counted when it is not for this device or is malformed,
otherwise handled by the step of its type. -/
def State.receive (s : State) (port : Nat) (k : Packet) (mine : Bool) (f : State → State) : Out :=
  if !s.portUp port then .next s
  else
    let s1 := s.release port k
    if !s.accepts k then .next (s1.fperr fpDISCARD)
    else if malformed k then .next ((s1.fperr fpDISCARD).answerMalformed port k)
    else .next (if mine then f s1 else s1)

/-! ## Hotness counters (02/R56) -/

/-- The first of n numbers that a port's entries do not use. -/
def freeEntry (l : List HotEntry) (k : Nat) : Nat → Nat
  | 0 => k
  | n + 1 => if l.any fun e => e.index == k then freeEntry l (k + 1) n else k
/-- The entry of least COUNT, the lowest index on a tie (one point DESIGN CHOICE, log entry 63). -/
def leastHot : List HotEntry → Option HotEntry
  | [] => none
  | a :: l =>
    match leastHot l with
    | none => some a
    | some b => if b.count < a.count ∨ (b.count = a.count ∧ b.index < a.index) then some b else some a

/-- A sampled packet counted under its key. -/
def State.hotCount (s : State) (port page src : Nat) : State :=
  let mine := s.fabric.hot.filter fun e => e.port == port && e.count != 0
  let e : HotEntry :=
    match mine.find? fun e => e.page == page && e.src == src with
    | some e => { e with count := min 4095 (e.count + 1) }
    | none =>
      let i := if mine.length < 1024 then freeEntry mine 0 1024 else ((leastHot mine).map (·.index)).getD 0
      { port := port, index := i, page := page, src := src, count := 1 }
  let grown := !(s.fabric.hot.contains e)
  let s1 := { s with fabric := { s.fabric with hot := putBy (fun x => x.port == port && x.index == e.index) e s.fabric.hot } }
  let thresh := fld s.sys.hotcfg 16 16
  if grown && thresh != 0 && e.count == thresh then s1.post (.hot port e.index) else s1

/-- A flagged packet noted by its port: with EN set, one in 2^SHIFT is counted. Which one of each 2^SHIFT is open
(one point DESIGN CHOICE, log entry 63). -/
def State.hotSample (s : State) (port : Nat) (k : Packet) : State :=
  if !k.hot || fld s.sys.hotcfg 0 1 = 0 then s
  else
    let n := (s.port port).flagged + 1
    let s1 := s.editPort port fun p => { p with flagged := n }
    let phase := (Config.freeValue 1).toNat
    if (n + phase) % 2 ^ fld s.sys.hotcfg 8 4 = 0 then s1.hotCount port (k.addr / 65536) k.src else s1

/-! ## Inbound access (02/R55) -/

/-- The permission of the first matching entry, from entry i on. -/
def State.permitGo (s : State) (k : Packet) (bit i : Nat) : Nat → Bool
  | 0 => false
  | n + 1 =>
    let a := fld s.sys.fpintab 16 36 * 65536 + 32 * i
    let base := s.physNat a 8
    let size := s.physNat (a + 8) 8
    let who := s.physNat (a + 16) 2
    if size ≠ 0 ∧ (who = k.src ∨ who = 0xFFFF) ∧ base ≤ k.addr ∧ k.addr < base + size then bitsAt (s.physNat (a + 18) 1) bit 1 == 1
    else State.permitGo s k bit (i + 1) n
/-- The inbound table permits an access of a kind: 0 read, 1 RELIABLE write, 2 atomic, 3 LOSSY write. -/
def State.permits (s : State) (k : Packet) (bit : Nat) : Bool := fld s.sys.fpintab 0 1 == 1 && s.permitGo k bit 0 256

/-! ## Responses to RELIABLE requests (02/R38, R46) -/

/-- A response sent and recorded with its request for 100 µs (one point DEDUCED, log entry 60). -/
def State.answer (s : State) (port : Nat) (k resp : Packet) : State :=
  let d : DupRec := { src := k.src, tag := k.tag, resp := resp, til := s.time.ns + 100000 }
  let dups := putBy (fun x => x.src == k.src && x.tag == k.tag) d s.fabric.dups
  ({ s with fabric := { s.fabric with dups := dups } }).sendResponse port false resp

/-- RDATA: the flits asked for, or one flit of zeros. -/
def State.answerRead (s : State) (port : Nat) (k : Packet) (status : Nat) (data : List Byte) : State :=
  s.answer port k (if status = 0 then s.responseTo k 0x02 0 k.aux data else s.responseTo k 0x02 status 1 (zeros 32))
/-- ACK. -/
def State.answerAck (s : State) (port : Nat) (k : Packet) (status : Nat) : State := s.answer port k (s.responseTo k 0x04 status 0 [])
/-- ADATA: the old value in bytes 0 to 7, or zeros. -/
def State.answerOld (s : State) (port : Nat) (k : Packet) (status old : Nat) : State :=
  s.answer port k (s.responseTo k 0x06 status 1 (leBytes 32 old))

/-! ## Home accesses of packets (02/R47, R52, R54) -/

/-- The masked bytes of a run written at their home line by line, and whether all were performed. -/
def State.homeMasked (s : State) (ctx pa : Nat) (l : List Byte) (mask : Nat) : State × Bool :=
  let d := leNat l * 2 ^ (8 * (pa % 128))
  let m := mask * 2 ^ (pa % 128)
  let n := (pa % 128 + l.length + 127) / 128
  (List.range n).foldl (fun r j =>
    let mj := bitsAt m (128 * j) 128
    if mj = 0 then r
    else
      let q := r.1.homeWriteLine ctx (pa / 128 + j) (bitsAt d (1024 * j) 1024) mj false
      (q.1, r.2 && q.2)) (s, true)

/-- An address of the window aperture (05/R109). -/
def inWindow (pa : Nat) : Bool := decide (Config.windowPA ≤ pa)

/-- The 4-byte words that n bytes of the window touch. -/
def winWords (off n : Nat) : List Nat := (List.range ((off + n + 3) / 4 - off / 4)).map (· + off / 4)
/-- What word w of the window names to the fabric (05/R110). -/
def State.winWord (s : State) (w : Nat) : WinTarget := s.winTarget none (4 * w) 4
/-- The window offset of an address. -/
def winOff (pa : Nat) : Nat := pa - Config.windowPA

/-- Bytes of the window as they stand. -/
def State.winBytes (s : State) (off n : Nat) : List Byte :=
  (List.range n).flatMap fun i =>
    let a := off + i
    match s.winWord (a / 4) with
    | .reg t r => ((wordBytes (s.ownerRead t r)).drop (a % 4)).take 1
    | .scr tm o => s.scrRead tm (o + a % 4) 1
    | .refused => [0#8]

/-- Owners of the registers among some words (one point DEDUCED, log entry 59). -/
def State.winOwners (s : State) (l : List Nat) : List Tid :=
  (l.filterMap fun w => match s.winWord w with | .reg t _ => some t | _ => none).eraseDups

/-- Words of a run that the mask writes. -/
def maskedWords (off n mask : Nat) : List Nat :=
  (winWords off n).filter fun w => (List.range 4).any fun k =>
    decide (off ≤ 4 * w + k) && decide (4 * w + k < off + n) && bitsAt mask (4 * w + k - off) 1 == 1

/-- The bytes that a masked write puts in n bytes at window offset a, each with its place there. -/
def laneBytes (off : Nat) (l : List Byte) (mask a n : Nat) : List (Nat × Byte) :=
  (List.range n).filterMap fun k =>
    (if a + k < off then none else if bitsAt mask (a + k - off) 1 = 1 then l[a + k - off]? else none).map fun b => (k, b)

/-- One word of a masked write through the window aperture. -/
def State.winPutWord (s : State) (off : Nat) (l : List Byte) (mask id w : Nat) : State :=
  let bytes := laneBytes off l mask (4 * w) 4
  match s.winWord w with
  | .refused => s
  | .scr tm o => bytes.foldl (fun s x => s.scrWrite tm (o + x.1) [x.2]) s
  | .reg t n =>
    let v := (bytes.map fun x => x.2.toNat * 2 ^ (8 * x.1)).sum
    let m := (bytes.map fun x => 255 * 2 ^ (8 * x.1)).sum
    if m = 0 then s
    else s.ownerWrite t { n := n, v := BitVec.ofNat 32 v, mask := BitVec.ofNat 32 m, tag := .raw, pkt := id }

/-- A masked write through the window aperture, line by line: all 128 bytes of a scratchpad line are written at once, so that its
data is replaced (06/R151), and other bytes word by word. -/
def State.winPut (s : State) (off : Nat) (l : List Byte) (mask id : Nat) : State :=
  ((List.range ((off % 128 + l.length + 127) / 128)).map (· + off / 128)).foldl (fun s j =>
    let bytes := laneBytes off l mask (128 * j) 128
    match s.winWord (32 * j), decide (bytes.length = 128) with
    | .scr tm o, true => s.scrWrite tm o (bytes.map (·.2))
    | _, _ => ((maskedWords off l.length mask).filter fun w => w / 32 == j).foldl (fun s w => s.winPutWord off l mask id w) s) s

/-- Some words of the window lie in an uncorrectable line of a scratchpad (06/R151). -/
def State.winLost (s : State) (l : List Nat) : Bool :=
  l.any fun w => match s.winWord w with | .scr tm o => (s.team tm).scrLost o 4 | _ => false

/-- Window writes of a packet that are not performed yet. -/
def State.winPending (s : State) (id : Nat) : Bool := s.threads.any fun t => t.win.any fun w => w.pkt == id

/-- A packet's access still being performed: forgotten. -/
def State.dropPerforming (s : State) (id : Nat) : State :=
  { s with fabric := { s.fabric with performing := dropBy (fun p => p.id == id) s.fabric.performing } }

/-- The owner's registers among some words may be read now (05/R111). -/
def State.winSettled (s : State) (words : List Nat) (t : Tid) : Bool :=
  words.all fun w => match s.winWord w with | .reg o n => o != t || s.ownerSettled o n | _ => true
/-- The words that a packet names in the window. -/
def pktWords (k : Packet) : List Nat := winWords (winOff k.addr) (if k.typ = 0x01 then 32 * k.aux else k.data.length)

/-- An access that cannot be performed at once: it waits for boundaries of some owners (02/R46) (one point DEDUCED, log entry 61). -/
def State.performLater (s : State) (id port : Nat) (k : Packet) (waits : List Tid) (data : List Byte) : State :=
  let p : Performing := { id := id, port := port, pkt := k, waits := waits, data := data }
  { s with fabric := { s.fabric with performing := s.fabric.performing ++ [p] } }

/-! ## Capture of arrivals (03/R73) -/

/-- A grid whose inputs are being recorded: one region serves every captured grid, so that one record serves them all
(one point DESIGN CHOICE, log entry 24). -/
def State.capGrid (s : State) : Nat := ((s.grids.find? fun g => g.capture && g.status.isNone).map (·.id)).getD 0
/-- The detail of a packet's record: its TYPE in the high byte, and below it LEN for a WRITE, AUX for an ATOMIC or CREDIT, and both
for a response (DESIGN CHOICE, log entry 24). -/
def capDetail (k : Packet) : Nat :=
  k.typ * 2 ^ 24 + (if k.typ = 0x03 then k.len else if k.typ = 0x05 ∨ k.typ = 0x08 then k.aux else k.aux % 256 + 256 * k.len)
/-- A packet that arrived, with its data; a single flit is followed by its byte mask. Whether the source is a host, kind 5, the
device cannot tell (one point DESIGN CHOICE, log entry 24). A response is recorded under the address of its request. -/
def State.capArrival (s : State) (port : Nat) (k : Packet) (addr : Nat := k.addr) : State :=
  s.capRecord s.capGrid (if s.freeBit 40 then 5 else 1) port (capDetail k) addr (if k.len = 1 then k.data ++ leBytes 4 k.bmask else k.data)

/-! ## READ, WRITE, ATOMIC, CREDIT -/

/-- A READ performed. -/
def State.doRead (s : State) (port : Nat) (k : Packet) : State :=
  let n := 32 * k.aux
  if !s.permits k 0 then s.answerRead port k stDENIED []
  else if inWindow k.addr then
    let off := winOff k.addr
    let words := winWords off n
    if words.any fun w => s.winWord w == .refused then s.answerRead port k stDENIED []
    else if s.winLost words then s.answerRead port k stDATALOST []
    else
      let waits := (s.winOwners words).filter fun t => !s.winSettled words t
      if waits.isEmpty then s.answerRead port k 0 (s.winBytes off n)
      else { s with fresh := s.fresh + 1 }.performLater s.fresh port k waits (s.winBytes off n)
  else
    let h := s.homeLoad k.addr n
    match h.2 with
    | none => h.1.answerRead port k stDATALOST []
    | some l => h.1.answerRead port k 0 l

/-- The byte mask of a WRITE: BMASK for one flit, else every byte. -/
def writeMask (k : Packet) : Nat := if k.len = 1 then k.bmask else 2 ^ (32 * k.len) - 1

/-- A WRITE performed at its home: memory, scratchpad or registers (02/R47, R54). -/
def State.doWrite (s : State) (port : Nat) (k : Packet) : State :=
  if !s.permits k 1 then s.answerAck port k stDENIED
  else if inWindow k.addr then
    let off := winOff k.addr
    let words := maskedWords off k.data.length (writeMask k)
    if words.any fun w => s.winWord w == .refused then s.answerAck port k stDENIED
    else
      let id := s.fresh
      let s1 := ({ s.capArrival port k with fresh := id + 1 } : State).winPut off k.data (writeMask k) id
      if s1.winPending id then s1.performLater id port k (s1.winOwners words) []
      else s1.answerAck port k (if s1.winLost words then stDATALOST else 0)
  else
    let h := (s.capArrival port k).homeMasked k.ctx k.addr k.data (writeMask k)
    h.1.answerAck port k (if h.2 then 0 else stDATALOST)

/-- Flits of a block whose tag fails may have landed, in memory or scratchpad, byte by byte (02/R52)
(one point DEDUCED, log entry 64). -/
def State.landed (s : State) (k : Packet) : State :=
  let free := ((List.range 4).map fun i => (s.freeWord (50 + i)).toNat * 2 ^ (64 * i)).sum
  let mask := writeMask k &&& free
  if !s.permits k 1 then s
  else if inWindow k.addr then
    let off := winOff k.addr
    ((maskedWords off k.data.length mask).filter fun w => match s.winWord w with | .scr _ _ => true | _ => false).foldl
      (fun s w => s.winPutWord off k.data mask 0 w) s
  else (s.homeMasked k.ctx k.addr k.data mask).1

/-- An ATOMIC performed at the home slice (17/R375). -/
def State.doAtomic (s : State) (port : Nat) (k : Packet) : State :=
  if !s.permits k 2 || inWindow k.addr then s.answerOld port k stDENIED 0
  else
    let ty := Tag.ofCode (bitsAt k.aux 3 4)
    let op := (AtOp.ofCode? (bitsAt k.aux 0 3)).getD .add
    let h := (s.capArrival port k).homeAtom k.ctx k.addr op ty (recField k.data 0 8) (recField k.data 8 8)
    match h.2 with
    | none => h.1.answerOld port k stDATALOST 0
    | some old => h.1.answerOld port k 0 old

/-- The word that a CREDIT names: in memory, or in a scratchpad through the window aperture. -/
def State.creditLoc (s : State) (pa : Nat) : Option WordLoc :=
  if inWindow pa then
    match s.winTarget none (winOff pa) 4 with
    | .scr tm o => some (.scr tm o)
    | _ => none
  else some (.mem pa)
/-- A word lies in an uncorrectable line (06/R151). -/
def State.wordLost (s : State) : WordLoc → Bool
  | .mem pa => s.lineBad (pa / 128)
  | .scr tm o => (s.team tm).scrLost o 16

/-- A CREDIT performed at its word (02/R50, 10/R229). -/
def State.doCredit (s : State) (port : Nat) (k : Packet) : State :=
  match s.creditLoc k.addr with
  | none => s.answerAck port k stDENIED
  | some loc =>
    if s.wordLost loc then s.answerAck port k stDATALOST
    else (((s.capArrival port k).credit loc k.aux).1).answerAck port k 0

/-- A RELIABLE request performed as its type says. -/
def State.perform (s : State) (port : Nat) (k : Packet) : State :=
  match k.typ with
  | 0x01 => s.doRead port k
  | 0x03 => s.doWrite port k
  | 0x05 => s.doAtomic port k
  | _ => s.doCredit port k

/-- The inbound table permits a request as its type asks; a CREDIT needs no entry (02/R55). -/
def State.permitted (s : State) (k : Packet) : Bool :=
  match k.typ with
  | 0x01 => s.permits k 0
  | 0x03 => s.permits k 1
  | 0x05 => s.permits k 2
  | _ => true
/-- The lines of memory that a request reads or writes; an ATOMIC's element and a CREDIT's word lie in one. -/
def pktLines (k : Packet) : List Nat :=
  let n := match k.typ with | 0x01 => 32 * k.aux | 0x03 => 32 * k.len | _ => 1
  (List.range ((k.addr % 128 + n + 127) / 128)).map (· + k.addr / 128)
/-- A request has to wait: a line of its own comes over a link that is retraining (01/R12). -/
def State.pktWaits (s : State) (k : Packet) : Bool := !inWindow k.addr && s.permitted k && (pktLines k).any s.homeWaits

/-- Progress is possible. -/
def State.canProgress (s : State) (p : Performing) : Bool :=
  if !inWindow p.pkt.addr then !s.pktWaits p.pkt
  else if p.pkt.typ = 0x01 then p.waits.any (s.winSettled (pktWords p.pkt)) || p.waits.isEmpty
  else !s.winPending p.id

/-- A performing access taken as far as it can go now; it is answered once it is performed. -/
def State.progress (s : State) (p : Performing) : State :=
  if !s.canProgress p then s
  else if !inWindow p.pkt.addr then (s.dropPerforming p.id).perform p.port p.pkt
  else if p.pkt.typ = 0x01 then
    let now := p.waits.filter (s.winSettled (pktWords p.pkt))
    let off := winOff p.pkt.addr
    let fresh := s.winBytes off p.data.length
    let data := p.data.mapIdx fun i b =>
      match s.winWord ((off + i) / 4) with
      | .reg t _ => if now.contains t then fresh.getD i b else b
      | _ => b
    let rest := p.waits.filter fun t => !now.contains t
    if rest.isEmpty then (s.dropPerforming p.id).answerRead p.port p.pkt 0 data
    else
      let l := editBy (fun x => x.id == p.id) (fun x => { x with waits := rest, data := data }) s.fabric.performing
      { s with fabric := { s.fabric with performing := l } }
  else
    let words := maskedWords (winOff p.pkt.addr) p.pkt.data.length (writeMask p.pkt)
    (s.dropPerforming p.id).answerAck p.port p.pkt (if s.winLost words then stDATALOST else 0)

/-- Every access being performed taken as far as it can go. -/
def State.progressAll (s : State) : State := s.fabric.performing.foldl (fun s p => s.progress p) s

/-- WINDOW_WRITE_APPLY: at a clause boundary of the owner its waiting window writes are performed (05/R111), and accesses from the
fabric that waited for the boundary with them (02/R47); so are those of an evicted owner at level E, whose v0 to v15 stand in its
frame (04/R100, 12/R269). -/
def execWindowWriteApply (tid : Tid) (s : State) : Out :=
  let t := s.thread tid
  .next ((if t.atBoundary || ((s.team t.team).image.isSome && decide (0 < t.depth)) then s.applyWins tid else s).progressAll)

/-- A RELIABLE request: one being performed is not begun again, one recorded is answered from its record, one whose tag fails is
answered NACK after `spoil`, any other is performed (02/R44 to R46, R52). A flagged one is counted whichever it is (02/R56). -/
def State.reliable (s : State) (port : Nat) (k : Packet) (spoil : State → State) : State :=
  let s0 := if k.typ = 0x08 then s else s.hotSample port k
  if s0.fabric.performing.any fun p => p.pkt.src == k.src && p.pkt.tag == k.tag then s0
  else
    match s0.fabric.dups.find? fun d => d.src == k.src && d.tag == k.tag && decide (s0.time.ns < d.til) with
    | some d => s0.sendResponse port false d.resp
    | none =>
      if k.etag ≠ etagOf k then
        ((spoil s0).fperr fpTAGFAIL).sendResponse port false ((s0.responseTo k 0x07 0 0 []))
      else if s0.pktWaits k then { s0 with fresh := s0.fresh + 1 }.performLater s0.fresh port k [] []
      else s0.perform port k

/-- READ_RECEIVE. -/
def execReadReceive (port : Nat) (k : Packet) (s : State) : Out :=
  s.receive port k (k.typ == 0x01) fun s => s.reliable port k id
/-- WRITE_RECEIVE: a RELIABLE WRITE (one point DEDUCED, log entry 64). -/
def execWriteReceive (port : Nat) (k : Packet) (s : State) : Out :=
  s.receive port k (k.typ == 0x03 && k.cls == 0) fun s => s.reliable port k fun s => s.landed k
/-- ATOMIC_RECEIVE. -/
def execAtomicReceive (port : Nat) (k : Packet) (s : State) : Out :=
  s.receive port k (k.typ == 0x05) fun s => s.reliable port k id
/-- CREDIT_RECEIVE (one point DEDUCED, log entry 66). -/
def execCreditReceive (port : Nat) (k : Packet) (s : State) : Out :=
  s.receive port k (k.typ == 0x08) fun s => s.reliable port k id

/-! ## LOSSY blocks (02/R51, 10/R231, R232) -/

/-- The mask area of an entry, and one bit of its bitmap: 0 the valid mask, 1 the landed mask. -/
def LossyEntry.maskLoc (e : LossyEntry) : WordLoc := locShift e.loc (maskOff e.maskAt)
def LossyEntry.bitByte (e : LossyEntry) (map j : Nat) : Nat := map * bitmapBytes e.size + j / 8
/-- Bit j of a bitmap. -/
def State.maskBit (s : State) (e : LossyEntry) (map j : Nat) : Bool := bitsAt (s.wordAt e.maskLoc (e.bitByte map j) 1) (j % 8) 1 == 1
/-- Bit j of a bitmap set. -/
def State.setMaskBit (s : State) (e : LossyEntry) (map j : Nat) : State :=
  let o := e.bitByte map j
  s.wordPut e.maskLoc o (leBytes 1 (s.wordAt e.maskLoc o 1 ||| 2 ^ (j % 8)))
/-- Bytes written at block j of an entry's region, in the word's own space. -/
def State.regionPut (s : State) (e : LossyEntry) (j : Nat) (l : List Byte) : State :=
  match e.loc with
  | .mem _ => (s.homeMasked e.ctx (e.region + 256 * j) l (2 ^ l.length - 1)).1
  | .scr tm _ => s.scrWrite tm (s.wordAt e.loc 16 8 + 256 * j) l
/-- LOST raised. -/
def State.addLost (s : State) (e : LossyEntry) (n : Nat) : State :=
  s.wordPut e.loc 28 (leBytes 4 ((s.awField e.loc 7 + n) % 2 ^ 32))

/-- An arriving LOSSY block (02/R51). -/
def State.doLossy (s : State) (port : Nat) (k : Packet) : State :=
  match s.fabric.lossy.find? fun e => decide (e.region ≤ k.addr) && decide (k.addr < e.region + e.size) with
  | none => s.fperr fpDISCARD
  | some e =>
    let j := (k.addr - e.region) / 256
    if bitsAt k.aux 16 8 ≠ s.awField e.loc 2 % 256 ∨ s.maskBit e 1 j then s.fperr fpDISCARD
    else
      let s0 := s.capArrival port k
      let good : Bool := k.etag == etagOf k
      let s1 := (s0.regionPut e j (if good then k.data else zeros 256)).setMaskBit e 1 j
      let s2 := if good then s1.setMaskBit e 0 j else (s1.addLost e 256).fperr fpTAGFAIL
      let s3 := (s2.credit e.loc 256).1
      s3.capRecord s3.capGrid 2 port (if good then 1 else 0) k.addr []

/-- LOSSY_WRITE_RECEIVE. -/
def execLossyWriteReceive (port : Nat) (k : Packet) (s : State) : Out :=
  s.receive port k (k.typ == 0x03 && k.cls == 1) fun s =>
    let s0 := s.hotSample port k
    if s0.permits k 3 then s0.doLossy port k else s0.fperr fpDISCARD

/-- The deadline of an entry has come with its generation open (10/R232). -/
def State.deadlineDue (s : State) (e : LossyEntry) : Bool :=
  decide (e.expiry ≤ s.time.ns) && decide (s.awField e.loc 1 < s.awField e.loc 0)

/-- One block of the deadline fill. -/
def State.fillBlock (s : State) (e : LossyEntry) (j : Nat) : State :=
  let s1 := (s.regionPut e j (zeros 256)).setMaskBit e 1 j
  s1.capRecord s1.capGrid 2 0 0 (e.region + 256 * j) []

/-- LOSSY_DEADLINE: the entry whose region begins at an address is filled, credited once and leaves the table
(one point DEDUCED, log entry 65). -/
def execLossyDeadline (pa : Nat) (s : State) : Out :=
  match s.fabric.lossy.find? fun e => e.region == pa with
  | none => .next s
  | some e =>
    if s.deadlineDue e then
      let open_ := (List.range (e.size / 256)).filter fun j => !s.maskBit e 1 j
      let s1 := open_.foldl (fun s j => s.fillBlock e j) s
      .next (((s1.addLost e (256 * open_.length)).credit e.loc (256 * open_.length)).1.dropLossy e.loc)
    else .next s

/-! ## LAUNCH, MGMT, LCOMP -/

/-- The launch access list permits a source and a context (03/R60). -/
def State.laclOk (s : State) (src ctx : Nat) : Bool :=
  fld s.sys.lacl 0 1 == 1 && (List.range 64).any fun i =>
    let e := s.physNat (fld s.sys.lacl 6 46 * 64 + 8 * i) 8
    bitsAt e 63 1 == 1 && bitsAt e 16 12 == ctx && (bitsAt e 0 16 == src || bitsAt e 0 16 == 0xFFFF)

/-- Bring-up has reached step 10 (01/R28, R29). -/
def State.ready (s : State) : Bool := fld s.sys.bootstat 0 4 == 10 && fld s.sys.bootstat 32 8 == 0

/-- An LCOMP with a status. -/
def State.answerControl (s : State) (port : Nat) (k : Packet) (status : Nat) : State :=
  s.sendResponse port (k.dst == 0xFFFF) (s.responseTo k 0x11 status 0 [])

/-- LAUNCH_REQUEST: checked in the order of R59 and answered once; the record may have to come from another node first. -/
def execLaunchRequest (port : Nat) (k : Packet) (s : State) : Out :=
  s.receive port k (k.typ == 0x10) fun s =>
    if !s.ready then s.answerControl port k stNOTREADY
    else if !s.laclOk k.src k.ctx then s.answerControl port k stDENIED
    else
      let va := recField k.data 0 8
      let r := s.readRecord (some (port, k)) none k.ctx va
      match r.2 with
      | .wait => r.1
      | x =>
        let data := match x with | .bytes l => some l | _ => none
        let st := r.1.launchStatus k.ctx data
        let s1 := if st = 0 then r.1.accept k.ctx va (recField k.data 8 4) (some (port, k.src, k.tag)) (data.getD []) else r.1
        s1.answerControl port k st

/-- MGMT_RECEIVE: the runtime takes the message, or is not ready yet (01/R29, 02/R38). -/
def execMgmtReceive (port : Nat) (k : Packet) (s : State) : Out :=
  s.receive port k (k.typ == 0x12) fun s =>
    if !s.ready then s.answerControl port k stNOTREADY else (s.post (.mgmt port k)).answerControl port k 0

/-- LCOMP_RECEIVE: the answer to a CONTROL request of the runtime, which takes it (02/R38). -/
def execLcompReceive (port : Nat) (k : Packet) (s : State) : Out :=
  s.receive port k (k.typ == 0x11) fun s => s.post (.mgmt port k)

/-! ## Responses (02/R38, R45, R48, R49) -/

/-- The memory cause of a failed response (02/R49): access fault for DENIED and UNROUTABLE, else data lost
(one point DEDUCED, log entry 67). -/
def causeOf (status : Nat) : Nat := if status = stDENIED ∨ status = stUNROUTABLE then 0x14 else 0x17

/-- The lines of a core that a write to a node went to, once it is answered: those that are no longer busy leave the L1, with the
dirty bytes that later stores of a line's thread have put there written to their home first (05/R118). -/
def State.lineAnswered (s : State) (core node pa : Nat) : State :=
  s.evictAll (fun l => l.core == core && l.apt != 0 && l.node == node && l.pa / 128 == pa / 128 && !s.lineBusy l) none

/-- A line that has come from another node enters the L1, or the constant caches for an LDC (05/R116, R124), if its page still maps
it there, the frame's entry names its alias (06/R141), nothing since its sending makes it old (11/R251), and no write to it is under
way. -/
def State.fillFrom (s : State) (o : LongOp) (a : Acc) (va : Nat) (r : Req) (data : List Byte) : State :=
  let ctx := s.ctxOf (s.thread o.tid)
  let core := o.tid.core
  match (s.walk ctx va).2 with
  | .fault _ => s
  | .leaf level e =>
    let x := leafXlat level e va
    let same : Bool := x.node == r.dst && x.pa / 128 * 128 == r.pkt.addr && data.length == 128
    let written : Bool := s.fabric.reqs.any fun q => q.pkt.typ != 0x01 && q.dst == r.dst && q.pkt.addr / 128 == r.pkt.addr / 128
    if a.stale || !same || written then s
    else if a.sp = .c then s.constFill core ctx (va / 128) (lineOf data)
    else if x.cached && s.revNames (clusterOf core) ctx (va / 65536) (frameKey x) then s.fillLine core ctx va x (lineOf data) a.hint
    else s

/-- The bytes that a response gives an access of n bytes at an address: of a READ of a line that the core holds in part, its valid
bytes stand before the home's (05/R116). -/
def State.respBytes (s : State) (o : LongOp) (a : Acc) (r : Req) (data : List Byte) (va n : Nat) : List Byte :=
  if r.pkt.typ = 0x05 then data.take n
  else
    let home := (data.drop (va % (32 * r.pkt.aux))).take n
    match if a.sp = .c then none else s.line? o.tid.core (s.ctxOf (s.thread o.tid)) (va / 128) with
    | none => home
    | some l => home.mapIdx fun i b => if bitsAt l.valid (va % 128 + i) 1 = 1 then (lineRead l.data (va % 128 + i) 1).headD b else b

/-- The state without an operation. -/
def State.dropOp (s : State) (id : Nat) : State := { s with ops := dropBy (fun x => x.id == id) s.ops }
/-- An operation replaced. -/
def State.setOp (s : State) (o : LongOp) : State := { s with ops := editBy (fun x => x.id == o.id) (fun _ => o) s.ops }

/-- An operation of a lane answered OK: its value is known, or the next read of an XB element follows. -/
def State.opAnswered (s : State) (o : LongOp) (r : Req) (data : List Byte) : State :=
  match o.src, o.acc with
  | .issueRead base _, _ => s.setOp { o with src := .issueRead base data }
  | .fabric _ _, some a =>
    match a.elems with
    | [] => s.setOp { o with src := .done }
    | (i, va) :: rest =>
      let n := (match a.kind with | .xb _ _ => if i = 1 then 2 else a.elem | _ => a.elem)
      let b := s.respBytes o a r data va n
      let s1 := if r.pkt.typ = 0x01 then s.fillFrom o a va r data else s
      match a.kind with
      | .xb _ _ =>
        let t := { s1.thread o.tid with depth := o.depth }
        let s2 := s1.dropOp o.id
        if o.dead then s2 else s2.xbGo s2.fresh t o.flag { a with data := a.data ++ b, elems := rest } rest
      | _ =>
        let s2 := if a.ord = .acq then s1.acquireL1 o.tid.core (s.ctxOf (s.thread o.tid)) a.sc else s1
        s2.setOp { o with src := .done, writes := a.cells i b }
  | _, _ => s

/-- An operation of a lane answered otherwise: the lane takes a precise fault, which is logged; a read at issue fails its
instruction (02/R49, 18/R387). -/
def State.opFailed (s : State) (o : LongOp) (r : Req) (status : Nat) : State :=
  let cause := causeOf status
  match o.src, o.acc with
  | .issueRead base _, _ => s.setOp { o with src := .issueBad base (32 * r.pkt.aux) cause }
  | .fabric _ _, some a =>
    let s1 := s.dropOp o.id
    let t := { s1.thread o.tid with depth := o.depth }
    match a.elems with
    | [] => s1
    | x :: _ => if o.dead then s1 else (s1.logLane s1.fresh t o.flag a x.2 cause false).frameFlags o.tid o.depth
  | _, _ => s

/-- What waits for a request learns its status, and the payload of a response that is OK. -/
def State.inform (s : State) (r : Req) (status : Nat) (data : List Byte) : State :=
  let ok : Bool := status == 0
  match r.why with
  | .op i =>
    match s.ops.find? fun o => o.id == i with
    | none => s
    | some o => if ok then s.opAnswered o r data else s.opFailed o r status
  | .store tm _ => (if ok then s else s.stick r.why).lineAnswered (s.team tm).core r.dst r.pkt.addr
  | .wbGroup _ _ core _ _ => (if ok then s else s.stick r.why).lineAnswered core r.dst r.pkt.addr
  | .wbCtx core _ _ => (if ok then s else s.stick r.why).lineAnswered core r.dst r.pkt.addr
  | .cmd i =>
    if !ok then (if r.pkt.typ = 0x03 then s.writeFailed i r.dst r.pkt.addr else s).cmdError i (errOf status) 0
    else if r.pkt.typ = 0x01 then
      s.editCmd i fun c => { c with buf := c.buf ++ [{ node := r.dst, addr := r.pkt.addr, data := data }] }
    else s
  | .credit i => if ok then s else s.cmdError i (errOf status) 0
  | .record i =>
    let s1 := { s with records := editBy (fun x => x.id == i) (fun x => { x with data := some (if ok then some data else none) }) s.records }
    match s.records.find? fun x => x.id == i with
    | some x => (match x.pkt with | some (port, k) => s1.due (.launchRequest port k) | none => s1)
    | none => s1
  | .word gid => if ok then s.finishGrid gid else s.wordFault (s.grid gid) (causeOf status)

/-- A request over (02/R48): its counter falls, its TAG rests for 100 µs, its issuer learns the status, and requests that
waited behind it are sent. -/
def State.complete (s : State) (r : Req) (status : Nat) (data : List Byte) : State :=
  let reqs := dropBy (fun x => x.dst == r.dst && x.tag == r.tag) s.fabric.reqs
  let rest := dropBy (fun t => t.1 == r.dst && t.2.1 == r.pkt.tag) s.fabric.tags
  let tags := if r.pkt.tag < tagSpace then rest ++ [(r.dst, r.pkt.tag, s.time.ns + 100000)] else rest
  let s0 := if counted r.pkt && decide (0 < r.sends) then s.ackStep r.why (· - 1) else s
  let s1 : State := { s0 with fabric := { s0.fabric with reqs := reqs, tags := tags } }
  let s2 := s1.inform r status data
  s2.kick s2.fabric.reqs

/-- A request sent again, or completed TIMEOUT after the fifth sending (02/R45), or UNROUTABLE when the device has no node id or no
port is left (02/R33, R43). -/
def State.again (s : State) (r : Req) : State :=
  if 5 ≤ r.sends then (s.fperr fpTIMEOUT).complete r stTIMEOUT []
  else if s.unroutable r.pkt then s.complete r stUNROUTABLE []
  else s.transmit r

/-- The request that a response answers: this device's, of its node and TAG, already sent. -/
def State.answered (s : State) (k : Packet) : Option Req :=
  s.fabric.reqs.find? fun r => r.dst == k.src && r.pkt.tag == k.tag && decide (0 < r.sends) && r.pkt.cls == k.cls &&
    (match k.typ with
     | 0x02 => r.pkt.typ == 0x01
     | 0x04 => r.pkt.typ == 0x03 || r.pkt.typ == 0x08
     | 0x06 => r.pkt.typ == 0x05
     | _ => true)

/-- RESPONSE_RECEIVE: RDATA, ACK or ADATA. One that answers nothing outstanding changes nothing; one whose tag fails has its
request sent again (02/R39, R45, R48, R54). An RDATA of status OK with another number of flits than asked for, of which no rule
speaks, counts as DATALOST (DESIGN CHOICE, log entry 115). -/
def execResponseReceive (port : Nat) (k : Packet) (s : State) : Out :=
  s.receive port k (k.typ == 0x02 || k.typ == 0x04 || k.typ == 0x06) fun s =>
    match s.answered k with
    | none => s
    | some r =>
      if k.etag ≠ etagOf k then (s.fperr fpTAGFAIL).again r
      else
        let st := k.aux % 256
        let short : Bool := k.typ == 0x02 && k.len != r.pkt.aux
        let status := if st = 0 then (if short then stDATALOST else 0) else if 6 ≤ st then stDATALOST else st
        (s.capArrival port k r.pkt.addr).complete r status k.data

/-- NACK_RECEIVE: the request is sent again (02/R45). -/
def execNackReceive (port : Nat) (k : Packet) (s : State) : Out :=
  s.receive port k (k.typ == 0x07) fun s =>
    match s.answered k with
    | none => s
    | some r => s.again r

/-- A request has had no response for 20 µs. -/
def State.timedOut (s : State) (r : Req) : Bool := decide (0 < r.sends) && decide (r.sentAt + 20000 ≤ s.time.ns)

/-- A request that waited behind another, or for a TAG, may be sent, but no port reaches its node any more, or the device has lost its
node id: it completes UNROUTABLE (02/R33, R43) (one point DEDUCED, log entry 70). -/
def State.stranded (s : State) (r : Req) : Bool :=
  let ahead := s.fabric.reqs.takeWhile fun x => !(x.dst == r.dst && x.tag == r.tag)
  r.sends == 0 && !(ahead.any fun x => waitsBehind r.pkt x.pkt) && s.unroutable r.pkt

/-- REQUEST_TIMEOUT (02/R45). -/
def execRequestTimeout (dst tag : Nat) (s : State) : Out :=
  match s.fabric.reqs.find? fun r => r.dst == dst && r.tag == tag with
  | none => .next s
  | some r => .next (if s.timedOut r then s.again r else if s.stranded r then s.complete r stUNROUTABLE [] else s)

/-- REQUEST_RECORD_EXPIRY: the record of a performed request leaves after 100 µs (02/R46). -/
def execRequestRecordExpiry (src tag : Nat) (s : State) : Out :=
  let gone : DupRec → Bool := fun d => d.src == src && d.tag == tag && decide (d.til ≤ s.time.ns)
  .next { s with fabric := { s.fabric with dups := dropBy gone s.fabric.dups } }

/-- TAG_REUSE_EXPIRY: a TAG is free again 100 µs after its last use, and a request that waits for one may be sent (02/R45). -/
def execTagReuseExpiry (dst tag : Nat) (s : State) : Out :=
  let free : Nat × Nat × Nat → Bool := fun t => t.1 == dst && t.2.1 == tag && decide (t.2.2 ≤ s.time.ns)
  let s1 : State := { s with fabric := { s.fabric with tags := dropBy free s.fabric.tags } }
  .next (s1.kick s1.fabric.reqs)

/-! ## Buffer-release flits (02/R41, R42) -/

/-- The depth entries of a flit. -/
def flitDepths (flit : Nat) : List (Nat × Nat) :=
  ((List.range 7).map fun k => (bitsAt flit (208 - 24 * k) 16, bitsAt flit (200 - 24 * k) 8)).filter fun d => d.1 != 0xFFFF

/-- BUFFER_RELEASE_FLIT: credits returned, and the depths reported; the port then sends what it may. -/
def execBufferReleaseFlit (port flit : Nat) (s : State) : Out :=
  let give := (List.range 4).map fun vc => bitsAt flit (224 + 8 * vc) 8
  let s1 := s.editPort port fun p =>
    { p with credits := p.credits.mapIdx fun i c => c + nth give i
             depths := (flitDepths flit).foldl (fun l d => putBy (fun x => x.1 == d.1) d l) p.depths }
  .next (s1.pump port)

/-! ## Bolts (02/R33 to R35) -/

/-- A bolt of the fabric rewritten. -/
def State.editBolt (s : State) (id : Nat) (f : Bolt → Bolt) : State :=
  { s with fabric := { s.fabric with bolts := editBy (fun b => b.id == id) f s.fabric.bolts } }

/-- A packet addressed by the number of a bolt's port (02/R33). -/
def byPort (k : Packet) : Bool := k.cls == 2 && k.dst == 0xFFFF
/-- Two held packets of one channel, from one ingress port. -/
def BoltPkt.sameFlow (p q : BoltPkt) : Bool := q.ingress == p.ingress && q.vc == p.vc
/-- Two held packets of one channel, from one ingress port, to one line of one node. -/
def BoltPkt.sameLine (p q : BoltPkt) : Bool := p.sameFlow q && q.pkt.dst == p.pkt.dst && q.pkt.addr / 128 == p.pkt.addr / 128
/-- The port that a held packet is bound to: the one it names, or the one that an earlier packet of its line has left by. -/
def BoltPkt.bound (p : BoltPkt) : Option Nat := if byPort p.pkt then some (p.pkt.addr % 64) else p.via
/-- Where a held packet goes keeps the order of its channel: no earlier packet from its ingress port is still bound to that egress
port, and none that came later has left by it (02/R35). -/
def Bolt.inOrder (b : Bolt) (p : BoltPkt) (egress : Nat) : Bool :=
  !(b.held.any fun q => decide (q.seq < p.seq) && p.sameFlow q && q.bound == some egress) &&
  !(b.sent.any fun x => x.1 == egress && decide (p.seq < x.2.seq) && p.sameFlow x.2)

/-- A held packet may leave by a port now: the port is trained and reaches its node, an earlier packet of its line is not still
queued, a packet bound to a port takes that one, and the order is kept (02/R34, R35) (one point DESIGN CHOICE, log entry 69). -/
def Bolt.mayLeave (b : Bolt) (p : BoltPkt) (egress : Nat) : Bool :=
  bitsAt b.trained egress 1 == 1 && (b.routes.any fun r => r.1 == p.pkt.dst && r.2.contains egress) &&
  !(b.held.any fun q => decide (q.seq < p.seq) && p.sameLine q) && (p.via.isNone || p.via == some egress) && b.inOrder p egress

/-- The bolt without the held packet at a position. -/
def Bolt.without (b : Bolt) (pos : Nat) : Bolt := { b with held := b.held.eraseIdx pos }
/-- A held packet discarded, and counted by the bolt alone (02/R35). -/
def Bolt.discard (b : Bolt) (pos : Nat) : Bolt := { b.without pos with discards := b.discards + 1 }
/-- A packet has left: later ones of its line, then queued, are bound to its egress port. -/
def Bolt.leave (b : Bolt) (pos egress : Nat) (p : BoltPkt) : Bolt :=
  let c := b.without pos
  { c with sent := b.sent ++ [(egress, p)]
           held := editBy (fun q => decide (p.seq < q.seq) && p.sameLine q) (fun q => { q with via := some egress }) c.held }

/-- The step by which this device receives a packet. -/
def arrivalStep (port : Nat) (k : Packet) : Instr :=
  match k.typ with
  | 0x01 => .readReceive port k
  | 0x03 => if k.cls = 1 then .lossyWriteReceive port k else .writeReceive port k
  | 0x05 => .atomicReceive port k
  | 0x07 => .nackReceive port k
  | 0x08 => .creditReceive port k
  | 0x10 => .launchRequest port k
  | 0x11 => .lcompReceive port k
  | 0x12 => .mgmtReceive port k
  | _ => .responseReceive port k

/-- A packet leaves a bolt by a port: where that port's cable goes to a port of this device, the device receives it. -/
def State.boltLeave (s : State) (bolt pos egress : Nat) (p : BoltPkt) : State :=
  let s1 := s.editBolt bolt fun b => b.leave pos egress p
  match (s.fabric.bolts.find? fun b => b.id == bolt).bind fun b => b.cables.find? fun c => c.2 == egress && decide (c.1 < Config.ports) with
  | some c => s1.due (arrivalStep c.1 p.pkt)
  | none => s1

/-- The masked bytes of a WRITE at a bolt's banks. -/
def bankWrite (m : Memory) (pa mask : Nat) : Nat → List Byte → Memory
  | _, [] => m
  | i, b :: l => bankWrite (if bitsAt mask i 1 = 1 then memWrite m (pa + i) [b] else m) pa mask (i + 1) l

/-- A request performed at the bolt's banks, and its response; a type that pooled memory does not serve is answered UNSUPPORTED
(02/R34, R39) (one point DESIGN CHOICE, log entry 69). -/
def Bolt.serve (b : Bolt) (k : Packet) : Memory × Packet :=
  let resp := fun (typ status len : Nat) (data : List Byte) =>
    sealPkt { k with dst := k.src, src := b.node, typ := typ, len := len, hot := false, bmask := allBytes, aux := status, data := data }
  match k.typ with
  | 0x01 => (b.mem, resp 0x02 0 k.aux (memRead b.mem k.addr (32 * k.aux)))
  | 0x03 => (bankWrite b.mem k.addr (writeMask k) 0 k.data, resp 0x04 0 0 [])
  | 0x05 =>
    let ty := Tag.ofCode (bitsAt k.aux 3 4)
    let n := if ty.is64 then 8 else 4
    let old := leNat (memRead b.mem k.addr n)
    (memWrite b.mem k.addr (leBytes n (atomNew ((AtOp.ofCode? (bitsAt k.aux 0 3)).getD .add) ty old (recField k.data 0 8) (recField k.data 8 8))),
     resp 0x06 0 1 (leBytes 32 old))
  | _ => (b.mem, resp (if k.cls = 2 then 0x11 else 0x04) stUNSUPPORTED 0 [])

/-- A packet that the bolt itself is the destination of: a request is performed once and answered, one whose tag fails is answered
NACK, and any other packet is consumed (02/R34, R44 to R46). -/
def Bolt.consume (b : Bolt) (now pos : Nat) (p : BoltPkt) : Bolt :=
  let c := b.without pos
  let k := p.pkt
  if k.cls = 1 ∨ isResponse k.typ then c
  else
    match b.dups.find? fun d => d.src == k.src && d.tag == k.tag && decide (now < d.til) with
    | some d => c.enter now 64 d.resp
    | none =>
      if k.etag ≠ etagOf k then
        c.enter now 64 (sealPkt { k with dst := k.src, src := b.node, typ := 0x07, len := 0, hot := false, bmask := allBytes, aux := 0, data := [] })
      else
        let r := b.serve k
        ({ c with mem := r.1, dups := c.dups ++ [{ src := k.src, tag := k.tag, resp := r.2, til := now + 100000 }] } : Bolt).enter now 64 r.2

/-- BOLT_FORWARD: the held packet at a position leaves on a port, or is consumed where the bolt is its destination; one addressed by
port leaves on the port it names, or is discarded when that has no trained link (02/R33 to R35)
(one point DESIGN CHOICE, log entry 69). -/
def execBoltForward (bolt pos egress : Nat) (s : State) : Out :=
  match s.fabric.bolts.find? fun b => b.id == bolt with
  | none => .next s
  | some b =>
    match b.held[pos]? with
    | none => .next s
    | some p =>
      if p.since + 10000 ≤ s.time.ns then .next s
      else if byPort p.pkt then
        let e := p.pkt.addr % 64
        .next (if bitsAt b.trained e 1 = 0 then s.editBolt bolt (·.discard pos)
               else if b.inOrder p e then s.boltLeave bolt pos e p else s)
      else if p.pkt.dst = b.node then
        .next (if b.held.any fun q => decide (q.seq < p.seq) && p.sameLine q then s else s.editBolt bolt fun b => b.consume s.time.ns pos p)
      else .next (if b.mayLeave p egress then s.boltLeave bolt pos egress p else s)

/-- BOLT_DISCARD: a packet held for 10 µs is discarded and counted by the bolt alone (02/R35). -/
def execBoltDiscard (bolt pos : Nat) (s : State) : Out :=
  match s.fabric.bolts.find? fun b => b.id == bolt with
  | none => .next s
  | some b =>
    match b.held[pos]? with
    | none => .next s
    | some p =>
      .next (if p.since + 10000 ≤ s.time.ns then
        s.editBolt bolt (·.discard pos) else s)

/-! ## The fabric's link layer (01/R16, 02/R36) -/

/-- FABRIC_FLIT_RETRY: counted, and not seen by programs. -/
def execFabricFlitRetry (port : Nat) (s : State) : Out := .next (if s.portUp port then s.fperr fpLINKRETRY else s)

/-- FABRIC_PORT_DOWN: the port leaves FPSTAT; its LOSSY blocks are lost, and the others it still queues leave by another port
(01/R16). -/
def execFabricPortDown (port : Nat) (s : State) : Out :=
  let q := (s.port port).queue
  let s1 : State := { s with sys := { s.sys with fpstat := setFld s.sys.fpstat port 1 0 } }
  let s2 := s1.editPort port fun p => { p with queue := [] }
  .next (q.foldl (fun s x =>
    if x.1 = 2 then s
    else
      match s.firstHop x.2 with
      | none => s
      | some p => s.enqueue p x.2) s2)

end Sys2Proof.Machine
end

