-- ==== Sys2Proof/Machine/Cache.lean ====
section
/-! DEFINITION. Steps of the memory system that change no value a program reads: eviction from the L1, update-line merges, and
the lines, misses, compression and write-back of the L2 slices (05/R116 to R131, 06/R151). -/

namespace Sys2Proof.Machine

/-! ## L1 -/

/-- L1_EVICTION: a line that is not busy and has no fill outstanding is written back and dropped (05/R116, R118)
(one point DEDUCED, log entry 84). -/
def execL1Eviction (core ctx line : Nat) (s : State) : Out :=
  match s.line? core ctx line with
  | none => .next s
  | some l => .next (if !s.lineBusy l && !s.lineFilling l then s.evictLine l none else s)

/-- UPDATE_LINE_MERGE: an update line is evicted and merges at its home (05/R120) (one point DEDUCED, log entry 84). -/
def execUpdateLineMerge (core ctx line : Nat) (s : State) : Out := .next (s.mergeOwn core ctx line)

/-! ## Compression (05/R128) -/

/-- The encoding of a line as it stands: RAW unless its page is compressible (05/R128). -/
def State.encodingNow (s : State) (line : Nat) (comp : Bool) : Nat :=
  if comp then lineEncoding (lineOf (memRead s.mem (128 * line) 128)) else 6

/-- The bytes a slice keeps for a line in an encoding (05/R130). -/
def State.stored (s : State) (line enc : Nat) : List Byte := encodeLine enc (lineOf (memRead s.mem (128 * line) 128))

/-! ## Places in a slice (05/R126, R131) -/

/-- The set of a line. -/
def l2Set (line : Nat) : Nat := line % 12288
/-- Lines that share a slice and a set with a line. -/
def L2.setOf (l2 : L2) (line : Nat) : List L2Line :=
  l2.lines.filter fun x => x.slice == sliceOf (128 * line) && x.set == l2Set line
/-- A way holds nothing. -/
def wayEmpty (l : List L2Line) (w : Nat) : Bool := !(l.any fun x => x.way == w)
/-- The free half of a way that holds one compressed line. -/
def freeHalf (l : List L2Line) (w : Nat) : Option Nat :=
  match l.filter fun x => x.way == w with
  | [x] => if x.half = 0 then some 1 else if x.half = 1 then some 0 else none
  | _ => none
/-- The place of a line among those of its set: way and half, 2 for a whole block. -/
def placeFor (l : List L2Line) (raw : Bool) : Option (Nat × Nat) :=
  let ways := List.range 16
  let empty := ways.find? fun w => wayEmpty l w
  if raw then empty.map fun w => (w, 2)
  else
    match ways.find? fun w => (freeHalf l w).isSome with
    | some w => some (w, (freeHalf l w).getD 0)
    | none => empty.map fun w => (w, 0)

/-- The order in which lines leave (05/R123). -/
def l2Victim : List L2Line → Option L2Line
  | [] => none
  | a :: l =>
    match l2Victim l with
    | none => some a
    | some b => if b.prio < a.prio ∨ (b.prio = a.prio ∧ b.used < a.used) then some b else some a

/-- A line leaves the slice: written toward DDR if dirty, else dropped, and what the home holds is DDR's again, with its code there
(05/R126, R127; 01/R13). -/
def State.l2Evict (s : State) (x : L2Line) : State :=
  let l2 := { s.l2 with lines := dropBy (fun y => y.line == x.line) s.l2.lines }
  let clean := dropBy (· == x.line) l2.bad
  { s with l2 :=
      if x.dirty then l2.queueWrite x.line (lineOf (memRead s.mem (128 * x.line) 128))
      else { l2 with bad := if l2.ddrBad.contains x.line then x.line :: clean else clean } }

/-- A place made for a line, evicting at most n lines of its set, and the place (one point DESIGN CHOICE, log entry 77). -/
def State.l2Room (s : State) (line : Nat) (raw : Bool) : Nat → State × Option (Nat × Nat)
  | 0 => (s, placeFor (s.l2.setOf line) raw)
  | n + 1 =>
    match placeFor (s.l2.setOf line) raw with
    | some p => (s, some p)
    | none =>
      match l2Victim (s.l2.setOf line) with
      | none => (s, none)
      | some v => State.l2Room (s.l2Evict v) line raw n

/-- A line brought into its slice (one point DESIGN CHOICE, log entry 77). -/
def State.l2Fill (s : State) (line : Nat) (comp written : Bool) : State :=
  let e := s.encodingNow line comp
  let r := s.l2Room line (e == 6) 32
  match r.2 with
  | none => r.1
  | some p =>
    let x : L2Line :=
      { slice := sliceOf (128 * line), set := l2Set line, way := p.1, half := p.2, line := line, enc := e, store := s.stored line e, dirty := written
        comp := comp, prio := 1, used := s.time.cyc }
    { r.1 with l2 := { r.1.l2 with lines := r.1.l2.lines ++ [x] } }

/-! ## Misses and write-back (05/R127) -/

/-- A wanted line forgotten, and its miss register closed. -/
def State.l2Done (s : State) (line : Nat) : State :=
  { s with l2 := { s.l2 with want := dropBy (fun x => x.1 == line) s.l2.want, miss := dropBy (fun x => x.2 == line) s.l2.miss } }

/-- The filter hits for a line. -/
def L2.probe (l2 : L2) (line : Nat) : Bool := (filterSlots line).all fun i => l2.counter (sliceOf (128 * line)) i != 0

/-- A line has crossed its memory link, so the link's flits are good again (01/R12). -/
def State.linkGood (s : State) (line : Nat) : State :=
  { s with board := { s.board with mlRetry := dropBy (fun x => x.1 == linkOf (128 * line)) s.board.mlRetry } }

/-- L2_MISS: a wanted line takes a miss register, or with it brings its line in; with none free a read bypasses, held while the
filter hits, and a write waits. -/
def execL2Miss (line : Nat) (s : State) : Out :=
  match s.l2.want.find? fun x => x.1 == line with
  | none => .next s
  | some w =>
    let slice := sliceOf (128 * line)
    if s.linkBusy line then .next s
    else if s.l2.miss.any fun x => x.2 == line then .next (((s.linkGood line).l2Done line).l2Fill line w.2.1 w.2.2)
    else if (s.l2.miss.filter fun x => x.1 == slice).length < 256 then
      .next { s with l2 := { s.l2 with miss := s.l2.miss ++ [(slice, line)] } }
    else if w.2.2 || s.l2.probe line then .next s
    else .next (s.l2Done line)

/-- DDR_WRITE_ACK: the buffer chip acknowledges the oldest write of a line: DDR holds it, and both counters fall. -/
def execDdrWriteAck (line : Nat) (s : State) : Out :=
  match s.l2.writes.find? fun w => w.line == line with
  | none => .next s
  | some w =>
    let l2 := (filterSlots line).foldl (fun (x : L2) i => x.setCounter w.slice i (x.counter w.slice i - 1)) s.l2
    let writes := l2.writes.erase w
    .next { s.linkGood line with
            ddr := memWrite s.ddr (128 * line) (lineRead w.data 0 128)
            l2 := { l2 with writes := writes, ddrBad := s.l2.codeOf line s.l2.ddrBad } }

/-! ## Recompression (05/R128, R131) -/

/-- A resident line changed. -/
def State.setL2 (s : State) (x : L2Line) : State :=
  { s with l2 := { s.l2 with lines := editBy (fun y => y.line == x.line) (fun _ => x) s.l2.lines } }

/-- A resident line's stored bytes are no longer those of its content. -/
def State.needsMove (s : State) (x : L2Line) : Bool :=
  let e := s.encodingNow x.line x.comp
  e != x.enc || s.stored x.line e != x.store

/-- L2_LINE_MOVE: a written line is recompressed. One that grows past 64 bytes keeps its block and its partner moves to a free
half elsewhere in the set, or is evicted; one that shrinks takes half 0 of its block. -/
def execL2LineMove (line : Nat) (s : State) : Out :=
  match s.l2.lines.find? fun x => x.line == line with
  | none => .next s
  | some x =>
    let e := s.encodingNow line x.comp
    let b := s.stored line e
    if e = x.enc then .next (s.setL2 { x with store := b })
    else if e = 6 then
      let partner := (s.l2.setOf line).find? fun y => y.way == x.way && y.line != line
      let x' := { x with enc := e, store := b, half := 2 }
      let s1 := s.setL2 x'
      match partner with
      | none => .next s1
      | some y =>
        match placeFor (x' :: (s.l2.setOf line).filter fun z => z.way != x.way) false with
        | none => .next (s1.l2Evict y)
        | some p => .next (s1.setL2 { y with way := p.1, half := p.2 })
    else if x.enc = 6 then .next (s.setL2 { x with enc := e, store := b, half := 0 })
    else .next (s.setL2 { x with enc := e, store := b })

end Sys2Proof.Machine
end

