-- ==== Sys2Proof/Machine/Bring.lean ====
section
/-! DEFINITION. Reset, rails, bring-up, power, temperature, the side-band and attestation, memory links (01, 03/R70 to R72), and
the injection of a replay's inputs (03/R74). -/

namespace Sys2Proof.Machine

/-! ## Reset (01/R14, R22, R32) -/

/-- DDR as warm reset finds it: a write still in a slice's queue may or may not have reached it
(one point DESIGN CHOICE, log entry 71). -/
def State.ddrLeft (s : State) : Memory :=
  (s.l2.writes.mapIdx fun i w => (i, w)).foldl (fun m x =>
    if s.freeBit (100 + x.1) then memWrite m (128 * x.2.line) (lineRead x.2.data 0 128) else m) s.ddr

/-- The lines whose code in DDR is uncorrectable after that (01/R13, R32). -/
def State.ddrBadLeft (s : State) : List Nat :=
  (s.l2.writes.mapIdx fun i w => (i, w)).foldl (fun l x => if s.freeBit (100 + x.1) then s.l2.codeOf x.2.line l else l) s.l2.ddrBad

/-- The machine after a reset: everything at its reset value but what the board carries, what lies outside the device, and on a
warm reset DDR and the time base (one point DESIGN CHOICE, log entry 71). -/
def State.restarted (s : State) (warm : Bool) : State :=
  let ddr := if warm then s.ddrLeft else []
  let b : Board :=
    { s.board with
      held := false, tripped := false, warm := warm, meas := Board.reset.meas, capacity := 0, mlRetry := [], events := []
      hottest := 0, watts := 0, power := [], thermMs := 0 }
  let bad := if warm then s.ddrBadLeft else []
  { State.reset with
    board := b, mem := ddr, ddr := ddr, l2 := { L2.reset with bad := bad, ddrBad := bad }, time := if warm then s.time else State.reset.time
    fabric := { Fabric.reset with bolts := s.fabric.bolts, sent := s.fabric.sent }, fresh := s.fresh, free := s.free }

/-- The phase of bring-up set. -/
def State.setPhase (s : State) (n : Nat) : State := { s with sys := { s.sys with bootstat := setFld s.sys.bootstat 0 4 n } }

/-- The order of the rails (01/R22). -/
def railOrder : List Nat := [1, 2, 3, 4, 5]

/-- WARM_RESET: the device restarts at step 2. -/
def execWarmReset (s : State) : Out :=
  .next (if s.board.held || s.board.tripped then s else (s.restarted true).setPhase 1)

/-- The package held in reset with some rails up; PWRSEQ says whether they were sequenced out of order. -/
def State.heldReset (s : State) (rails : List Nat) (bad : Bool) : State :=
  let s1 := s.restarted false
  { s1 with board := { s1.board with held := true, rails := rails }
            sys := { s1.sys with thermstat := setFld s1.sys.thermstat 33 1 (if bad then 1 else 0) } }

/-- COLD_RESET: `RESET_N` goes low and is released again; the device restarts at step 1. A package whose rails are not up in order
stays held, and PWRSEQ says what it said (01/R22, R32). -/
def execColdReset (s : State) : Out :=
  .next (if s.board.rails = railOrder then s.restarted false else s.heldReset s.board.rails (fld s.sys.thermstat 33 1 == 1))

/-- RAILS_GOOD: the rails have come up in an order; in the order of R22 `RESET_N` is released (one point DEDUCED, log entry 72). -/
def execRailsGood (order : List Nat) (s : State) : Out :=
  if s.board.rails = railOrder then .next s
  else if order = railOrder then .next (({ s with board := { s.board with rails := order } }).restarted false)
  else .next (s.heldReset order true)

/-- RAILS_DOWN: the rails have gone down; the device is held in reset and nothing of its state is kept. -/
def execRailsDown (order : List Nat) (s : State) : Out := .next (s.heldReset [] (order != railOrder.reverse))

/-! ## Firmware and measurement (03/R70, R71) -/

/-- A slot's firmware is accepted (03/R70) (one point DEDUCED, log entry 74). -/
def Board.accepts (b : Board) (f : FlashSlot) : Bool :=
  match f.fw with
  | none => false
  | some x => Config.shake256 x.key 32 == b.keyDigest && Config.slhVerify x.key x.image x.sig && decide (b.minVersion ≤ x.version)

/-- MEASn extended with a 64-byte value (03/R71). -/
def Board.extend (b : Board) (n : Nat) (x : List Byte) : Board :=
  { b with meas := b.meas.mapIdx fun i m => if i = n then Config.shake256 (m ++ x) 64 else m }

/-! ## Bring-up (01/R28) -/

/-- The pair of panels of a die-to-die link, in the order of R31. -/
def d2dPairs : List (Nat × Nat) := (List.range 8).flatMap fun a => ((List.range 8).filter fun b => decide (a < b)).map fun b => (a, b)
/-- The link between two panels trained. -/
def d2dUp (mask a b : Nat) : Bool :=
  bitsAt mask (d2dPairs.findIdx fun x => x == (min a b, max a b)) 1 == 1
/-- The third panel through which the traffic of an untrained link passes (01/R8): the lowest whose links to both trained. -/
def detour (mask a b : Nat) : Option Nat := (List.range 8).find? fun c => c != a && c != b && d2dUp mask a c && d2dUp mask b c
/-- The first link that is neither trained nor has a detour. -/
def d2dFails (mask : Nat) : Option Nat :=
  (List.range 28).find? fun n =>
    match d2dPairs[n]? with
    | none => false
    | some (a, b) => !d2dUp mask a b && (detour mask a b).isNone

/-- Bring-up stops at a step (01/R30). -/
def State.failStep (s : State) (step detail : Nat) : State :=
  { s with sys := { s.sys with bootstat := setFld (setFld s.sys.bootstat 32 8 step) 16 16 detail } }

/-- The least of the modules' capacities, and whether they differ (01/R11). -/
def capacityOf (l : List Nat) : Nat × Bool :=
  match l with
  | [] => (0, false)
  | x :: r => (r.foldl min x, r.any fun y => y != x)

/-- The actions of one step. -/
def State.bringStep (s : State) (n : Nat) : State :=
  let b := s.board
  match n with
  | 2 => { s with board := b.extend 0 (Config.shake256 b.fuses 64) }
  | 3 =>
    let take := fun (slot : Nat) (f : FlashSlot) =>
      let img := (f.fw.map (·.image)).getD []
      { s with board := b.extend 1 (Config.shake256 img 64), sys := { s.sys with bootstat := setFld s.sys.bootstat 8 8 slot } }
    if b.accepts b.slotA then take 0 b.slotA else if b.accepts b.slotB then take 1 b.slotB else s.failStep 3 0
  | 4 => (match b.cacheBad with | some p => s.failStep 4 p | none => s)
  | 5 =>
    let s1 : State := { s with sys := { s.sys with d2dstat := BitVec.ofNat 64 (b.d2dTrains % 2 ^ 28) } }
    (match d2dFails (b.d2dTrains % 2 ^ 28) with | some k => s1.failStep 5 k | none => s1)
  | 6 =>
    let up := fun (k : Nat) => bitsAt b.mlAbsent k 1 == 0 && bitsAt b.mlTrains k 1 == 1
    let mask := ((List.range Config.links).map fun k => if up k then 2 ^ k else 0).sum
    let s1 : State := { s with sys := { s.sys with mlstat := BitVec.ofNat 64 mask } }
    (match (List.range Config.links).find? fun k => !up k with
     | some k => s1.failStep 6 k
     | none =>
       let c := capacityOf b.modules
       { s1 with board := { b with capacity := c.1 }
                 sys := { s1.sys with bootstat := setFld s1.sys.bootstat 40 1 (if c.2 then 1 else 0) } })
  | 7 => { s with l2 := { L2.reset with bad := s.l2.ddrBad, ddrBad := s.l2.ddrBad } }
  | 8 =>
    let s1 : State := { s with sys := { s.sys with fpstat := BitVec.ofNat 64 (b.fpTrains % 2 ^ 48) } }
    if b.fpTrains % 2 ^ 48 = 0 then s1.failStep 8 0 else s1
  | 9 => { s with board := (b.extend 2 (Config.shake256 b.runtime 64)).extend 3 (Config.shake256 b.runtimeConf 64) }
  | _ => s

/-- Nothing runs: the package is held in reset or has tripped. -/
def Board.stopped (b : Board) : Bool := b.held || b.tripped

/-- BRING_UP: the next step of bring-up begins and runs, unless one has failed or all are done. -/
def execBringUp (s : State) : Out :=
  let n := fld s.sys.bootstat 0 4 + 1
  if s.board.stopped || fld s.sys.bootstat 32 8 != 0 || decide (10 < n) then .next s
  else .next ((s.setPhase n).bringStep n)

/-! ## Power and temperature (01/R18, R23 to R25) -/

/-- STEP and CAUSE set. -/
def State.setStep (s : State) (step cause : Nat) : State :=
  { s with sys := { s.sys with clkstep := setFld (setFld s.sys.clkstep 0 4 step) 4 4 cause } }
/-- STEP, and the least STEP that management imposes. -/
def State.stepNow (s : State) : Nat := fld s.sys.clkstep 0 4
def State.stepFloor (s : State) : Nat := min 8 (fld s.sys.clkstep 8 4)

/-- The cause of a STEP that has been lowered: none at 0, the floor at FLOOR, else what it was (one point DEDUCED, log entry 47). -/
def State.lowCause (s : State) (step : Nat) : Nat := if step = 0 then 0 else if step = s.stepFloor then 3 else fld s.sys.clkstep 4 4

/-- The ms of the time base. -/
def State.msNow (s : State) : Nat := s.time.ns / 1000000
/-- WINDOW in ms (01/R23). -/
def State.powerWindow (s : State) : Nat := max 1 (min 1000 (fld s.sys.pwrcap 16 16))
/-- The average of the last WINDOW ms of power, as far as they have been measured. -/
def State.powerAvg (s : State) (l : List Nat) : Nat := let w := l.take s.powerWindow; w.sum / max 1 w.length

/-- POWER_CAP_TICK: once in a ms of the time base, with the power in W over the ms that has ended; the average over WINDOW is compared
with CAPW (01/R24). -/
def execPowerCapTick (power : Nat) (s : State) : Out :=
  let l := (power :: s.board.power).take 1000
  let watts := s.powerAvg l
  let s1 : State := { s with board := { s.board with watts := watts, power := l }, tickStart := s.msNow }
  let cap := fld s.sys.pwrcap 0 16
  if s.board.stopped || decide (s.msNow ≤ s.tickStart) then .next s
  else if cap < watts then .next (if s.stepNow < 8 then s1.setStep (s.stepNow + 1) 1 else s1)
  else if 100 * watts < 95 * cap ∧ s.board.hottest < 1600 ∧ s.stepFloor < s.stepNow then
    .next (s1.setStep (s.stepNow - 1) (s.lowCause (s.stepNow - 1)))
  else .next s1

/-- The hottest sensor's reading noted (01/R25) (one point DEDUCED, log entry 99). -/
def State.noteTemp (s : State) (temp panel : Nat) : State :=
  let hot := if 1600 ≤ temp then 1 else fld s.sys.thermstat 32 1
  { s with board := { s.board with hottest := temp }
           sys := { s.sys with thermstat := setFld (setFld (setFld s.sys.thermstat 0 16 temp) 24 8 panel) 32 1 hot } }

/-- At 115 °C or above everything halts until cold reset, and DDR is not preserved (01/R25). -/
def State.trip (s : State) (temp panel : Nat) : State :=
  let s1 := s.noteTemp temp panel
  { s1 with board := { s1.board with tripped := true }, mem := [], ddr := [] }

/-- THERMAL_THROTTLE_TICK: the hottest reading in °C × 16 and its panel; at 100 °C or above STEP rises once in a ms of the time base,
and at 115 °C the device trips (01/R25). -/
def execThermalThrottleTick (temp panel : Nat) (s : State) : Out :=
  if s.board.stopped then .next s
  else if 1840 ≤ temp then .next (s.trip temp panel)
  else
    let s1 := s.noteTemp temp panel
    if temp < 1600 ∨ s.msNow ≤ s.board.thermMs then .next s1
    else
      let s2 : State := { s1 with board := { s1.board with thermMs := s.msNow } }
      .next (if s.stepNow < 8 then s2.setStep (s.stepNow + 1) 2 else s2)

/-- THERMAL_TRIP: a reading of 115 °C or above trips the device (01/R25). -/
def execThermalTrip (temp panel : Nat) (s : State) : Out :=
  .next (if s.board.stopped || decide (temp < 1840) then s else s.trip temp panel)

/-- ADAPTIVE_VOLTAGE_REQUEST: a panel's regulator follows its request within 0.65 V to 0.85 V (01/R22)
(one point DEDUCED, log entry 75). -/
def execAdaptiveVoltageRequest (panel mv : Nat) (s : State) : Out :=
  .next (if 650 ≤ mv ∧ mv ≤ 850 then { s with board := { s.board with volts := bump s.board.volts panel fun _ => mv } } else s)

/-! ## The side-band (01/R27) and attestation (03/R72) -/

/-- The side-band is served from bring-up step 2 onward (one point PRESUMED, log entry 73). -/
def State.sideband (s : State) : Bool := !s.board.stopped && decide (2 ≤ fld s.sys.bootstat 0 4)

/-- The readings of the 160 junction sensors, 20 a panel: 16 of the panel and 4 of its cache stack (01/R25). One of the panel that
THERMSTAT names reads the hottest, and no other reads more; what the others read is free (01/R27) (DESIGN CHOICE, log entry 113). -/
def State.sensors (s : State) : List Nat :=
  let top := 20 * fld s.sys.thermstat 24 8 + (s.freeWord 3000).toNat % 20
  (List.range 160).map fun k => if k = top then s.board.hottest else min s.board.hottest (s.freeWord (3001 + k)).toNat

/-- PLDM_MONITOR_REQUEST: Platform Monitoring and Control, type 2, is answered with the readings; Firmware Update, type 5, has a
step of its own; another type is unsupported. -/
def execPldmMonitorRequest (ptype cmd : Nat) (s : State) : Out :=
  let _ := cmd
  if !s.sideband then .next s
  else if ptype = 2 then
    .next (s.reply (.monitor s.sensors s.board.watts s.stepNow s.sys.d2dstat.toNat s.sys.mlstat.toNat
      s.sys.fpstat.toNat))
  else if ptype = 5 then .next s
  else .next (s.reply .unsupported)

/-- The version of the firmware now running. -/
def State.runningVersion (s : State) : Nat :=
  let f := if fld s.sys.bootstat 8 8 = 0 then s.board.slotA else s.board.slotB
  (f.fw.map (·.version)).getD 0

/-- PLDM_FIRMWARE_UPDATE: an image that R70 accepts is written to a slot, and the fused minimum is raised, never below the version
now running. -/
def execPldmFirmwareUpdate (slot : Nat) (fw : Firmware) (raiseTo : Nat) (s : State) : Out :=
  let f : FlashSlot := { fw := some fw }
  if !s.sideband then .next s
  else if !s.board.accepts f then .next (s.reply (.refused slot))
  else
    let b := if slot = 0 then { s.board with slotA := f } else { s.board with slotB := f }
    let min' := if b.minVersion < raiseTo ∧ s.runningVersion ≤ raiseTo then raiseTo else b.minVersion
    .next (({ s with board := { b with minVersion := min' } }).reply (.updated slot))

/-- ATTESTATION_QUOTE: the quote over a nonce of 32 bytes (03/R72). -/
def execAttestationQuote (nonce : List Byte) (s : State) : Out :=
  if !s.sideband then .next s
  else
    let m0 := s.board.meas.headD []
    let body := leBytes 4 1 ++ (nonce ++ zeros 32).take 32 ++ s.board.meas.flatten ++ Config.identityKey s.board.secret m0
    .next (s.reply (.quote (body ++ Config.slhSign (Config.identitySecret s.board.secret m0) body)))

/-! ## Memory links (01/R12) -/

/-- MEMORY_LINK_FLIT_RETRY: one more retry of the flit that the link is sending; a line that crosses the link ends the run of retries,
and after 16 in a row the link retrains (one point DEDUCED, log entry 76). -/
def execMemoryLinkFlitRetry (link : Nat) (s : State) : Out :=
  if bitsAt s.sys.mlstat.toNat link 1 = 0 then .next s
  else
    let n := ((s.board.mlRetry.find? fun x => x.1 == link).map (·.2)).getD 0
    .next { s with board := { s.board with mlRetry := putBy (fun x => x.1 == link) (link, min 16 (n + 1)) s.board.mlRetry } }

/-- MEMORY_LINK_RETRAIN: a link that has retried 16 times retrains, or is reported failed in MLSTAT and its data is
uncorrectable from then on; accesses of the fabric that waited for it go on. -/
def execMemoryLinkRetrain (link : Nat) (ok : Bool) (s : State) : Out :=
  if s.board.mlRetry.any fun x => x.1 == link && decide (16 ≤ x.2) then
    let s1 : State := { s with board := { s.board with mlRetry := dropBy (fun x => x.1 == link) s.board.mlRetry } }
    .next (if ok then s1 else { s1 with sys := { s1.sys with mlstat := setFld s1.sys.mlstat link 1 0 } }).progressAll
  else .next s

/-! ## What the spec leaves to chance or to the runtime -/

/-- A line of a team's scratchpad becomes uncorrectable (06/R151). -/
def State.spoilScr (s : State) (team line : Nat) : State :=
  s.editTeam team fun t => { t with scrBad := if t.scrBad.contains line then t.scrBad else t.scrBad ++ [line] }
/-- A line in DDR becomes uncorrectable: with two of its devices in error its code detects it (01/R13). -/
def State.spoilDdr (s : State) (line : Nat) : State :=
  let s1 := s.spoil line
  { s1 with l2 := { s1.l2 with ddrBad := if s1.l2.ddrBad.contains line then s1.l2.ddrBad else line :: s1.l2.ddrBad } }

/-- What may happen at any time without a cause in the state, as the device chooses: nothing; a line of a slice or of DDR, of an L1 or
of a scratchpad becomes uncorrectable (01/R13, 06/R151); or, after step 10, the runtime extends MEAS4 to MEAS7 with a value of its own
(03/R71) (DESIGN CHOICE, log entry 117). -/
def State.happens (s : State) : Option State :=
  let n := (s.freeWord 65533).toNat
  match (s.freeWord 65534).toNat % 16 with
  | 0 => some (if s.l2.lines.any fun x => x.line == n % 2 ^ 45 then s.spoil (n % 2 ^ 45) else s.spoilDdr (n % 2 ^ 45))
  | 1 => (s.l1[n % s.l1.length]?).map fun l => s.setLine { l with bad := true }
  | 2 => (s.teams[n % s.teams.length]?).map fun t => s.spoilScr t.id ((s.freeWord 65532).toNat % (t.scratch / 128))
  | 3 =>
    if s.ready then
      let x := (List.range 8).flatMap fun i => leBytes 8 (s.freeWord (65520 + i)).toNat
      some { s with board := s.board.extend (4 + n % 4) x }
    else none
  | _ => none

/-! ## Replay (03/R74) -/

/-- The packet type of an arrival's record, LEN, and AUX (`capDetail`). -/
def CapRec.typ (r : CapRec) : Nat := r.detail / 2 ^ 24
def CapRec.isResponse (r : CapRec) : Bool := r.typ == 0x02 || r.typ == 0x04 || r.typ == 0x06
def CapRec.len (r : CapRec) : Nat :=
  if r.typ = 0x03 then r.detail % 16 else if r.isResponse then bitsAt r.detail 8 4 else if r.typ = 0x05 then 1 else 0
/-- The request that a recorded response answers: the oldest outstanding one of its kind to its address. -/
def State.recorded (s : State) (r : CapRec) : Option Req :=
  s.fabric.reqs.find? fun q => q.pkt.addr == r.value &&
    (if r.typ = 0x02 then q.pkt.typ == 0x01 else if r.typ = 0x06 then q.pkt.typ == 0x05 else q.pkt.typ == 0x03 || q.pkt.typ == 0x08)

/-- The next input to inject: the next unused record, where it is an arrival or a lossy outcome; a response once its request stands.
A record of another kind is used where its input is met: a time read or CAPMARK by its thread, a decoder error by its unit's output, a
bobbin's expiry by its timer; until then what was received after it waits (one point DEDUCED, log entry 25). -/
def State.injectable (s : State) : Option CapRec :=
  s.capHead.filter fun r => r.kind == 2 || ((r.kind == 1 || r.kind == 5) && (!r.isResponse || (s.recorded r).isSome))

/-- A grid is being replayed. -/
def State.replaying (s : State) : Bool := s.grids.any fun g => g.status.isNone && s.replays g.id

/-- A recorded WRITE performed where it was: LEN flits, one flit with its byte mask. -/
def State.injectWrite (s : State) (r : CapRec) (l : List Byte) : State :=
  let mask := if r.len = 1 then s.physNat (r.data + 32) 4 else 2 ^ l.length - 1
  match s.fabric.lossy.find? fun e => decide (e.region ≤ r.value) && decide (r.value < e.region + e.size) with
  | some e => s.regionPut e ((r.value - e.region) / 256) l
  | none =>
    if inWindow r.value then s.winPut (winOff r.value) l mask 0
    else (s.homeMasked 0 r.value l mask).1

/-- A recorded arrival taken in again: a WRITE, ATOMIC or CREDIT is performed at its home, a response completes its request. -/
def State.inject (s : State) (r : CapRec) : State :=
  let l := memRead s.mem r.data (32 * r.len)
  match r.typ with
  | 0x03 => s.injectWrite r l
  | 0x05 =>
    (s.homeAtom 0 r.value ((AtOp.ofCode? (bitsAt r.detail 0 3)).getD .add) (Tag.ofCode (bitsAt r.detail 3 4)) (recField l 0 8) (recField l 8 8)).1
  | 0x08 => match s.creditLoc r.value with | some loc => (s.credit loc (r.detail % 2 ^ 24)).1 | none => s
  | _ => match s.recorded r with | some q => s.complete q (r.detail % 256) l | none => s

/-- A recorded lossy outcome: the block's bits, its credit, and LOST and zeros for one that was lost. -/
def State.injectLossy (s : State) (r : CapRec) : State :=
  match s.fabric.lossy.find? fun e => decide (e.region ≤ r.value) && decide (r.value < e.region + e.size) with
  | none => s
  | some e =>
    let j := (r.value - e.region) / 256
    if s.maskBit e 1 j then s
    else
      let s1 := s.setMaskBit e 1 j
      let s2 := if r.detail = 1 then s1.setMaskBit e 0 j else (s1.regionPut e j (zeros 256)).addLost e 256
      (s2.credit e.loc 256).1

/-- REPLAY_INJECTION. -/
def execReplayInjection (core : Nat) (s : State) : Out :=
  let _ := core
  if !s.replaying then .next s
  else
    match s.injectable with
    | none => .next s
    | some r => .next ((if r.kind = 2 then s.injectLossy r else s.inject r).capUse r)

end Sys2Proof.Machine
end

