-- ==== Sys2Proof/Machine/Dispatch.lean ====
section
/-! DEFINITION. One arm per constructor of `Instr`, each one direct call of the instruction's meaning. -/

namespace Sys2Proof.Machine

/-- The meaning of an instruction or device step. -/
def exec (i : Instr) (s : State) : Host.Outcome State Fault Refusal :=
  match i with
  | .nop p => Sys2Proof.Machine.execNop p s
  | .mov p w64 d a => Sys2Proof.Machine.execMov p w64 d a s
  | .movx p d a b => Sys2Proof.Machine.execMovx p d a b s
  | .movxw p d a b => Sys2Proof.Machine.execMovxw p d a b s
  | .tag p w64 code d a => Sys2Proof.Machine.execTag p w64 code d a s
  | .tagq p d a => Sys2Proof.Machine.execTagq p d a s
  | .idq p d sel => Sys2Proof.Machine.execIdq p d sel s
  | .iadd p ty sat d a b => Sys2Proof.Machine.execIadd p ty sat d a b s
  | .isub p ty sat d a b => Sys2Proof.Machine.execIsub p ty sat d a b s
  | .ineg p ty sat d a => Sys2Proof.Machine.execIneg p ty sat d a s
  | .iabs p ty sat d a => Sys2Proof.Machine.execIabs p ty sat d a s
  | .imin p ty d a b => Sys2Proof.Machine.execImin p ty d a b s
  | .imax p ty d a b => Sys2Proof.Machine.execImax p ty d a b s
  | .imul p ty sat d a b => Sys2Proof.Machine.execImul p ty sat d a b s
  | .imulh p ty d a b => Sys2Proof.Machine.execImulh p ty d a b s
  | .imad p ty sat d a b c => Sys2Proof.Machine.execImad p ty sat d a b c s
  | .imadw p ty sat d a b c => Sys2Proof.Machine.execImadw p ty sat d a b c s
  | .iaddc p d a b c => Sys2Proof.Machine.execIaddc p d a b c s
  | .isubb p d a b c => Sys2Proof.Machine.execIsubb p d a b c s
  | .iadd64 p ty sat d a b => Sys2Proof.Machine.execIadd64 p ty sat d a b s
  | .isub64 p ty sat d a b => Sys2Proof.Machine.execIsub64 p ty sat d a b s
  | .icmp p ty cond comb d a b k => Sys2Proof.Machine.execIcmp p ty cond comb d a b k s
  | .isel p d a b c k => Sys2Proof.Machine.execIsel p d a b c k s
  | .shl p d a n => Sys2Proof.Machine.execShl p d a n s
  | .shr p d a n => Sys2Proof.Machine.execShr p d a n s
  | .sar p d a n => Sys2Proof.Machine.execSar p d a n s
  | .rotl p d a n => Sys2Proof.Machine.execRotl p d a n s
  | .shl64 p d a n => Sys2Proof.Machine.execShl64 p d a n s
  | .shr64 p d a n => Sys2Proof.Machine.execShr64 p d a n s
  | .and p d a b => Sys2Proof.Machine.execAnd p d a b s
  | .or p d a b => Sys2Proof.Machine.execOr p d a b s
  | .xor p d a b => Sys2Proof.Machine.execXor p d a b s
  | .andn p d a b => Sys2Proof.Machine.execAndn p d a b s
  | .lut3 p d a b c table => Sys2Proof.Machine.execLut3 p d a b c table s
  | .bfx p ty d a pos len1 => Sys2Proof.Machine.execBfx p ty d a pos len1 s
  | .bfi p d a b pos len1 => Sys2Proof.Machine.execBfi p d a b pos len1 s
  | .popc p d a => Sys2Proof.Machine.execPopc p d a s
  | .clz p d a => Sys2Proof.Machine.execClz p d a s
  | .ctz p d a => Sys2Proof.Machine.execCtz p d a s
  | .brev p d a => Sys2Proof.Machine.execBrev p d a s
  | .bperm p d a b c => Sys2Proof.Machine.execBperm p d a b c s
  | .bset p d a n => Sys2Proof.Machine.execBset p d a n s
  | .bclr p d a n => Sys2Proof.Machine.execBclr p d a n s
  | .movi p ty d imm => Sys2Proof.Machine.execMovi p ty d imm s
  | .movi64 p ty d imm => Sys2Proof.Machine.execMovi64 p ty d imm s
  | .bra p off => Sys2Proof.Machine.execBra p off s
  | .brx p a => Sys2Proof.Machine.execBrx p a s
  | .call p d off => Sys2Proof.Machine.execCall p d off s
  | .callx p d a => Sys2Proof.Machine.execCallx p d a s
  | .ret p a => Sys2Proof.Machine.execRet p a s
  | .seam p => Sys2Proof.Machine.execSeam p s
  | .bar p => Sys2Proof.Machine.execBar p s
  | .yield p => Sys2Proof.Machine.execYield p s
  | .pause p n => Sys2Proof.Machine.execPause p n s
  | .spawn p a b => Sys2Proof.Machine.execSpawn p a b s
  | .exit p => Sys2Proof.Machine.execExit p s
  | .fadd p rnd d a b c => Sys2Proof.Machine.execFadd p rnd d a b c s
  | .fsub p rnd d a b c => Sys2Proof.Machine.execFsub p rnd d a b c s
  | .fmul p rnd d a b c => Sys2Proof.Machine.execFmul p rnd d a b c s
  | .ffma p rnd d a b c => Sys2Proof.Machine.execFfma p rnd d a b c s
  | .fscale p rnd d a b => Sys2Proof.Machine.execFscale p rnd d a b s
  | .fmin p d a b => Sys2Proof.Machine.execFmin p d a b s
  | .fmax p d a b => Sys2Proof.Machine.execFmax p d a b s
  | .fcmp p cond comb d a b k => Sys2Proof.Machine.execFcmp p cond comb d a b k s
  | .fround p rnd d a => Sys2Proof.Machine.execFround p rnd d a s
  | .fclass p d a => Sys2Proof.Machine.execFclass p d a s
  | .frcp p rnd d a => Sys2Proof.Machine.execFrcp p rnd d a s
  | .frsq p rnd d a => Sys2Proof.Machine.execFrsq p rnd d a s
  | .fsqrt p rnd d a => Sys2Proof.Machine.execFsqrt p rnd d a s
  | .fdiv p rnd d a b => Sys2Proof.Machine.execFdiv p rnd d a b s
  | .fexp2 p d a => Sys2Proof.Machine.execFexp2 p d a s
  | .flog2 p d a => Sys2Proof.Machine.execFlog2 p d a s
  | .fsin p d a => Sys2Proof.Machine.execFsin p d a s
  | .fcos p d a => Sys2Proof.Machine.execFcos p d a s
  | .ftanh p d a => Sys2Proof.Machine.execFtanh p d a s
  | .hadd2 p ty rnd d a b c => Sys2Proof.Machine.execHadd2 p ty rnd d a b c s
  | .hmul2 p ty rnd d a b c => Sys2Proof.Machine.execHmul2 p ty rnd d a b c s
  | .hfma2 p ty rnd d a b c => Sys2Proof.Machine.execHfma2 p ty rnd d a b c s
  | .hmin2 p ty d a b => Sys2Proof.Machine.execHmin2 p ty d a b s
  | .hmax2 p ty d a b => Sys2Proof.Machine.execHmax2 p ty d a b s
  | .dot2 p ty rnd d a b c => Sys2Proof.Machine.execDot2 p ty rnd d a b c s
  | .dot4 p ty sat d a b c => Sys2Proof.Machine.execDot4 p ty sat d a b c s
  | .cvt p ty rnd sty sat d a b e => Sys2Proof.Machine.execCvt p ty rnd sty sat d a b e s
  | .cvtxb p ty rnd h d a b c => Sys2Proof.Machine.execCvtxb p ty rnd h d a b c s
  | .xbunp p ty sty h d a b => Sys2Proof.Machine.execXbunp p ty sty h d a b s
  | .xbexp p ty rnd h d a c => Sys2Proof.Machine.execXbexp p ty rnd h d a c s
  | .mreduce p rnd mode d a b n => Sys2Proof.Machine.execMreduce p rnd mode d a b n s
  | .ld p sp ty ord sc hint elt d a off => Sys2Proof.Machine.execLd p sp ty ord sc hint elt d a off s
  | .st p sp ty ord sc hint elt a b off => Sys2Proof.Machine.execSt p sp ty ord sc hint elt a b off s
  | .ldv p sp ty ord sc hint vn d a off => Sys2Proof.Machine.execLdv p sp ty ord sc hint vn d a off s
  | .stv p sp ty ord sc hint vn a b off => Sys2Proof.Machine.execStv p sp ty ord sc hint vn a b off s
  | .ldc p ty d a off => Sys2Proof.Machine.execLdc p ty d a off s
  | .pref p sp hint l2 a off => Sys2Proof.Machine.execPref p sp hint l2 a off s
  | .flushl p sp drop a off => Sys2Proof.Machine.execFlushl p sp drop a off s
  | .atom p sp ty ord sc op d a b c off => Sys2Proof.Machine.execAtom p sp ty ord sc op d a b c off s
  | .red p sp ty hint op a b off => Sys2Proof.Machine.execRed p sp ty hint op a b off s
  | .fence p ord sc => Sys2Proof.Machine.execFence p ord sc s
  | .cinv p sc => Sys2Proof.Machine.execCinv p sc s
  | .waitv p sp ty sc cond d a b off => Sys2Proof.Machine.execWaitv p sp ty sc cond d a b off s
  | .awset p sp d a b c off => Sys2Proof.Machine.execAwset p sp d a b c off s
  | .arrive p sp sc a b off => Sys2Proof.Machine.execArrive p sp sc a b off s
  | .await p sp sc d a b off => Sys2Proof.Machine.execAwait p sp sc d a b off s
  | .srinit p a b c => Sys2Proof.Machine.execSrinit p a b c s
  | .srwait p empty a b c => Sys2Proof.Machine.execSrwait p empty a b c s
  | .srfree p a b => Sys2Proof.Machine.execSrfree p a b s
  | .waitc p cls d n => Sys2Proof.Machine.execWaitc p cls d n s
  | .tld p ord sc hint d a ts => Sys2Proof.Machine.execTld p ord sc hint d a ts s
  | .tst p ord sc hint a b ts => Sys2Proof.Machine.execTst p ord sc hint a b ts s
  | .shfl p mode w64 d a b => Sys2Proof.Machine.execShfl p mode w64 d a b s
  | .ballot p d a k => Sys2Proof.Machine.execBallot p d a k s
  | .vote p mode d a k j => Sys2Proof.Machine.execVote p mode d a k j s
  | .matchv p w64 d a => Sys2Proof.Machine.execMatchv p w64 d a s
  | .lreduce p ty sat op d a => Sys2Proof.Machine.execLreduce p ty sat op d a s
  | .lscan p ty sat op excl d a => Sys2Proof.Machine.execLscan p ty sat op excl d a s
  | .tsinit p sp d a => Sys2Proof.Machine.execTsinit p sp d a s
  | .tsinitFrag p frag d a b g => Sys2Proof.Machine.execTsinitFrag p frag d a b g s
  | .tsset p d a w => Sys2Proof.Machine.execTsset p d a w s
  | .tsget p d a w => Sys2Proof.Machine.execTsget p d a w s
  | .recut p aws lossy sc d a b c off => Sys2Proof.Machine.execRecut p aws lossy sc d a b c off s
  | .recutq p lossy d a b => Sys2Proof.Machine.execRecutq p lossy d a b s
  | .gather p rsp sc a => Sys2Proof.Machine.execGather p rsp sc a s
  | .scatter p rsp sc a => Sys2Proof.Machine.execScatter p rsp sc a s
  | .mma p ap fmt sat d a b tk sa sb => Sys2Proof.Machine.execMma p ap fmt sat d a b tk sa sb s
  | .mlru p d a b tk => Sys2Proof.Machine.execMlru p d a b tk s
  | .mlrmul p d a b => Sys2Proof.Machine.execMlrmul p d a b s
  | .mlradd p d a => Sys2Proof.Machine.execMlradd p d a s
  | .mrecomp p set d a => Sys2Proof.Machine.execMrecomp p set d a s
  | .mdense p d => Sys2Proof.Machine.execMdense p d s
  | .mzero p d => Sys2Proof.Machine.execMzero p d s
  | .mcopy p d a => Sys2Proof.Machine.execMcopy p d a s
  | .mswap p d a => Sys2Proof.Machine.execMswap p d a s
  | .mstat p d a => Sys2Proof.Machine.execMstat p d a s
  | .mclrs p d mask => Sys2Proof.Machine.execMclrs p d mask s
  | .mpol p d densify nvt => Sys2Proof.Machine.execMpol p d densify nvt s
  | .mdrain p add ssp sc d a b off => Sys2Proof.Machine.execMdrain p add ssp sc d a b off s
  | .mfill p ty d a off => Sys2Proof.Machine.execMfill p ty d a off s
  | .mspill p d a off => Sys2Proof.Machine.execMspill p d a off s
  | .tkset p d g n => Sys2Proof.Machine.execTkset p d g n s
  | .coll p sc a => Sys2Proof.Machine.execColl p sc a s
  | .decode p sc a => Sys2Proof.Machine.execDecode p sc a s
  | .decq p d a => Sys2Proof.Machine.execDecq p d a s
  | .srd p n d => Sys2Proof.Machine.execSrd p n d s
  | .swr p n a => Sys2Proof.Machine.execSwr p n a s
  | .trap p n a => Sys2Proof.Machine.execTrap p n a s
  | .eret p => Sys2Proof.Machine.execEret p s
  | .owrd p d k => Sys2Proof.Machine.execOwrd p d k s
  | .owwr p k b => Sys2Proof.Machine.execOwwr p k b s
  | .xrd p d n => Sys2Proof.Machine.execXrd p d n s
  | .xwr p tag b n => Sys2Proof.Machine.execXwr p tag b n s
  | .xmrd p d a b => Sys2Proof.Machine.execXmrd p d a b s
  | .xmwr p tag init d a b => Sys2Proof.Machine.execXmwr p tag init d a b s
  | .xflg p done d b => Sys2Proof.Machine.execXflg p done d b s
  | .clock p cyc d => Sys2Proof.Machine.execClock p cyc d s
  | .perfq p clr d sel => Sys2Proof.Machine.execPerfq p clr d sel s
  | .launch p d a => Sys2Proof.Machine.execLaunch p d a s
  | .capmark p imm => Sys2Proof.Machine.execCapmark p imm s
  | .coldReset => Sys2Proof.Machine.execColdReset s
  | .warmReset => Sys2Proof.Machine.execWarmReset s
  | .railsGood order => Sys2Proof.Machine.execRailsGood order s
  | .bringUp => Sys2Proof.Machine.execBringUp s
  | .powerCapTick watts => Sys2Proof.Machine.execPowerCapTick watts s
  | .thermalThrottleTick temp panel => Sys2Proof.Machine.execThermalThrottleTick temp panel s
  | .thermalTrip temp panel => Sys2Proof.Machine.execThermalTrip temp panel s
  | .adaptiveVoltageRequest panel mv => Sys2Proof.Machine.execAdaptiveVoltageRequest panel mv s
  | .pldmMonitorRequest ptype cmd => Sys2Proof.Machine.execPldmMonitorRequest ptype cmd s
  | .pldmFirmwareUpdate slot fw raiseTo => Sys2Proof.Machine.execPldmFirmwareUpdate slot fw raiseTo s
  | .attestationQuote nonce => Sys2Proof.Machine.execAttestationQuote nonce s
  | .memoryLinkFlitRetry link => Sys2Proof.Machine.execMemoryLinkFlitRetry link s
  | .memoryLinkRetrain link ok => Sys2Proof.Machine.execMemoryLinkRetrain link ok s
  | .fabricFlitRetry port => Sys2Proof.Machine.execFabricFlitRetry port s
  | .fabricPortDown port => Sys2Proof.Machine.execFabricPortDown port s
  | .bufferReleaseFlit port flit => Sys2Proof.Machine.execBufferReleaseFlit port flit s
  | .readReceive port k => Sys2Proof.Machine.execReadReceive port k s
  | .writeReceive port k => Sys2Proof.Machine.execWriteReceive port k s
  | .atomicReceive port k => Sys2Proof.Machine.execAtomicReceive port k s
  | .creditReceive port k => Sys2Proof.Machine.execCreditReceive port k s
  | .lossyWriteReceive port k => Sys2Proof.Machine.execLossyWriteReceive port k s
  | .launchRequest port k => Sys2Proof.Machine.execLaunchRequest port k s
  | .mgmtReceive port k => Sys2Proof.Machine.execMgmtReceive port k s
  | .responseReceive port k => Sys2Proof.Machine.execResponseReceive port k s
  | .nackReceive port k => Sys2Proof.Machine.execNackReceive port k s
  | .lcompReceive port k => Sys2Proof.Machine.execLcompReceive port k s
  | .requestTimeout dst tag => Sys2Proof.Machine.execRequestTimeout dst tag s
  | .requestRecordExpiry src tag => Sys2Proof.Machine.execRequestRecordExpiry src tag s
  | .boltForward bolt pos egress => Sys2Proof.Machine.execBoltForward bolt pos egress s
  | .boltDiscard bolt pos => Sys2Proof.Machine.execBoltDiscard bolt pos s
  | .lossyDeadline pa => Sys2Proof.Machine.execLossyDeadline pa s
  | .arrivalCredit loc bytes cmd => Sys2Proof.Machine.execArrivalCredit loc bytes cmd s
  | .engineCommandFinish cmd => Sys2Proof.Machine.execEngineCommandFinish cmd s
  | .recutPass cmd => Sys2Proof.Machine.execRecutPass cmd s
  | .recutRetire cmd => Sys2Proof.Machine.execRecutRetire cmd s
  | .gatherScatterComplete cmd => Sys2Proof.Machine.execGatherScatterComplete cmd s
  | .collectiveComplete cmd peers => Sys2Proof.Machine.execCollectiveComplete cmd peers s
  | .decodeUnitOutput engine u => Sys2Proof.Machine.execDecodeUnitOutput engine u s
  | .budgetPeriod => Sys2Proof.Machine.execBudgetPeriod s
  | .engineFaultReplay cmd => Sys2Proof.Machine.execEngineFaultReplay cmd s
  | .engineFaultForward cmd => Sys2Proof.Machine.execEngineFaultForward cmd s
  | .engineFaultEnd cmd => Sys2Proof.Machine.execEngineFaultEnd cmd s
  | .matrixOpComplete core => Sys2Proof.Machine.execMatrixOpComplete core s
  | .longLatencyComplete op => Sys2Proof.Machine.execLongLatencyComplete op s
  | .clauseStart h => Sys2Proof.Machine.execClauseStart h s
  | .blockingWake t => Sys2Proof.Machine.execBlockingWake t s
  | .windowWriteApply t => Sys2Proof.Machine.execWindowWriteApply t s
  | .issueFormation core => Sys2Proof.Machine.execIssueFormation core s
  | .issueSlotChoice core slot => Sys2Proof.Machine.execIssueSlotChoice core slot s
  | .priorityAging core => Sys2Proof.Machine.execPriorityAging core s
  | .fairnessSwitch core slot => Sys2Proof.Machine.execFairnessSwitch core slot s
  | .rotationQuantum core => Sys2Proof.Machine.execRotationQuantum core s
  | .rotationBlocked core => Sys2Proof.Machine.execRotationBlocked core s
  | .contextMoveComplete core slot => Sys2Proof.Machine.execContextMoveComplete core slot s
  | .teamPlacement panel => Sys2Proof.Machine.execTeamPlacement panel s
  | .bobbinTimer cluster index => Sys2Proof.Machine.execBobbinTimer cluster index s
  | .eviction core => Sys2Proof.Machine.execEviction core s
  | .reinstatement core => Sys2Proof.Machine.execReinstatement core s
  | .idempotentDiscard team => Sys2Proof.Machine.execIdempotentDiscard team s
  | .gridComplete grid => Sys2Proof.Machine.execGridComplete grid s
  | .completionWordAnswer grid ans => Sys2Proof.Machine.execCompletionWordAnswer grid ans s
  | .jobStop ctx job => Sys2Proof.Machine.execJobStop ctx job s
  | .stopLimit ctx job => Sys2Proof.Machine.execStopLimit ctx job s
  | .handlerEntry t => Sys2Proof.Machine.execHandlerEntry t s
  | .mgmtCorePath t r => Sys2Proof.Machine.execMgmtCorePath t r s
  | .l1Eviction core ctx line => Sys2Proof.Machine.execL1Eviction core ctx line s
  | .updateLineMerge core ctx line => Sys2Proof.Machine.execUpdateLineMerge core ctx line s
  | .l2Miss line => Sys2Proof.Machine.execL2Miss line s
  | .ddrWriteAck line => Sys2Proof.Machine.execDdrWriteAck line s
  | .l2LineMove line => Sys2Proof.Machine.execL2LineMove line s
  | .tableWalk cluster ctx va => Sys2Proof.Machine.execTableWalk cluster ctx va s
  | .reportReplay r => Sys2Proof.Machine.execReportReplay r s
  | .reportForward r => Sys2Proof.Machine.execReportForward r s
  | .reportEnd r => Sys2Proof.Machine.execReportEnd r s
  | .uncorrectableWriteReport pa ctx => Sys2Proof.Machine.execUncorrectableWriteReport pa ctx s
  | .tlbinvPage size ctx vpn => Sys2Proof.Machine.execTlbinvPage size ctx vpn s
  | .tlbinvContext ctx => Sys2Proof.Machine.execTlbinvContext ctx s
  | .tlbinvAll => Sys2Proof.Machine.execTlbinvAll s
  | .tlbinvRetire => Sys2Proof.Machine.execTlbinvRetire s
  | .hotselWrite v => Sys2Proof.Machine.execHotselWrite v s
  | .oplogstatWrite v => Sys2Proof.Machine.execOplogstatWrite v s
  | .registerWrite n ctx v => Sys2Proof.Machine.execRegisterWrite n ctx v s
  | .bindService t word target => Sys2Proof.Machine.execBindService t word target s
  | .undefinedEncoding r => Sys2Proof.Machine.execUndefinedEncoding r s
  | .tagReuseExpiry dst tag => Sys2Proof.Machine.execTagReuseExpiry dst tag s
  | .replayInjection core => Sys2Proof.Machine.execReplayInjection core s
  | .railsDown order => Sys2Proof.Machine.execRailsDown order s

end Sys2Proof.Machine
end

