-- ==== Sys2Proof/WellFormed.lean ====
section
/-! DEFINITION. Which instructions are well formed: every operand lies in the range its encoding admits, and every
sub-field holds a value its entry assigns (14/R305 to R315, and the entries of 15 to 19). The tests of each field are
those of Decode.lean. A device step carries no encoding; it is well formed when the parts of the device it names exist and the
fields of a packet have their widths. -/

namespace Sys2Proof

/-! ## Operands of device steps -/

/-- A core of the device (00/R1). -/
def isCore (n : Nat) : Bool := decide (n < Config.cores)
/-- A panel of the device (01/R6). -/
def isPanel (n : Nat) : Bool := decide (n < Config.panels)
/-- A fabric port of the device (01/R6). -/
def isPort (n : Nat) : Bool := decide (n < Config.ports)
/-- A context id (06/R138). -/
def isCtx (n : Nat) : Bool := decide (n < 4096)
/-- A node and a transaction tag (02/R37). -/
def isRequest (node tag : Nat) : Bool := decide (node < 65536) && decide (tag < 2 ^ 24)
/-- The name of a thread of the device (04/R87). -/
def Tid.ok (t : Tid) : Bool := isCore t.core && decide (t.slot < Config.slots) && decide (t.lane < 32)
/-- The key of a report (06/R146). -/
def ReportKey.ok (k : ReportKey) : Bool :=
  decide (k.cluster < Config.clusters) && isCtx k.ctx && decide (k.page < 2 ^ 48) && decide (k.cause < 256)
/-- The fields of a packet have their widths, and its payload is its data flits (02/R36, R37). -/
def Packet.ok (k : Packet) : Bool :=
  decide (k.dst < 65536) && decide (k.src < 65536) && decide (k.typ < 256) && decide (k.cls < 4) && decide (k.len < 16) &&
  decide (k.tag < 2 ^ 24) && decide (k.addr < 2 ^ 52) && isCtx k.ctx && decide (k.bmask < 2 ^ 32) && decide (k.aux < 2 ^ 24) &&
  decide (k.etag < 2 ^ 64) && decide (k.data.length = 32 * k.len)
/-- A raw item falls under one of the causes of 14/R318. -/
def RawItem.ok (r : RawItem) : Bool :=
  decide (r.op < 1024) && decide (r.gb < 32) && (r.cause == 1 || r.cause == 2 || r.cause == 4)

/-- The well-formed instructions. -/
def Instr.wf : Instr → Bool
  | .nop p => p.okP false false false false && p.isPlain
  | .mov p w64 d a => p.okP false true false false && regOrPair w64 d && regOrPair w64 a
  | .movx p d a b => p.okP false false true false && isReg d && isReg a && isReg b
  | .movxw p d a b => p.okP false true true false && isReg d && isReg a && isReg b
  | .tag p w64 code d a => p.okP false true false false && Tag.isAny code && regOrPair w64 d && regOrPair w64 a
  | .tagq p d a => p.okP false true false false && isReg d && isReg a
  | .idq p d sel => p.okP false false false false && isReg d && decide (sel < 18)
  | .iadd p ty _ d a b => p.okP false true true false && Tag.isIntSmall ty && isReg d && isReg a && isReg b
  | .isub p ty _ d a b => p.okP false true true false && Tag.isIntSmall ty && isReg d && isReg a && isReg b
  | .ineg p ty _ d a => p.okP false true false false && Tag.isSignedSmall ty && isReg d && isReg a
  | .iabs p ty _ d a => p.okP false true false false && Tag.isSignedSmall ty && isReg d && isReg a
  | .imin p ty d a b => p.okP false true true false && Tag.isIntSmall ty && isReg d && isReg a && isReg b
  | .imax p ty d a b => p.okP false true true false && Tag.isIntSmall ty && isReg d && isReg a && isReg b
  | .imul p ty _ d a b => p.okP false true true false && Tag.isInt32 ty && isReg d && isReg a && isReg b
  | .imulh p ty d a b => p.okP false true true false && Tag.isInt32 ty && isReg d && isReg a && isReg b
  | .imad p ty _ d a b c => p.okP false true true true && Tag.isInt32 ty && isReg d && isReg a && isReg b && isReg c
  | .imadw p ty _ d a b c => p.okP false true true true && Tag.isInt32 ty && isPair d && isReg a && isReg b && isPair c
  | .iaddc p d a b c => p.okP false true true true && isPair d && isReg a && isReg b && isReg c
  | .isubb p d a b c => p.okP false true true true && isPair d && isReg a && isReg b && isReg c
  | .iadd64 p ty _ d a b => p.okP false true true false && Tag.isInt64 ty && isPair d && isPair a && isPair b
  | .isub64 p ty _ d a b => p.okP false true true false && Tag.isInt64 ty && isPair d && isPair a && isPair b
  | .icmp p ty _ _ d a b k => p.okP false true true false && Tag.isInt3264 ty && isReg d && regOrPair ty.is64 a && regOrPair ty.is64 b && decide (k < 32)
  | .isel p d a b c k => p.okP false true true true && decide (k < 32) && isReg d && isReg a && isReg b && isReg c
  | .shl p d a n => p.okP false true (!n.isImm) false && isReg d && isReg a && n.ok
  | .shr p d a n => p.okP false true (!n.isImm) false && isReg d && isReg a && n.ok
  | .sar p d a n => p.okP false true (!n.isImm) false && isReg d && isReg a && n.ok
  | .rotl p d a n => p.okP false true (!n.isImm) false && isReg d && isReg a && n.ok
  | .shl64 p d a n => p.okP false true (!n.isImm) false && isPair d && isPair a && n.ok
  | .shr64 p d a n => p.okP false true (!n.isImm) false && isPair d && isPair a && n.ok
  | .and p d a b => p.okP false true (!b.isImm) false && isReg d && isReg a && b.ok
  | .or p d a b => p.okP false true (!b.isImm) false && isReg d && isReg a && b.ok
  | .xor p d a b => p.okP false true (!b.isImm) false && isReg d && isReg a && b.ok
  | .andn p d a b => p.okP false true (!b.isImm) false && isReg d && isReg a && b.ok
  | .lut3 p d a b c table => p.okP false true true true && decide (table < 256) && isReg d && isReg a && isReg b && isReg c
  | .bfx p ty d a pos len1 => p.okP false true false false && Tag.isInt32 ty && decide (len1 < 32) && isReg d && isReg a && decide (pos < 32)
  | .bfi p d a b pos len1 => p.okP false true true false && decide (len1 < 32) && isReg d && isReg a && isReg b && decide (pos < 32)
  | .popc p d a => p.okP false true false false && isReg d && isReg a
  | .clz p d a => p.okP false true false false && isReg d && isReg a
  | .ctz p d a => p.okP false true false false && isReg d && isReg a
  | .brev p d a => p.okP false true false false && isReg d && isReg a
  | .bperm p d a b c => p.okP false true true true && isReg d && isReg a && isReg b && isReg c
  | .bset p d a n => p.okP false true (!n.isImm) false && isReg d && isReg a && n.ok
  | .bclr p d a n => p.okP false true (!n.isImm) false && isReg d && isReg a && n.ok
  | .movi p ty d imm => p.okI && Tag.isMovi ty && isReg d && immOk p.len imm
  | .movi64 p ty d imm => p.okI && Tag.isMovi64 ty && isPair d && immOk p.len imm
  | .bra p off => p.okI && p.len != .l64 && imm0Ok p.len off
  | .brx p a => p.okP false true false false && isPair a
  | .call p d off => p.okI && p.len != .l64 && isPair d && imm0Ok p.len off
  | .callx p d a => p.okP false true false false && isPair d && isPair a
  | .ret p a => p.okP false true false false && isPair a
  | .seam p => p.okP false false false false
  | .bar p => p.okP false false false false
  | .yield p => p.okP false false false false
  | .pause p n => p.okP false false false false && isReg n
  | .spawn p a b => p.okP false true true false && isPair a && isPair b
  | .exit p => p.okP false false false false
  | .fadd p rnd d a b c => p.okP false true true (rnd == .sr) && Rnd.rnd5 rnd && isReg d && isReg a && isReg b && (if rnd = .sr then isReg c else c == 0)
  | .fsub p rnd d a b c => p.okP false true true (rnd == .sr) && Rnd.rnd5 rnd && isReg d && isReg a && isReg b && (if rnd = .sr then isReg c else c == 0)
  | .fmul p rnd d a b c => p.okP false true true (rnd == .sr) && Rnd.rnd5 rnd && isReg d && isReg a && isReg b && (if rnd = .sr then isReg c else c == 0)
  | .ffma p rnd d a b c => p.okP false true true true && Rnd.rnd4 rnd && isReg d && isReg a && isReg b && isReg c
  | .fmin p d a b => p.okP false true true false && isReg d && isReg a && isReg b
  | .fmax p d a b => p.okP false true true false && isReg d && isReg a && isReg b
  | .fcmp p _ _ d a b k => p.okP false true true false && isReg d && isReg a && isReg b && decide (k < 32)
  | .fround p rnd d a => p.okP false true false false && Rnd.rnd4 rnd && isReg d && isReg a
  | .fclass p d a => p.okP false true false false && isReg d && isReg a
  | .fscale p rnd d a b => p.okP false true true false && Rnd.rnd4 rnd && isReg d && isReg a && isReg b
  | .frcp p rnd d a => p.okP false true false false && Rnd.rnd4 rnd && isReg d && isReg a
  | .frsq p rnd d a => p.okP false true false false && Rnd.rnd4 rnd && isReg d && isReg a
  | .fsqrt p rnd d a => p.okP false true false false && Rnd.rnd4 rnd && isReg d && isReg a
  | .fdiv p rnd d a b => p.okP false true true false && Rnd.rnd4 rnd && isReg d && isReg a && isReg b
  | .fexp2 p d a => p.okP false true false false && isReg d && isReg a
  | .flog2 p d a => p.okP false true false false && isReg d && isReg a
  | .fsin p d a => p.okP false true false false && isReg d && isReg a
  | .fcos p d a => p.okP false true false false && isReg d && isReg a
  | .ftanh p d a => p.okP false true false false && isReg d && isReg a
  | .hadd2 p ty rnd d a b c => p.okP false true true (rnd == .sr) && Tag.isHalf ty && Rnd.rnd5 rnd && isReg d && isReg a && isReg b && (if rnd = .sr then isReg c else c == 0)
  | .hmul2 p ty rnd d a b c => p.okP false true true (rnd == .sr) && Tag.isHalf ty && Rnd.rnd5 rnd && isReg d && isReg a && isReg b && (if rnd = .sr then isReg c else c == 0)
  | .hfma2 p ty rnd d a b c => p.okP false true true true && Tag.isHalf ty && Rnd.rnd4 rnd && isReg d && isReg a && isReg b && isReg c
  | .hmin2 p ty d a b => p.okP false true true false && Tag.isHalf ty && isReg d && isReg a && isReg b
  | .hmax2 p ty d a b => p.okP false true true false && Tag.isHalf ty && isReg d && isReg a && isReg b
  | .dot2 p ty rnd d a b c => p.okP false true true true && Tag.isHalf ty && Rnd.rnd4 rnd && isReg d && isReg a && isReg b && isReg c
  | .dot4 p ty _ d a b c => p.okP false true true true && Tag.isByteInt ty && isReg d && isReg a && isReg b && isReg c
  | .cvt p ty rnd sty sat d a b e => p.okP false true (rnd == .sr) false && Tag.isConv ty && Rnd.rnd5 rnd && Tag.isConv sty && regOrPair ty.is64 d && regOrPair sty.is64 a && (if rnd = .sr then isReg b else b == 0) && isReg e && cvtOk ty rnd sty sat e
  | .cvtxb p ty rnd _ d a b c => p.okP false true true (rnd == .sr) && Tag.isXB ty && Rnd.rndxb rnd && isReg d && isReg a && isReg b && (if rnd = .sr then isReg c else c == 0) && cvtxbOk ty rnd d a b c
  | .xbunp p ty sty _ d a b => p.okP false true true false && Tag.isUnp ty && Tag.isXB sty && isReg d && isReg a && isReg b
  | .xbexp p ty rnd _ d a c => p.okP false true false (rnd == .sr) && Tag.isXB ty && Rnd.rndxb rnd && isReg d && isReg a && (if rnd = .sr then isReg c else c == 0)
  | .mreduce p rnd _ d a b n => p.okP false true true false && Rnd.rnd4 rnd && isReg d && isReg a && isReg b && decide (1 ≤ n) && decide (n ≤ 16)
  | .ld p sp ty ord sc hint elt d a off => p.okI && Space.spGSPW sp && Tag.isMem ty && MemOrd.ordA ord && regOrPair ty.is64 d && regOrPair sp.wideAddr a && immOk p.len off && ordScopeOk ord sc && eltOk sp ty elt && mod2Ok p.len (8 * hint.code + elt.toNat)
  | .st p sp ty ord sc hint elt a b off => p.okI && Space.spGSPW sp && Tag.isMem ty && MemOrd.ordR ord && regOrPair sp.wideAddr a && regOrPair ty.is64 b && immOk p.len off && ordScopeOk ord sc && eltOk sp ty elt && mod2Ok p.len (8 * hint.code + elt.toNat)
  | .ldv p sp ty ord sc hint vn d a off => p.okI && Space.spGSPW sp && Tag.isMem ty && MemOrd.ordA ord && decide (vn < 8) && isReg d && regOrPair sp.wideAddr a && immOk p.len off && ordScopeOk ord sc && vecOk vn d && mod2Ok p.len (8 * hint.code + vn)
  | .stv p sp ty ord sc hint vn a b off => p.okI && Space.spGSPW sp && Tag.isMem ty && MemOrd.ordR ord && decide (vn < 8) && regOrPair sp.wideAddr a && isReg b && immOk p.len off && ordScopeOk ord sc && vecOk vn b && mod2Ok p.len (8 * hint.code + vn)
  | .ldc p ty d a off => p.okI && Tag.isMem ty && regOrPair ty.is64 d && isPair a && immOk p.len off
  | .pref p sp hint l2 a off => p.okI && Space.spGP sp && regOrPair sp.wideAddr a && immOk p.len off && mod2Ok p.len (8 * hint.code + l2.toNat)
  | .flushl p sp drop a off => p.okI && Space.spGP sp && regOrPair sp.wideAddr a && immOk p.len off && mod2Ok p.len (drop.toNat)
  | .atom p sp ty ord sc op d a b c off => p.okI && Space.spGSPW sp && Tag.isAtom ty && MemOrd.ordAR ord && regOrPair ty.is64 d && regOrPair sp.wideAddr a && regOrPair ty.is64 b && (if op = .cas then regOrPair ty.is64 c else c == 0) && imm0Ok p.len off && ordScopeOk ord sc && atomOk ty op && mod2Ok p.len (op.code)
  | .red p sp ty hint op a b off => p.okI && Space.spGSPW sp && Tag.isAtom ty && regOrPair sp.wideAddr a && regOrPair ty.is64 b && immOk p.len off && redOk ty op && mod2Ok p.len (8 * hint.code + op.code)
  | .fence p ord _ => p.okP false false false false && MemOrd.ordF ord
  | .cinv p sc => p.okP false false false false && scopeC sc
  | .waitv p sp ty _ cond d a b off => p.okI && Space.spGS sp && Tag.isInt3264 ty && regOrPair ty.is64 d && regOrPair sp.wideAddr a && regOrPair ty.is64 b && imm0Ok p.len off && mod2Ok p.len (cond.code)
  | .awset p sp d a b c off => p.okI && Space.spGS sp && isReg d && regOrPair sp.wideAddr a && isReg b && isReg c && imm0Ok p.len off
  | .arrive p sp _ a b off => p.okI && Space.spGS sp && regOrPair sp.wideAddr a && isReg b && immOk p.len off
  | .await p sp _ d a b off => p.okI && Space.spGS sp && isReg d && regOrPair sp.wideAddr a && isReg b && immOk p.len off
  | .srinit p a b c => p.okP false false false false && isReg a && isPair b && isReg c
  | .srwait p _ a b c => p.okP false false false false && isReg a && isReg b && isReg c
  | .srfree p a b => p.okP false false false false && isReg a && isReg b
  | .waitc p _ d n => p.okP false false false false && isReg d && n.ok
  | .tld p ord sc hint d a ts => p.okP false false false false && MemOrd.ordA ord && isReg d && isPair a && decide (ts < 32) && ordScopeOk ord sc && mod2Ok p.len (8 * hint.code)
  | .tst p ord sc hint a b ts => p.okP false false false false && MemOrd.ordR ord && isPair a && isReg b && decide (ts < 32) && ordScopeOk ord sc && mod2Ok p.len (8 * hint.code)
  | .shfl p _ w64 d a b => p.okP true true (!b.isImm) false && regOrPair w64 d && regOrPair w64 a && b.ok
  | .ballot p d a k => p.okP true true false false && isReg d && isReg a && decide (k < 32)
  | .vote p _ d a k j => p.okP true true false false && decide (j < 32) && isReg d && isReg a && decide (k < 32)
  | .matchv p w64 d a => p.okP true true false false && isReg d && regOrPair w64 a
  | .lreduce p ty sat op d a => p.okP true true false false && Tag.isLane ty && regOrPair ty.is64 d && regOrPair ty.is64 a && laneOpOk ty sat op
  | .lscan p ty sat op _ d a => p.okP true true false false && Tag.isLane ty && regOrPair ty.is64 d && regOrPair ty.is64 a && laneOpOk ty sat op
  | .tsinit p s d a => p.okP false false false false && decide (d < 32) && regOrPair (!s) a
  | .tsinitFrag p frag d a b g => p.okP false false false false && decide (frag < 256) && decide (d < 32) && isReg a && isReg b && decide (g < 64) && fragOk frag b
  | .tsset p d a w => p.okP false false false false && decide (d < 32) && isPair a && decide (w < 64)
  | .tsget p d a w => p.okP false false false false && isPair d && decide (a < 32) && decide (w < 64)
  | .recut p aws lossy _ d a b c off => p.okP false false false false && p.len == .l128 && decide (d < 32) && decide (a < 32) && regOrPair (!aws) b && isReg c && immOk .l128 off && recutOk aws lossy b c && recutOffOk lossy b off
  | .recutq p _ d a b => p.okP false false false false && isPair d && decide (a < 32) && decide (b < 32)
  | .gather p rsp _ a => p.okP false false false false && regOrPair (!rsp) a
  | .scatter p rsp _ a => p.okP false false false false && regOrPair (!rsp) a
  | .mma p _ fmt sat d a b tk sa sb => p.okP false false false false && p.len == .l128 && Tag.isFrag fmt && decide (d < 16) && isReg a && isReg b && decide (tk < 16) && isReg sa && isReg sb && mmaSatOk fmt sat && mmaScaleOk fmt sa sb
  | .mlru p d a b tk => p.okP false false false false && p.len == .l128 && decide (d < 16) && isReg a && isReg b && decide (tk < 16)
  | .mlrmul p d a b => p.okP false false false false && decide (d < 16) && decide (a < 16) && decide (b < 16)
  | .mlradd p d a => p.okP false false false false && decide (d < 16) && decide (a < 16)
  | .mrecomp p set d a => p.okP false false false false && decide (d < 16) && isReg a && mrecompOk set a
  | .mdense p d => p.okP false false false false && decide (d < 16)
  | .mzero p d => p.okP false false false false && decide (d < 16)
  | .mcopy p d a => p.okP false false false false && decide (d < 16) && decide (a < 16)
  | .mswap p d a => p.okP false false false false && decide (d < 16) && decide (a < 16)
  | .mstat p d a => p.okP false false false false && isReg d && decide (a < 16)
  | .mclrs p d mask => p.okP false false false false && decide (d < 16) && decide (mask < 32)
  | .mpol p d _ _ => p.okP false false false false && decide (d < 16)
  | .mdrain p _ ssp _ d a b off => p.okP false false false false && p.len == .l128 && decide (d < 16) && decide (a < 32) && regOrPair (!ssp) b && immOk .l128 off && mdrainOffOk b off
  | .mfill p ty d a off => p.okI && Tag.isFillTy ty && decide (d < 16) && isReg a && immOk p.len off
  | .mspill p d a off => p.okI && decide (d < 16) && isReg a && immOk p.len off
  | .tkset p d g n => p.okP false false false false && decide (d < 16) && decide (g < 64) && decide (n ≤ 64)
  | .coll p _ a => p.okP false false false false && isPair a
  | .decode p _ a => p.okP false false false false && isPair a
  | .decq p d a => p.okP false false false false && isPair d && isPair a
  | .srd p n d => p.okP false false false false && isSysReg n && isPair d
  | .swr p n a => p.okP false false false false && isSysReg n && isPair a
  | .trap p n a => p.okI && immOk p.len n && decide (n < 65536) && isPair a
  | .eret p => p.okP false false false false
  | .owrd p d k => p.okP false false false false && isReg d && decide (k < 16)
  | .owwr p k b => p.okP false false false false && decide (k < 16) && isReg b
  | .xrd p d n => p.okP false false false false && isReg d && n.ok
  | .xwr p _ b n => p.okP false false false false && isReg b && n.ok
  | .xmrd p d a b => p.okP false false false false && isReg d && decide (a < 16) && isReg b
  | .xmwr p tg _ d a b => p.okP false false false false && Tag.isXmTag tg && decide (d < 16) && isReg a && isReg b
  | .xflg p _ d b => p.okP false false false false && isReg d && isReg b
  | .clock p _ d => p.okP false false false false && isPair d
  | .perfq p _ d sel => p.okP false false false false && isPair d && isPerfSel sel
  | .launch p d a => p.okP false false false false && isReg d && isPair a
  | .capmark p imm => p.okI && immOk p.len imm
  | .coldReset => true
  | .warmReset => true
  | .railsGood _ => true
  | .bringUp => true
  | .powerCapTick w => decide (w < 65536)
  | .thermalThrottleTick t k => decide (t < 65536) && isPanel k
  | .thermalTrip t k => decide (t < 65536) && isPanel k
  | .adaptiveVoltageRequest k _ => isPanel k
  | .pldmMonitorRequest t c => decide (t < 256) && decide (c < 256)
  | .pldmFirmwareUpdate k _ _ => decide (k < 2)
  | .attestationQuote n => n.length == 32
  | .memoryLinkFlitRetry k => decide (k < Config.links)
  | .memoryLinkRetrain k _ => decide (k < Config.links)
  | .fabricFlitRetry k => isPort k
  | .fabricPortDown k => isPort k
  | .bufferReleaseFlit k f => isPort k && decide (f < 2 ^ 256)
  | .readReceive k x => isPort k && x.ok
  | .writeReceive k x => isPort k && x.ok
  | .atomicReceive k x => isPort k && x.ok
  | .creditReceive k x => isPort k && x.ok
  | .lossyWriteReceive k x => isPort k && x.ok
  | .launchRequest k x => isPort k && x.ok
  | .mgmtReceive k x => isPort k && x.ok
  | .responseReceive k x => isPort k && x.ok
  | .nackReceive k x => isPort k && x.ok
  | .lcompReceive k x => isPort k && x.ok
  | .requestTimeout d t => isRequest d t
  | .requestRecordExpiry d t => isRequest d t
  | .boltForward _ _ _ => true
  | .boltDiscard _ _ => true
  | .lossyDeadline _ => true
  | .arrivalCredit _ _ _ => true
  | .engineCommandFinish _ => true
  | .recutPass _ => true
  | .recutRetire _ => true
  | .gatherScatterComplete _ => true
  | .collectiveComplete _ _ => true
  | .decodeUnitOutput k _ => decide (k < 16)
  | .budgetPeriod => true
  | .engineFaultReplay _ => true
  | .engineFaultForward _ => true
  | .engineFaultEnd _ => true
  | .matrixOpComplete c => isCore c
  | .longLatencyComplete _ => true
  | .clauseStart h => h.ok
  | .blockingWake t => t.ok
  | .windowWriteApply t => t.ok
  | .issueFormation c => isCore c
  | .issueSlotChoice c k => isCore c && decide (k < 2)
  | .priorityAging c => isCore c
  | .fairnessSwitch c k => isCore c && decide (k < 2)
  | .rotationQuantum c => isCore c
  | .rotationBlocked c => isCore c
  | .contextMoveComplete c k => isCore c && decide (k < Config.slots)
  | .teamPlacement k => isPanel k
  | .bobbinTimer k i => decide (k < Config.clusters) && decide (i < Config.bobbins)
  | .eviction c => isCore c
  | .reinstatement c => isCore c
  | .idempotentDiscard _ => true
  | .gridComplete _ => true
  | .completionWordAnswer _ _ => true
  | .jobStop c _ => isCtx c
  | .stopLimit c _ => isCtx c
  | .handlerEntry t => t.ok
  | .mgmtCorePath t _ => t.ok
  | .l1Eviction c x l => isCore c && isCtx x && decide (l < 2 ^ 48)
  | .updateLineMerge c x l => isCore c && isCtx x && decide (l < 2 ^ 48)
  | .l2Miss l => decide (l < 2 ^ 45)
  | .ddrWriteAck l => decide (l < 2 ^ 45)
  | .l2LineMove l => decide (l < 2 ^ 45)
  | .tableWalk k x _ => decide (k < Config.clusters) && isCtx x
  | .reportReplay k => k.ok
  | .reportForward k => k.ok
  | .reportEnd k => k.ok
  | .uncorrectableWriteReport a x => decide (a < 2 ^ 52) && isCtx x
  | .tlbinvPage z x v => decide (z < 4) && isCtx x && decide (v < 2 ^ 39)
  | .tlbinvContext x => isCtx x
  | .tlbinvAll => true
  | .tlbinvRetire => true
  | .hotselWrite _ => true
  | .oplogstatWrite _ => true
  | .registerWrite n x _ => isSysReg n && isCtx x
  | .bindService t _ _ => t.ok
  | .undefinedEncoding r => r.ok
  | .tagReuseExpiry d t => isRequest d t
  | .replayInjection c => isCore c
  | .railsDown _ => true

end Sys2Proof
end

