-- ==== Sys2Proof/Machine/Fetch.lean ====
section
/-! DEFINITION. What a step does around `exec`: the passing of one arithmetic cycle (01/R18 to R20, 19/R426), fetching and
examining the item of the entry that issues (14/R304, R309, R318; 15/R336), and the device steps that may happen next by
themselves. -/

namespace Sys2Proof.Machine

/-! ## One arithmetic cycle -/

/-- A cycle lasts 160 / (11 × (16 − STEP)) ns; whole nanoseconds are counted and the rest is kept (01/R18, R19). -/
def Time.tick (t : Time) (step : Nat) : Time :=
  let x := t.frac + 160 * 720720 / (16 - step)
  { ns := (t.ns + x / (11 * 720720)) % 2 ^ 64, cyc := t.cyc + 1, frac := x % (11 * 720720) }

/-- The cycle counter of PERFQ that a thread's place adds to (19/R426): 2 ready without issuing, 3 at a blocking point, 4 held at
a header by WAIT. -/
def Thread.cycleOf (t : Thread) (counter : Nat) : Bool :=
  match t.run with
  | .ready | .held => counter == 2
  | .blocked (.fabricLoad _) _ _ => counter == 3 || counter == 4 && t.clause.isNone
  | .blocked (.converge _) _ _ => false
  | .blocked _ _ _ => counter == 3
  | .flagWait _ => counter == 4
  | .logWait => counter == 4 && t.clause.isNone
  | _ => false

/-- A thread's counters after a cycle (one point DEDUCED, log entry 86). -/
def Thread.tick (t : Thread) (issuing : Bool) : Thread :=
  let count := fun (k : Nat) (x : Nat) => if t.cycleOf k && !(issuing && k == 2) then (x + 1) % 2 ^ 64 else x
  { t with perf := t.perf.mapIdx fun k x => count k x }

/-- Since when every thread of a resident team is blocked or parked, for eviction (04/R98, R99), and when a wake condition of an
evicted team first holds (04/R100). -/
def State.tickTeam (s : State) (tm : Team) : Team :=
  match tm.state with
  | .resident =>
    let still : Bool := s.allStopped tm.id && s.threads.any fun t => t.team == tm.id && t.external
    { tm with blockedSince := if still then some (tm.blockedSince.getD s.time.cyc) else none }
  | .evicted =>
    if tm.woken.isNone && s.threads.any fun t => t.team == tm.id && s.wakeFires t then { tm with woken := some s.time.cyc } else tm
  | _ => tm

/-- FULL counts the cycles in which a core's operand log has no free place (06/R145). A group of the slow file waits and ages from the
cycle since which it stands ready (04/R89, R94). -/
def State.tickCore (s : State) (c : Core) : Core :=
  let c1 : Core := { c with slow := c.slow.map fun x => if s.groupReady c.num x.1 then x else (x.1, s.time.cyc + 1, 0) }
  let c2 := c1.age (s.time.cyc + 1)
  if s.logUsed c.num < Config.logPlaces then c2 else { c2 with logFull := satAdd (2 ^ 32 - 1) c2.logFull 1 }

/-- While a thread is not ready, the count of its core's instructions from which determinism mode measures its wait goes on: it then
stands where the thread became ready (04/R95, R106). -/
def State.tickThread (s : State) (t : Thread) : Thread :=
  if (s.teamOf t).state = .resident then
    let t1 := t.tick (s.issue.contains t.id)
    if s.threadReady t then t1 else { t1 with sinceCount := (s.core t.id.core).issued }
  else t

/-- One cycle passes. While the package is held in reset or has tripped nothing runs (01/R22, R25). -/
def State.tick (s : State) : State :=
  if s.board.stopped then { s with free := s.free + 1 }
  else
    { s with
      time := s.time.tick s.stepNow
      threads := s.threads.map s.tickThread
      entries := s.entries.map fun e => e.age (s.time.cyc + 1)
      teams := s.teams.map s.tickTeam
      cores := s.cores.map s.tickCore
      free := s.free + 1 }

/-! ## Fetch (14/R304, 15/R336, 06/R142) -/

/-- The bytes from a thread's PC to the end of its fetch block, or the cause of a fetch fault. -/
def State.fetch (s : State) (t : Thread) : State × Except Nat (List Byte) :=
  let r := s.translate (clusterOf t.id.core) (s.ctxOf t) t.pc
  match r.2 with
  | .error c => (r.1, .error c)
  | .ok x =>
    if !x.x ∨ x.apt ≠ 0 then (r.1, .error 0x13)
    else
      let h := r.1.homeRead x.pa (32 - t.pc % 32)
      (h.1.noAlloc r.1 x.cache x.pa false, match h.2 with | none => .error 0x17 | some b => .ok b)

/-- The bytes of a fetch; none where it faults. -/
def fetched (f : Except Nat (List Byte)) : List Byte :=
  match f with
  | .ok b => b
  | .error _ => []

/-- The fields with which nothing is decoded. -/
def plainPre : Pre :=
  { len := .l64, fs := false, ge := false, gn := false, gb := 0, sg := 0, pa := noPerm, pb := noPerm, pc := noPerm }

/-- One thread of the issue parks at a target that cannot be fetched, with its lane mask (06/R143). -/
def State.parkFetch (s : State) (who : List Tid) (cause : Nat) (t : Thread) : Thread :=
  if who.contains t.id then
    let r := s.trapRec plainPre true t cause 0 (some (vaValue t.pc))
    { t with run := .faulted { r with lanes := (who.map fun i => if i.slot = t.id.slot then 2 ^ i.lane else 0).sum } }
  else t

/-- A fetch fault: the threads of the issue park at the target and the fault is reported; no log entry is made (06/R143, R146;
15/R336). -/
def State.fetchFault (s : State) (t : Thread) (cause : Nat) : State :=
  let s1 := s.openReport (s.keyOf t t.pc cause) fun r => { r with tids := r.tids ++ s.issue }
  let s2 : State := { s1 with ir := (.l64, []), threads := s1.threads.map fun x => s.parkFetch s.issue cause x }
  s2.settle s.issue

/-! ## Examining an item (14/R318) -/

/-- The length of the item at the head of some bytes. -/
def itemLen (bs : List Byte) : Len := (lenOf (leNat (bs.take 8))).getD .l64
/-- The four words of an item, as many bytes of it as are given. -/
def itemWords (n : Nat) (bs : List Byte) : List Word := wordsOf 4 (bs.take n)
/-- A malformed item, cause 0x04. -/
def malformedItem (bs : List Byte) : RawItem := (Words.fields (wordsAt (itemLen bs) bs)).raw .crossesBlock
/-- The OP field of the item at the head of some bytes. -/
def itemOp (bs : List Byte) : Nat := bitsAt (leNat (bs.take 8)) 2 10
/-- An item holds the OP of a control transfer. -/
def isTransfer (bs : List Byte) : Bool := (opRow? (itemOp bs)).any fun r => r.op.isTransfer

/-- What the structure, form and decode checks make of an item. -/
inductive Exam where
  | run (i : Instr)
  | reject (r : RawItem)
  deriving DecidableEq, Repr

/-- The checks of R318 before execution: an item is a header exactly where one is expected, lies in its block, and a control
transfer is the last of its clause (one point DEDUCED, log entry 80). -/
def examine (header last : Bool) (bs : List Byte) : Exam :=
  match decodeItem bs with
  | .ok (.clauseStart h, _) => if header then .run (.clauseStart h) else .reject (malformedItem bs)
  | .ok (i, _) => if header || (isTransfer bs && !last) then .reject (malformedItem bs) else .run i
  | .error (_, r) => if header || (isTransfer bs && !last) then .reject (malformedItem bs) else .reject r

/-- The item being issued is known to the traps it raises: of a malformed one the words that its fetch block holds. -/
def State.loadIr (s : State) (len : Len) (n : Nat) (bs : List Byte) : State := { s with ir := (len, itemWords n bs) }

/-- A rejected item's trap. -/
def State.rejectItem (s : State) (r : RawItem) (bs : List Byte) : Out :=
  execUndefinedEncoding r (s.loadIr r.len (if r.cause = 4 then 16 else r.len.bytes) bs)

/-- Threads of the issue whose team has the OP disabled (12/R276). -/
def State.disabledAt (s : State) (op : Nat) : List Tid := s.issue.filter fun i => bitsAt (s.teamOf (s.thread i)).disabled op 1 == 1

/-- A defined instruction runs: on threads whose team has it disabled it is cause 0x02, and the others execute it. -/
def State.runItem (s : State) (i : Instr) (bs : List Byte) : Out :=
  let s1 := s.loadIr (itemLen bs) (itemLen bs).bytes bs
  let off := s1.disabledAt (itemOp bs)
  if off.isEmpty then exec i s1
  else
    let on := s1.issue.filter fun t => !off.contains t
    let s2 := nextOr s1 (execUndefinedEncoding { malformedItem bs with cause := 2 } { s1 with issue := off })
    if on.isEmpty then .next s2 else exec i { s2 with issue := on }

/-- The issue entry's next item is fetched, examined and runs. -/
def State.issueStep (s : State) : Out :=
  match s.issue with
  | [] => .next s
  | i :: _ =>
    let t := s.thread i
    let f := s.fetch t
    if t.pc % 4 ≠ 0 then f.1.rejectItem (malformedItem (fetched f.2)) (fetched f.2)
    else
      match f.2 with
      | .error c => .next (f.1.fetchFault t c)
      | .ok bs =>
        match examine t.clause.isNone (t.clause.any fun c => decide (c.count ≤ c.idx + 1)) bs with
        | .reject r => f.1.rejectItem r bs
        | .run (.clauseStart h) => exec (.clauseStart h) (f.1.loadIr .l64 8 bs)
        | .run x => f.1.runItem x bs

/-! ## What may happen by itself -/

/-- A device step would change the state (DEDUCED, log entry 8). -/
def State.changes (s : State) (i : Instr) : Bool :=
  match exec i s with
  | .next t => decide (t ≠ s)
  | _ => false

/-- The length of a budget period in ns: PERIOD is 1 to 100 µs (03/R68, R69). -/
def State.periodNs (s : State) : Nat := 1000 * max 1 (min 100 (fld s.sys.budcfg 1 7))

/-- Steps of the threads and of their operations. -/
def State.threadEvents (s : State) : List Instr :=
  (s.ops.map fun o => Instr.longLatencyComplete o.id) ++
  (s.threads.flatMap fun t =>
    (if t.win.isEmpty then [] else [Instr.windowWriteApply t.id]) ++ [.blockingWake t.id, .handlerEntry t.id])

/-- Steps of the engines. -/
def State.engineEvents (s : State) : List Instr :=
  s.cmds.flatMap fun c =>
    [.recutPass c.id, .recutRetire c.id, .gatherScatterComplete c.id, .collectiveComplete c.id [], .engineCommandFinish c.id]

/-- Steps of one core. The fairness switch goes before an issue slot's own choice (04/R95). -/
def State.coreEvents (s : State) (c : Core) : List Instr :=
  let k := c.num
  let slot := fun (i : Nat) => if (s.unfair k i).isSome then Instr.fairnessSwitch k i else .issueSlotChoice k i
  [.matrixOpComplete k, .issueFormation k, slot 0, slot 1, .priorityAging k, .rotationQuantum k, .rotationBlocked k, .eviction k,
   .reinstatement k] ++ c.moves.map fun m => .contextMoveComplete k m.slot

/-- Steps of teams, grids and jobs. -/
def State.gridEvents (s : State) : List Instr :=
  ((List.range Config.panels).map fun k => Instr.teamPlacement k) ++ (s.bobbins.map fun b => .bobbinTimer b.1 b.2.index) ++
  (s.teams.map fun t => .idempotentDiscard t.id) ++ (s.grids.map fun g => .gridComplete g.id) ++
  (s.stops.flatMap fun x => let j := x.jobs.headD 0; [.jobStop x.ctx j, .stopLimit x.ctx j]) ++
  (if s.periodStart + s.periodNs ≤ s.time.ns then [.budgetPeriod] else []) ++ (if s.injectable.isSome then [.replayInjection 0] else [])

/-- Steps of the fabric. -/
def State.fabricEvents (s : State) : List Instr :=
  let f := s.fabric
  let owners := (f.performing.flatMap fun p => p.waits).eraseDups
  (owners.map fun t => Instr.windowWriteApply t) ++ (f.reqs.map fun r => .requestTimeout r.dst r.tag) ++ (f.dups.map fun d => .requestRecordExpiry d.src d.tag) ++
  (f.tags.map fun x => .tagReuseExpiry x.1 x.2.1) ++ (f.lossy.map fun e => .lossyDeadline e.region)

/-- Steps of the L2, and of invalidations. -/
def State.l2Events (s : State) : List Instr :=
  (s.l2.want.map fun x => Instr.l2Miss x.1) ++ (s.l2.writes.map fun w => .ddrWriteAck w.line) ++
  ((s.l2.lines.filter s.needsMove).map fun x => .l2LineMove x.line) ++ (if s.invs.isEmpty then [] else [.tlbinvRetire])

/-- The device steps that may happen next: those that change the state. -/
def State.events (s : State) : List Instr :=
  (Instr.bringUp :: s.threadEvents ++ s.engineEvents ++ s.cores.flatMap s.coreEvents ++ s.gridEvents ++ s.fabricEvents ++
    s.l2Events).filter s.changes

/-- The scheduling step whose turn a cycle is, core by core: no thread that may issue waits for ever (04/R96)
(DESIGN CHOICE, log entry 5). -/
def State.turn (s : State) : Option Instr :=
  let k := s.time.cyc / 16 % Config.cores
  let slot := fun (i : Nat) => if (s.unfair k i).isSome then Instr.fairnessSwitch k i else .issueSlotChoice k i
  match s.time.cyc % 16 with
  | 1 => some (.issueFormation k)
  | 3 => some (slot 0)
  | 5 => some (slot 1)
  | 7 => some (.rotationQuantum k)
  | 9 => some (.rotationBlocked k)
  | 11 => (s.core k).moves.head?.map fun m => .contextMoveComplete k m.slot
  | _ => none

/-- What happens next by itself: the scheduling step whose turn it is, where that changes the state; else something without a cause, or
one of the steps that may happen, which one the spec leaves open (log entry 4). With none, the cycle passes. -/
def State.autoStep (s : State) : Out :=
  match s.turn.filter s.changes with
  | some i => exec i s
  | none =>
    match s.happens with
    | some s' => .next s'
    | none =>
      let l := s.events
      match l[(s.freeWord 65535).toNat % l.length]? with
      | none => .next s
      | some i => exec i s

/-! ## What is due -/

/-- The steps that act while the package is held in reset or has tripped (01/R22, R25, R32). -/
def onBoard : Instr → Bool
  | .coldReset | .warmReset | .railsGood _ | .railsDown _ => true
  | _ => false

/-- The step due first: a step that names what the device does not have is no step of it; while the package is held nothing but
the board acts (DESIGN CHOICE, log entry 5). -/
def State.dueStep (s : State) (i : Instr) : Out :=
  if !i.wf then .fault .illFormed
  else if s.board.stopped && !onBoard i then .next s
  else exec i s

/-- The whole of a step: a cycle passes; then the step due first is taken, or the item chosen to issue runs, or one of the steps
that may happen by themselves does (DESIGN CHOICE, log entry 5). -/
def State.advanceOnce (s : State) : Out :=
  let s1 := s.tick
  match s1.agenda with
  | i :: l => ({ s1 with agenda := l } : State).dueStep i
  | [] =>
    if s1.board.stopped then .next s1
    else if s1.issue.isEmpty then s1.autoStep
    else s1.issueStep

end Sys2Proof.Machine
end

