-- ==== Sys2Proof/Machine/Step.lean ====
section
/-! DEFINITION. The step of the machine, and the placing of one instruction where the next step fetches. -/

namespace Sys2Proof.Machine

/-- One step: one arithmetic cycle, in which at most one thing happens (log entry 5). -/
def step (s : State) : Host.Outcome State Fault Refusal := s.advanceOnce

/-! ## Placing an instruction

Programs come to the machine by launches from outside: a launch record names an entry, its teams are placed, their threads are
offered for formation and an issue slot chooses an entry (log entry 6). `withFetchWord` stands for all of that: one thread of a
one-group team on core 0 whose item is chosen to issue. -/

/-- The virtual and physical address of the placed instruction: frame 1 of local memory. -/
def placedAt : Nat := 0x10000
/-- The leaf of its page: valid, writable and executable, `LOCAL`, cached (06/R135). -/
def placedLeaf : DWord := 0x100F#64
/-- The thread that issues it. -/
def placedTid : Tid := { core := 0, slot := 0, lane := 0 }

/-- The thread that issues the placed item: in a clause of one instruction, or at a header where the item is a header. -/
def placedThread (team w cyc : Nat) : Thread :=
  let c : Clause := { seta := 15, setb := 15, pred := 0, count := 1, idx := 0, yield := false }
  { Thread.blank placedTid with
    team := team, pc := placedAt, clause := if w % 4 = 3 then none else some c, run := .ready, lastIssue := cyc, readySince := cyc }

/-- Its team, and the team's grid. -/
def placedTeam (id grid : Nat) : Team :=
  ({ Team.blank id with
     grid := grid, state := .resident, slots := [0], groups := [Group.fresh { kind := 4, nr := 255 }], entry := placedAt
     scratch := 32768, privWords := 0, prio := 0 } : Team).start
/-- The grid of the placed team: one team, one group of kind GENERAL. -/
def placedGrid (id : Nat) : Grid :=
  { Grid.blank id with
    entry := placedAt, teams := 1, roles := [{ kind := 4, nr := 255 }], scratch := 32768, clusters := 1, nextTeam := 1, status := none
    finished := false }

/-- The state with the instruction of bits `w` stored where the next step fetches, zero above `nbits` (DESIGN CHOICE, log entry 6). -/
def State.withFetchWord (s : State) (nbits w : Nat) : State :=
  let line := placedAt / 128
  let leaf : TlbEntry := { cluster := 0, ctx := 0, level := 3, vpn := placedAt / 65536, leaf := placedLeaf, used := s.time.cyc }
  { s with
    board := { s.board with held := false, tripped := false }
    sys := { s.sys with mlstat := s.sys.mlstat ||| BitVec.ofNat 64 (2 ^ linkOf placedAt) }
    mem := memWrite s.mem placedAt (leBytes 16 (w % 2 ^ nbits))
    l2 := { s.l2 with det := dropBy (fun d => d.pa / 128 == line) s.l2.det, bad := dropBy (· == line) s.l2.bad }
    upd := dropBy (fun u => u.pa / 128 == line) s.upd
    tlb := leaf :: s.tlb
    grids := dropBy (fun g => g.id == s.fresh) s.grids ++ [placedGrid s.fresh]
    teams := dropBy (fun t => t.id == s.fresh) s.teams ++ [placedTeam s.fresh s.fresh]
    threads := placedThread s.fresh (w % 2 ^ nbits) s.time.cyc :: dropBy (fun t => t.id == placedTid) s.threads
    agenda := []
    issue := [placedTid]
    fresh := s.fresh + 1 }

end Sys2Proof.Machine
end

