-- ==== Sys2Proof/Safety.lean ====
section
/-! DEFINITION. What counts as a safe run: no step of the run stops, and the state keeps its forms. -/

namespace Sys2Proof.Machine

/-- Local memory, DDR, every scratchpad and the memory behind every bolt are in canonical form. -/
def State.memoryOk (s : State) : Bool :=
  Memory.wf s.mem && Memory.wf s.ddr && (s.teams.all fun t => Memory.wf t.scr) && s.fabric.bolts.all fun b => Memory.wf b.mem

/-- The register cells of a thread rise by number, and none is zero with tag RAW. -/
def regsRise (b : Nat) : List RegCell → Bool
  | [] => true
  | c :: l => decide (b ≤ c.n) && !(c.v == 0#32 && c.tag == .raw) && regsRise (c.n + 1) l
/-- Every thread's registers are in canonical form. -/
def State.regsOk (s : State) : Bool := s.threads.all fun t => regsRise 0 t.regs

/-- The form a safe run keeps. -/
def State.ok (s : State) : Bool := s.memoryOk && s.regsOk

/-- `n` steps from a state lead to another, with no fault and no refusal on the way. -/
inductive Steps : Nat → State → State → Prop where
  | zero (s : State) : Steps 0 s s
  | succ {n : Nat} {s t u : State} (h : step s = .next t) (r : Steps n t u) : Steps (n + 1) s u

/-- A safe run of `n` steps: each answers a next state, and the forms hold at its end. -/
def SafeRun (n : Nat) (s : State) : Prop := ∃ t, Steps n s t ∧ t.ok = true

end Sys2Proof.Machine
end

