-- ==== Sys2Proof/Certificates/Slice0/Obligations.lean ====
section
/-! DEFINITION. The statements about the machine that the provers are asked for, each under the rule of spec/ that it
formalises, and the terms they are written in. -/

namespace Sys2Proof.Claim

open Sys2Proof.Machine

/-! ## Terms: an instruction issues in a lane -/

/-- The thread is listed under its name and in the issue, its registers are in canonical form, and its guard passes
(14/R313). -/
structure Issues (s : State) (p : Pre) (t : Thread) : Prop where
  listed : s.threads.find? (fun x => x.id == t.id) = some t
  issued : t.id ∈ s.issue
  form : regsRise 0 t.regs = true
  passes : s.guard t p = .ok true

/-- A permuted operand makes an instruction convergent (14/R315, R316): the whole subgroup stands at it, it fits the declared
width, and no live member has a write pending to its own destination. -/
def Together (s : State) (p : Pre) (t : Thread) (pend : Thread → List Src) : Prop :=
  permuted p = true →
    s.tooWide t p = false ∧ s.converged t (s.gSize t p) = true ∧
      ∀ q ∈ s.subgroup t (s.gSize t p), (s.thread q).live = true → s.destPending (s.thread q) (pend (s.thread q)) = false

/-- A register instruction executes normally in the lane: role and level, register ranges, pending destinations and formats
let it (04/R80, 05/R113, 14/R312, 08/R199). -/
structure Executes (s : State) (p : Pre) (r : RoleRow) (dsts srcs : List Src) (t : Thread) : Prop extends Issues s p t where
  clear : s.gate t p r dsts srcs = none
  together : Together s p t fun _ => dsts

/-- Where a thread stands in its clause after an instruction of it: at the next, or after the last at the header that follows
(14/R309). -/
def nextClause : Option Clause → Option Clause
  | none => none
  | some c => if c.count ≤ c.idx + 1 then none else some { c with idx := c.idx + 1 }

/-- What a register reads as after cells are written: the last one written to it, else its old value; `vz` reads as zero with
tag RAW whatever is written (05/R113, 14/R307). -/
def regAfter (t : Thread) (w : List RegCell) (n : Nat) : Word × Tag :=
  if n = 255 then (0#32, .raw)
  else match w.reverse.find? fun c => c.n == n with
    | some c => (c.v, c.tag)
    | none => t.reg n

/-- The parts of a thread that no instruction but a trap, a handler's end or a window write changes. -/
def SameRest (t t' : Thread) : Prop :=
  t'.id = t.id ∧ t'.team = t.team ∧ t'.depth = t.depth ∧ t'.traps = t.traps ∧ t'.win = t.win ∧ t'.reds = t.reds

/-- The thread has executed: the cells are written and no other register, the status bits are ORed into ASTAT, and it stands
past the instruction. -/
structure Wrote (s' : State) (p : Pre) (t : Thread) (w : List RegCell) (st : Status) : Prop where
  regs : ∀ n, (s'.thread t.id).reg n = regAfter t w n
  astat : (s'.thread t.id).astat = t.astat ||| st
  pc : (s'.thread t.id).pc = t.pc + p.len.bytes
  clause : (s'.thread t.id).clause = nextClause t.clause
  ready : (s'.thread t.id).run = .ready
  rest : SameRest t (s'.thread t.id)

/-- The thread has transferred control (15/R335): the cells are written, and it stands at the target in header position. -/
structure Jumped (s' : State) (t : Thread) (w : List RegCell) (target : Nat) : Prop where
  regs : ∀ n, (s'.thread t.id).reg n = regAfter t w n
  astat : (s'.thread t.id).astat = t.astat
  pc : (s'.thread t.id).pc = target
  clause : (s'.thread t.id).clause = none
  ready : (s'.thread t.id).run = .ready
  rest : SameRest t (s'.thread t.id)

/-- Nothing outside the threads that take part changes: no byte of memory, no special register, no cache line, no scratchpad, no
engine, no other thread. -/
structure Apart (s s' : State) (who : List Tid) : Prop where
  rest : s' = { s with threads := s'.threads, entries := s'.entries, issue := s'.issue }
  bytes : ∀ a, memGet s'.mem a = memGet s.mem a
  others : ∀ i, i ∉ who → s'.thread i = s.thread i

/-- A value written to a register, or to a pair: bits [31:0] in the even register (08/R181). A pair of 255 is discarded. -/
def cells (pair : Bool) (d v : Nat) (tag : Tag) : List RegCell :=
  if pair then
    if d = 255 then []
    else [{ n := d, v := BitVec.ofNat 32 (v % 2 ^ 32), tag := tag }, { n := d + 1, v := BitVec.ofNat 32 (v / 2 ^ 32), tag := tag }]
  else [{ n := d, v := BitVec.ofNat 32 v, tag := tag }]

/-- The least value of an integer type. -/
def lowest : Tag → Int
  | .s8 => -128 | .s16 => -32768 | .s32 => -2147483648 | .s64 => -9223372036854775808 | _ => 0
/-- The greatest value of an integer type. -/
def highest : Tag → Int
  | .s8 => 127 | .n8 => 255 | .s16 => 32767 | .n16 => 65535 | .s32 => 2147483647 | .n32 => 4294967295
  | .s64 => 9223372036854775807 | .n64 => 18446744073709551615 | _ => 0
/-- How many elements a register or pair holds. -/
def elements : Tag → Nat
  | .s8 | .n8 => 4 | .s16 | .n16 => 2 | _ => 1
/-- Element j of an operand as its type reads it: an unsigned number below 2^w, from which a signed type takes 2^w above its
greatest value. -/
def element (ty : Tag) (j x : Nat) : Int :=
  let y : Int := ((x / 2 ^ (ty.width * j) % 2 ^ ty.width : Nat) : Int)
  if highest ty < y then y - 2 ^ ty.width else y
/-- The bits of an exact value delivered: under SAT the nearest limit, under WRAP the low bits (15/R321). -/
def delivered (ty : Tag) (sat : Bool) (x : Int) : Nat :=
  ((if sat then (if x < lowest ty then lowest ty else if highest ty < x then highest ty else x) else x) % 2 ^ ty.width).toNat
/-- A saturating result changed the value (15/R321). -/
def clamped (ty : Tag) (sat : Bool) (x : Int) : Prop := sat = true ∧ (x < lowest ty ∨ highest ty < x)

end Sys2Proof.Claim

open Sys2Proof Sys2Proof.Machine Sys2Proof.Claim

/-! ## Integer instructions (15) -/

namespace Sys2Proof.Claim

/-- The element-wise integer instructions of 15/R320. -/
inductive IntOp where
  | iadd | isub | ineg | iabs | imin | imax | imul | iadd64 | isub64
  deriving DecidableEq, Repr

/-- The instruction of a row; INEG and IABS have no B, IMIN and IMAX no SAT. -/
def IntOp.instr (o : IntOp) (p : Pre) (ty : Tag) (sat : Bool) (d a b : Nat) : Instr :=
  match o with
  | .iadd => .iadd p ty sat d a b
  | .isub => .isub p ty sat d a b
  | .ineg => .ineg p ty sat d a
  | .iabs => .iabs p ty sat d a
  | .imin => .imin p ty d a b
  | .imax => .imax p ty d a b
  | .imul => .imul p ty sat d a b
  | .iadd64 => .iadd64 p ty sat d a b
  | .isub64 => .isub64 p ty sat d a b

/-- The exact value of a row for one element. -/
def IntOp.exact (o : IntOp) (x y : Int) : Int :=
  match o with
  | .iadd | .iadd64 => x + y
  | .isub | .isub64 => x - y
  | .ineg => -x
  | .iabs => if x < 0 then -x else x
  | .imin => if x ≤ y then x else y
  | .imax => if x ≤ y then y else x
  | .imul => x * y

/-- Whether a row has SAT. -/
def IntOp.sats (o : IntOp) (sat : Bool) : Bool := match o with | .imin | .imax => false | _ => sat

/-- The sources of a row. -/
def IntOp.srcs (o : IntOp) (p : Pre) (ty : Tag) (a b : Nat) : List Src :=
  match o with
  | .ineg | .iabs => [srcT 1 a p.pa ty]
  | _ => [srcT 1 a p.pa ty, srcT 2 b p.pb ty]

/-- The exact value of element j in a lane. -/
def IntOp.value (o : IntOp) (s : State) (t : Thread) (p : Pre) (ty : Tag) (a b j : Nat) : Int :=
  o.exact (element ty j (s.srcVal t p (srcT 1 a p.pa ty))) (element ty j (s.srcVal t p (srcT 2 b p.pb ty)))

end Sys2Proof.Claim

/-- IADD, ISUB, INEG, IABS, IMIN, IMAX, IMUL, IADD64, ISUB64 (15/R320, R321): every element of D is the exact value of the
row delivered under WRAP or SAT, D is tagged TYPE, a clamp sets SAT, and nothing else changes. -/
def Obligations.IntegerElements : Prop :=
  ∀ (o : IntOp) (p : Pre) (ty : Tag) (sat : Bool) (d a b : Nat) (s : State) (t : Thread),
    (o.instr p ty sat d a b).wf = true → Executes s p .any [dst d ty.is64] (o.srcs p ty a b) t →
    ∃ s' v st, exec (o.instr p ty sat d a b) s = .next s' ∧ v < 2 ^ (ty.width * elements ty) ∧
      (∀ j, j < elements ty → v / 2 ^ (ty.width * j) % 2 ^ ty.width = delivered ty (o.sats sat) (o.value s t p ty a b j)) ∧
      (st = stSAT ∧ (∃ j, j < elements ty ∧ clamped ty (o.sats sat) (o.value s t p ty a b j)) ∨
       st = 0#6 ∧ ∀ j, j < elements ty → ¬clamped ty (o.sats sat) (o.value s t p ty a b j)) ∧
      Wrote s' p t (cells ty.is64 d v ty) st ∧ Apart s s' (s.actors p)

namespace Sys2Proof.Claim

/-- A word of 32 bits read as signed, when the type is. -/
def word (signed : Bool) (x : Nat) : Int :=
  if signed = true ∧ 2147483648 ≤ x % 4294967296 then ((x % 4294967296 : Nat) : Int) - 4294967296 else ((x % 4294967296 : Nat) : Int)

end Sys2Proof.Claim

/-- IMULH and IMAD (15/R320, R321): the upper 32 bits of the product of two 32-bit values, and a × b + c delivered under WRAP
or SAT. -/
def Sys2Proof.Claim.MultiplyHighAndAdd : Prop :=
  ∀ (p : Pre) (ty : Tag) (sat : Bool) (d a b c : Nat) (s : State) (t : Thread),
    let A := srcT 1 a p.pa ty
    let B := srcT 2 b p.pb ty
    let C := srcT 3 c p.pc ty
    let x := word (ty == .s32) (s.srcVal t p A)
    let y := word (ty == .s32) (s.srcVal t p B)
    let z := word (ty == .s32) (s.srcVal t p C)
    ((Instr.imulh p ty d a b).wf = true → Executes s p .any [dst d false] [A, B] t →
      ∃ (s' : State) (v : Nat), exec (.imulh p ty d a b) s = .next s' ∧ v < 4294967296 ∧ (∃ q r : Int, x * y = q * 4294967296 + r ∧ 0 ≤ r ∧
          r < 4294967296 ∧ (v : Int) = q % 4294967296) ∧
        Wrote s' p t (cells false d v ty) 0#6 ∧ Apart s s' (s.actors p)) ∧
    ((Instr.imad p ty sat d a b c).wf = true → Executes s p .any [dst d false] [A, B, C] t →
      ∃ s' st, exec (.imad p ty sat d a b c) s = .next s' ∧
        (st = stSAT ∧ clamped ty sat (x * y + z) ∨ st = 0#6 ∧ ¬clamped ty sat (x * y + z)) ∧
        Wrote s' p t (cells false d (delivered ty sat (x * y + z)) ty) st ∧ Apart s s' (s.actors p))

/-- IMADW (15/R320, R321): a × b + c in 64 bits, with C and D pairs of the 64-bit type of the same signedness. -/
def Sys2Proof.Claim.MultiplyAddWide : Prop :=
  ∀ (p : Pre) (ty : Tag) (sat : Bool) (d a b c : Nat) (s : State) (t : Thread),
    let wide : Tag := if ty = .s32 then .s64 else .n64
    let x := word (ty == .s32) (s.srcVal t p (srcT 1 a p.pa ty)) * word (ty == .s32) (s.srcVal t p (srcT 2 b p.pb ty)) +
      element wide 0 (s.srcVal t p (srcT 3 c p.pc wide))
    (Instr.imadw p ty sat d a b c).wf = true →
    Executes s p .any [dst d true] [srcT 1 a p.pa ty, srcT 2 b p.pb ty, srcT 3 c p.pc wide] t →
    ∃ s' st, exec (.imadw p ty sat d a b c) s = .next s' ∧
      (st = stSAT ∧ clamped wide sat x ∨ st = 0#6 ∧ ¬clamped wide sat x) ∧
      Wrote s' p t (cells true d (delivered wide sat x) wide) st ∧ Apart s s' (s.actors p)

/-- IADDC and ISUBB (15/R322): the low 32 bits of a ± b ± c[0] in the even register, the carry or borrow, 0 or 1, in the odd
one. -/
def Sys2Proof.Claim.CarryAndBorrow : Prop :=
  ∀ (p : Pre) (d a b c : Nat) (s : State) (t : Thread),
    let A := srcT 1 a p.pa .n32
    let B := srcT 2 b p.pb .n32
    let C := srcR 3 c p.pc
    let x := s.srcVal t p A
    let y := s.srcVal t p B
    let k := s.srcVal t p C % 2
    Executes s p .any [dst d true] [A, B, C] t →
    ((Instr.iaddc p d a b c).wf = true → ∃ s' lo carry, exec (.iaddc p d a b c) s = .next s' ∧ x + y + k = carry * 4294967296 + lo ∧ lo < 4294967296 ∧ carry ≤ 1 ∧
      Wrote s' p t (cells true d (lo + 4294967296 * carry) .n32) 0#6 ∧ Apart s s' (s.actors p)) ∧
    ((Instr.isubb p d a b c).wf = true → ∃ s' lo borrow, exec (.isubb p d a b c) s = .next s' ∧ x + borrow * 4294967296 = y + k + lo ∧ lo < 4294967296 ∧ borrow ≤ 1 ∧
      Wrote s' p t (cells true d (lo + 4294967296 * borrow) .n32) 0#6 ∧ Apart s s' (s.actors p))

/-- IMULH, IMAD, IMADW, IADDC, ISUBB (15/R320 to R322): their values, tags, status and frame. -/
def Obligations.IntegerWide : Prop := MultiplyHighAndAdd ∧ MultiplyAddWide ∧ CarryAndBorrow

/-- ICMP (15/R323): bit k of D becomes the comparison combined with its old value; the other bits and the tag of D stay. -/
def Sys2Proof.Claim.IntegerCompare : Prop :=
  ∀ (p : Pre) (ty : Tag) (cond : Cond) (comb : Comb) (d a b k : Nat) (s : State) (t : Thread),
    let A := srcT 1 a p.pa ty
    let B := srcT 2 b p.pb ty
    let x := element ty 0 (s.srcVal t p A)
    let y := element ty 0 (s.srcVal t p B)
    let holds : Prop := match cond with | .eq => x = y | .ne => x ≠ y | .lt => x < y | .le => x ≤ y | .gt => x > y | .ge => x ≥ y
    let old := s.readReg t d
    (Instr.icmp p ty cond comb d a b k).wf = true → Executes s p .any [dst d false] [A, B] t →
    ∃ s' v, exec (.icmp p ty cond comb d a b k) s = .next s' ∧
      (∀ j, j < 32 → (v.getLsbD j = true ↔
        if j = k then (match comb with
          | .set => holds | .and => holds ∧ old.1.getLsbD k = true | .or => holds ∨ old.1.getLsbD k = true)
        else old.1.getLsbD j = true)) ∧
      Wrote s' p t [{ n := d, v := v, tag := old.2 }] 0#6 ∧ Apart s s' (s.actors p)

/-- ISEL (15/R324): bit k of C selects A or B, and the result takes that operand's tag. -/
def Sys2Proof.Claim.Select : Prop :=
  ∀ (p : Pre) (d a b c k : Nat) (s : State) (t : Thread),
    let A := srcR 1 a p.pa
    let B := srcR 2 b p.pb
    let C := srcR 3 c p.pc
    (Instr.isel p d a b c k).wf = true → Executes s p .any [dst d false] [A, B, C] t →
    ∃ s', exec (.isel p d a b c k) s = .next s' ∧
      (let x := if (s.srcReg t p C 0).1.getLsbD k then s.srcReg t p A 0 else s.srcReg t p B 0
       Wrote s' p t [{ n := d, v := x.1, tag := x.2 }] 0#6) ∧ Apart s s' (s.actors p)

namespace Sys2Proof.Claim

/-- The shifts of 15/R325. -/
inductive ShiftOp where
  | shl | shr | sar | rotl | shl64 | shr64
  deriving DecidableEq, Repr

/-- The instruction. -/
def ShiftOp.instr (o : ShiftOp) (p : Pre) (d a : Nat) (n : RegImm) : Instr :=
  match o with
  | .shl => .shl p d a n
  | .shr => .shr p d a n
  | .sar => .sar p d a n
  | .rotl => .rotl p d a n
  | .shl64 => .shl64 p d a n
  | .shr64 => .shr64 p d a n

/-- It moves a pair. -/
def ShiftOp.wide : ShiftOp → Bool
  | .shl64 | .shr64 => true
  | _ => false

/-- The A operand, a register or a pair, without a format. -/
def srcA (p : Pre) (wide : Bool) (a : Nat) : Src := { f := 1, n := a, c := if wide then 2 else 1, perm := p.pa, want := none }

/-- The amount: the whole 32-bit value of B, or the C byte (15/R325). -/
def amount (s : State) (t : Thread) (p : Pre) : RegImm → Nat
  | .reg b => s.srcVal t p (srcR 2 b p.pb)
  | .imm k => k

/-- Bit i of the result of a shift of x by k. -/
def ShiftOp.bit (o : ShiftOp) (x k i : Nat) : Bool :=
  match o with
  | .shl | .shl64 => decide (k ≤ i) && x.testBit (i - k)
  | .shr | .shr64 => x.testBit (i + k)
  | .sar => if i + k < 32 then x.testBit (i + k) else x.testBit 31
  | .rotl => x.testBit ((i + (32 - k % 32)) % 32)

end Sys2Proof.Claim

namespace Sys2Proof.Claim

/-- SHL, SHR, SAR, ROTL, SHL64, SHR64 (15/R325), bit by bit: an amount of the width or more shifts everything out, SAR fills
with copies of bit 31, ROTL takes the amount modulo 32; the result carries the tag of A. -/
def Shifts : Prop :=
  ∀ (o : ShiftOp) (p : Pre) (d a : Nat) (n : RegImm) (s : State) (t : Thread),
    let A := srcA p o.wide a
    let w := if o.wide then 64 else 32
    (o.instr p d a n).wf = true → Executes s p .any [dst d o.wide] (A :: srcRI p n) t →
    ∃ s' v, exec (o.instr p d a n) s = .next s' ∧ v < 2 ^ w ∧
      (∀ i, i < w → v.testBit i = o.bit (s.srcVal t p A) (amount s t p n) i) ∧
      Wrote s' p t (cells o.wide d v (s.srcTag t p A)) 0#6 ∧ Apart s s' (s.actors p)

end Sys2Proof.Claim

namespace Sys2Proof.Claim

/-- The bitwise instructions of 15/R326 and R327. -/
inductive LogicOp where
  | and | or | xor | andn | bset | bclr
  deriving DecidableEq, Repr

/-- The instruction. -/
def LogicOp.instr (o : LogicOp) (p : Pre) (d a : Nat) (n : RegImm) : Instr :=
  match o with
  | .and => .and p d a n
  | .or => .or p d a n
  | .xor => .xor p d a n
  | .andn => .andn p d a n
  | .bset => .bset p d a n
  | .bclr => .bclr p d a n

/-- Bit i of the second operand: the register's, or the C byte's sign-extended to 32 bits (15/R326). -/
def secondBit (s : State) (t : Thread) (p : Pre) (n : RegImm) (i : Nat) : Bool :=
  match n with
  | .reg b => (s.srcVal t p (srcR 2 b p.pb)).testBit i
  | .imm k => k.testBit (if i < 8 then i else 7)

/-- Bit i of the result. -/
def LogicOp.bit (o : LogicOp) (s : State) (t : Thread) (p : Pre) (a : Nat) (n : RegImm) (i : Nat) : Bool :=
  let x := (s.srcVal t p (srcA p false a)).testBit i
  match o with
  | .and => x && secondBit s t p n i
  | .or => x || secondBit s t p n i
  | .xor => x != secondBit s t p n i
  | .andn => x && !secondBit s t p n i
  | .bset => x || amount s t p n % 32 == i
  | .bclr => x && amount s t p n % 32 != i

end Sys2Proof.Claim

namespace Sys2Proof.Claim

/-- AND, OR, XOR, ANDN (15/R326), BSET, BCLR (15/R327), bit by bit; the result carries the tag of A. -/
def Logic : Prop :=
  ∀ (o : LogicOp) (p : Pre) (d a : Nat) (n : RegImm) (s : State) (t : Thread),
    let A := srcA p false a
    (o.instr p d a n).wf = true → Executes s p .any [dst d false] (A :: srcRI p n) t →
    ∃ s' v, exec (o.instr p d a n) s = .next s' ∧ v < 2 ^ 32 ∧ (∀ i, i < 32 → v.testBit i = o.bit s t p a n i) ∧
      Wrote s' p t (cells false d v (s.srcTag t p A)) 0#6 ∧ Apart s s' (s.actors p)

end Sys2Proof.Claim

/-- The shifts and rotates (15/R325), and the bitwise instructions and single bits (15/R326, R327). -/
def Obligations.ShiftsAndLogic : Prop := Shifts ∧ Logic

/-- LUT3 and BPERM (15/R326, R328): each bit of LUT3 is the table's bit at 4a + 2b + c, with the tag of A; each byte of BPERM
is the byte of b:a that a nibble of c names, or 0 where the nibble's top bit is set, with tag RAW. -/
def Sys2Proof.Claim.TableAndBytes : Prop :=
  ∀ (p : Pre) (d a b c table : Nat) (s : State) (t : Thread),
    let A := srcR 1 a p.pa
    let B := srcR 2 b p.pb
    let C := srcR 3 c p.pc
    let x := s.srcVal t p A
    let y := s.srcVal t p B
    let z := s.srcVal t p C
    Executes s p .any [dst d false] [A, B, C] t →
    ((Instr.lut3 p d a b c table).wf = true →
      ∃ s' v, exec (.lut3 p d a b c table) s = .next s' ∧ v < 2 ^ 32 ∧
        (∀ i, i < 32 → v.testBit i = table.testBit (4 * (x.testBit i).toNat + 2 * (y.testBit i).toNat + (z.testBit i).toNat)) ∧
        Wrote s' p t (cells false d v (s.srcTag t p A)) 0#6 ∧ Apart s s' (s.actors p)) ∧
    ((Instr.bperm p d a b c).wf = true →
      ∃ s' v, exec (.bperm p d a b c) s = .next s' ∧ v < 2 ^ 32 ∧
        (∀ j, j < 4 → v / 256 ^ j % 256 =
          let k := z / 16 ^ j % 16
          if 8 ≤ k then 0 else if 4 ≤ k then y / 256 ^ (k - 4) % 256 else x / 256 ^ k % 256) ∧
        Wrote s' p t (cells false d v .raw) 0#6 ∧ Apart s s' (s.actors p))

/-- BFX and BFI (15/R327), bit by bit: the field is cut at bit 31; BFX extends it by its sign for S32 and by zero for N32 and
tags TYPE; BFI puts the low bits of B in the field of A and keeps the tag of A. -/
def Sys2Proof.Claim.BitFields : Prop :=
  ∀ (p : Pre) (ty : Tag) (d a b pos len1 : Nat) (s : State) (t : Thread),
    let A := srcR 1 a p.pa
    let B := srcR 2 b p.pb
    let w := min (len1 + 1) (32 - pos)
    let x := s.srcVal t p A
    ((Instr.bfx p ty d a pos len1).wf = true → Executes s p .any [dst d false] [A] t →
      ∃ s' v, exec (.bfx p ty d a pos len1) s = .next s' ∧ v < 2 ^ 32 ∧
        (∀ i, i < 32 → v.testBit i = if i < w then x.testBit (pos + i) else (ty == .s32 && x.testBit (pos + w - 1))) ∧
        Wrote s' p t (cells false d v ty) 0#6 ∧ Apart s s' (s.actors p)) ∧
    ((Instr.bfi p d a b pos len1).wf = true → Executes s p .any [dst d false] [A, B] t →
      ∃ s' v, exec (.bfi p d a b pos len1) s = .next s' ∧ v < 2 ^ 32 ∧
        (∀ i, i < 32 → v.testBit i = if pos ≤ i ∧ i < pos + w then (s.srcVal t p B).testBit (i - pos) else x.testBit i) ∧
        Wrote s' p t (cells false d v (s.srcTag t p A)) 0#6 ∧ Apart s s' (s.actors p))

namespace Sys2Proof.Claim

/-- LUT3, BPERM, BFX, BFI (15/R326 to R328): their values bit by bit, tags and frame. -/
def FieldsAndTables : Prop := TableAndBytes ∧ BitFields

end Sys2Proof.Claim

namespace Sys2Proof.Claim

/-- POPC, CLZ, CTZ, BREV (15/R327): how many bits are set, how many zeros stand above the highest set bit and below the
lowest, 32 of them for 0, tagged N32; and the bits in reverse order, with the tag of A. -/
def BitCounts : Prop :=
  ∀ (p : Pre) (d a : Nat) (s : State) (t : Thread),
    let A := srcR 1 a p.pa
    let x := s.srcVal t p A
    Executes s p .any [dst d false] [A] t →
    (∃ s', exec (.popc p d a) s = .next s' ∧
      Wrote s' p t (cells false d ((List.range 32).filter fun i => x.testBit i).length .n32) 0#6 ∧ Apart s s' (s.actors p)) ∧
    (∃ s' n, exec (.clz p d a) s = .next s' ∧ n ≤ 32 ∧ (∀ i, i < 32 → 32 - n ≤ i → x.testBit i = false) ∧
      (n < 32 → x.testBit (31 - n) = true) ∧ Wrote s' p t (cells false d n .n32) 0#6 ∧ Apart s s' (s.actors p)) ∧
    (∃ s' n, exec (.ctz p d a) s = .next s' ∧ n ≤ 32 ∧ (∀ i, i < n → x.testBit i = false) ∧
      (n < 32 → x.testBit n = true) ∧ Wrote s' p t (cells false d n .n32) 0#6 ∧ Apart s s' (s.actors p)) ∧
    (∃ s' v, exec (.brev p d a) s = .next s' ∧ v < 2 ^ 32 ∧ (∀ i, i < 32 → v.testBit i = x.testBit (31 - i)) ∧
      Wrote s' p t (cells false d v (s.srcTag t p A)) 0#6 ∧ Apart s s' (s.actors p))

end Sys2Proof.Claim

/-- The three-input table, byte permutation and bit fields, and the counts and reversals of bits (15/R326 to R328). -/
def Obligations.FieldsAndCounts : Prop := FieldsAndTables ∧ BitCounts

namespace Sys2Proof.Claim

/-- A register or a pair with each half's own tag. -/
def copied (s : State) (t : Thread) (p : Pre) (wide : Bool) (d a : Nat) (tag : Option Tag) : List RegCell :=
  let x := fun i => s.srcReg t p (srcA p wide a) i
  if wide then
    if d = 255 then []
    else [{ n := d, v := (x 0).1, tag := tag.getD (x 0).2 }, { n := d + 1, v := (x 1).1, tag := tag.getD (x 1).2 }]
  else [{ n := d, v := (x 0).1, tag := tag.getD (x 0).2 }]

/-- The value of an identity selector (15/R333). -/
def identity (s : State) (t : Thread) (sel : Nat) : Nat :=
  let tm := s.team t.team
  let g := s.grid tm.grid
  let group := tm.slots.findIdx fun x => x == t.id.slot
  match sel with
  | 0 => t.id.lane
  | 1 => group
  | 2 => 32 * group + t.id.lane
  | 3 => tm.num
  | 4 => g.teams
  | 5 => tm.groups.length
  | 6 => t.id.slot
  | 7 => t.id.core
  | 8 => g.ctx
  | 9 => s.subPos t (s.width t)
  | 10 => s.width t
  | 11 => (s.roleOf t).kind
  | 12 => s.nrOf t
  | 13 => if t.depth = 0 then 0 else 1
  | 14 => g.args.toNat % 2 ^ 32
  | 15 => g.args.toNat / 2 ^ 32
  | 16 => tm.privBase % 2 ^ 32
  | _ => tm.privBase / 2 ^ 32

end Sys2Proof.Claim

/-- MOV, TAG, TAGQ (15/R329, R332): a register or a pair copied with its own tags, or under the tag CODE, which is FOREIGN
only at level E; or the tag's code as a number tagged N32. -/
def Sys2Proof.Claim.MovesAndTags : Prop :=
  ∀ (p : Pre) (wide : Bool) (code : Tag) (d a : Nat) (s : State) (t : Thread),
    let A := srcA p wide a
    ((Instr.mov p wide d a).wf = true → Executes s p .any [dst d wide] [A] t →
      ∃ s', exec (.mov p wide d a) s = .next s' ∧ Wrote s' p t (copied s t p wide d a none) 0#6 ∧ Apart s s' (s.actors p)) ∧
    ((Instr.tag p wide code d a).wf = true →
      Executes s p (if code = .foreign then .levelE else .any) [dst d wide] [A] t →
      ∃ s', exec (.tag p wide code d a) s = .next s' ∧ Wrote s' p t (copied s t p wide d a (some code)) 0#6 ∧ Apart s s' (s.actors p)) ∧
    ((Instr.tagq p d a).wf = true → Executes s p .any [dst d false] [srcA p false a] t →
      ∃ s', exec (.tagq p d a) s = .next s' ∧
        Wrote s' p t (cells false d (s.srcTag t p (srcA p false a)).code .n32) 0#6 ∧ Apart s s' (s.actors p))

/-- MOVX and MOVXW (15/R330): the register numbered (base + b) mod 256 is read, or written, with its tag. -/
def Sys2Proof.Claim.MovesByValue : Prop :=
  ∀ (p : Pre) (d a b : Nat) (s : State) (t : Thread),
    let B := srcR 2 b p.pb
    let x := (a + s.srcVal t p B) % 256
    let y := (d + s.srcVal t p B) % 256
    ((Instr.movx p d a b).wf = true → Executes s p .any [dst d false] [B] t → (x < s.nrOf t ∨ x = 255) →
      ∃ s', exec (.movx p d a b) s = .next s' ∧
        Wrote s' p t [{ n := d, v := (s.readReg t x).1, tag := (s.readReg t x).2 }] 0#6 ∧ Apart s s' (s.actors p)) ∧
    ((Instr.movxw p d a b).wf = true → Issues s p t → s.gate t p .any [] [srcA p false a, B] = none →
      Together s p t (fun u => [dst ((d + s.srcVal u p B) % 256) false]) →
      (y < s.nrOf t ∨ y = 255) → s.writePending t y = false →
      ∃ s', exec (.movxw p d a b) s = .next s' ∧ Wrote s' p t (copied s t p false y a none) 0#6 ∧ Apart s s' (s.actors p))

namespace Sys2Proof.Claim

/-- MOV, TAG, TAGQ, MOVX, MOVXW (15/R329, R330, R332): values, tags and frame. -/
def Moves : Prop := MovesAndTags ∧ MovesByValue

end Sys2Proof.Claim

namespace Sys2Proof.Claim

/-- MOVI, MOVI64, IDQ, NOP (15/R331, R333, R334): the low 32 bits of the immediate under TYPE, the immediate sign-extended to
64 bits, the identity value tagged N32, and nothing. -/
def ConstantsAndIdentity : Prop :=
  ∀ (p : Pre) (ty : Tag) (d sel : Nat) (imm : Int) (s : State) (t : Thread),
    ((Instr.movi p ty d imm).wf = true → Executes s p .any [dst d false] [] t →
      ∃ s', exec (.movi p ty d imm) s = .next s' ∧
        Wrote s' p t [{ n := d, v := BitVec.ofInt 32 imm, tag := ty }] 0#6 ∧ Apart s s' (s.actors p)) ∧
    ((Instr.movi64 p ty d imm).wf = true → Executes s p .any [dst d true] [] t →
      ∃ s', exec (.movi64 p ty d imm) s = .next s' ∧
        Wrote s' p t (cells true d (BitVec.ofInt 64 imm).toNat ty) 0#6 ∧ Apart s s' (s.actors p)) ∧
    ((Instr.idq p d sel).wf = true → Executes s p .any [dst d false] [] t →
      ∃ s', exec (.idq p d sel) s = .next s' ∧ Wrote s' p t (cells false d (identity s t sel) .n32) 0#6 ∧ Apart s s' (s.actors p)) ∧
    ((Instr.nop p).wf = true → Issues s p t →
      ∃ s', exec (.nop p) s = .next s' ∧ Wrote s' p t [] 0#6 ∧ Apart s s' (s.actors p))

end Sys2Proof.Claim

/-- Moves, constants and identity (15/R329 to R334). -/
def Obligations.MovesAndConstants : Prop := Moves ∧ ConstantsAndIdentity

/-- BRA, BRX, CALL, CALLX, RET (15/R335): control goes to the instruction's own address plus the displacement modulo 2^64,
or to the address in the pair A, in header position; a call's link, tagged N64, is the address just past it, and A is read
before D is written.
Points that the spec leaves open follow the model (log entry 80). -/
def Obligations.ControlTransfer : Prop :=
  ∀ (p : Pre) (d a : Nat) (off : Int) (s : State) (t : Thread),
    let A := srcP 1 a p.pa
    let link := cells true d (t.pc + p.len.bytes) .n64
    let target := (((t.pc : Int) + off) % 2 ^ 64).toNat
    ((Instr.bra p off).wf = true → Issues s p t →
      ∃ s', exec (.bra p off) s = .next s' ∧ Jumped s' t [] target ∧ Apart s s' (s.actors p)) ∧
    ((Instr.brx p a).wf = true → Executes s p .any [] [A] t →
      ∃ s', exec (.brx p a) s = .next s' ∧ Jumped s' t [] (s.srcVal t p A) ∧ Apart s s' (s.actors p)) ∧
    ((Instr.ret p a).wf = true → Executes s p .any [] [A] t →
      ∃ s', exec (.ret p a) s = .next s' ∧ Jumped s' t [] (s.srcVal t p A) ∧ Apart s s' (s.actors p)) ∧
    ((Instr.call p d off).wf = true → Executes s p .any [dst d true] [] t →
      ∃ s', exec (.call p d off) s = .next s' ∧ Jumped s' t link target ∧ Apart s s' (s.actors p)) ∧
    ((Instr.callx p d a).wf = true → Executes s p .any [dst d true] [A] t →
      ∃ s', exec (.callx p d a) s = .next s' ∧ Jumped s' t link (s.srcVal t p A) ∧ Apart s s' (s.actors p))

/-! ## Floating point and conversions (16) -/

namespace Sys2Proof.Claim

/-- The value an operand of an F32 instruction has. -/
def f32Val (s : State) (t : Thread) (p : Pre) (x : Src) : FVal := fdecode f32 (s.srcVal t p x)

/-- The single instructions of 16/R344 to R348 that read F32 operands. -/
inductive FOp where
  | fadd | fsub | fmul | ffma | fscale | fmin | fmax | fround | fclass
  deriving DecidableEq, Repr

/-- The instruction of a row. -/
def FOp.instr (o : FOp) (p : Pre) (rnd : Rnd) (d a b c : Nat) : Instr :=
  match o with
  | .fadd => .fadd p rnd d a b c
  | .fsub => .fsub p rnd d a b c
  | .fmul => .fmul p rnd d a b c
  | .ffma => .ffma p rnd d a b c
  | .fscale => .fscale p rnd d a b
  | .fmin => .fmin p d a b
  | .fmax => .fmax p d a b
  | .fround => .fround p rnd d a
  | .fclass => .fclass p d a

/-- Its sources: FFMA reads C as an operand, and FADD, FSUB, FMUL read C as a seed under SR only (16/R343). -/
def FOp.srcs (o : FOp) (p : Pre) (rnd : Rnd) (a b c : Nat) : List Src :=
  let A := srcT 1 a p.pa .f32
  let B := srcT 2 b p.pb .f32
  match o with
  | .fadd | .fsub | .fmul => [A, B] ++ (if rnd = .sr then [srcR 3 c p.pc] else [])
  | .ffma => [A, B, srcT 3 c p.pc .f32]
  | .fscale => [A, srcT 2 b p.pb .s32]
  | .fmin | .fmax => [A, B]
  | .fround | .fclass => [A]

/-- The result's bits and status: the exact result rounded once (16/R344), one of the operands (R345), an integer value
(R347), or the class (R348). -/
def FOp.value (o : FOp) (s : State) (t : Thread) (p : Pre) (rnd : Rnd) (a b c : Nat) : Nat × Status :=
  let A := srcT 1 a p.pa .f32
  let B := srcT 2 b p.pb .f32
  let seed := if rnd = .sr then srGen (s.srcVal t p (srcR 3 c p.pc)) 0 else 0
  let x := f32Val s t p A
  let y := f32Val s t p B
  match o with
  | .fadd => faddVal f32 rnd seed x y
  | .fsub => faddVal f32 rnd seed x y.negate
  | .fmul => fmulVal f32 rnd seed x y
  | .ffma => ffmaVal f32 rnd 0 x y (f32Val s t p (srcT 3 c p.pc .f32))
  | .fscale => fscaleVal f32 rnd x (word true (s.srcVal t p (srcT 2 b p.pb .s32)))
  | .fmin => fminmaxBits f32 false (s.srcVal t p A) (s.srcVal t p B)
  | .fmax => fminmaxBits f32 true (s.srcVal t p A) (s.srcVal t p B)
  | .fround => froundIntVal rnd x
  | .fclass => (fclassBits x, 0#6)

/-- The tag of the result. -/
def FOp.tag : FOp → Tag
  | .fclass => .n32
  | _ => .f32

end Sys2Proof.Claim

namespace Sys2Proof.Claim

/-- FADD, FSUB, FMUL, FFMA, FSCALE, FMIN, FMAX, FROUND, FCLASS (16/R343 to R348): D takes the F32 result, or the class tagged
N32; its status is ORed into ASTAT; the seed is read under SR alone; nothing else changes. -/
def FloatResults : Prop :=
  ∀ (o : FOp) (p : Pre) (rnd : Rnd) (d a b c : Nat) (s : State) (t : Thread),
    (o.instr p rnd d a b c).wf = true → Executes s p .vector [dst d false] (o.srcs p rnd a b c) t →
    ∃ s', exec (o.instr p rnd d a b c) s = .next s' ∧
      Wrote s' p t (cells false d (o.value s t p rnd a b c).1 o.tag) (o.value s t p rnd a b c).2 ∧ Apart s s' (s.actors p)

end Sys2Proof.Claim

/-- FCMP (16/R346): bit k of D becomes the condition combined with its old value, NaN operands make it unordered, and the
ordered conditions raise NV on any NaN, the others on a signaling one. -/
def Sys2Proof.Claim.FloatCompare : Prop :=
  ∀ (p : Pre) (cond : FCond) (comb : Comb) (d a b k : Nat) (s : State) (t : Thread),
    let A := srcT 1 a p.pa .f32
    let B := srcT 2 b p.pb .f32
    let x := f32Val s t p A
    let y := f32Val s t p B
    let old := s.readReg t d
    let un := x.isNan || y.isNan
    let lt := !un && fless false x y
    let gt := !un && fless false y x
    let holds := match cond with
      | .eq => !un && !lt && !gt | .ne => un || lt || gt | .lt => lt | .le => !un && !gt | .gt => gt | .ge => !un && !lt
      | .uno => un | .num => !un
    let nv := match cond with
      | .lt | .le | .gt | .ge => un
      | _ => x.isSig || y.isSig
    (Instr.fcmp p cond comb d a b k).wf = true → Executes s p .vector [dst d false] [A, B] t →
    ∃ s' v, exec (.fcmp p cond comb d a b k) s = .next s' ∧
      (∀ j, j < 32 → v.getLsbD j =
        if j = k then (match comb with
          | .set => holds | .and => holds && old.1.getLsbD k | .or => holds || old.1.getLsbD k)
        else old.1.getLsbD j) ∧
      Wrote s' p t [{ n := d, v := v, tag := old.2 }] (if nv then stNV else 0#6) ∧ Apart s s' (s.actors p)

/-- ICMP, ISEL, FCMP (15/R323, R324; 16/R346): the predicate bit or the value selected, status and frame. -/
def Obligations.ComparesAndSelect : Prop := IntegerCompare ∧ Select ∧ FloatCompare

namespace Sys2Proof.Claim

/-- The rounding of a quotient to an integer (08/R186, R187): RTZ truncates; RUP and RDN go to the integer above or below the
signed value; RNE goes to the nearest, to the even one of two equally near; SR goes to one of the two neighbours, and to the
value itself where it is an integer. -/
def RoundingModes : Prop :=
  ∀ (neg : Bool) (r16 num den : Nat), 0 < den → r16 < 65536 →
    roundInt .rtz neg r16 num den = num / den ∧
    (num % den = 0 → ∀ rnd, roundInt rnd neg r16 num den = num / den) ∧
    (num % den ≠ 0 →
      roundInt .rup neg r16 num den = (if neg then num / den else num / den + 1) ∧
      roundInt .rdn neg r16 num den = (if neg then num / den + 1 else num / den) ∧
      (roundInt .sr neg r16 num den = num / den ∨ roundInt .sr neg r16 num den = num / den + 1) ∧
      (2 * (num % den) < den → roundInt .rne neg r16 num den = num / den) ∧
      (den < 2 * (num % den) → roundInt .rne neg r16 num den = num / den + 1) ∧
      (2 * (num % den) = den → roundInt .rne neg r16 num den % 2 = 0 ∧
        (roundInt .rne neg r16 num den = num / den ∨ roundInt .rne neg r16 num den = num / den + 1)))

end Sys2Proof.Claim

/-- The single F32 instructions (16/R344 to R348), and what each rounding mode does to an exact quotient (08/R186, R187). -/
def Obligations.FloatArithmetic : Prop := FloatResults ∧ RoundingModes

namespace Sys2Proof.Claim

/-- The long-latency functions of 16/R349. -/
inductive FuncOp where
  | frcp | frsq | fsqrt | fdiv | fexp2 | flog2 | fsin | fcos | ftanh
  deriving DecidableEq, Repr

/-- The instruction of a row. -/
def FuncOp.instr (o : FuncOp) (p : Pre) (rnd : Rnd) (d a b : Nat) : Instr :=
  match o with
  | .frcp => .frcp p rnd d a
  | .frsq => .frsq p rnd d a
  | .fsqrt => .fsqrt p rnd d a
  | .fdiv => .fdiv p rnd d a b
  | .fexp2 => .fexp2 p d a
  | .flog2 => .flog2 p d a
  | .fsin => .fsin p d a
  | .fcos => .fcos p d a
  | .ftanh => .ftanh p d a

/-- Its sources. -/
def FuncOp.srcs (o : FuncOp) (p : Pre) (a b : Nat) : List Src :=
  match o with
  | .fdiv => [srcT 1 a p.pa .f32, srcT 2 b p.pb .f32]
  | _ => [srcT 1 a p.pa .f32]

/-- Its result and status: correctly rounded (08/R194), or the exact value rounded to nearest even (08/R195). -/
def FuncOp.value (o : FuncOp) (s : State) (t : Thread) (p : Pre) (rnd : Rnd) (a b : Nat) : Nat × Status :=
  let x := f32Val s t p (srcT 1 a p.pa .f32)
  match o with
  | .frcp => frcpVal f32 rnd x
  | .frsq => frsqVal f32 rnd x
  | .fsqrt => fsqrtVal f32 rnd x
  | .fdiv => fdivVal f32 rnd x (f32Val s t p (srcT 2 b p.pb .f32))
  | .fexp2 => fexp2Val f32 x
  | .flog2 => flog2Val f32 x
  | .fsin => ftrigVal f32 false x
  | .fcos => ftrigVal f32 true x
  | .ftanh => ftanhVal f32 x

/-- The thread is past the instruction with its registers and status as they were. -/
def Passed (s' : State) (p : Pre) (t : Thread) : Prop := Wrote s' p t [] 0#6

/-- A long-latency operation of the thread stands with a known result, under the flag that FS selects (14/R310). -/
def Pending (s' : State) (p : Pre) (t : Thread) (w : List RegCell) (st : Status) : Prop :=
  ∃ o, o ∈ s'.ops ∧ o.tid = t.id ∧ o.depth = t.depth ∧ o.flag = t.flagOf p.fs ∧ o.writes = w ∧ o.astat = st ∧ o.src = .done ∧
    o.dead = false

end Sys2Proof.Claim

/-- FRCP, FRSQ, FSQRT, FDIV, FEXP2, FLOG2, FSIN, FCOS, FTANH (16/R349, 14/R310): the thread goes on at once, its registers and
ASTAT unchanged; the operation that will deliver D and its status stands under the instruction's flag; memory and every special
register are unchanged.
Points that the spec leaves open follow the model (log entry 81). -/
def Obligations.FloatFunctions : Prop :=
  ∀ (o : FuncOp) (p : Pre) (rnd : Rnd) (d a b : Nat) (s : State) (t : Thread),
    (o.instr p rnd d a b).wf = true → Executes s p .vector [dst d false] (o.srcs p a b) t →
    ∃ s', exec (o.instr p rnd d a b) s = .next s' ∧ Passed s' p t ∧
      Pending s' p t (cells false d (o.value s t p rnd a b).1 .f32) (o.value s t p rnd a b).2 ∧
      s' = { s with threads := s'.threads, entries := s'.entries, issue := s'.issue, ops := s'.ops, fresh := s'.fresh } ∧
      (∀ a, memGet s'.mem a = memGet s.mem a) ∧ ∀ x ∈ s.ops, x ∈ s'.ops

namespace Sys2Proof.Claim

/-- The packed instructions and dot products of 16/R350 to R352. -/
inductive HOp where
  | hadd2 | hmul2 | hfma2 | hmin2 | hmax2 | dot2 | dot4
  deriving DecidableEq, Repr

/-- The instruction of a row. -/
def HOp.instr (o : HOp) (p : Pre) (ty : Tag) (rnd : Rnd) (sat : Bool) (d a b c : Nat) : Instr :=
  match o with
  | .hadd2 => .hadd2 p ty rnd d a b c
  | .hmul2 => .hmul2 p ty rnd d a b c
  | .hfma2 => .hfma2 p ty rnd d a b c
  | .hmin2 => .hmin2 p ty d a b
  | .hmax2 => .hmax2 p ty d a b
  | .dot2 => .dot2 p ty rnd d a b c
  | .dot4 => .dot4 p ty sat d a b c

/-- Its sources: C is a TYPE operand of HFMA2, the F32 or S32 accumulator of a dot product, and else a seed. -/
def HOp.srcs (o : HOp) (p : Pre) (ty : Tag) (rnd : Rnd) (a b c : Nat) : List Src :=
  let A := srcT 1 a p.pa ty
  let B := srcT 2 b p.pb ty
  match o with
  | .hadd2 | .hmul2 => [A, B] ++ (if rnd = .sr then [srcR 3 c p.pc] else [])
  | .hfma2 => [A, B, srcT 3 c p.pc ty]
  | .hmin2 | .hmax2 => [A, B]
  | .dot2 => [A, B, srcT 3 c p.pc .f32]
  | .dot4 => [A, B, srcT 3 c p.pc .s32]

/-- Bits [16j + 15 : 16j] of an operand. -/
def half (s : State) (t : Thread) (p : Pre) (x : Src) (j : Nat) : Nat := s.srcVal t p x / 65536 ^ j % 65536

/-- Half j of a packed result, with its status (16/R350). -/
def HOp.half (o : HOp) (s : State) (t : Thread) (p : Pre) (ty : Tag) (rnd : Rnd) (a b c j : Nat) : Nat × Status :=
  let f := fmtOf ty
  let x := Claim.half s t p (srcT 1 a p.pa ty) j
  let y := Claim.half s t p (srcT 2 b p.pb ty) j
  let seed := if rnd = .sr then srGen (s.srcVal t p (srcR 3 c p.pc)) j else 0
  match o with
  | .hadd2 => faddVal f rnd seed (fdecode f x) (fdecode f y)
  | .hmul2 => fmulVal f rnd seed (fdecode f x) (fdecode f y)
  | .hfma2 => ffmaVal f rnd 0 (fdecode f x) (fdecode f y) (fdecode f (Claim.half s t p (srcT 3 c p.pc ty) j))
  | .hmin2 => fminmaxBits f false x y
  | _ => fminmaxBits f true x y

/-- The sum of a dot product with its status (16/R351, R352; 08/R196, R197). -/
def HOp.dot (o : HOp) (s : State) (t : Thread) (p : Pre) (ty : Tag) (rnd : Rnd) (sat : Bool) (a b c : Nat) : Nat × Status :=
  let A := srcT 1 a p.pa ty
  let B := srcT 2 b p.pb ty
  let x := fun (S : Src) (j : Nat) => fdecode (fmtOf ty) (Claim.half s t p S j)
  let e := fun (S : Src) (j : Nat) => element ty j (s.srcVal t p S)
  match o with
  | .dot2 => dotVal f32 rnd (f32Val s t p (srcT 3 c p.pc .f32)) [(x A 0, x B 0), (x A 1, x B 1)]
  | _ => dotInt sat (word true (s.srcVal t p (srcT 3 c p.pc .s32))) ((List.range 4).map fun j => e A j * e B j)

/-- It is a dot product. -/
def HOp.isDot : HOp → Bool
  | .dot2 | .dot4 => true
  | _ => false

end Sys2Proof.Claim

/-- HADD2, HMUL2, HFMA2, HMIN2, HMAX2 (16/R350): each half of D is the result of its halves, rounded in TYPE, with the seed's
value for its number under SR, and D is tagged TYPE; DOT2 and DOT4 (16/R351, R352): the sum of the products and C as F32, exact
and rounded once, or as S32. -/
def Obligations.HalvesAndDots : Prop :=
  ∀ (o : HOp) (p : Pre) (ty : Tag) (rnd : Rnd) (sat : Bool) (d a b c : Nat) (s : State) (t : Thread),
    (o.instr p ty rnd sat d a b c).wf = true → Executes s p .vector [dst d false] (o.srcs p ty rnd a b c) t →
    ∃ s', exec (o.instr p ty rnd sat d a b c) s = .next s' ∧
      (if o.isDot then
        let r := o.dot s t p ty rnd sat a b c
        Wrote s' p t (cells false d r.1 (if o = .dot2 then .f32 else .s32)) r.2
      else
        let r := fun j => o.half s t p ty rnd a b c j
        Wrote s' p t (cells false d ((r 0).1 % 65536 + 65536 * ((r 1).1 % 65536)) ty) ((r 0).2 ||| (r 1).2)) ∧
      Apart s s' (s.actors p)

/-- CVT (16/R353, 08/R191 to R193): N elements go from one side to the other, from or to part e of the narrower side; a
narrower destination keeps its other elements; D is tagged with the destination type.
Points that the spec leaves open follow the model (log entry 94). -/
def Obligations.Convert : Prop :=
  ∀ (p : Pre) (ty : Tag) (rnd : Rnd) (sty : Tag) (sat : Bool) (d a b e : Nat) (s : State) (t : Thread),
    let A := srcT 1 a p.pa sty
    let B := srcR 2 b p.pb
    let sw := sty.width
    let dw := ty.width
    let w := min (max sw dw) 32
    let n := 32 / w
    let x := s.srcVal t p A
    let place := fun side j => if side < w then e * n + j else j
    let seed := fun j => if rnd = .sr then srGen (s.srcVal t p B) (place dw j) else 0
    let r := fun j => convElem ty rnd sty sat (seed j) (x / 2 ^ (sw * place sw j) % 2 ^ sw)
    let old := (s.readReg t d).1.toNat
    (Instr.cvt p ty rnd sty sat d a b e).wf = true →
    Executes s p .vector [dst d ty.is64] (A :: if rnd = .sr then [B] else []) t →
    ∃ s' v, exec (.cvt p ty rnd sty sat d a b e) s = .next s' ∧ v < 2 ^ (if ty.is64 then 64 else 32) ∧
      (if dw < w then
        ∀ k, k < 32 / dw → v / 2 ^ (dw * k) % 2 ^ dw =
          if e * n ≤ k ∧ k < e * n + n then (r (k - e * n)).1 % 2 ^ dw else old / 2 ^ (dw * k) % 2 ^ dw
       else ∀ j, j < n → v / 2 ^ (dw * j) % 2 ^ dw = (r j).1 % 2 ^ dw) ∧
      Wrote s' p t (cells ty.is64 d v ty) (((List.range n).map fun j => (r j).2).foldr (· ||| ·) 0#6) ∧ Apart s s' (s.actors p)

namespace Sys2Proof.Claim

/-- Values written to a run of registers, unless its field is 255. -/
def runCells (d : Nat) (l : List Nat) (tag : Tag) : List RegCell :=
  if d = 255 then [] else l.mapIdx fun i x => { n := d + i, v := BitVec.ofNat 32 x, tag := tag }

/-- Registers that hold elements of k bits, lowest first. -/
def Holds (l : List Nat) (k n : Nat) (els : Nat → Nat) : Prop :=
  l.length = n ∧ (∀ x ∈ l, x < 2 ^ 32) ∧ ∀ r, r < n → ∀ i, i < 32 / k → l.getD r 0 / 2 ^ (k * i) % 2 ^ k = els (32 / k * r + i) % 2 ^ k

/-- A register with half h replaced. -/
def withHalf (old : Nat) (h : Bool) (x : Nat) : Nat := if h then old % 65536 + x * 65536 else old / 65536 * 65536 + x

end Sys2Proof.Claim

/-- CVTXB, XBEXP, XBUNP (16/R354 to R356, 08/R184, R185): sixteen F32 values become one block, its elements in D and its scale
word, tagged XSC, in half h of B; the scale word alone; and one block back to sixteen values. -/
def Sys2Proof.Claim.ExponentBlocks : Prop :=
  ∀ (p : Pre) (ty sty : Tag) (rnd : Rnd) (h : Bool) (d a b c : Nat) (s : State) (t : Thread),
    let A16 : Src := { f := 1, n := a, c := 16, perm := p.pa, want := some .f32 }
    let seed := if rnd = .sr then [srcR 3 c p.pc] else []
    let block := xbBlock ty rnd (s.srcVal t p (srcR 3 c p.pc)) ((List.range 16).map fun i => fdecode f32 (s.srcReg t p A16 i).1.toNat)
    let k := if ty = .xb8 then 8 else 4
    let n := if ty = .xb8 then 4 else 2
    ((Instr.cvtxb p ty rnd h d a b c).wf = true → Issues s p t →
      s.gate t p .vector [{ f := 0, n := d, c := n, perm := noPerm, want := none }] ([A16, srcR 2 b p.pb] ++ seed) = none →
      s.writePending t b = false →
      Together s p t (fun _ => [{ f := 0, n := d, c := n, perm := noPerm, want := none }, dst b false]) →
      ∃ s' l, exec (.cvtxb p ty rnd h d a b c) s = .next s' ∧ Holds l k n (fun i => block.2.1.getD i 0) ∧
        Wrote s' p t (runCells d l ty ++ cells false b (withHalf (s.srcVal t p (srcR 2 b p.pb)) h block.1) .xsc) block.2.2 ∧
        Apart s s' (s.actors p)) ∧
    ((Instr.xbexp p ty rnd h d a c).wf = true → Executes s p .vector [dst d false] (A16 :: seed) t →
      ∃ s', exec (.xbexp p ty rnd h d a c) s = .next s' ∧
        Wrote s' p t (cells false d (withHalf (s.readReg t d).1.toNat h block.1) .xsc) (block.2.2 &&& stNV) ∧
        Apart s s' (s.actors p)) ∧
    (let ks := if sty = .xb8 then 8 else 4
     let A : Src := { f := 1, n := a, c := ks / 2, perm := p.pa, want := some sty }
     let B := srcT 2 b p.pb .xsc
     let scale := s.srcVal t p B / (if h then 65536 else 1) % 65536
     let el := fun i => (s.srcReg t p A (i / (32 / ks))).1.toNat / 2 ^ (ks * (i % (32 / ks))) % 2 ^ ks
     let val := fun i => match xbVal sty scale (el i) with
       | .num ng m e => (froundInt (fmtOf ty) .rne 0 false (if ng then -(m : Int) else m) e).1
       | _ => (fmtOf ty).nan
     (Instr.xbunp p ty sty h d a b).wf = true →
     Executes s p .vector [{ f := 0, n := d, c := ty.width / 2, perm := noPerm, want := none }] [A, B] t →
     ∃ s' l, exec (.xbunp p ty sty h d a b) s = .next s' ∧ Holds l ty.width (ty.width / 2) val ∧
       Wrote s' p t (runCells d l ty) 0#6 ∧ Apart s s' (s.actors p))

/-- MREDUCE (16/R357, 08/R198): the registers that B's low n bits name are typed, read and reduced in the pairwise tree; the
sum, its mean, or its share of n; +0 where B names none. -/
def Sys2Proof.Claim.RegisterReduction : Prop :=
  ∀ (p : Pre) (rnd : Rnd) (mode : MredMode) (d a b n : Nat) (s : State) (t : Thread),
    let A : Src := { f := 1, n := a, c := n, perm := p.pa, want := none }
    let B := srcR 2 b p.pb
    let on := (List.range n).filter fun j => (s.srcVal t p B).testBit j
    let one := fun j => ({ f := 1, n := if a = 255 then 255 else a + j, c := 1, perm := p.pa, want := some .f32 } : Src)
    (Instr.mreduce p rnd mode d a b n).wf = true → Executes s p .vector [dst d false] [A, B] t →
    s.formatFault t p (on.map one) = none →
    ∃ s', exec (.mreduce p rnd mode d a b n) s = .next s' ∧
      (let r := mreduceVal rnd mode (on.map fun j => (s.srcReg t p A j).1.toNat) n
       Wrote s' p t (cells false d r.1 .f32) r.2) ∧ Apart s s' (s.actors p)

/-- CVTXB, XBEXP, XBUNP, MREDUCE (16/R354 to R357): values, tags, status and frame.
Points that the spec leaves open follow the model (log entries 82, 83, 94). -/
def Obligations.BlocksAndReduction : Prop := ExponentBlocks ∧ RegisterReduction

/-! ## Cross-lane instructions (16/R358 to R363) -/

namespace Sys2Proof.Claim

/-- A cross-lane instruction executes normally: it issues for the whole subgroup (14/R316), which fits the declared width, and
no live member waits at issue. -/
structure Crosses (s : State) (p : Pre) (dsts : Thread → List Src) (srcs : List Src) (t : Thread) : Prop extends Issues s p t where
  clear : s.gate t p .vector (dsts t) srcs = none
  fits : s.tooWide t p = false
  converged : s.converged t (s.gSize t p) = true
  pend : ∀ q ∈ s.subgroup t (s.gSize t p), (s.thread q).live = true → s.destPending (s.thread q) (dsts (s.thread q)) = false

/-- The executing positions of a subgroup in ascending order: those that have not exited, pass their guard and do not fault
(16/R358). -/
def executing (s : State) (p : Pre) (dsts : Thread → List Src) (srcs : List Src) (t : Thread) : List Thread :=
  ((s.subgroup t (s.gSize t p)).map s.thread).filter fun x =>
    x.live && s.guardValue p x && (s.gate x p .vector (dsts t) srcs).isNone

/-- The threads that take part. -/
def crossers (s : State) (p : Pre) : List Tid := s.convGroup fun t => s.crossSize t p

/-- The live threads at the positions of a subgroup are numbered by them, and the thread is one of them (14/R314). -/
structure Numbered (s : State) (t : Thread) (g : Nat) : Prop where
  own : t ∈ (s.subgroup t g).map s.thread
  positions : ∀ i, i < g → (s.thread (s.atSpace t (s.spacePos t / g * g + i))).live = true →
    s.subPos (s.thread (s.atSpace t (s.spacePos t / g * g + i))) g = i

/-- A pattern with one bit for each position of a subgroup that meets a test. -/
def Mask (s : State) (g v : Nat) (l : List Thread) (test : Thread → Bool) : Prop :=
  v < 2 ^ g ∧ ∀ i, i < g → (v.testBit i = true ↔ ∃ x ∈ l, s.subPos x g = i ∧ test x = true)

end Sys2Proof.Claim

/-- SHFL (16/R359): D takes the value and tag of A at the position that the mode names: b mod g, p − b or p + b where that
lies in the subgroup and else its own, or p xor (b mod g). -/
def Sys2Proof.Claim.Shuffle : Prop :=
  ∀ (p : Pre) (mode : ShflMode) (wide : Bool) (d a : Nat) (b : RegImm) (s : State) (t : Thread),
    let g := s.gSize t p
    let q := s.subPos t g
    let k := amount s t p b
    let position := match mode with
      | .idx => k % g
      | .up => if k ≤ q then q - k else q
      | .down => if q + k < g then q + k else q
      | .xor => q ^^^ (k % g)
    let source := s.thread (s.atSpace t (s.spacePos t / g * g + position))
    (Instr.shfl p mode wide d a b).wf = true → Crosses s p (fun _ => [dst d wide]) (srcA p wide a :: srcRI p b) t →
    ∃ s', exec (.shfl p mode wide d a b) s = .next s' ∧ Wrote s' p t (copied s source p wide d a none) 0#6 ∧
      Apart s s' (crossers s p)

/-- BALLOT and MATCH (16/R360, R362): the executing positions whose bit k is set, or whose value equals the lane's own, as a
register tagged N32, or a pair tagged N64 in a subgroup of 64. -/
def Sys2Proof.Claim.Ballots : Prop :=
  ∀ (p : Pre) (wide : Bool) (d a k : Nat) (s : State) (t : Thread),
    let g := s.gSize t p
    let pair := g == 64
    let dsts := fun u => [dst d (s.gSize u p == 64)]
    (g = 64 → d % 2 = 0 ∧ d ≤ 252 ∨ d = 255) → Numbered s t g →
    (∀ q ∈ s.subgroup t g, (s.thread q).live = true → s.gSize (s.thread q) p = g) →
    ((Instr.ballot p d a k).wf = true → Crosses s p dsts [srcR 1 a p.pa] t →
      ∃ s' v, exec (.ballot p d a k) s = .next s' ∧
        Mask s g v (executing s p dsts [srcR 1 a p.pa] t) (fun x => (s.srcReg x p (srcR 1 a p.pa) 0).1.getLsbD k) ∧
        Wrote s' p t (cells pair d v (if pair then .n64 else .n32)) 0#6 ∧ Apart s s' (crossers s p)) ∧
    ((Instr.matchv p wide d a).wf = true → Crosses s p dsts [srcA p wide a] t →
      ∃ s' v, exec (.matchv p wide d a) s = .next s' ∧
        Mask s g v (executing s p dsts [srcA p wide a] t) (fun x => s.srcVal x p (srcA p wide a) == s.srcVal t p (srcA p wide a)) ∧
        Wrote s' p t (cells pair d v (if pair then .n64 else .n32)) 0#6 ∧ Apart s s' (crossers s p))

/-- VOTE (16/R361): bit j of D says whether bit k of A is set in all executing positions, in any, or is the same in all; the
other bits and the tag of D stay. -/
def Sys2Proof.Claim.Vote : Prop :=
  ∀ (p : Pre) (mode : VoteMode) (d a k j : Nat) (s : State) (t : Thread),
    let A := srcR 1 a p.pa
    let dsts := fun (_ : Thread) => [dst d false]
    let l := executing s p dsts [A] t
    let bit := fun x => (s.srcReg x p A 0).1.getLsbD k
    let holds : Prop := match mode with
      | .all => ∀ x ∈ l, bit x = true
      | .any => ∃ x ∈ l, bit x = true
      | .uni => ∀ x ∈ l, ∀ y ∈ l, bit x = bit y
    let old := s.readReg t d
    (Instr.vote p mode d a k j).wf = true → Crosses s p dsts [A] t →
    ∃ s' v, exec (.vote p mode d a k j) s = .next s' ∧
      (∀ i, i < 32 → (v.getLsbD i = true ↔ if i = j then holds else old.1.getLsbD i = true)) ∧
      Wrote s' p t [{ n := d, v := v, tag := old.2 }] 0#6 ∧ Apart s s' (crossers s p)

/-- SHFL, BALLOT, MATCH, VOTE (16/R359 to R362): values, tags and frame. -/
def Obligations.CrossLane : Prop := Shuffle ∧ Ballots ∧ Vote

namespace Sys2Proof.Claim

/-- A result as it is delivered: a NaN of F32 is the canonical one, and a signaling one sets NV (08/R189). -/
def canonical (ty : Tag) (r : Nat × Status) : Nat × Status :=
  if ty = .f32 ∧ (fdecode f32 r.1).isNan = true then (f32.nan, r.2 ||| (if (fdecode f32 r.1).isSig = true then stNV else 0#6)) else r

end Sys2Proof.Claim

/-- LREDUCE and LSCAN (16/R363, 08/R198): the pairwise tree over the executing positions in ascending order, the same result in
each; and the left-to-right combination of the positions up to the lane's own, or below it, with the identity where there is
none; D is tagged TYPE.
Points that the spec leaves open follow the model (log entry 94). -/
def Obligations.LaneReductions : Prop :=
  ∀ (p : Pre) (ty : Tag) (sat : Bool) (op : LaneOp) (excl : Bool) (d a : Nat) (s : State) (t : Thread),
    let A := srcT 1 a p.pa ty
    let dsts := fun (_ : Thread) => [dst d ty.is64]
    let l := executing s p dsts [A] t
    let g := s.gSize t p
    let f := withStat (laneComb ty sat op)
    let item := fun x => (s.srcVal x p A, (0#6 : Status))
    Crosses s p dsts [A] t → Numbered s t g →
    ((Instr.lreduce p ty sat op d a).wf = true →
      ∃ s' r, exec (.lreduce p ty sat op d a) s = .next s' ∧ pairTree f l.length (l.map item) = some r ∧
        Wrote s' p t (cells ty.is64 d (canonical ty r).1 ty) (canonical ty r).2 ∧ Apart s s' (crossers s p)) ∧
    ((Instr.lscan p ty sat op excl d a).wf = true →
      ∃ s', exec (.lscan p ty sat op excl d a) s = .next s' ∧
        (let own := (l.filter fun x => decide (s.subPos x g < s.subPos t g) || (!excl && s.subPos x g == s.subPos t g)).map item
         let r := canonical ty (match own with | [] => (laneIdentity ty op, 0#6) | x :: rest => rest.foldl f x)
         Wrote s' p t (cells ty.is64 d r.1 ty) r.2) ∧ Apart s s' (crossers s p))

/-! ## Pacing, gates, spawning and the end of a thread (15/R337 to R342) -/

namespace Sys2Proof.Claim

/-- The thread waits at a blocking point at the instruction, its registers and status as they were. -/
structure Waits (s' : State) (p : Pre) (t : Thread) (w : Wait) (got : Option DWord) : Prop where
  run : (s'.thread t.id).run = .blocked w p.len.bytes got
  regs : ∀ n, (s'.thread t.id).reg n = t.reg n
  astat : (s'.thread t.id).astat = t.astat
  pc : (s'.thread t.id).pc = t.pc
  clause : (s'.thread t.id).clause = t.clause
  rest : SameRest t (s'.thread t.id)

/-- The thread has parked with a trap of a cause, at the instruction, its registers and status as they were (12/R265). -/
structure Trapped (s' : State) (t : Thread) (cause : Nat) : Prop where
  run : ∃ r, (s'.thread t.id).run = .parked r ∧ r.cause = cause ∧ r.pc = t.pc ∧ r.clause = t.clause
  regs : ∀ n, (s'.thread t.id).reg n = t.reg n
  astat : (s'.thread t.id).astat = t.astat
  pc : (s'.thread t.id).pc = t.pc
  clause : (s'.thread t.id).clause = t.clause
  rest : SameRest t (s'.thread t.id)

/-- A thread has gone on after a blocking point at an item of `len` bytes, with these cells written. -/
structure Woke (s' : State) (t : Thread) (w : List RegCell) (len : Nat) : Prop where
  regs : ∀ n, (s'.thread t.id).reg n = regAfter t w n
  astat : (s'.thread t.id).astat = t.astat
  pc : (s'.thread t.id).pc = t.pc + len
  clause : (s'.thread t.id).clause = nextClause t.clause
  ready : (s'.thread t.id).run = .ready
  rest : SameRest t (s'.thread t.id)

/-- The thread's team is on its core and is not being evicted (04/R98). -/
structure Stays (s : State) (t : Thread) : Prop where
  resident : (s.team t.team).state = .resident
  staying : (s.team t.team).leaving = false

/-- The thread is listed under its name with registers in canonical form. -/
structure Listed (s : State) (t : Thread) : Prop where
  listed : s.threads.find? (fun x => x.id == t.id) = some t
  form : regsRise 0 t.regs = true

/-- The instruction issues for one thread alone, which is ready, and stands together where an operand is permuted. -/
structure Alone (s : State) (p : Pre) (t : Thread) : Prop extends Issues s p t where
  alone : s.actors p = [t.id]
  ready : t.run = .ready
  stands : permuted p = true → s.tooWide t p = false ∧ s.converged t (s.gSize t p) = true

/-- The threads that a SEAM, or a BAR, counts (12/R266): those of the team that have not exited, at a SEAM of its home group. -/
def counted (s : State) (t : Thread) (seam : Bool) : List Thread :=
  s.threads.filter fun x => x.team == t.team && x.live && (!seam || x.id.slot == t.id.slot)

end Sys2Proof.Claim

namespace Sys2Proof.Claim

/-- YIELD and PAUSE (15/R340): both go on; a YIELD ends the greedy run of the slot that issues from the thread's entry and
changes nothing else; after PAUSE n with n above 0 the thread issues nothing for 16n cycles, in determinism mode 16n
instructions of its core. -/
def Pacing : Prop :=
  ∀ (p : Pre) (n : Nat) (s : State) (t : Thread), Issues s p t →
    ((Instr.yield p).wf = true → (∀ i ∈ s.issue, i.core = t.id.core) →
      ∃ s', exec (.yield p) s = .next s' ∧ Wrote s' p t [] 0#6 ∧
        (∀ e ∈ s.entries, e.core = t.id.core → t.id ∈ e.members →
          ((s.core t.id.core).slot0.entry = some e.id → (s'.core t.id.core).slot0 = { entry := none, run := 0 }) ∧
          ((s.core t.id.core).slot1.entry = some e.id → (s'.core t.id.core).slot1 = { entry := none, run := 0 })) ∧
        s' = { s with threads := s'.threads, entries := s'.entries, issue := s'.issue, cores := s'.cores } ∧
        (∀ a, memGet s'.mem a = memGet s.mem a)) ∧
    ((Instr.pause p n).wf = true →
      ∃ s', exec (.pause p n) s = .next s' ∧ Apart s s' (s.actors p) ∧
        (if n = 0 then Wrote s' p t [] 0#6
         else
          let now := if (s.grid (s.team t.team).grid).determ then (s.core t.id.core).issued else s.time.cyc
          (s'.thread t.id).run = .paused (now + 16 * n) ∧ (s'.thread t.id).pc = t.pc + p.len.bytes ∧
            (s'.thread t.id).clause = nextClause t.clause ∧ (∀ r, (s'.thread t.id).reg r = t.reg r) ∧
            (s'.thread t.id).astat = t.astat ∧ SameRest t (s'.thread t.id)))

end Sys2Proof.Claim

namespace Sys2Proof.Claim

/-- SEAM, BAR and BLOCKING_WAKE at them (15/R337, R338; 12/R266): a thread with no access outstanding waits there with nothing
changed; once every counted thread stands at one, all of them go on together. -/
def SeamsAndBarriers : Prop :=
  ∀ (p : Pre) (s : State) (t : Thread),
    (Issues s p t → s.accPending t = false →
      ((Instr.seam p).wf = true → ∃ s', exec (.seam p) s = .next s' ∧ Waits s' p t .seam none ∧ Apart s s' (s.actors p)) ∧
      ((Instr.bar p).wf = true → ∃ s', exec (.bar p) s = .next s' ∧ Waits s' p t .bar none ∧ Apart s s' (s.actors p))) ∧
    (Listed s t → Stays s t → ∀ (seam : Bool) (len : Nat) (got : Option DWord),
      t.run = .blocked (if seam then .seam else .bar) len got →
      (∀ x ∈ counted s t seam, ∃ l g, x.run = .blocked (if seam then .seam else .bar) l g) →
      ∃ s', exec (.blockingWake t.id) s = .next s' ∧ Woke s' t [] len ∧
        (∀ x l g, Listed s x → x ∈ counted s t seam → x.run = .blocked (if seam then .seam else .bar) l g → Woke s' x [] l) ∧
        s' = { s with threads := s'.threads })

end Sys2Proof.Claim

/-- YIELD and PAUSE, SEAM and BAR, and the release of the threads that stand at one (15/R337 to R340; 12/R266).
Points that the spec leaves open follow the model (log entries 10, 50). -/
def Obligations.PacingAndGates : Prop := Pacing ∧ SeamsAndBarriers

/-- SPAWN (15/R341, 04/R81 to R84): with a valid entry and profile the child's argument joins a bobbin, which forms a pending
team of its grid when it is full; and EXIT (15/R342): the thread ends.
Points that the spec leaves open follow the model (log entry 45). -/
def Obligations.SpawnAndExit : Prop :=
  ∀ (p : Pre) (a b : Nat) (s : State) (t : Thread), Alone s p t →
    (∀ (l : List Byte) (bb : Bobbin),
      let A := srcP 1 a p.pa
      let B := srcP 2 b p.pb
      let entry := s.srcVal t p A
      let read := s.issueRun t (entry - 32) 4
      let s1 := read.1.dropReads t
      let cluster := t.id.core / 4
      let kids := bb.kids ++ [BitVec.ofNat 64 (s.srcVal t p B)]
      (Instr.spawn p a b).wf = true → t.child = none → s.gate t p .any [] [A, B] = none → entry % 32 = 0 → 32 ≤ entry → entry < 2 ^ 55 →
      read.2 = .bytes l → s1.profileOk (s.gridOf t).ctx l = true →
      s1.bobbinFor cluster (s.gridOf t) entry l = some bb → (s1.beginRelease t .dv).2 = none →
      ∃ s', exec (.spawn p a b) s = .next s' ∧ (s'.thread t.id).run = .ready ∧
        if kids.length < bobbinCap (s1.grid bb.grid).width then (cluster, { bb with kids := kids }) ∈ s'.bobbins
        else ∃ tm ∈ s'.teams, tm.grid = bb.grid ∧ tm.args = kids ∧ tm.entry = bb.entry ∧ tm.state = .pending ∧
          tm.spawner = some cluster) ∧
    ((Instr.exit p).wf = true → s.exitWaits t = false →
      ∃ s', exec (.exit p) s = .next s' ∧ (s'.thread t.id).run = .exited)

/-! ## Memory, atomics and fences (17) -/

namespace Sys2Proof.Claim

/-- No access of the thread is in the operand log, but for what an interrupted level forwarded, none has been put off, and none
waits for an acquire or for room in the log, so its next access is performed (06/R144, R145; 11/R249). -/
structure Unlogged (s : State) (t : Thread) : Prop where
  none : ∀ e ∈ s.log, ∀ l ∈ e.lanes, l.tid = t.id → l.depth ≠ t.depth ∧ e.forward = true
  late : ∀ o ∈ s.ops, o.tid = t.id → o.src ≠ .late ∧ o.src ≠ .replay
  free : s.memHold t s.fresh = false

/-- No line of a team's scratchpad among n bytes from o on is uncorrectable (06/R151). -/
def Good (s : State) (team o n : Nat) : Prop := ∀ k ∈ (s.team team).scrBad, 128 * k + 128 ≤ o ∨ o + n ≤ 128 * k

/-- An access of space `S` forms an offset in the team's scratchpad, aligned to its size, where no line is uncorrectable (17/R365,
05/R115, 06/R151). -/
structure InScratch (s : State) (p : Pre) (t : Thread) (a : Nat) (off : Int) (size o : Nat) : Prop where
  formed : ((s.srcVal t p (srcR 1 a p.pa) : Nat) : Int) + off = (o : Int)
  above : 16384 ≤ o
  fits : o + size ≤ (s.team t.team).scratch
  aligned : o % size = 0
  resident : (s.team t.team).state = .resident
  good : Good s t.team o size
  form : Memory.wf (s.team t.team).scr = true

/-- The little-endian number that n bytes of a memory hold (08/R181). -/
def number (m : Memory) (o : Nat) : Nat → Nat
  | 0 => 0
  | n + 1 => (memGet m o).toNat + 256 * number m (o + 1) n

/-- An n-byte number as a 32-bit register receives it: sign-extended where it is signed (17/R366). -/
def extended (signed : Bool) (n x : Nat) : Nat := if signed = true ∧ 2 ^ (8 * n - 1) ≤ x then x + 2 ^ 32 - 2 ^ (8 * n) else x

/-- The state an ordered access starts from: a release is performed first (11/R249, 05/R117). -/
def released (s : State) (t : Thread) (ord : MemOrd) (sc : Scope) : State := if ord = .rel then (s.beginRelease t sc).1 else s
/-- The release, if the access is one, may be performed now. -/
def Released (s : State) (t : Thread) (ord : MemOrd) (sc : Scope) : Prop := ord = .rel → (s.beginRelease t sc).2 = none

/-- Bytes of an access: an element's, a pair's, or a register's. -/
def sizeOf (ty : Tag) (elt : Bool) : Nat := if elt then ty.width / 8 else if ty.is64 then 8 else 4

/-- What a load of one element writes. -/
def loaded (ty : Tag) (elt : Bool) (d x : Nat) : List RegCell :=
  if d = 255 then [] else cells (ty.is64 && !elt) d (extended (elt && tagSigned ty) (sizeOf ty elt) x) ty

/-- The scratchpad of the team holds a value in n bytes from o on; every other byte of it, every other team, and every byte of
local memory are as they were. -/
structure StoredAt (s s' : State) (t : Thread) (o n v : Nat) : Prop where
  value : number (s'.team t.team).scr o n = v % 2 ^ (8 * n)
  others : ∀ x, (x < o ∨ o + n ≤ x) → memGet (s'.team t.team).scr x = memGet (s.team t.team).scr x
  teams : ∀ k, k ≠ t.team → s'.team k = s.team k
  bytes : ∀ x, memGet s'.mem x = memGet s.mem x

end Sys2Proof.Claim

namespace Sys2Proof.Claim

/-- LD and LDV in `S` (17/R365 to R368, 14/R310): the thread goes on at once, and the operation that will deliver the bytes of
the scratchpad, little-endian, a narrow element extended by its sign or by zero, stands under the instruction's flag; no byte of
memory or of a scratchpad changes, and the L1 only by the action of an acquire. -/
def ScratchLoads : Prop :=
  ∀ (p : Pre) (ty : Tag) (ord : MemOrd) (sc : Scope) (hint : Hint) (d a o : Nat) (off : Int) (s : State) (t : Thread), Alone s p t →
    let frame := fun (s' : State) =>
      s' = { s with threads := s'.threads, entries := s'.entries, issue := s'.issue, ops := s'.ops, fresh := s'.fresh, l1 := s'.l1 } ∧
      (ord = .none → s'.l1 = s.l1) ∧ (∀ x, memGet s'.mem x = memGet s.mem x)
    (∀ elt, (Instr.ld p .s ty ord sc hint elt d a off).wf = true → Unlogged s t →
      s.preGate t .any [dst d ty.is64] [srcR 1 a p.pa] = none → InScratch s p t a off (sizeOf ty elt) o →
      ∃ s', exec (.ld p .s ty ord sc hint elt d a off) s = .next s' ∧ Passed s' p t ∧
        Pending s' p t (loaded ty elt d (number (s.team t.team).scr o (sizeOf ty elt))) 0#6 ∧ frame s') ∧
    (∀ vn, let n := 2 ^ (vn + 1)
      (Instr.ldv p .s ty ord sc hint vn d a off).wf = true → Unlogged s t →
      s.preGate t .any [{ f := 0, n := d, c := n, perm := noPerm, want := none }] [srcR 1 a p.pa] = none →
      InScratch s p t a off (4 * n) o →
      ∃ s', exec (.ldv p .s ty ord sc hint vn d a off) s = .next s' ∧ Passed s' p t ∧
        Pending s' p t ((List.range n).map fun k =>
          { n := d + k, v := BitVec.ofNat 32 (number (s.team t.team).scr (o + 4 * k) 4), tag := ty }) 0#6 ∧ frame s')

end Sys2Proof.Claim

namespace Sys2Proof.Claim

/-- ST and STV in `S` (17/R365 to R368): after the release that an ordered store performs first, the scratchpad holds the
registers' low bytes from the formed offset on, little-endian, and no other byte of it, of another team's or of local memory
changes. -/
def ScratchStores : Prop :=
  ∀ (p : Pre) (ty : Tag) (ord : MemOrd) (sc : Scope) (hint : Hint) (a b o : Nat) (off : Int) (s : State) (t : Thread), Alone s p t →
    Released s t ord sc →
    let s1 := released s t ord sc
    let frame := fun (s' : State) =>
      s' = { s1 with threads := s'.threads, entries := s'.entries, issue := s'.issue, teams := s'.teams, fresh := s'.fresh }
    (∀ elt, let B : Src := { f := 2, n := b, c := if ty.is64 then 2 else 1, perm := noPerm, want := none }
      (Instr.st p .s ty ord sc hint elt a b off).wf = true → Unlogged s t →
      s.preGate t .any [] [srcR 1 a p.pa, B] = none → InScratch s p t a off (sizeOf ty elt) o →
      ∃ s', exec (.st p .s ty ord sc hint elt a b off) s = .next s' ∧ Passed s' p t ∧
        StoredAt s1 s' t o (sizeOf ty elt) (s.srcVal t p B) ∧ frame s') ∧
    (∀ vn, let n := 2 ^ (vn + 1)
      let B : Src := { f := 2, n := b, c := n, perm := noPerm, want := none }
      (Instr.stv p .s ty ord sc hint vn a b off).wf = true → Unlogged s t →
      s.preGate t .any [] [srcR 1 a p.pa, B] = none → InScratch s p t a off (4 * n) o →
      ∃ s' v, exec (.stv p .s ty ord sc hint vn a b off) s = .next s' ∧ Passed s' p t ∧
        (∀ k, k < n → v / 2 ^ (32 * k) % 2 ^ 32 = (s.srcReg t p B k).1.toNat) ∧ StoredAt s1 s' t o (4 * n) v ∧ frame s')

end Sys2Proof.Claim

/-- LD and ST in the scratchpad (17/R364 to R370; 05/R115).
Points that the spec leaves open follow the model (log entries 1, 16, 17). -/
def Obligations.ScratchAccesses : Prop := ScratchLoads ∧ ScratchStores

/-- LD and ST in `G` where the core's L1 holds the line, good and not busy (05/R116, R118, 17/R368): a load delivers the line's bytes and changes no byte
of any line; a store changes its bytes of the line, which become valid and dirty, and no other byte of it, no other line, and no
byte of local memory, which the line reaches when it is written back.
Points that the spec leaves open follow the model (log entry 16). -/
def Obligations.CachedAccesses : Prop :=
  ∀ (p : Pre) (ty : Tag) (sc : Scope) (hint : Hint) (elt : Bool) (d a b : Nat) (off : Int) (s : State) (t : Thread) (l : L1Line),
    Alone s p t → Unlogged s t →
    let n := sizeOf ty elt
    let va := (((s.srcVal t p (srcP 1 a p.pa) : Nat) : Int) + off).toNat
    let core := t.id.core
    let ctx := (s.grid (s.team t.team).grid).ctx
    0 ≤ ((s.srcVal t p (srcP 1 a p.pa) : Nat) : Int) + off → va < 2 ^ 55 → va % n = 0 →
    s.line? core ctx (va / 128) = some l → l.bad = false → (∀ u ∈ s.upd, ¬(u.core = core ∧ u.ctx = ctx ∧ u.line = va / 128)) →
    ((Instr.ld p .g ty .none sc hint elt d a off).wf = true → s.preGate t .any [dst d ty.is64] [srcP 1 a p.pa] = none →
      (∀ i, i < n → l.valid.testBit (va % 128 + i) = true) →
      ∃ s', exec (.ld p .g ty .none sc hint elt d a off) s = .next s' ∧ Passed s' p t ∧
        Pending s' p t (loaded ty elt d (l.data / 2 ^ (8 * (va % 128)) % 2 ^ (8 * n))) 0#6 ∧
        (∀ c x k, (s'.line? c x k).map (fun y => (y.data, y.valid, y.dirty)) = (s.line? c x k).map fun y => (y.data, y.valid, y.dirty)) ∧
        s' = { s with threads := s'.threads, entries := s'.entries, issue := s'.issue, ops := s'.ops, fresh := s'.fresh, l1 := s'.l1
                      teams := s'.teams } ∧ (∀ x, memGet s'.mem x = memGet s.mem x)) ∧
    (let B : Src := { f := 2, n := b, c := if ty.is64 then 2 else 1, perm := noPerm, want := none }
     (Instr.st p .g ty .none sc hint elt a b off).wf = true → s.preGate t .any [] [srcP 1 a p.pa, B] = none →
      l.w = true → s.lineBusy l = false →
      ∃ s' l', exec (.st p .g ty .none sc hint elt a b off) s = .next s' ∧ Passed s' p t ∧
        s'.line? core ctx (va / 128) = some l' ∧
        (∀ i, i < 128 → l'.data / 2 ^ (8 * i) % 256 =
          if va % 128 ≤ i ∧ i < va % 128 + n then s.srcVal t p B / 2 ^ (8 * (i - va % 128)) % 256 else l.data / 2 ^ (8 * i) % 256) ∧
        (∀ i, l'.valid.testBit i = (l.valid.testBit i || decide (va % 128 ≤ i ∧ i < va % 128 + n))) ∧
        (∀ i, l'.dirty.testBit i = (l.dirty.testBit i || decide (va % 128 ≤ i ∧ i < va % 128 + n))) ∧
        (∀ c x k, ¬(c = core ∧ x = ctx ∧ k = va / 128) → s'.line? c x k = s.line? c x k) ∧
        s' = { s with threads := s'.threads, entries := s'.entries, issue := s'.issue, fresh := s'.fresh, l1 := s'.l1, teams := s'.teams } ∧
        (∀ x, memGet s'.mem x = memGet s.mem x))

namespace Sys2Proof.Claim

/-- The new value of an atomic action (17/R373): integer ADD wraps, MIN and MAX compare as the type reads, F32 operations are
those of 16/R344 and R345, CAS compares bit for bit. -/
def combined (op : AtOp) (ty : Tag) (old b c : Nat) : Nat :=
  let n := if ty.is64 then 2 ^ 64 else 2 ^ 32
  match op with
  | .add => if ty = .f32 then (faddVal f32 .rne 0 (fdecode f32 old) (fdecode f32 b)).1 else (old + b) % n
  | .min => if ty = .f32 then (fminmaxBits f32 false old b).1 else if element ty 0 b < element ty 0 old then b else old
  | .max => if ty = .f32 then (fminmaxBits f32 true old b).1 else if element ty 0 old < element ty 0 b then b else old
  | .and => old &&& b
  | .or => old ||| b
  | .xor => old ^^^ b
  | .exch => b
  | .cas => if old = b then c else old

end Sys2Proof.Claim

/-- ATOM and RED in `S` (17/R373, R374): one action at the element reads the old value, writes the combination and sets SFX;
ATOM's operation delivers the old value under its flag, RED delivers nothing; no other byte changes.
Points that the spec leaves open follow the model (log entries 4, 16). -/
def Obligations.ScratchAtomics : Prop :=
  ∀ (p : Pre) (ty : Tag) (ord : MemOrd) (sc : Scope) (hint : Hint) (op : AtOp) (d a b c o : Nat) (off : Int) (s : State) (t : Thread),
    let B := srcT 2 b noPerm ty
    let C := srcT 3 c noPerm ty
    let n := if ty.is64 then 8 else 4
    let old := number (s.team t.team).scr o n
    let z := if op = .cas then s.srcVal t p C else 0
    Alone s p t → Unlogged s t → InScratch s p t a off n o →
    ((Instr.atom p .s ty ord sc op d a b c off).wf = true → Released s t ord sc →
      s.gate t p .any [dst d ty.is64] (srcR 1 a p.pa :: if op = .cas then [B, C] else [B]) = none →
      ∃ s', exec (.atom p .s ty ord sc op d a b c off) s = .next s' ∧ Passed s' p t ∧
        Pending s' p t (if d = 255 then [] else cells ty.is64 d old ty) 0#6 ∧
        StoredAt (released s t ord sc) s' t o n (combined op ty old (s.srcVal t p B) z) ∧ (s'.team t.team).sfx = true) ∧
    ((Instr.red p .s ty hint op a b off).wf = true → s.gate t p .any [] [srcR 1 a p.pa, B] = none →
      ∃ s', exec (.red p .s ty hint op a b off) s = .next s' ∧ Passed s' p t ∧
        StoredAt s s' t o n (combined op ty old (s.srcVal t p B) 0) ∧ (s'.team t.team).sfx = true ∧
        s' = { s with threads := s'.threads, entries := s'.entries, issue := s'.issue, teams := s'.teams, fresh := s'.fresh })

namespace Sys2Proof.Claim

/-- The home of n bytes can be read and written at once: no held contribution of the line waits, its data is good, its memory link is
not being retrained, and the bytes lie in one line (05/R120, 06/R151, 01/R12). -/
structure HomeFree (s : State) (pa n : Nat) : Prop where
  inLine : pa % 128 + n ≤ 128
  upd : ∀ u ∈ s.upd, u.pa / 128 ≠ pa / 128
  det : ∀ e ∈ s.l2.det, e.pa / 128 ≠ pa / 128
  good : s.lineBad (pa / 128) = false
  ready : s.homeWaits (pa / 128) = false

/-- An address of a context is translated at a cluster by an entry that its TLB holds, to a page that bypasses the L1, and the
cluster's reverse map names no other alias of its frame (06/R135, R139, R141). -/
structure Through (s : State) (cluster ctx va pa : Nat) (w : Bool) : Prop where
  low : va < 2 ^ 55
  hit : ∃ e, s.tlb? cluster ctx va = some e ∧ (leafXlat e.level e.leaf va).pa = pa ∧ (leafXlat e.level e.leaf va).apt = 0 ∧
    (leafXlat e.level e.leaf va).cache = 1 ∧ (w = true → (leafXlat e.level e.leaf va).w = true) ∧
    ∀ r ∈ s.rev, r.cluster = cluster → r.frame = frameKey (leafXlat e.level e.leaf va) → r.ctx = ctx ∧ r.page = va / 65536

/-- The address of word w of the thread's private array (05/R114). -/
def privateVa (s : State) (t : Thread) (w : Nat) : Nat :=
  let tm := s.team t.team
  tm.privBase + (((tm.slots.findIdx fun x => x == t.id.slot) * tm.privWords + w) * 32 + t.id.lane) * 4

/-- A constant cache, a core's or a cluster's, holds the line of an address with the bytes of its home (05/R124). -/
def ConstHolds (s' s : State) (cluster : Bool) (unit ctx va pa : Nat) : Prop :=
  ∃ k ∈ s'.const, k.cluster = cluster ∧ k.unit = unit ∧ k.ctx = ctx ∧ k.line = va / 128 ∧
    ∀ i, i < 128 → k.data / 2 ^ (8 * i) % 256 = (memGet s.mem (pa / 128 * 128 + i)).toNat

end Sys2Proof.Claim

/-- LDC, PREF, FLUSHL, CINV, FENCE (17/R370 to R372, R376, R377) complete: a load of a line that the core's constant cache holds
delivers its bytes, and one of a line that neither cache holds delivers its home's and fills both; a prefetch passes whatever its
address, logs nothing and begins at most operations that deliver nothing; a flush writes the line's dirty bytes, and no other byte, to its home, drops the line with DROP, and leaves an absent line alone; CINV
drops the context's lines of the constant caches in scope and no other; a fence that no access
is awaited before passes, at SY once its release may be performed, and one that acquires at CL or wider leaves no byte valid in the
core's lines of the context that is not dirty; a fence behind an awaited access passes too, but for a release at SY, and the later
accesses that it orders wait.
Points that the spec leaves open follow the model (log entries 33, 88, 89). -/
def Obligations.CachesAndFences : Prop :=
  ∀ (p : Pre) (ty : Tag) (ord : MemOrd) (sc : Scope) (sp : Space) (hint : Hint) (l2 drop : Bool) (d a : Nat) (off : Int)
    (s : State) (t : Thread), Alone s p t →
    let ctx := (s.grid (s.team t.team).grid).ctx
    let va := (((s.srcVal t p (srcP 1 a p.pa) : Nat) : Int) + off).toNat
    let n := if ty.is64 then 8 else 4
    (∀ k : ConstLine, (Instr.ldc p ty d a off).wf = true → Unlogged s t → s.preGate t .any [dst d ty.is64] [srcP 1 a p.pa] = none →
      0 ≤ ((s.srcVal t p (srcP 1 a p.pa) : Nat) : Int) + off → va < 2 ^ 64 → va % n = 0 →
      s.const.find? (fun x => !x.cluster && x.unit == t.id.core && x.ctx == ctx && x.line == va / 128) = some k →
      ∃ s', exec (.ldc p ty d a off) s = .next s' ∧ Passed s' p t ∧
        Pending s' p t (loaded ty false d (k.data / 2 ^ (8 * (va % 128)) % 2 ^ (8 * n))) 0#6 ∧
        s' = { s with threads := s'.threads, entries := s'.entries, issue := s'.issue, ops := s'.ops, fresh := s'.fresh }) ∧
    (∀ pa : Nat, (Instr.ldc p ty d a off).wf = true → Unlogged s t → s.preGate t .any [dst d ty.is64] [srcP 1 a p.pa] = none →
      0 ≤ ((s.srcVal t p (srcP 1 a p.pa) : Nat) : Int) + off → va % n = 0 →
      (∀ k ∈ s.const, k.ctx = ctx → k.line = va / 128 → k.unit ≠ if k.cluster then t.id.core / 4 else t.id.core) →
      Through s (t.id.core / 4) ctx va pa false → HomeFree s pa n →
      ∃ s', exec (.ldc p ty d a off) s = .next s' ∧ Passed s' p t ∧ Pending s' p t (loaded ty false d (number s.mem pa n)) 0#6 ∧
        ConstHolds s' s false t.id.core ctx va pa ∧ ConstHolds s' s true (t.id.core / 4) ctx va pa ∧
        (∀ x, memGet s'.mem x = memGet s.mem x)) ∧
    ((Instr.pref p sp hint l2 a off).wf = true →
      ∃ s', exec (.pref p sp hint l2 a off) s = .next s' ∧ Passed s' p t ∧ s'.log = s.log ∧
        (∀ o ∈ s.ops, o ∈ s'.ops) ∧ ∀ o ∈ s'.ops, o ∈ s.ops ∨ (o.dead = true ∧ o.writes = [] ∧ o.flag = none)) ∧
    (let A := if sp = .p then srcR 1 a p.pa else srcP 1 a p.pa
     let formed := ((s.srcVal t p A : Nat) : Int) + off
     let va := if sp = .p then privateVa s t formed.toNat else formed.toNat
     (Instr.flushl p sp drop a off).wf = true → Unlogged s t → s.preGate t .any [] [A] = none →
      0 ≤ formed → (sp = .p → formed.toNat < (s.team t.team).privWords) → va < 2 ^ 55 →
      (∀ u ∈ s.upd, ¬(u.core = t.id.core ∧ u.ctx = ctx ∧ u.line = va / 128)) →
      (s.line? t.id.core ctx (va / 128) = none → ∃ s', exec (.flushl p sp drop a off) s = .next s' ∧ Passed s' p t ∧
        s'.l1 = s.l1 ∧ (∀ x, memGet s'.mem x = memGet s.mem x)) ∧
      (∀ l : L1Line, s.line? t.id.core ctx (va / 128) = some l → l.apt = 0 → l.bad = false → HomeFree s l.pa 128 → Memory.wf s.mem = true →
       ∃ s', exec (.flushl p sp drop a off) s = .next s' ∧ Passed s' p t ∧
        (∀ i, i < 128 → l.dirty.testBit i = true → (memGet s'.mem (l.pa + i)).toNat = l.data / 2 ^ (8 * i) % 256) ∧
        (∀ x, (∀ i, i < 128 → l.dirty.testBit i = true → x ≠ l.pa + i) → memGet s'.mem x = memGet s.mem x) ∧
        (if drop then s'.line? t.id.core ctx (va / 128) = none
         else ∃ l', s'.line? t.id.core ctx (va / 128) = some l' ∧ l'.dirty = 0 ∧ l'.data = l.data ∧ l'.valid = l.valid))) ∧
    ((Instr.cinv p sc).wf = true →
      ∃ s', exec (.cinv p sc) s = .next s' ∧ Passed s' p t ∧
        (∀ x, x ∈ s'.const ↔ x ∈ s.const ∧ ¬(x.ctx = ctx ∧
          (if x.cluster then ∃ i, i < 4 ∧ inScope sc t.id.core (4 * x.unit + i) = true else inScope sc t.id.core x.unit = true))) ∧
        s' = { s with threads := s'.threads, entries := s'.entries, issue := s'.issue, const := s'.const, ops := s'.ops } ∧
        s'.ops.map (fun o => (o.id, o.writes, o.src)) = s.ops.map (fun o => (o.id, o.writes, o.src))) ∧
    ((Instr.fence p ord sc).wf = true → s.memHold t s.fresh = false → s.accPending t = false →
      (ord ≠ .acq → sc = .sy → (s.beginRelease t sc).2 = none) →
      ∃ s', exec (.fence p ord sc) s = .next s' ∧ Passed s' p t ∧
        (ord ≠ .rel → 3 ≤ sc.code → ∀ l ∈ s'.l1, l.core = t.id.core → l.ctx = ctx → l.valid &&& l.dirty = l.valid)) ∧
    ((Instr.fence p ord sc).wf = true → s.memHold t s.fresh = false → s.accPending t = true → ord = .acq ∨ sc ≠ .sy →
      ∃ s', exec (.fence p ord sc) s = .next s' ∧ Passed s' p t ∧ s'.l1 = s.l1 ∧ s'.mem = s.mem ∧
        ∀ base w, ord ≠ .rel ∨ w = true → s'.memHold (s'.thread t.id) base w = true)

/-! ## Waiting and synchronising (17/R378 to R385; 10/R222 to R233) -/

namespace Sys2Proof.Claim

/-- The thread has issued a wait alone, and nothing of its stands in the operand log (17/R378, 06/R144). -/
structure WaitIssues (s : State) (p : Pre) (t : Thread) : Prop extends Alone s p t where
  unlogged : Unlogged s t

/-- The operations stand as they did: under their numbers, with their results to come. -/
def SameOps (s s' : State) : Prop :=
  s'.ops.map (fun o => (o.id, o.tid, o.flag, o.writes, o.src)) = s.ops.map fun o => (o.id, o.tid, o.flag, o.writes, o.src)

/-- 16 bytes of the scratchpad form an arrival word or a ring's part: TARGET, COUNT, GEN and FLAGS of 4 bytes each (10/R226). -/
def awWord (s : State) (team o k : Nat) : Nat := number (s.team team).scr (o + 4 * k) 4

/-- A team's scratchpad changes from o on only: n bytes of it, no other team's, no byte of local memory. -/
structure Only (s s' : State) (team o n : Nat) : Prop where
  others : ∀ x, (x < o ∨ o + n ≤ x) → memGet (s'.team team).scr x = memGet (s.team team).scr x
  teams : ∀ k, k ≠ team → s'.team k = s.team k
  bytes : ∀ x, memGet s'.mem x = memGet s.mem x

/-- A word after a credit of b bytes (10/R229, R230): the sum saturates at 2^32 − 1; each full TARGET advances GEN and leaves the
rest in COUNT; a saturation or two advances at once set OVR, bit 2 of FLAGS. -/
structure Credited (s s' : State) (team o b : Nat) : Prop where
  target : awWord s' team o 0 = awWord s team o 0
  count : awWord s' team o 1 =
    let sum := min (awWord s team o 1 + b) (2 ^ 32 - 1)
    if awWord s team o 0 = 0 then sum else sum % awWord s team o 0
  gen : awWord s' team o 2 =
    let sum := min (awWord s team o 1 + b) (2 ^ 32 - 1)
    if awWord s team o 0 = 0 then awWord s team o 2 else (awWord s team o 2 + sum / awWord s team o 0) % 2 ^ 32
  flags : ∀ i, i < 32 → (awWord s' team o 3).testBit i = ((awWord s team o 3).testBit i ||
    (i == 2 && (decide (2 ^ 32 ≤ awWord s team o 1 + b) ||
      (awWord s team o 0 != 0 && decide (2 ≤ min (awWord s team o 1 + b) (2 ^ 32 - 1) / awWord s team o 0)))))
  only : Only s s' team o 16

/-- The summary of an error record (10/R224): bit 31, the first error's code in [23:16], its memory cause in [15:8] for code 6,
and the number of errors; 0 without one. -/
def summary (r : ErrRec) : Nat :=
  if r.first = 0 then 0 else 2147483648 + 65536 * r.first + (if r.first = 6 then 256 * r.cause else 0) + r.nerr

end Sys2Proof.Claim

/-- WAITV and AWAIT in `S` (17/R378, R381; 10/R229): the thread waits at a blocking point, and where the word already satisfies
the comparison, or GEN has passed g, the value that does so is kept; BLOCKING_WAKE then writes it to D and goes on, and the
acquire at the scope changes the L1 alone.
Points that the spec leaves open follow the model (log entry 10). -/
def Obligations.WaitsOnWords : Prop :=
  ∀ (p : Pre) (ty : Tag) (sc : Scope) (cond : Cond) (d a b o : Nat) (off : Int) (s : State) (t : Thread),
    (WaitIssues s p t →
      (let B := srcT 2 b noPerm ty
       let n := if ty.is64 then 8 else 4
       let x := number (s.team t.team).scr o n
       let y := element ty 0 (s.srcVal t p B)
       let holds : Prop := match cond with
         | .eq => element ty 0 x = y | .ne => element ty 0 x ≠ y | .lt => element ty 0 x < y | .le => element ty 0 x ≤ y
         | .gt => element ty 0 x > y | .ge => element ty 0 x ≥ y
       (Instr.waitv p .s ty sc cond d a b off).wf = true → s.gate t p .any [dst d ty.is64] [srcR 1 a p.pa, B] = none →
       InScratch s p t a off n o →
       ∃ s' got, exec (.waitv p .s ty sc cond d a b off) s = .next s' ∧
         Waits s' p t (.waitv (.scr t.team o) o ty cond (BitVec.ofNat 64 (s.srcVal t p B)) d sc) got ∧
         (got = some (BitVec.ofNat 64 x) ∧ holds ∨ got = none ∧ ¬holds) ∧ Apart s s' (s.actors p)) ∧
      (let B := srcR 2 b noPerm
       let gen := awWord s t.team o 2
       let ahead := ((gen : Int) - (s.srcVal t p B : Nat)) % 2 ^ 32
       (Instr.await p .s sc d a b off).wf = true → s.gate t p .any [dst d false] [srcR 1 a p.pa, B] = none →
       InScratch s p t a off 16 o → ((awWord s t.team o 3).testBit 0 = true → o % 32 = 0) →
       ∃ s' got, exec (.await p .s sc d a b off) s = .next s' ∧ Waits s' p t (.await (.scr t.team o) (s.srcVal t p B) d sc) got ∧
         (got = some (BitVec.ofNat 64 gen) ∧ 1 ≤ ahead ∧ ahead < 2 ^ 31 ∨ got = none ∧ ¬(1 ≤ ahead ∧ ahead < 2 ^ 31)) ∧
         Apart s s' (s.actors p))) ∧
    (Listed s t → Stays s t → ∀ (len : Nat) (v : DWord) (loc : WordLoc) (va g : Nat) (y : DWord),
      (t.run = .blocked (.waitv loc va ty cond y d sc) len (some v) →
        ∃ s', exec (.blockingWake t.id) s = .next s' ∧ Woke s' t (cells ty.is64 d v.toNat ty) len ∧
          SameOps s s' ∧ s' = { s with threads := s'.threads, l1 := s'.l1, ops := s'.ops }) ∧
      (t.run = .blocked (.await loc g d sc) len (some v) →
        ∃ s', exec (.blockingWake t.id) s = .next s' ∧ Woke s' t (cells false d v.toNat .n32) len ∧
          SameOps s s' ∧ s' = { s with threads := s'.threads, l1 := s'.l1, ops := s'.ops }))

/-- AWSET of a word that is not lossy, ARRIVE, and the step ARRIVAL_CREDIT, in `S` (10/R228 to R230; 17/R379, R380): an accepted
arming writes TARGET, zeroes COUNT, writes FLAGS and keeps GEN, a refused one writes nothing, and its operation delivers the
status; a credit does as R229 says; no other byte changes.
Points that the spec leaves open follow the model (log entry 31). -/
def Obligations.ArrivalWords : Prop :=
  ∀ (p : Pre) (sc : Scope) (d a b c o : Nat) (off : Int) (s : State) (t : Thread),
    (WaitIssues s p t →
      (let B := srcR 2 b noPerm
       let C := srcR 3 c noPerm
       let target := s.srcVal t p B
       let ctl := s.srcVal t p C
       let ok := target ≠ 0 ∧ ctl / 4 % 4 = 0 ∧ ctl / 2 ^ 24 = 0
       (Instr.awset p .s d a b c off).wf = true → s.gate t p .any [dst d false] [srcR 1 a p.pa, B, C] = none → ctl % 2 = 0 →
       InScratch s p t a off 16 o →
       ∃ s' status, exec (.awset p .s d a b c off) s = .next s' ∧ Passed s' p t ∧ (status = 0 ∧ ok ∨ status = 1 ∧ ¬ok) ∧
         Pending s' p t (if d = 255 then [] else cells false d status .n32) 0#6 ∧ Only s s' t.team o 16 ∧
         (ok → awWord s' t.team o 0 = target ∧ awWord s' t.team o 1 = 0 ∧ awWord s' t.team o 2 = awWord s t.team o 2 ∧
           awWord s' t.team o 3 = ctl % 4) ∧
         (¬ok → ∀ x, memGet (s'.team t.team).scr x = memGet (s.team t.team).scr x)) ∧
      (let B := srcR 2 b noPerm
       let s1 := (s.beginRelease t sc).1
       (Instr.arrive p .s sc a b off).wf = true → s.gate t p .any [] [srcR 1 a p.pa, B] = none → (s.beginRelease t sc).2 = none →
       InScratch s p t a off 16 o → ((awWord s t.team o 3).testBit 0 = true → o % 32 = 0) → (awWord s t.team o 3).testBit 1 = false →
       ∃ s', exec (.arrive p .s sc a b off) s = .next s' ∧ Passed s' p t ∧ Credited s1 s' t.team o (s.srcVal t p B))) ∧
    (∀ (team bytes cmd : Nat), (s.team team).state = .resident → Memory.wf (s.team team).scr = true → Good s team o 16 →
      ∃ s', exec (.arrivalCredit (.scr team o) bytes cmd) s = .next s' ∧ Credited s s' team o bytes)

/-- SRINIT, SRWAIT, SRFREE and BLOCKING_WAKE (10/R233, 17/R382 to R384) complete: a ring within its limits is armed, its header and its
stage words written and no other byte; a wait on a stage's phase is satisfied when the phase bit equals C's bit 0, and its thread
then goes on; a free counts in [31:24] of the stage's FLAGS, and the last of NCONS turns its empty phase, bit 3, and starts again. A
ring that breaks a limit, or a stage that it does not have, raises cause 0x52 with nothing changed.
Points that the spec leaves open follow the model (log entry 34). -/
def Obligations.StageRings : Prop :=
  ∀ (p : Pre) (empty : Bool) (a b c : Nat) (s : State) (t : Thread),
    let A := srcR 1 a noPerm
    let B := srcR 2 b noPerm
    let C := srcR 3 c noPerm
    let o := s.srcVal t p A
    let w := o + 16 + 16 * s.srcVal t p B
    let scratch := (s.team t.team).scratch
    let home : Prop := (s.team t.team).state = .resident ∧ Memory.wf (s.team t.team).scr = true
    let ring : Prop := o % 16 = 0 ∧ 16384 ≤ o ∧
      number (s.team t.team).scr o 1 ≠ 0 ∧ number (s.team t.team).scr o 1 ≤ 64 ∧ number (s.team t.team).scr (o + 1) 1 ≠ 0 ∧
      number (s.team t.team).scr (o + 2) 2 = 0 ∧ number (s.team t.team).scr (o + 4) 4 ≠ 0 ∧
      o + 16 + 16 * number (s.team t.team).scr o 1 ≤ scratch ∧ s.srcVal t p B < number (s.team t.team).scr o 1
    (WaitIssues s p t →
      (let pair := srcP 2 b noPerm
       let nc := s.srcVal t p pair
       let n := nc % 256
       let cons := nc / 256 % 256
       let limits : Prop := o % 16 = 0 ∧ 16384 ≤ o ∧ 1 ≤ n ∧ n ≤ 64 ∧ 1 ≤ cons ∧ nc / 65536 % 65536 = 0 ∧
         1 ≤ s.srcVal t p C ∧ o + 16 + 16 * n ≤ scratch
       (Instr.srinit p a b c).wf = true → s.gate t p .any [] [A, pair, C] = none →
       (¬limits → ∃ s', exec (.srinit p a b c) s = .next s' ∧ Trapped s' t 0x52 ∧ Apart s s' (s.actors p)) ∧
       (limits → home → Good s t.team o (16 + 16 * n) →
       ∃ s', exec (.srinit p a b c) s = .next s' ∧ Passed s' p t ∧ Only s s' t.team o (16 + 16 * n) ∧
         number (s'.team t.team).scr o 2 = n + 256 * cons ∧ number (s'.team t.team).scr (o + 2) 2 = 0 ∧
         number (s'.team t.team).scr (o + 4) 4 = s.srcVal t p C ∧ number (s'.team t.team).scr (o + 8) 8 = nc / 2 ^ 32 ∧
         ∀ k, k < n → awWord s' t.team (o + 16 + 16 * k) 0 = s.srcVal t p C ∧ awWord s' t.team (o + 16 + 16 * k) 1 = 0 ∧
           awWord s' t.team (o + 16 + 16 * k) 2 = 0 ∧ awWord s' t.team (o + 16 + 16 * k) 3 = 0)) ∧
      ((Instr.srwait p empty a b c).wf = true → s.gate t p .any [] [A, B, C] = none → home →
       (¬ring → ∃ s', exec (.srwait p empty a b c) s = .next s' ∧ Trapped s' t 0x52 ∧ Apart s s' (s.actors p)) ∧
       (ring →
       let bit := if empty then (awWord s t.team w 3).testBit 3 else (awWord s t.team w 2).testBit 0
       ∃ s', exec (.srwait p empty a b c) s = .next s' ∧ Apart s s' (s.actors p) ∧
         Waits s' p t (.srwait w empty ((s.srcVal t p C).testBit 0)) (if bit = (s.srcVal t p C).testBit 0 then some 0#64 else none))) ∧
      ((Instr.srfree p a b).wf = true → s.gate t p .any [] [A, B] = none → home →
       (¬ring → ∃ s', exec (.srfree p a b) s = .next s' ∧ Trapped s' t 0x52 ∧ Apart s s' (s.actors p)) ∧
       (ring → s.accPending t = false → Good s t.team (w + 12) 4 →
       let old := awWord s t.team w 3
       let frees := (old / 2 ^ 24 + 1) % 256
       ∃ s', exec (.srfree p a b) s = .next s' ∧ Passed s' p t ∧ Only s s' t.team (w + 12) 4 ∧
         (if frees = number (s.team t.team).scr (o + 1) 1 then
           awWord s' t.team w 3 < 2 ^ 24 ∧ ∀ i, i < 24 → (awWord s' t.team w 3).testBit i = (old.testBit i != (i == 3))
          else awWord s' t.team w 3 = frees * 2 ^ 24 + old % 2 ^ 24)))) ∧
    (Listed s t → Stays s t → ∀ (len off : Nat) (phase : Bool) (v : DWord),
      t.run = .blocked (.srwait off empty phase) len (some v) →
      ∃ s', exec (.blockingWake t.id) s = .next s' ∧ Woke s' t [] len ∧ s' = { s with threads := s'.threads })

/-- WAITC, BLOCKING_WAKE at it, and ENGINE_COMMAND_FINISH (10/R222 to R224; 17/R385; 09/R216) complete: the wait is satisfied when the
group's counter of the class is at most n; going on, D takes the summary of the class's error record, which is cleared, or, where an
accumulator-invalid trap of the group is due, the thread traps in its place; the oldest finished command leaves, the counter of its
group and class falls by one, no other counter does, and its error joins the record.
Points that the spec leaves open follow the model (log entries 26, 27, 30). -/
def Obligations.EngineCounters : Prop :=
  ∀ (p : Pre) (cls : Cls) (d : Nat) (n : RegImm) (s : State) (t : Thread),
    let gi := (s.team t.team).slots.findIdx fun x => x == t.id.slot
    (Alone s p t → (Instr.waitc p cls d n).wf = true →
      s.gate t p .any [dst d false] (match n with | .reg b => [srcR 2 b noPerm] | .imm _ => []) = none →
      let k := match n with | .reg b => s.srcVal t p (srcR 2 b noPerm) | .imm k => k
      ∃ s' r, exec (.waitc p cls d n) s = .next s' ∧ Apart s s' (s.actors p) ∧ r.cause = 0x42 ∧
        Waits s' p t (.waitc cls k d r) (if (s.group t.team gi).ctr.getD cls.code 0 ≤ k then some 0#64 else none)) ∧
    (Listed s t → Stays s t → gi < (s.team t.team).groups.length →
      (s.group t.team gi).errs.length = 6 →
      ∀ (len k : Nat) (v : DWord) (r : TrapRec), t.run = .blocked (.waitc cls k d r) len (some v) →
      (cls = .mat → (s.group t.team gi).nvt = true →
        ∃ s' l, exec (.blockingWake t.id) s = .next s' ∧ (s'.thread t.id).run = .parked { r with lanes := l } ∧
          (s'.thread t.id).pc = t.pc ∧ (∀ i, (s'.thread t.id).reg i = t.reg i) ∧ (s'.group t.team gi).nvt = false) ∧
      (cls ≠ .mat ∨ (s.group t.team gi).nvt = false →
      ∃ s', exec (.blockingWake t.id) s = .next s' ∧
        Woke s' t (cells false d (summary ((s.group t.team gi).errs.getD cls.code ⟨0, 0, 0⟩)) .n32) len ∧
        (s'.group t.team gi).errs.getD cls.code ⟨0, 0, 0⟩ = ⟨0, 0, 0⟩ ∧ (s'.group t.team gi).ctr = (s.group t.team gi).ctr)) ∧
    (∀ (c : Cmd) (rest : List Cmd), s.cmds = c :: rest → c.state = .finished → (∀ x ∈ rest, x.state ≠ .finished) →
      c.group < (s.team c.team).groups.length → (s.group c.team c.group).ctr.length = 6 → (s.group c.team c.group).errs.length = 6 →
      (s.teams.find? fun x => x.id == c.team).isSome = true →
      ∃ s', exec (.engineCommandFinish c.id) s = .next s' ∧ s'.cmds = rest ∧
        (s'.group c.team c.group).ctr.getD c.cls.code 0 = (s.group c.team c.group).ctr.getD c.cls.code 0 - 1 ∧
        (∀ k, k ≠ c.cls.code → (s'.group c.team c.group).ctr.getD k 0 = (s.group c.team c.group).ctr.getD k 0) ∧
        (let r := (s.group c.team c.group).errs.getD c.cls.code ⟨0, 0, 0⟩
         (s'.group c.team c.group).errs.getD c.cls.code ⟨0, 0, 0⟩ =
           if c.err = 0 then r else if r.first = 0 then ⟨c.err, c.cause, 1⟩ else ⟨r.first, r.cause, min 255 (r.nerr + 1)⟩))

/-! ## Tensor states, tensor elements and recuts (07, 18/R389 to R399) -/

namespace Sys2Proof.Claim

/-- Word w of a team's tensor state k: 64 words of 8 bytes from offset 512k of the scratchpad (07/R153). -/
def tsWord (s : State) (team k w : Nat) : Nat := number (s.team team).scr (512 * k + 8 * w) 8

/-- The thread's team is resident with its scratchpad in canonical form. -/
structure Resident (s : State) (t : Thread) : Prop where
  resident : (s.team t.team).state = .resident
  form : Memory.wf (s.team t.team).scr = true

/-- A state written whole from 64 words (18/R389): STAT, bits 51:50 of word 0, and CURSOR, word 10, are written as zero, and no
other byte of the scratchpad changes. -/
structure Image (s s' : State) (t : Thread) (k : Nat) (w : Nat → Nat) : Prop where
  header : ∀ i, i < 64 → (tsWord s' t.team k 0).testBit i = ((w 0).testBit i && i != 50 && i != 51)
  words : ∀ j, 0 < j → j < 64 → tsWord s' t.team k j = if j = 10 then 0 else w j
  only : Only s s' t.team (512 * k) 512

/-- The words that TSINIT.FRAG writes (18/R390, 07/R161): K and the format by FRAGID, two coordinates, the identity. -/
def fragWord (frag a b g j : Nat) : Nat :=
  let k := if frag ≤ 3 then 4 else if frag ≤ 7 then 5 else 6
  let f := [3, 3, 2, 2, 4, 4, 12, 12, 13, 13].getD frag 0
  if j = 0 then 5 + 16 * f + 256 * 2 + 2 ^ 16 * (k + 6) + 2 ^ 24 * 5 + 2 ^ 27 + 2 ^ 40 * frag
  else if j = 1 then a + 256 * g
  else if j = 2 then (if 6 ≤ frag then b else 0)
  else if j = 4 then k + 256 * 2 ^ k
  else if j = 5 then 6 + 256 * 64
  else if 16 ≤ j ∧ j < 16 + (k + 6) then 2 ^ (j - 16)
  else 0

end Sys2Proof.Claim

/-- TSINIT, TSINIT.FRAG, TSSET and TSGET (18/R389 to R392, 07/R176): with STAT zero and no queued recut that names the state, an image form writes the 512 bytes that stand in
scratchpad or that its reads at issue gave, FRAG the words of R390, and TSSET one word, of which STAT keeps its value; a word
that a program may not write raises 0x20; TSGET delivers the word as it stands.
Points that the spec leaves open follow the model (log entries 33, 34, 35, 110). -/
def Obligations.TensorStates : Prop :=
  ∀ (p : Pre) (d a b g w frag : Nat) (s : State) (t : Thread), Resident s t →
    (Alone s p t → s.tsBusy t.team d = false → Good s t.team (512 * d) 512 →
      (let A := srcR 1 a noPerm
       let o := s.srcVal t p A
       (Instr.tsinit p true d a).wf = true → s.gate t p .any [] [A] = none → 16384 ≤ o → o + 512 ≤ (s.team t.team).scratch → o % 8 = 0 →
       ∃ s', exec (.tsinit p true d a) s = .next s' ∧ Passed s' p t ∧
         Image s s' t d (fun j => number (s.team t.team).scr (o + 8 * j) 8)) ∧
      (let A := srcP 1 a noPerm
       ∀ (s1 : State) (l : List Byte), (Instr.tsinit p false d a).wf = true → s.gate t p .any [] [A] = none →
       s.recordG p t (s.srcVal t p A) 64 8 = (s1, .ok l) → l.length = 512 →
       s1.threads.find? (fun x => x.id == t.id) = some t → Resident s1 t → Good s1 t.team (512 * d) 512 →
       ∃ s', exec (.tsinit p false d a) s = .next s' ∧ Passed s' p t ∧ Image s1 s' t d (fun j => leNat ((l.drop (8 * j)).take 8))) ∧
      ((Instr.tsinitFrag p frag d a b g).wf = true → s.gate t p .any [] [] = none →
       ∃ s', exec (.tsinitFrag p frag d a b g) s = .next s' ∧ Passed s' p t ∧ Image s s' t d (fragWord frag a b g)) ∧
      (let A := srcP 1 a noPerm
       let v := s.srcVal t p A
       let cls := tsWord s t.team d 0 % 8
       (Instr.tsset p d a w).wf = true → s.gate t p .any [] [A] = none →
       if w = 10 ∨ (w = 0 ∧ v % 8 = 5) ∨ (cls = 5 ∧ w ≠ 1 ∧ w ≠ 2) then
         ∃ s', exec (.tsset p d a w) s = .next s' ∧ Trapped s' t 0x20 ∧ Apart s s' (s.actors p)
       else
         ∃ s', exec (.tsset p d a w) s = .next s' ∧ Passed s' p t ∧ Only s s' t.team (512 * d + 8 * w) 8 ∧
           ∀ i, i < 64 → (tsWord s' t.team d w).testBit i = (v.testBit i && (w != 0 || (i != 50 && i != 51))))) ∧
    (Executes s p .any [dst d true] [] t → (Instr.tsget p d a w).wf = true →
      ∃ s', exec (.tsget p d a w) s = .next s' ∧ Wrote s' p t (cells true d (tsWord s t.team a w) .n64) 0#6 ∧ Apart s s' (s.actors p))

namespace Sys2Proof.Claim

/-- Bit p of the place of an index (07/R157): the parity of row p of M with the index, plus bit p of OFS. -/
def placeBit (ts : TState) (i p : Nat) : Bool :=
  (((List.range 48).filter fun q => (ts.rows.getD p 0).testBit q && i.testBit q).length % 2 == 1) != ts.ofs.testBit p

/-- A number is the place of an index. -/
def PlaceOf (ts : TState) (i pl : Nat) : Prop := pl < 2 ^ ts.nb ∧ ∀ p, p < ts.nb → pl.testBit p = placeBit ts i p

/-- An index is a hole (07/R162, 18/R398): it has a bit at or above NB, or a coordinate, coordinate 0 lowest, at or above its
extent. -/
def Hole (ts : TState) (i : Nat) : Prop :=
  2 ^ ts.nb ≤ i ∨ ∃ k, k < ts.dims.length ∧ (ts.dims.getD k (0, 0)).2 ≤ i / 2 ^ (((ts.dims.take k).map (·.1)).sum) % 2 ^ (ts.dims.getD k (0, 0)).1

/-- A tensor in the team's own scratchpad whose elements lie in whole bytes and on their alignment. -/
structure InSpad (ts : TState) : Prop where
  cls : ts.cls = 2
  plain : ts.xb = false
  base : ts.base % (ts.s / 8) = 0

end Sys2Proof.Claim

/-- TLD and TST (18/R397 to R399, 07/R157 to R162): the index in A's pair names a place; in the team's scratchpad a load delivers
the element at BASE plus the place's bytes, signed ones extended, and a store writes it and no other byte; a hole is delivered
as zero and not stored; a store to a register is queued for the owner's clause boundary with the state's format as its tag, and
the load of one stands until the owner's boundary.
Points that the spec leaves open follow the model (log entries 10, 32, 35). -/
def Obligations.TensorElements : Prop :=
  ∀ (p : Pre) (ord : MemOrd) (sc : Scope) (hint : Hint) (d a b k pl : Nat) (s : State) (t : Thread),
    let ts := tsOf (s.tsBytes t.team k)
    let A := srcP 1 a noPerm
    let i := s.srcVal t p A
    let n := ts.s / 8
    let o := ts.base + n * pl
    let D : Src := { f := 0, n := d, c := if ts.fmt.is64 then 2 else 1, perm := noPerm, want := none }
    let B : Src := { f := 2, n := b, c := if ts.fmt.is64 then 2 else 1, perm := noPerm, want := some ts.fmt }
    Alone s p t → t.tstTo = [] → Unlogged s t → Resident s t → s.useFault (s.team t.team) ts = none → s.recutting t.team k = false →
    ((Instr.tld p ord sc hint d a k).wf = true → (ts.fmt.is64 = true → d = 255 ∨ (d % 2 = 0 ∧ d ≤ 252)) → s.gate t p .any [D] [A] = none →
      (Hole ts i → ∃ s', exec (.tld p ord sc hint d a k) s = .next s' ∧ Passed s' p t ∧
        Pending s' p t (cells ts.fmt.is64 d 0 (if ts.xb then .f32 else ts.fmt)) 0#6 ∧ (∀ x, memGet s'.mem x = memGet s.mem x)) ∧
      (¬Hole ts i → InSpad ts → PlaceOf ts i pl → Good s t.team o n → ∃ s', exec (.tld p ord sc hint d a k) s = .next s' ∧ Passed s' p t ∧
        Pending s' p t (loaded ts.fmt (!ts.fmt.is64) d (number (s.team t.team).scr o n)) 0#6 ∧
        s' = { s with threads := s'.threads, entries := s'.entries, issue := s'.issue, ops := s'.ops, fresh := s'.fresh, l1 := s'.l1 } ∧
        (∀ x, memGet s'.mem x = memGet s.mem x)) ∧
      (∀ g lane r bit, ¬Hole ts i → PlaceOf ts i pl → ts.stor pl = .reg g lane r bit → ts.xb = false →
        ∃ s' op, exec (.tld p ord sc hint d a k) s = .next s' ∧ Passed s' p t ∧ op ∈ s'.ops ∧ op.tid = t.id ∧ op.depth = t.depth ∧
          op.flag = t.flagOf p.fs ∧ op.writes = cells ts.fmt.is64 d 0 ts.fmt ∧
          op.src = .elem { core := t.id.core, slot := (s.team t.team).slots.getD g 64, lane := lane } r bit 255 0 ts.fmt)) ∧
    ((Instr.tst p ord sc hint a b k).wf = true → (ts.fmt.is64 = true → b = 255 ∨ (b % 2 = 0 ∧ b ≤ 252)) → s.gate t p .any [] [A, B] = none →
      ts.xb = false → Released s t ord sc →
      (Hole ts i → ∃ s', exec (.tst p ord sc hint a b k) s = .next s' ∧ Passed s' p t ∧ (ord = .none → Apart s s' (s.actors p))) ∧
      (¬Hole ts i → InSpad ts → PlaceOf ts i pl → Good s t.team o n → ∃ s', exec (.tst p ord sc hint a b k) s = .next s' ∧ Passed s' p t ∧
        StoredAt (released s t ord sc) s' t o n (s.srcVal t p B)) ∧
      (∀ g lane r bit, ¬Hole ts i → PlaceOf ts i pl → ts.stor pl = .reg g lane r bit → ts.fmt.is64 = false → ord = .none →
        let own : Tid := { core := t.id.core, slot := (s.team t.team).slots.getD g 64, lane := lane }
        (s.thread own).live = true → (s.thread own).team = t.team →
        ∃ s' w, exec (.tst p ord sc hint a b k) s = .next s' ∧ (s'.thread own).win = (s.thread own).win ++ [w] ∧ w.n = r ∧ w.tag = ts.fmt ∧
          (∀ j, j < 32 → w.mask.getLsbD j = decide (bit ≤ j ∧ j < bit + ts.s)) ∧
          (∀ j, bit ≤ j → j < bit + ts.s → j < 32 → w.v.getLsbD j = (s.srcVal t p B).testBit (j - bit)) ∧
          (s'.thread t.id).pc = t.pc + p.len.bytes ∧ (s'.thread t.id).run = .ready))

namespace Sys2Proof.Claim

/-- What an engine command's issue needs of a state: the thread as it stands, its team resident with a counter of each class for
its group, and no dirty byte of the context in the core's L1. -/
structure Engines (s : State) (t : Thread) : Prop extends Resident s t where
  listed : s.threads.find? (fun x => x.id == t.id) = some t
  group : (s.team t.team).slots.findIdx (fun x => x == t.id.slot) < (s.team t.team).groups.length
  six : (s.group t.team ((s.team t.team).slots.findIdx fun x => x == t.id.slot)).ctr.length = 6
  clean : ∀ l ∈ s.l1, l.core = t.id.core → l.ctx = (s.grid (s.team t.team).grid).ctx → l.dirty = 0

/-- A command has issued (10/R222): its group's counter of the class is one greater, and it stands last among the commands. -/
structure Raised (s s' : State) (t : Thread) (cls : Cls) (sc : Scope) (kind : CmdKind) (aw : Option AwRef) : Prop where
  counter :
    let gi := (s.team t.team).slots.findIdx fun x => x == t.id.slot
    (s'.group t.team gi).ctr.getD cls.code 0 = (s.group t.team gi).ctr.getD cls.code 0 + 1
  command : ∃ c, s'.cmds = s.cmds ++ [c] ∧ c.tid = t.id ∧ c.team = t.team ∧ c.core = t.id.core ∧ c.cls = cls ∧ c.scope = sc ∧
    c.kind = kind ∧ c.aw = aw ∧ c.err = 0 ∧ c.prog = 0 ∧ c.pos = 0

/-- A word that a command names lies in the team's scratchpad, aligned (18/R388), or it names none. -/
def WordFine (s : State) (t : Thread) (w : Option AwRef) : Prop :=
  ∀ x, w = some x → x.scr = true ∧ 16384 ≤ x.addr ∧ x.addr + 16 ≤ (s.team t.team).scratch ∧ x.addr % 16 = 0

/-- The tensors of a recut lie in scratchpads or registers, so that its command is of class COPY (07/R177). -/
def OnChip (x y : TState) : Prop := x.cls ≠ 1 ∧ y.cls ≠ 1

end Sys2Proof.Claim

/-- RECUT, RECUTQ, RECUT_PASS and RECUT_RETIRE (07/R165 to R178; 18/R394 to R396): a recut that passes the checks of R165 issues
one command and marks its destination's STAT, 2 in place and 1 else; RECUTQ delivers R171's word; a step of the first of several
passes of a recut out of place reads its elements from their places in the source and writes none; a step of the last pass writes
its elements, read by it or by the first pass, at their places in the destination, and no other byte above the tensor states, and
owes the word their bits; a recut whose writes are made is over, its states' STAT and CURSOR zero.
Points that the spec leaves open follow the model (log entries 29, 31, 112). -/
def Obligations.Recuts : Prop :=
  ∀ (p : Pre) (aws lossy : Bool) (sc : Option Scope) (d a b c : Nat) (off : Int) (s : State) (t : Thread),
    (let x := tsOf (s.tsBytes t.team d)
     let y := tsOf (s.tsBytes t.team a)
     let B := if aws then srcR 2 b noPerm else srcP 2 b noPerm
     let e := (s.srcVal t p B : Int) + off
     let w : Option AwRef := if b = 255 then none else some { scr := true, addr := e.toNat }
     Alone s p t → Engines s t → (Instr.recut p aws false sc d a b c off).wf = true → s.gate t p .engine [] (if b = 255 then [] else [B]) = none →
     s.recutFault (s.team t.team) x y = none → OnChip x y → s.engineFull t .copy (planOf x y).length = false →
     (b ≠ 255 → aws = true ∧ 0 ≤ e) → WordFine s t w → Good s t.team (512 * d) 512 → Good s t.team (512 * a) 512 →
     ∃ s', exec (.recut p aws false sc d a b c off) s = .next s' ∧ Passed s' p t ∧
       Raised s s' t .copy (sc.getD .tm)
         (.recut d a (s.tsBytes t.team d) (s.tsBytes t.team a) (x.coincides y) (planOf x y) none) w ∧
       tsWord s' t.team d 0 / 2 ^ 50 % 4 = (if x.coincides y = true ∨ s.recutting t.team d = true then 2 else 1)) ∧
    (let x := tsOf (s.tsBytes t.team a)
     let y := tsOf (s.tsBytes t.team b)
     Alone s p t → Resident s t → (Instr.recutq p lossy d a b).wf = true → s.gate t p .engine [dst d true] [] = none → OnChip x y →
     ∃ s' v, exec (.recutq p lossy d a b) s = .next s' ∧ Passed s' p t ∧ Pending s' p t (cells true d v .n64) 0#6 ∧
       (∀ k, memGet s'.mem k = memGet s.mem k) ∧
       v = match s.recutFault (s.team t.team) x y with
         | some f => f * 2 ^ 48
         | none =>
           if lossy then 0x25 * 2 ^ 48
           else 2 ^ 63 + (if x.coincides y then 2 ^ 62 else 0) +
             ((List.range 9).map fun k => 16 ^ (k + 1) * (((planOf x y).map Pass.level).getD k 15)).sum + (planOf x y).length) ∧
    (∀ (cmd : Cmd) (db ab : List Byte) (inp : Bool) (plan : List Pass),
      let x := tsOf db
      let y := tsOf ab
      let n := x.s / 8
      let order := passOrder y plan cmd.prog
      let now := stepHead y.stepBits (order.drop cmd.pos)
      let source := fun (u : PassUnit) => number (s.team cmd.team).scr (y.base + n * y.place u.n) n
      let value := fun (u : PassUnit) => if cmd.prog = 0 then source u else ((cmd.snap.find? fun v => v.n == u.n).map (·.v)).getD 0
      let goesOn := fun (z : Cmd) =>
        if cmd.pos + now.length < order.length then z.pos = cmd.pos + now.length ∧ z.prog = cmd.prog ∧ z.state = .running
        else z.pos = 0 ∧ z.prog = cmd.prog + 1 ∧ z.state = if plan.length ≤ cmd.prog + 1 then .acking else .running
      d < 32 → a < 32 → s.cmd? cmd.id = some cmd → cmd.kind = .recut d a db ab inp plan none → cmd.cls = .copy → (s.team cmd.team).state = .resident →
      Memory.wf (s.team cmd.team).scr = true → (s.team cmd.team).scrBad = [] →
      (cmd.going = true → s.recutBehind cmd = false → plan ≠ [] → cmd.pos < order.length →
        InSpad x → InSpad y → x.valid = true → y.valid = true → x.fmt = y.fmt → 16384 ≤ x.base → 16384 ≤ y.base →
        (cmd.prog = 0 → ∀ u ∈ (if inp then order else now), ∀ v ∈ cmd.snap, v.n ≠ u.n) →
        (cmd.prog = 0 → 1 < plan.length → inp = false →
          ∃ s' z, exec (.recutPass cmd.id) s = .next s' ∧ s'.cmd? cmd.id = some z ∧ goesOn z ∧ z.owed = cmd.owed ∧
            z.snap = cmd.snap ++ now.map (fun u => { n := u.n, v := source u, scale := 0 }) ∧
            (∀ o, 16384 ≤ o → memGet (s'.team cmd.team).scr o = memGet (s.team cmd.team).scr o) ∧
            (∀ o, memGet s'.mem o = memGet s.mem o)) ∧
        (cmd.prog + 1 = plan.length → fld s.sys.budcfg 0 1 = 0 → (∀ u ∈ order, ∀ v ∈ order, x.place u.n = x.place v.n → u = v) →
          ∃ s' z, exec (.recutPass cmd.id) s = .next s' ∧ s'.cmd? cmd.id = some z ∧ goesOn z ∧ z.owed = cmd.owed + x.s * now.length ∧
            (∀ u ∈ now, number (s'.team cmd.team).scr (x.base + n * x.place u.n) n = value u % 2 ^ (8 * n)) ∧
            (∀ o, 16384 ≤ o → (∀ u ∈ now, ¬(x.base + n * x.place u.n ≤ o ∧ o < x.base + n * x.place u.n + n)) →
              memGet (s'.team cmd.team).scr o = memGet (s.team cmd.team).scr o) ∧
            (∀ o, memGet s'.mem o = memGet s.mem o))) ∧
      (cmd.state = .acking → s.cmdOpen cmd.id = false → s.creditDue cmd.id = false → cmd.owes = false → cmd.moved = 0 → cmd.ranges = [] →
        cmd.lossy = [] → (∀ z ∈ s.cmds, z.id = cmd.id ∨ z.state = .finished ∨ z.team ≠ cmd.team) →
        ∃ s' z, exec (.recutRetire cmd.id) s = .next s' ∧ s'.cmd? cmd.id = some z ∧ z.state = .finished ∧ z.paused = false ∧
          tsWord s' cmd.team d 0 / 2 ^ 50 % 4 = 0 ∧ tsWord s' cmd.team d 10 = 0 ∧
          tsWord s' cmd.team a 0 / 2 ^ 50 % 4 = 0 ∧ tsWord s' cmd.team a 10 = 0))

/-! ## Gather, scatter, collectives and decoding (10/R235 to R244; 18/R400, R411 to R413) -/

/-- GATHER, SCATTER and GATHER_SCATTER_COMPLETE (10/R238, R239, 18/R400): a record within R238's limits issues one command of
class GATH; an index below LIMIT moves the table's entry to the dense side, or the dense element to the entry; a gather writes
zero for any other index, and a scatter nothing.
Points that the spec leaves open follow the model (log entries 31, 33). -/
def Obligations.GathersAndScatters : Prop :=
  ∀ (p : Pre) (rsp : Bool) (sc : Option Scope) (a : Nat) (s s1 : State) (t : Thread) (r : List Byte),
    (let A := if rsp then srcR 1 a noPerm else srcP 1 a noPerm
     let w : Option AwRef := if recField r 40 8 = 0 then none else some { scr := (recField r 2 1).testBit 1, addr := recField r 40 8 }
     Alone s p t → s.gate t p .engine [] [A] = none → s.gsRecord p t rsp (s.srcVal t p A) = (s1, .ok r) →
     gsOk r (s.team t.team).scratch = true → Engines s1 t → s1.engineFull t .gath 0 = false → WordFine s1 t w →
     ((Instr.gather p rsp sc a).wf = true → ∃ s', exec (.gather p rsp sc a) s = .next s' ∧ Passed s' p t ∧
        Raised s1 s' t .gath (sc.getD .tm) (.gather r) w) ∧
     ((Instr.scatter p rsp sc a).wf = true → ∃ s', exec (.scatter p rsp sc a) s = .next s' ∧ Passed s' p t ∧
        Raised s1 s' t .gath (sc.getD .tm) (.scatter r) w)) ∧
    (∀ (c : Cmd) (pa : Nat),
      let n := 2 ^ recField r 0 1
      let m := if recField r 1 1 = 0 then 4 else 8
      let scr := (s.team c.team).scr
      let i := number scr (recField r 24 8 + m * c.pos) m
      let entry := recField r 8 8 + n * i
      let dense := recField r 32 8 + n * c.pos
      -- the last element, its indices and dense side in the team's scratchpad, of at most 8 bytes
      s.cmd? c.id = some c → c.cls = .gath → c.state = .running → c.paused = false → c.pos + 1 = recField r 4 4 → gsOk r (s.team c.team).scratch = true →
      recField r 2 1 = 3 → recField r 0 1 ≤ 3 → (s.team c.team).state = .resident → Memory.wf scr = true → (s.team c.team).scrBad = [] →
      (c.kind = .gather r → recField r 16 8 ≤ i →
        ∃ s' z, exec (.gatherScatterComplete c.id) s = .next s' ∧ s'.cmd? c.id = some z ∧ z.state = .acking ∧ z.pos = c.pos + 1 ∧
          z.owed = c.owed + 8 * n ∧ number (s'.team c.team).scr dense n = 0 ∧ Only s s' c.team dense n) ∧
      (c.kind = .scatter r → recField r 16 8 ≤ i →
        ∃ s' z, exec (.gatherScatterComplete c.id) s = .next s' ∧ s'.cmd? c.id = some z ∧ z.state = .acking ∧ z.pos = c.pos + 1 ∧
          z.owed = c.owed ∧ (∀ x, memGet s'.mem x = memGet s.mem x)) ∧
      (c.kind = .gather r → i < recField r 16 8 → Through s (c.core / 4) c.ctx entry pa false → HomeFree s pa n →
        ∃ s' z, exec (.gatherScatterComplete c.id) s = .next s' ∧ s'.cmd? c.id = some z ∧ z.state = .acking ∧ z.pos = c.pos + 1 ∧
          z.owed = c.owed + 8 * n ∧ number (s'.team c.team).scr dense n = number s.mem pa n ∧ Only s s' c.team dense n) ∧
      (c.kind = .scatter r → i < recField r 16 8 → Through s (c.core / 4) c.ctx entry pa true → HomeFree s pa n → Memory.wf s.mem = true →
        ∃ s' z, exec (.gatherScatterComplete c.id) s = .next s' ∧ s'.cmd? c.id = some z ∧ z.state = .acking ∧ z.pos = c.pos + 1 ∧
          z.owed = c.owed + 8 * n ∧ number s'.mem pa n = number scr dense n ∧
          (∀ x, (x < pa ∨ pa + n ≤ x) → memGet s'.mem x = memGet s.mem x)))

/-- COLL and COLLECTIVE_COMPLETE (10/R235 to R237, 18/R411) complete: a record within R237's limits issues one command of class COLL, with
the word of its first member served on this device, and one that names no member makes no access; a record that breaks a limit raises
cause 0x51 with no command issued; the members of a collective among clusters meet once each has issued, without an error where their
records agree, with error 7 in each where they differ; a member of a barrier that has met has no more to do; and the block that a
reduce-scatter of N32 by ADD, wrapping, forms from the members' blocks holds the sums of their elements.
Points that the spec leaves open follow the model (log entry 23). -/
def Obligations.Collectives : Prop :=
  ∀ (p : Pre) (sc : Option Scope) (a : Nat) (s s1 : State) (t : Thread) (r : List Byte),
    (let A := srcP 1 a noPerm
     let me := if recField r 1 1 = 1 then s.sys.nodeid.toNat % 2 ^ 16 else t.id.core / 4
     let none_ := (collMembers r).isEmpty
     let w : Option AwRef := if none_ then none else ((collTargets r (memberOf r me)).head?).bind (collWord r s.node)
     Alone s p t → (Instr.coll p sc a).wf = true → s.gate t p .engine [] [A] = none →
     s.recordG p t (s.srcVal t p A) 16 128 = (s1, .ok r) →
     (collFault r me (s.grid (s.team t.team).grid).clusters = true → s1.threads.find? (fun x => x.id == t.id) = some t →
       ∃ s', exec (.coll p sc a) s = .next s' ∧ Trapped s' t 0x51 ∧ s'.cmds = s1.cmds) ∧
     (collFault r me (s.grid (s.team t.team).grid).clusters = false → Engines s1 t → s1.engineFull t .coll 0 = false →
      (∀ x, w = some x → x.addr % 16 = 0 ∧ ∃ pa, Through s1 (t.id.core / 4) (s.grid (s.team t.team).grid).ctx x.addr pa false) →
      ∃ s', exec (.coll p sc a) s = .next s' ∧ Passed s' p t ∧
       Raised s1 s' t .coll (sc.getD .tm) (.coll r (s.srcVal t p A) none (memberOf r me)) w ∧
       ∃ c, s'.cmds = s1.cmds ++ [c] ∧ c.state = (if none_ then .acking else .running))) ∧
    (∀ (c : Cmd) (addr i : Nat) (l : List Cmd),
      s.cmd? c.id = some c → c.going = true → c.kind = .coll r addr none (some i) → recField r 1 1 = 0 → recField r 0 1 ≠ 5 →
      -- one command for each member, all on the record's address, in the order of the members
      l.map some = (List.range (collMembers r).length).map (fun m => s.collAt (s.team c.team).grid addr m) → c ∈ l →
      (∀ x ∈ l, x.err = 0 ∧ ∀ y ∈ s.cmds, y.id = x.id → y = x) →
      ∃ s', exec (.collectiveComplete c.id []) s = .next s' ∧
        ∀ x ∈ l, ∀ q j, x.kind = .coll q addr none j → ∃ z, s'.cmd? x.id = some z ∧ z.kind = .coll q addr (some s.fresh) j ∧
          ((∀ y ∈ l, ∃ m, y.kind = .coll r addr none m) → z.err = 0) ∧
          ((∃ y ∈ l, ∃ b m, y.kind = .coll b addr none m ∧ b ≠ r) → z.err = 7)) ∧
    (∀ (c : Cmd) (addr g i : Nat),
      s.cmd? c.id = some c → c.state = .running → c.paused = false → c.kind = .coll r addr (some g) (some i) → recField r 1 1 = 0 →
      recField r 0 1 = 4 → c.prog = 0 → c.pos = 0 → c.owed = 0 → c.aw = none → s.cmdOpen c.id = false → s.creditDue c.id = false →
      ∃ s' z, exec (.collectiveComplete c.id []) s = .next s' ∧ s'.cmd? c.id = some z ∧ z.state = .acking ∧ z.prog = 1 ∧
        (∀ x, memGet s'.mem x = memGet s.mem x)) ∧
    (∀ (blocks : List (List Byte)) (e : Nat),
      recField r 2 1 = Tag.n32.code → recField r 3 1 = 0 → blocks ≠ [] → (∀ b ∈ blocks, b.length = 256) → e < 64 →
      leNat (((collReduce r blocks).drop (4 * e)).take 4) = (blocks.map fun b => leNat ((b.drop (4 * e)).take 4)).sum % 2 ^ 32)

/-- DECODE, DECQ, DECODE_UNIT_OUTPUT and BUDGET_PERIOD (10/R241 to R244, 18/R412, R413, 03/R67, R68): a record within R241's
limits joins the shorter queue of its panel's two engines; DECQ's word tells a queued record of it, and is zero of one that no
engine holds; a unit in which an error has been found, earlier in its tile too, that is lost, that lies outside the stream, or that is predicted
from a damaged one is damaged: its written planes are owed to the word at once, it counts as an error for its command and as a unit
for its job; a period's end starts every charge from zero, takes the table's budgets for the slots that the runtime maps live jobs to,
and lets paused commands go on.
Points that the spec leaves open follow the model (log entries 21, 22, 40). -/
def Obligations.Decoding : Prop :=
  ∀ (p : Pre) (sc : Option Scope) (d a : Nat) (s s1 : State) (t : Thread) (r : List Byte),
    let A := srcP 1 a noPerm
    let va := s.srcVal t p A
    let e0 := 2 * (t.id.core / 128)
    let queue := fun (e : Nat) => (s.decQueue e).length
    (let states := (List.range 3).map fun k => if (recField r 21 1).testBit k then s.tsBytes t.team (recField r (32 + k) 1) else []
     Alone s p t → (Instr.decode p sc a).wf = true → s.gate t p .engine [] [A] = none → s.recordG p t va 16 128 = (s1, .ok r) →
     decOk r = true → (∀ k, k < 3 → (recField r 21 1).testBit k = true → s.decStateOk (s.team t.team) r k (tsOf (states.getD k [])) = true) →
     recField r 64 8 < (s.team t.team).scratch → s1.awLossy (.scr t.team (recField r 64 8)) = false →
     Engines s1 t → s1.engineFull t .dec 0 = false → (queue e0 < 32 ∨ queue (e0 + 1) < 32) →
     WordFine s1 t (some { scr := true, addr := recField r 64 8 }) →
     ∃ s', exec (.decode p sc a) s = .next s' ∧ Passed s' p t ∧
       Raised s1 s' t .dec (sc.getD .tm) (.decode r states va (if queue (e0 + 1) < queue e0 then e0 + 1 else e0))
         (some { scr := true, addr := recField r 64 8 })) ∧
    (Alone s p t → Executes s p .engine [dst d true] [A] t → (Instr.decq p d a).wf = true →
      ∃ s' v, exec (.decq p d a) s = .next s' ∧ Passed s' p t ∧ Pending s' p t (cells true d v .n64) 0#6 ∧
        ((∀ c ∈ s.cmds, ∀ q l x e, c.kind = .decode q l x e → x ≠ va) → v = 0) ∧
        (∀ (c : Cmd) (q : List Byte) (l : List (List Byte)), (s.decQueue e0).find? (fun x => x.ctx == (s.grid (s.team t.team).grid).ctx &&
              (match x.kind with | .decode _ _ y _ => y == va | _ => false)) = some c → c.kind = .decode q l va e0 → queue e0 ≤ 32 →
          t.id.core < 1024 → c.status < 4 →
          v % 2 ^ 8 = 32 - queue e0 ∧ v / 2 ^ 8 % 2 ^ 8 = e0 % 2 ^ 8 ∧
          (c.state = .queued → v / 2 ^ 16 % 2 ^ 16 = 3) ∧ v / 2 ^ 32 % 2 ^ 16 = min c.errcnt 65535 ∧ v / 2 ^ 48 = min c.frames 65535)) ∧
    (∀ (u : DecodedUnit) (c : Cmd) (states : List (List Byte)) (b0 b2 b3 : List Byte) (addr n e : Nat) (s0 s2 s3 : State),
      let per := decCols r * decRows r
      s.decNext e u = some (c, r, states, addr, n) → s.replays (s.team c.team).grid = false →
      (u.error = true ∨ u.lost = true ∨ (c.prog = 0 ∧ u.outside = true) ∨
        (∃ x ∈ c.snap, x.n / per = n / per ∧ x.scale = u.tile ∧ x.v.testBit 1 = true) ∨
        ∃ f ∈ u.refs, ∃ x ∈ c.snap, x.n = decIndex r f.1 f.2.1 f.2.2 ∧ x.v.testBit 0 = true) →
      s.decRead c r = (s0, .ok b0) → s0.decPlanesGo c r states u true [0, 1, 2] = (s2, .ok b2) →
      -- neither the frame nor the batch ends with this unit
      (c.snap.filter fun x => x.n / per == n / per).length + 1 < per → c.snap.length + 1 < per * recField r 16 4 →
      s2.engWrites c [(addr + 88, leBytes 4 (c.errcnt + 1)), (addr + 92, leBytes 4 c.frames)] = (s3, .ok b3) →
      s3.cmd? c.id = some c → (∀ (w : Nat) (x : Cmd), c.aw = some { scr := true, addr := w } → fld s.sys.budcfg 0 1 = 0 → s3.sys = s.sys →
      (s3.chargesOf c.ctx (s3.jobOf c)).length = 4 → (s3.grid (s3.team c.team).grid).capture = false →
      s3.cmdOpen c.id = false → s3.creditDue c.id = false → (s3.decOwe c r states u).cmd? c.id = some x →
      ∃ s' z, exec (.decodeUnitOutput e u) s = .next s' ∧ s'.cmd? c.id = some z ∧ z.errcnt = c.errcnt + 1 ∧ z.frames = c.frames ∧
        z.prog = c.prog + 1 ∧ z.state = .running ∧ z.status = (if decOutside c u then 2 else c.status) ∧
        (∃ m, z.snap = c.snap ++ [m] ∧ m.n = n ∧ m.scale = u.tile ∧ m.v.testBit 0 = true) ∧ z.owed = 0 ∧ z.sent = [] ∧
        s'.agenda = s3.agenda ++ [.arrivalCredit (.scr c.team w) x.owedBytes c.id] ∧
        (s'.chargesOf c.ctx (s3.jobOf c)).getD 3 0 = (s3.chargesOf c.ctx (s3.jobOf c)).getD 3 0 + 1)) ∧
    (∃ s', exec .budgetPeriod s = .next s' ∧ s'.charges = [] ∧ s'.periodStart = s.time.ns ∧ (∀ c ∈ s'.cmds, c.paused = false) ∧
      (∀ j ∈ s'.slots, ∃ g ∈ s.grids, g.status = none ∧ g.ctx = j.ctx ∧ g.job = j.job) ∧
      (∀ j ∈ s'.slots, (j.slot, (List.range 4).map fun i => number s.mem (fld s.sys.budcfg 13 39 * 8192 + 32 * j.slot + 8 * i) 8) ∈ s'.budgets) ∧
      s' = { s with charges := s'.charges, budgets := s'.budgets, periodStart := s'.periodStart, cmds := s'.cmds, slots := s'.slots })

/-! ## Matrix registers (09, 08/R196 to R201, 18/R401 to R410) -/

namespace Sys2Proof.Claim

/-- The instructions of 18/R405 and R406 that enter the matrix queue as they are. -/
inductive MatIns where
  | mlrmul (d a b : Nat) | mlradd (d a : Nat) | mdense (d : Nat) | mzero (d : Nat) | mcopy (d a : Nat) | mswap (d a : Nat)
  | mclrs (d mask : Nat) | mpol (d : Nat) (densify nvt : Bool)

/-- The instruction. -/
def MatIns.instr (o : MatIns) (p : Pre) : Instr :=
  match o with
  | .mlrmul d a b => .mlrmul p d a b | .mlradd d a => .mlradd p d a | .mdense d => .mdense p d | .mzero d => .mzero p d
  | .mcopy d a => .mcopy p d a | .mswap d a => .mswap p d a | .mclrs d m => .mclrs p d m | .mpol d x y => .mpol p d x y
/-- What it enters. -/
def MatIns.kind (o : MatIns) : MOpKind :=
  match o with
  | .mlrmul d a b => .mlrmul d a b | .mlradd d a => .mlradd d a | .mdense d => .mdense d | .mzero d => .mzero d
  | .mcopy d a => .mcopy d a | .mswap d a => .mswap d a | .mclrs d m => .mclrs d m | .mpol d x y => .mpol d x y

/-- The queue of the team's core has gained one operation at its end, and stands in the group's MAT counter (09/R217, R218). -/
def Entered (s s' : State) (t : Thread) (kind : MOpKind) : Prop :=
  let core := (s.team t.team).core
  let gi := (s.team t.team).slots.findIdx fun x => x == t.id.slot
  (∃ q, (s'.core core).mqueue = (s.core core).mqueue ++ [q] ∧ q.team = t.team ∧ q.kind = kind ∧ ∃ k, (gi, k) ∈ q.falls)

end Sys2Proof.Claim

/-- MLRMUL, MLRADD, MDENSE, MZERO, MCOPY, MSWAP, MCLRS, MPOL and MRECOMP (09/R209, R210, R217, R218; 18/R405, R406): an operation
that its entry check passes enters the team's queue, its group's MAT counter is one greater, and the thread goes on; one that the
check fails traps with the check's cause; `MRECOMP.SET` writes the team's tolerance.
Points that the spec leaves open follow the model (log entries 19, 20, 27). -/
def Obligations.MatrixQueue : Prop :=
  ∀ (o : MatIns) (p : Pre) (set : Bool) (d a : Nat) (s : State) (t : Thread),
    let gi := (s.team t.team).slots.findIdx fun x => x == t.id.slot
    let count := fun (x : State) => (x.group t.team gi).ctr.getD 3 0
    Alone s p t → Engines s t → s.engineFull t .mat 0 = false →
    ((o.instr p).wf = true → s.preGate t .matrix [] [] = none → s.mwaits t.team o.kind = false →
      (s.mcheck t.team o.kind = none →
        ∃ s', exec (o.instr p) s = .next s' ∧ Passed s' p t ∧ Entered s s' t o.kind ∧ count s' = count s + 1 ∧
          (s'.team t.team).mregs = (s.team t.team).mregs) ∧
      (∀ c e, s.mcheck t.team o.kind = some (c, e) → ∃ s', exec (o.instr p) s = .next s' ∧ Trapped s' t c ∧ Apart s s' (s.actors p))) ∧
    (let A := srcT 1 a noPerm .f32
     let tol := if set then BitVec.ofNat 32 (s.srcVal t p A) else (s.team t.team).tol
     (Instr.mrecomp p set d a).wf = true → s.gate t p .matrix [] (if set then [A] else []) = none →
     s.mwaits t.team (.mrecomp d tol) = false → s.mcheck t.team (.mrecomp d tol) = none →
     ∃ s', exec (.mrecomp p set d a) s = .next s' ∧ Passed s' p t ∧ Entered s s' t (.mrecomp d tol) ∧ count s' = count s + 1 ∧
       (s'.team t.team).tol = tol)

/-- TKSET, MMA and MLRU (09/R214 to R216; 18/R402 to R404, R410): TKSET configures a tack register and discards its captures; a
member's tack captures its registers in operand order, and with the last member's the operation enters the queue with every
capture; a thread that is no member traps with 0x43. -/
def Obligations.Tacks : Prop :=
  ∀ (p : Pre) (ap sat : Bool) (fmt : Tag) (d a b tk sa sb g n m : Nat) (s : State) (t : Thread),
    let gi := (s.team t.team).slots.findIdx fun x => x == t.id.slot
    let idx := 32 * gi + t.id.lane
    Alone s p t → Engines s t → s.engineFull t .mat 0 = false → (s.team t.team).tacks.length = 16 →
    ((Instr.tkset p d g n).wf = true → s.preGate t .matrix [] [] = none → (n = 0 ∨ g + (n + 31) / 32 ≤ (s.team t.team).groups.length) →
      ∃ s', exec (.tkset p d g n) s = .next s' ∧ Passed s' p t ∧
        (s'.team t.team).tacks.getD d Tack.reset = { g := g, n := n, op := none, caps := [], cmds := [] } ∧
        (∀ k, k ≠ d → (s'.team t.team).tacks.getD k Tack.reset = (s.team t.team).tacks.getD k Tack.reset)) ∧
    (let x := (s.team t.team).tacks.getD tk Tack.reset
     let scale := if fmt = .xb8 then 1 else if fmt = .xb4 then 2 else 0
     let A8 := srcN 1 a 8 (some fmt)
     let B8 := srcN 2 b 8 (some fmt)
     let srcs := [A8, B8] ++ if scale = 0 then [] else [srcN 1 sa scale (some .xsc), srcN 2 sb scale (some .xsc)]
     let regs := fun (l : List Src) => l.flatMap fun y => (List.range y.c).map fun i => (s.srcReg t p y i).1
     let inner := fun (lru : Bool) (z : TackOp) => z.lru = lru ∧ z.d = d ∧ z.w0 = s.irW0 ∧ z.w1 = s.irW1
     -- the thread's team index lies in the tack's member range, and the member has not tacked
     let member := 32 * x.g ≤ idx ∧ idx < 32 * x.g + x.n ∧ m = idx - 32 * x.g ∧ (∀ c ∈ x.caps, c.m ≠ m) ∧
       (∀ q, x.op = some q → q.w0 = s.irW0 ∧ q.w1 = s.irW1)
     ((Instr.mma p ap fmt sat d a b tk sa sb).wf = true → s.gate t p .matrix [] srcs = none →
       (¬(32 * x.g ≤ idx ∧ idx < 32 * x.g + x.n) →
         ∃ s', exec (.mma p ap fmt sat d a b tk sa sb) s = .next s' ∧ Trapped s' t 0x43 ∧ Apart s s' (s.actors p)) ∧
       (member → s.allTacked t.team x (some m) = false →
         ∃ s' z, exec (.mma p ap fmt sat d a b tk sa sb) s = .next s' ∧ Passed s' p t ∧
           ((s'.team t.team).tacks.getD tk Tack.reset).caps = x.caps ++ [{ m := m, regs := regs srcs }] ∧
           ((s'.team t.team).tacks.getD tk Tack.reset).op = some z ∧ inner false z ∧ z.ap = ap ∧ z.fmt = fmt ∧ z.sat = sat ∧
           (s'.core (s.team t.team).core).mqueue = (s.core (s.team t.team).core).mqueue) ∧
       (let kind : MOpKind := .mma ap fmt sat d (x.caps ++ [{ m := m, regs := regs srcs }])
        member → s.allTacked t.team x (some m) = true → s.mwaits t.team kind = false → s.mcheck t.team kind = none →
         ∃ s', exec (.mma p ap fmt sat d a b tk sa sb) s = .next s' ∧ Passed s' p t ∧ Entered s s' t kind ∧
           ((s'.team t.team).tacks.getD tk Tack.reset).op = none ∧ ((s'.team t.team).tacks.getD tk Tack.reset).caps = [])) ∧
     (let two := [srcN 1 a 1 (some .f32), srcN 2 b 1 (some .f32)]
      (Instr.mlru p d a b tk).wf = true → s.gate t p .matrix [] two = none →
       (member → s.allTacked t.team x (some m) = false →
         ∃ s' z, exec (.mlru p d a b tk) s = .next s' ∧ Passed s' p t ∧
           ((s'.team t.team).tacks.getD tk Tack.reset).caps = x.caps ++ [{ m := m, regs := regs two }] ∧
           ((s'.team t.team).tacks.getD tk Tack.reset).op = some z ∧ inner true z) ∧
       (let kind : MOpKind := .mlru d (x.caps ++ [{ m := m, regs := regs two }])
        member → s.allTacked t.team x (some m) = true → s.mwaits t.team kind = false → s.mcheck t.team kind = none →
         ∃ s', exec (.mlru p d a b tk) s = .next s' ∧ Passed s' p t ∧ Entered s s' t kind)))

namespace Sys2Proof.Claim

/-- The element at row i and column j of a dense tile: index 64i + j (09/R204). -/
def tileAt (m : MReg) (i j : Nat) : Nat := ((m.dense.find? fun x => x.1 == 64 * i + j).map (·.2.toNat)).getD 0

/-- A matrix register holds what its form says (09/R203, R204): a dense tile's nonzero elements in rising order of index, or up
to 32 columns of U and rows of V, each of 64. -/
def MatOk (m : MReg) : Prop :=
  match m.form with
  | .empty => m.us = [] ∧ m.vs = [] ∧ m.dense = []
  | .dense => (m.dense.map (·.1)).Pairwise (· < ·) ∧ ∀ x ∈ m.dense, x.1 < 4096
  | .factor => m.us.length = m.vs.length ∧ 0 < m.us.length ∧ m.us.length ≤ 32 ∧ (∀ u ∈ m.us, u.length = 64) ∧ ∀ v ∈ m.vs, v.length = 64

/-- The word that MSTAT delivers (09/R203): the units held, the rank, the tag, the form, and the policy and status bits. -/
def statusWord (m : MReg) : Nat :=
  let bit := fun (x : Bool) (k : Nat) => if x then 2 ^ k else 0
  (match m.form with
    | .empty => 0
    | .dense => 32 * 2 ^ 26 + m.tag.code * 2 ^ 16 + 2 ^ 14
    | .factor => m.us.length * 2 ^ 26 + m.us.length * 2 ^ 20 + m.tag.code * 2 ^ 16 + 2 * 2 ^ 14) +
  bit m.nvt 9 + bit m.policy 8 + bit m.inx 4 + bit m.rko 3 + bit m.nv 2 + bit m.sat 1 + bit m.ov 0

/-- The status bits that an operation leaves alone (09/R203). -/
def SameStatus (m n : MReg) : Prop :=
  n.inx = m.inx ∧ n.rko = m.rko ∧ n.nv = m.nv ∧ n.sat = m.sat ∧ n.ov = m.ov

end Sys2Proof.Claim

/-- MATRIX_OP_COMPLETE (09/R203 to R213, 08/R196, R197): the next operation of a core's queue leaves it and takes effect on its
destination alone; an empty register is emptied with its status kept, a copy keeps POLICY and NVT, a clear clears the bits of its
mask, a densified pair is the product of its columns and rows by fma ascending from +0, integer tiles add and multiply modulo 2^32,
and ranks are appended in order. -/
def Obligations.MatrixResults : Prop :=
  ∀ (core : Nat) (s : State) (q : MOp),
    let R := fun (x : State) (m : Nat) => (x.team q.team).mregs.getD m MReg.reset
    s.mNext core = some q → (s.team q.team).mregs.length = 16 → (s.teams.find? fun x => x.id == q.team).isSome = true →
    (∃ t ∈ s.threads, t.team = q.team ∧ t.live = true) → (∀ m, MatOk (R s m)) →
    ((∀ c d, q.kind ≠ .drain c d) → (∀ c d, q.kind ≠ .spill c d) → (∀ c d ty, q.kind ≠ .fill c d ty) →
      ∃ s', exec (.matrixOpComplete core) s = .next s' ∧ (∀ x, x ∈ (s'.core core).mqueue ↔ x ∈ (s.core core).mqueue ∧ x.id ≠ q.id) ∧
        (∀ m, m ∉ q.kind.regs → R s' m = R s m) ∧ (∀ a, memGet s'.mem a = memGet s.mem a) ∧
        (∀ d, d < 16 → q.kind = .mzero d → (R s' d).form = .empty ∧ SameStatus (R s d) (R s' d)) ∧
        (∀ d a, d < 16 → q.kind = .mcopy d a → R s' d = { R s a with policy := (R s d).policy, nvt := (R s d).nvt }) ∧
        (∀ d a, d < 16 → a < 16 → d ≠ a → q.kind = .mswap d a → R s' d = { R s a with policy := (R s d).policy, nvt := (R s d).nvt } ∧
          R s' a = { R s d with policy := (R s a).policy, nvt := (R s a).nvt }) ∧
        (∀ d mask, d < 16 → q.kind = .mclrs d mask → R s' d = { R s d with
          inx := (R s d).inx && !mask.testBit 4, rko := (R s d).rko && !mask.testBit 3, nv := (R s d).nv && !mask.testBit 2,
          sat := (R s d).sat && !mask.testBit 1, ov := (R s d).ov && !mask.testBit 0 }) ∧
        (∀ d x y, d < 16 → q.kind = .mpol d x y → R s' d = { R s d with policy := x, nvt := y }) ∧
        (∀ d, d < 16 → q.kind = .mdense d → (R s d).form = .factor → (R s' d).form = .dense ∧ (R s' d).tag = .f32 ∧
          ∀ i j, i < 64 → j < 64 → tileAt (R s' d) i j =
            ((((R s d).us.map fun u => (u.getD i 0#32).toNat).zip ((R s d).vs.map fun v => (v.getD j 0#32).toNat)).foldl
              (fun z x => (ffmaVal f32 .rne 0 (fdecode f32 x.1) (fdecode f32 x.2) (fdecode f32 z)).1) 0)) ∧
        (∀ d a, d < 16 → q.kind = .mlradd d a → (R s d).form = .factor → (R s a).form = .factor → (R s d).us.length + (R s a).us.length ≤ 32 →
          (R s' d).form = .factor ∧ (R s' d).us = (R s d).us ++ (R s a).us ∧ (R s' d).vs = (R s d).vs ++ (R s a).vs ∧
          SameStatus (R s d) (R s' d)) ∧
        (∀ d a, d < 16 → q.kind = .mlradd d a → (R s d).form = .dense → (R s a).form = .dense → (R s d).tag = .s32 → (R s a).tag = .s32 →
          (R s' d).form = .dense ∧ (R s' d).tag = .s32 ∧ SameStatus (R s d) (R s' d) ∧
          ∀ i j, i < 64 → j < 64 → tileAt (R s' d) i j = (tileAt (R s d) i j + tileAt (R s a) i j) % 2 ^ 32) ∧
        (∀ d a b, d < 16 → q.kind = .mlrmul d a b → (R s a).form = .factor → (R s b).form = .dense → (R s b).tag = .f32 →
          (R s' d).form = .factor ∧ (R s' d).us = (R s a).us ∧
          ∀ k j, k < (R s a).us.length → j < 64 → (((R s' d).vs.getD k []).getD j 0#32).toNat =
            (List.range 64).foldl (fun z i => (ffmaVal f32 .rne 0 (fdecode f32 (((R s a).vs.getD k []).getD i 0#32).toNat)
              (fdecode f32 (tileAt (R s b) i j)) (fdecode f32 z)).1) 0) ∧
        (∀ d caps, d < 16 → q.kind = .mlru d caps → (R s d).form ≠ .dense → (R s d).us.length < 32 →
          (R s' d).form = .factor ∧ (R s' d).us.length = (R s d).us.length + 1 ∧ SameStatus (R s d) (R s' d) ∧
          (∀ k, k < (R s d).us.length → (R s' d).us.getD k [] = (R s d).us.getD k [] ∧ (R s' d).vs.getD k [] = (R s d).vs.getD k []) ∧
          ∀ i, i < 64 → ((R s' d).us.getD (R s d).us.length []).getD i 0#32 =
            ((caps.find? fun c => c.m == i).map fun c => c.regs.getD 0 0#32).getD 0#32) ∧
        (∀ d sat caps, d < 16 → q.kind = .mma false .s8 sat d caps → (R s d).form = .dense → (R s d).tag = .s32 → sat = false →
          (R s' d).form = .dense ∧ (R s' d).tag = .s32 ∧
          (let byte := fun (col i k : Nat) => match caps.find? fun c => c.m == i with
             | none => 0
             | some c => element .s8 (k % 4) (c.regs.getD (8 * col + k / 4) 0#32).toNat
           ∀ i j, i < 64 → j < 64 → (tileAt (R s' d) i j : Int) =
            ((tileAt (R s d) i j : Int) + ((List.range 32).map fun k => byte 0 i k * byte 1 j k).sum) % 2 ^ 32)))

/-- MSTAT, MDRAIN, MFILL and MSPILL (09/R203, R219, R220; 18/R407 to R409): MSTAT delivers the register's word once the earlier
operations on it are done; a transfer issues one COPY command with a turn in the queue; a fill's turn makes the register dense
with the image's elements, and a spill writes the tile's elements to the image.
Points that the spec leaves open follow the model (log entries 13, 28, 94). -/
def Obligations.MatrixTransfers : Prop :=
  ∀ (p : Pre) (add ssp : Bool) (ty : Tag) (sc : Option Scope) (d a b : Nat) (off : Int) (s : State) (t : Thread),
    let core := (s.team t.team).core
    (Alone s p t →
      ((Instr.mstat p d a).wf = true → s.gate t p .matrix [dst d false] [] = none →
        ∃ s' o, exec (.mstat p d a) s = .next s' ∧ Passed s' p t ∧ s'.ops = s.ops ++ [o] ∧ o.tid = t.id ∧ o.depth = t.depth ∧
          o.flag = t.flagOf p.fs ∧ o.writes = cells false d 0 .n32 ∧ o.src = .matrix a s.fresh ∧ (∀ x, memGet s'.mem x = memGet s.mem x)) ∧
      (Engines s t →
        (let B := if ssp then srcR 2 b noPerm else srcP 2 b noPerm
         let e := (s.srcVal t p B : Int) + off
         let w : Option AwRef := if b = 255 then none else some { scr := true, addr := e.toNat }
         let shape := s.tsBytes t.team a
         (Instr.mdrain p add ssp sc d a b off).wf = true → s.preGate t .matrix [] (if b = 255 then [] else [B]) = none →
         s.mwaits t.team (.drain 0 d) = false → s.shapeFault (s.team t.team) (tsOf shape) (mshapeAt (s.projected t.team).1 d) = none →
         s.mcheck t.team (.drain 0 d) = none → s.engineFull t .copy 1 = false → (b ≠ 255 → ssp = true ∧ 0 ≤ e) →
         (∀ x, w = some x → 16384 ≤ x.addr ∧ x.addr + 8 ≤ (s.team t.team).scratch ∧ x.addr % 8 = 0) →
         ∃ s', exec (.mdrain p add ssp sc d a b off) s = .next s' ∧ Passed s' p t ∧ Raised s s' t .copy (sc.getD .tm) (.mdrain shape add d) w ∧
           ∃ q, (s'.core core).mqueue = (s.core core).mqueue ++ [q] ∧ q.team = t.team ∧ q.kind = .drain s.fresh d) ∧
        (let o := (s.srcVal t p (srcR 1 a noPerm) : Int) + off
         s.preGate t .matrix [] [srcR 1 a noPerm] = none → 16384 ≤ o → o + 16384 ≤ ((s.team t.team).scratch : Int) → o % 128 = 0 →
         s.engineFull t .copy 1 = false →
         ((Instr.mfill p ty d a off).wf = true → s.mwaits t.team (.fill 0 d ty) = false → s.mcheck t.team (.fill 0 d ty) = none →
           ∃ s', exec (.mfill p ty d a off) s = .next s' ∧ Passed s' p t ∧ Raised s s' t .copy .tm (.mfill d o.toNat ty) none ∧
             ∃ q, (s'.core core).mqueue = (s.core core).mqueue ++ [q] ∧ q.team = t.team ∧ q.kind = .fill s.fresh d ty) ∧
         ((Instr.mspill p d a off).wf = true → s.mwaits t.team (.spill 0 d) = false → s.mcheck t.team (.spill 0 d) = none →
           ∃ s', exec (.mspill p d a off) s = .next s' ∧ Passed s' p t ∧ Raised s s' t .copy .tm (.mspill d o.toNat) none ∧
             ∃ q, (s'.core core).mqueue = (s.core core).mqueue ++ [q] ∧ q.team = t.team ∧ q.kind = .spill s.fresh d)))) ∧
    (∀ (o : LongOp) (k : Nat), Listed s t → t.run ≠ .exited → (s.team t.team).image = none → s.ops.find? (fun x => x.id == o.id) = some o →
      o.tid = t.id → o.depth = t.depth → o.dead = false → o.acc = none → o.astat = 0#6 → o.src = .matrix a k → a < 16 →
      o.writes = cells false d 0 .n32 → s.mqBusy t.id.core t.team a k = false → (s.team t.team).mregs.length = 16 →
      ∃ s', exec (.longLatencyComplete o.id) s = .next s' ∧ Apart s { s' with ops := s.ops } [t.id] ∧ (∀ x ∈ s'.ops, x.id ≠ o.id) ∧
        ∀ n, (s'.thread t.id).reg n = regAfter t (cells false d (statusWord ((s.team t.team).mregs.getD a MReg.reset)) .n32) n) ∧
    (∀ (c : Cmd) (q : MOp) (n k : Nat), s.cmd? c.id = some c → c.cls = .copy → c.paused = false → fld s.sys.budcfg 0 1 = 0 → c.err = 0 →
      (s.team c.team).state = .resident → (s.team c.team).mregs.length = 16 → (s.team c.team).scrBad = [] → d < 16 →
      (c.kind = .mfill d n ty → c.state = .queued → c.pos = 0 → c.snap = [] → s.mNext k = some q → q.team = c.team → q.kind = .fill c.id d ty →
        ∃ s' z, exec (.matrixOpComplete k) s = .next s' ∧ s'.cmd? c.id = some z ∧ z.state = .acking ∧ (∀ x ∈ (s'.core k).mqueue, x.id ≠ q.id) ∧
          (let m := (s'.team c.team).mregs.getD d MReg.reset
           m.form = .dense ∧ m.tag = ty ∧ SameStatus ((s.team c.team).mregs.getD d MReg.reset) m ∧
           ∀ i j, i < 64 → j < 64 → tileAt m i j = number (s.team c.team).scr (n + 256 * i + 4 * j) 4)) ∧
      (c.kind = .mspill d n → c.state = .queued → MatOk ((s.team c.team).mregs.getD d MReg.reset) →
        ((s.team c.team).mregs.getD d MReg.reset).form = .dense → s.mNext k = some q → q.team = c.team → q.kind = .spill c.id d →
        ∃ s' z, exec (.matrixOpComplete k) s = .next s' ∧ s'.cmd? c.id = some z ∧ z.state = .running ∧ z.snap.length = 4096 ∧
          ∀ i j, i < 64 → j < 64 → ((z.snap.map UnitVal.v).getD (64 * i + j) 0) = tileAt ((s.team c.team).mregs.getD d MReg.reset) i j) ∧
      (c.kind = .mspill d n → c.state = .running → c.pos = 0 → c.snap.length = 4096 → Memory.wf (s.team c.team).scr = true →
        ∃ s' z, exec (.engineCommandFinish c.id) s = .next s' ∧ s'.cmd? c.id = some z ∧ z.state = .acking ∧ Only s s' c.team n 16384 ∧
          ∀ e, e < 4096 → number (s'.team c.team).scr (n + 4 * e) 4 = ((c.snap.map UnitVal.v).getD e 0) % 2 ^ 32))

/-! ## System registers, traps, handlers and the operand window (12, 19) -/

namespace Sys2Proof.Claim

/-- A system register in the view of levels U and E (19/R416): the registers of the thread's context, its job and team, the
device's FEATURES and its own ASTAT; a register of the S view alone reads as zero. -/
def sysValue (s : State) (t : Thread) (n : Nat) : Nat :=
  let tm := s.team t.team
  let g := s.grid tm.grid
  let c := s.ctx g.ctx
  let used := ((s.charges.find? fun x => x.ctx == g.ctx && x.job == g.job).map (·.amt)).getD [0, 0, 0, 0]
  if n = 0x080 then t.astat.toNat
  else if n = 0x090 then c.trapvec.toNat
  else if n = 0x091 then c.emuvec.toNat
  else if n = 0x092 then c.trapfrm.toNat
  else if n = 0x050 then c.spawncfg.toNat
  else if n = 0x060 then c.wincfg.toNat
  else if n = 0x062 then c.privwin.toNat
  else if n = 0x046 then s.sys.features.toNat
  else if n = 0x051 then min 65535 tm.restarts * 2 ^ 16 + (if tm.idem then 2 else 0) + (if tm.sfx then 1 else 0)
  else if n = 0x040 then
    g.ctx * 2 ^ 52 + (match s.slots.find? fun x => x.ctx == g.ctx && x.job == g.job with
      | some x => x.slot % 256 * 2 ^ 44 + 2 ^ 32 | none => 0) + g.part * 2 ^ 38 + g.job
  else if n = 0x041 then
    min 65535 (used.getD 3 0) * 2 ^ 48 + min 65535 (used.getD 2 0 / 4096) * 2 ^ 32 + min 65535 (used.getD 1 0 / 4096) * 2 ^ 16 +
      min 65535 (used.getD 0 0 / 4096)
  else 0

/-- Neither captured nor replayed (03/R73, R74). -/
def Uncaptured (s : State) (t : Thread) : Prop :=
  (s.grid (s.team t.team).grid).capture = false ∧ ((s.grid (s.team t.team).grid).determ = false ∨ s.sys.capcfg.getLsbD 1 = false)

end Sys2Proof.Claim

/-- SRD, SWR, CLOCK and PERFQ (19/R415 to R417, R425, R426): a read delivers the register in the view of the thread; ASTAT's bits
written as 1 are cleared, and a write of any other register is the privilege trap; the clocks and the counters are read as they
stand, and a counter that is cleared counts from zero.
Points that the spec leaves open follow the model (log entries 48, 86). -/
def Obligations.SpecialRegisters : Prop :=
  ∀ (p : Pre) (cyc clr : Bool) (n d a sel : Nat) (s : State) (t : Thread),
    (Executes s p .any [dst d true] [] t → (Instr.srd p n d).wf = true →
      ∃ s', exec (.srd p n d) s = .next s' ∧ Wrote s' p t (cells true d (sysValue s t n) .n64) 0#6 ∧ Apart s s' (s.actors p)) ∧
    (Alone s p t → (Instr.swr p n a).wf = true → n ≠ 0x080 →
      ∃ s', exec (.swr p n a) s = .next s' ∧ Trapped s' t 0x06 ∧ Apart s s' (s.actors p)) ∧
    (let A := srcP 1 a noPerm
     Alone s p t → (Instr.swr p 0x080 a).wf = true → s.gate t p .any [] [A] = none →
      ∃ s', exec (.swr p 0x080 a) s = .next s' ∧ Apart s s' (s.actors p) ∧
        (∀ i, i < 6 → (s'.thread t.id).astat.getLsbD i = (t.astat.getLsbD i && !(s.srcVal t p A).testBit i)) ∧
        (∀ r, (s'.thread t.id).reg r = t.reg r) ∧ (s'.thread t.id).pc = t.pc + p.len.bytes ∧ (s'.thread t.id).run = .ready ∧
        (s'.thread t.id).clause = nextClause t.clause ∧ SameRest t (s'.thread t.id)) ∧
    (Alone s p t → Uncaptured s t → s.gate t p .any [dst d true] [] = none →
      ((Instr.clock p cyc d).wf = true → ∃ s', exec (.clock p cyc d) s = .next s' ∧ Apart s s' (s.actors p) ∧
        Wrote s' p t (cells true d ((if cyc then s.time.cyc else s.time.ns) % 2 ^ 64) .n64) 0#6) ∧
      ((Instr.perfq p clr d sel).wf = true → t.perf.length = 5 → ∃ s', exec (.perfq p clr d sel) s = .next s' ∧
        Wrote s' p t (cells true d (s.perfOf t sel % 2 ^ 64) .n64) 0#6 ∧ (∀ x, memGet s'.mem x = memGet s.mem x) ∧
        (clr = false → Apart s s' (s.actors p)) ∧
        (clr = true → sel ≠ 0 → sel < 5 → (s'.thread t.id).perf.getD sel 1 = 0) ∧
        (clr = true → 8 ≤ sel → sel < 15 → (s.team t.team).state = .resident →
          let gi := (s.team t.team).slots.findIdx fun x => x == t.id.slot
          gi < (s.team t.team).groups.length → (s.group t.team gi).perf.length = 7 → (s'.group t.team gi).perf.getD (sel - 8) 1 = 0)))

/-- The checks before an instruction's effect (12/R267, 04/R80, 05/R113, 08/R199, R200, 14/R313, 19/R414), on FADD and ERET: a
guard that fails changes nothing; outside the roles of its row an instruction traps with 0x07, a register at or above NR is 0x08,
an operand of another format 0x30, one tagged FOREIGN 0x31, and an instruction of level E at level U 0x06.
Points that the spec leaves open follow the model (log entries 17, 52). -/
def Obligations.ChecksAndGuards : Prop :=
  ∀ (p : Pre) (rnd : Rnd) (d a b : Nat) (s : State) (t : Thread),
    (permuted p = false → Listed s t → t.id ∈ s.issue → s.guard t p = .ok false → (Instr.fadd p rnd d a b 0).wf = true →
      ∃ s', exec (.fadd p rnd d a b 0) s = .next s' ∧ Passed s' p t ∧ Apart s s' (s.actors p)) ∧
    (permuted p = false → Issues s p t → rnd ≠ .sr → (Instr.fadd p rnd d a b 0).wf = true →
      let traps := fun c => ∃ s', exec (.fadd p rnd d a b 0) s = .next s' ∧ Trapped s' t c ∧ Apart s s' (s.actors p)
      let inRange := fun n => n = 255 ∨ n < s.nrOf t
      ((t.depth = 0 ∧ ((s.roleOf t).kind = 1 ∨ (s.roleOf t).kind = 2)) → traps 0x07) ∧
      ((0 < t.depth ∨ (s.roleOf t).kind = 3 ∨ (s.roleOf t).kind = 4) →
        (¬inRange d ∨ ¬inRange a ∨ ¬inRange b → traps 0x08) ∧
        (inRange d → inRange a → inRange b → s.writePending t d = false →
          let ta := (s.readReg t a).2
          let tb := (s.readReg t b).2
          let good := fun (x : Tag) => x = .raw ∨ x = .f32
          ((¬good ta ∧ ta ≠ .foreign ∨ ¬good tb ∧ tb ≠ .foreign) → traps 0x30) ∧
          (((ta = .foreign ∧ (good tb ∨ tb = .foreign)) ∨ (tb = .foreign ∧ good ta)) → traps 0x31)))) ∧
    (Alone s p t → (Instr.eret p).wf = true → t.depth = 0 → ∃ s', exec (.eret p) s = .next s' ∧ Trapped s' t 0x06 ∧ Apart s s' (s.actors p))

namespace Sys2Proof.Claim

/-- The frame of a thread at a depth lies in a writable LOCAL page that bypasses the L1, from a physical address on, and its
lines are free and good (12/R270). -/
structure FrameOpen (s : State) (t : Thread) (d pa : Nat) : Prop where
  through : ∀ k, k < 8192 → Through s (t.id.core / 4) (s.grid (s.team t.team).grid).ctx
    ((s.ctx (s.grid (s.team t.team).grid).ctx).trapfrm.toNat / 2 ^ 30 % 2 ^ 25 * 2 ^ 30 + ((t.id.core * 64 + t.id.slot) * 2 + (d - 1)) * 8192 + k)
    (pa + k) true
  aligned : pa % 8192 = 0
  upd : s.upd = []
  det : s.l2.det = []
  l1 : s.l1 = []
  good : ∀ k, k < 8192 → s.lineBad ((pa + k) / 128) = false
  form : Memory.wf s.mem = true
  lane : t.id.lane < 32

/-- The places of a lane in its frame column (12/R270, R271): register n, its tag nibble, the flag mask, the status, ow k. -/
def regAt (t : Thread) (pa n : Nat) : Nat := pa + 128 * n + 4 * t.id.lane
def tagAt (m : Memory) (t : Thread) (pa n : Nat) : Nat := (memGet m (pa + 2048 + 16 * n + t.id.lane / 2)).toNat / 16 ^ (t.id.lane % 2) % 16
def maskAt (t : Thread) (pa : Nat) : Nat := pa + 2304 + 4 * t.id.lane
def statAt (t : Thread) (pa : Nat) : Nat := pa + 2432 + 4 * t.id.lane
def owAt (t : Thread) (pa k : Nat) : Nat := pa + 4096 + 128 * k + 4 * t.id.lane

end Sys2Proof.Claim

namespace Sys2Proof.Claim

/-- A number of n bits extended by its sign to 64. -/
def sext (n x : Nat) : Nat := if x.testBit (n - 1) then x + 2 ^ 64 - 2 ^ n else x

/-- The operand window word k of a trap at depth d (12/R271; the fields of an item: 14/R314, R316). -/
def windowWord (r : TrapRec) (d k : Nat) : Nat :=
  let w := fun i => (r.words.getD i 0#32).toNat
  let low := w 0 + 2 ^ 32 * w 1
  let op := low / 4 % 2 ^ 10
  let value := match r.value with
    | some x => x.toNat
    | none => if kindI op then (match r.len with | .l64 => 0 | .l96 => sext 24 (w 2 % 2 ^ 24) | .l128 => sext 32 (w 3)) else 0
  if k < 4 then w k
  else if k = 4 then low / 2 ^ 52 % 2 ^ 12 * 2 ^ 20 + op / 2 ^ 8 * 2 ^ 18 + r.len.code * 2 ^ 16 + (if r.len = .l64 then 0 else w 2 / 2 ^ 27 % 2 ^ 5 * 2 ^ 10) + op
  else if k = 5 then r.pred * 2 ^ 8 + low / 2 ^ 13 % 2 * 2 ^ 7 + low / 2 ^ 14 % 2 * 2 ^ 6 + (if r.guard then 2 ^ 5 else 0) + low / 2 ^ 15 % 2 ^ 5
  else if k = 6 then low / 2 ^ 20 % 2 ^ 8 * 2 ^ 24 + low / 2 ^ 28 % 2 ^ 8 * 2 ^ 16 + low / 2 ^ 36 % 2 ^ 8 * 2 ^ 8 + low / 2 ^ 44 % 2 ^ 8
  else if k = 7 then (if r.len = .l64 ∨ kindI op then 0 else w 2 % 2 ^ 24)
  else if k = 8 then value % 2 ^ 32
  else if k = 9 then value / 2 ^ 32
  else if k = 10 then r.pos * 2 ^ 16 + r.width * 2 ^ 8 + r.size
  else if k = 11 then r.lanes
  else if k = 12 then r.pc % 2 ^ 32
  else if k = 13 then r.pc / 2 ^ 32
  else if k = 14 then r.detail % 2 ^ 16 * 2 ^ 16 + r.cause
  else r.count1 % 2 ^ 5 * 2 ^ 16 + r.idx % 2 ^ 5 * 2 ^ 8 + (if r.logged.isSome then 4 else 0) + d

/-- An offset of a frame in no lane's column (12/R270). -/
def noColumn (o : Nat) : Prop := (2560 ≤ o ∧ o < 4096) ∨ (6144 ≤ o ∧ o < 8192)
/-- An offset of a frame in the column of another lane; a byte of tags is shared by two (12/R270). -/
def otherColumn (t : Thread) (o : Nat) : Prop :=
  o < 8192 ∧ ¬noColumn o ∧
    if 2048 ≤ o ∧ o < 2304 then (o - 2048) % 16 ≠ t.id.lane / 2 else o % 128 / 4 ≠ t.id.lane

end Sys2Proof.Claim

/-- TRAP, HANDLER_ENTRY and ERET (12/R267 to R273; 19/R418, R419) complete: a service number from 0x8000 on raises 0x0D, another 0x05;
entry, of a forwarded service as cause 0x05, saves v0 to v15 with their tags, the pending flags, the status and the sixteen words of the
operand window in the thread's column of its frame, leaves other columns and makes the bytes in no column zero, and the thread goes on at
the vector, one level deeper, with no flag pending and ASTAT zero; the return restores registers, tags, status and flags from the frame and retires a logged
lane, and resumes past the trapped item with NEXT, where the lane was parked if it was logged, and else at ow12 and ow13.
Points that the spec leaves open follow the model (log entries 51, 92, 93, 96). -/
def Obligations.Exceptions : Prop :=
  ∀ (p : Pre) (n a pa : Nat) (s : State) (t : Thread),
    (Executes s p .any [] (if a = 255 then [] else [srcP 1 a noPerm]) t → (Instr.trap p n a).wf = true →
      ∃ s' r, exec (.trap p n a) s = .next s' ∧ Trapped s' t (if 0x8000 ≤ n then 0x0D else 0x05) ∧ (s'.thread t.id).run = .parked r ∧
        r.detail = n ∧ Apart s s' (s.actors p)) ∧
    (∀ (r : TrapRec), Listed s t → t.run = .parked r → (s.team t.team).state = .resident → t.depth < 2 → ¬(r.cause = 0x0D ∧ r.detail = 0x8001) → r.cause < 2 ^ 16 →
      s.lowWritesPending t = false → (s.team t.team).leaving = false →
      FrameOpen s t (t.depth + 1) pa →
      let c := s.ctx (s.grid (s.team t.team).grid).ctx
      let q : TrapRec := if r.cause = 0x0D then { r with cause := 0x05 } else r
      let emu : Prop := q.cause = 0x01 ∨ q.cause = 0x02 ∨ q.cause = 0x30 ∨ q.cause = 0x31
      let vec := fun (x : DWord) => x.toNat / 32 % 2 ^ 50 * 32
      c.trapfrm.getLsbD 0 = true → vec c.emuvec ≠ 0 → vec c.trapvec ≠ 0 →
      ∃ s', exec (.handlerEntry t.id) s = .next s' ∧
        (s'.thread t.id).depth = t.depth + 1 ∧ (s'.thread t.id).run = .ready ∧ (s'.thread t.id).clause = none ∧
        (s'.thread t.id).astat = 0#6 ∧ (s'.thread t.id).traps = q :: t.traps ∧
        (s.flagMask t.id (t.depth + 1) = 0 → s'.flagMask t.id (s'.thread t.id).depth = 0) ∧
        (emu → (s'.thread t.id).pc = vec c.emuvec) ∧ (¬emu → (s'.thread t.id).pc = vec c.trapvec) ∧
        (∀ k, (s'.thread t.id).reg k = t.reg k) ∧
        (∀ k, k < 16 → number s'.mem (regAt t pa k) 4 = (t.reg k).1.toNat ∧ tagAt s'.mem t pa k = (t.reg k).2.code) ∧
        number s'.mem (statAt t pa) 4 = t.astat.toNat ∧ number s'.mem (maskAt t pa) 4 = s.flagMask t.id t.depth ∧
        (∀ k, k < 16 → number s'.mem (owAt t pa k) 4 = windowWord q (t.depth + 1) k % 2 ^ 32) ∧
        (∀ o, noColumn o → memGet s'.mem (pa + o) = 0#8) ∧ (∀ o, otherColumn t o → memGet s'.mem (pa + o) = memGet s.mem (pa + o)) ∧
        (∀ x, (x < pa ∨ pa + 8192 ≤ x) → memGet s'.mem x = memGet s.mem x)) ∧
    (∀ (r : TrapRec) (rest : List TrapRec), Alone s p t → (Instr.eret p).wf = true → t.traps = r :: rest → 0 < t.depth →
      s.gate t p .levelE [] [] = none → s.handlerQuiet t = true → r.cause ≠ 0x16 → FrameOpen s t t.depth pa →
      let back := number s.mem (owAt t pa 12) 4 + 2 ^ 32 * number s.mem (owAt t pa 13) 4
      let next := (number s.mem (owAt t pa 15) 4).testBit 24
      ∃ s', exec (.eret p) s = .next s' ∧ (s'.thread t.id).depth = t.depth - 1 ∧ (s'.thread t.id).traps = rest ∧
        (s'.thread t.id).run = .ready ∧
        (∀ k, k < 16 → (s'.thread t.id).reg k = (BitVec.ofNat 32 (number s.mem (regAt t pa k) 4), Tag.ofCode (tagAt s.mem t pa k))) ∧
        (∀ k, 16 ≤ k → (s'.thread t.id).reg k = t.reg k) ∧
        (s'.thread t.id).astat = BitVec.ofNat 6 (number s.mem (statAt t pa) 4) ∧
        (r.logged = none → ∀ f, f < 12 → (s'.flagMask t.id (t.depth - 1)).testBit f =
          ((s.flagMask t.id (t.depth - 1)).testBit f && (number s.mem (maskAt t pa) 4).testBit f)) ∧
        (∀ e ∈ s'.log, r.logged = some e.id → ∀ l ∈ e.lanes, l.tid ≠ t.id) ∧
        (next = true → r.logged = none → (s'.thread t.id).pc = (if r.clause = none then r.pc else r.pc + r.len.bytes) ∧
          (s'.thread t.id).clause = nextClause r.clause) ∧
        (next = true → r.logged.isSome = true → (s'.thread t.id).pc = r.park ∧ (s'.thread t.id).clause = r.parkClause) ∧
        (next = false → (s'.thread t.id).pc = back ∧ (s'.thread t.id).clause = if back = r.pc then r.clause else none) ∧
        (∀ x, memGet s'.mem x = memGet s.mem x))

/-- OWRD, OWWR, XRD, XWR, XFLG, XMRD and XMWR (19/R420 to R424; 12/R270, R271): reads and writes of the thread's frame column at its
depth, of its registers from v16 on, and of a matrix register; a write of the window leaves what is not marked W.
Points that the spec leaves open follow the model (log entries 79, 92). -/
def Obligations.HandlerAccesses : Prop :=
  ∀ (p : Pre) (d k b a pa : Nat) (tag : Option Tag) (mt : Tag) (init done : Bool) (s : State) (t : Thread),
    Alone s p t → 0 < t.depth → (s.team t.team).state = .resident →
    let B := srcR 2 b noPerm
    let old := fun (x : Nat) => number s.mem x 4
    let ready := fun (dsts srcs : List Src) => s.gate t p .levelE dsts srcs = none
    (FrameOpen s t t.depth pa →
      ((Instr.owrd p d k).wf = true → ready [dst d false] [] →
        ∃ s', exec (.owrd p d k) s = .next s' ∧ Passed s' p t ∧ Pending s' p t (cells false d (old (owAt t pa k)) .n32) 0#6 ∧
          (∀ x, memGet s'.mem x = memGet s.mem x)) ∧
      ((Instr.owwr p k b).wf = true → ready [] [B] →
        ∃ s', exec (.owwr p k b) s = .next s' ∧ Passed s' p t ∧
          number s'.mem (owAt t pa k) 4 =
            (if k = 8 ∨ k = 9 ∨ k = 12 ∨ k = 13 then s.srcVal t p B
             else if k = 15 then old (owAt t pa k) - old (owAt t pa k) / 2 ^ 24 % 2 * 2 ^ 24 + s.srcVal t p B / 2 ^ 24 % 2 * 2 ^ 24
             else old (owAt t pa k)) ∧
          (∀ x, (x < owAt t pa k ∨ owAt t pa k + 4 ≤ x) → memGet s'.mem x = memGet s.mem x)) ∧
      ((Instr.xrd p d (.imm k)).wf = true → ready [dst d false] [] → (k = 255 ∨ k < s.nrOf t) →
        ∃ s', exec (.xrd p d (.imm k)) s = .next s' ∧ Passed s' p t ∧
          Pending s' p t
            (if k = 255 then cells false d 0 .raw
             else if k < 16 then cells false d (old (regAt t pa k)) (Tag.ofCode (tagAt s.mem t pa k))
             else cells false d (t.reg k).1.toNat (t.reg k).2) 0#6) ∧
      ((Instr.xwr p tag b (.imm k)).wf = true → ready [] [B] → k < s.nrOf t → (16 ≤ k → s.writePending t k = false) →
        let v := s.srcVal t p B
        let g := tag.getD (s.srcTag t p B)
        ∃ s', exec (.xwr p tag b (.imm k)) s = .next s' ∧ (s'.thread t.id).pc = t.pc + p.len.bytes ∧ (s'.thread t.id).run = .ready ∧
          (k < 16 → number s'.mem (regAt t pa k) 4 = v ∧ tagAt s'.mem t pa k = g.code ∧ ∀ n, (s'.thread t.id).reg n = t.reg n) ∧
          (16 ≤ k → k ≠ 255 → ∀ n, (s'.thread t.id).reg n = if n = k then (BitVec.ofNat 32 v, g) else t.reg n)) ∧
      ((Instr.xflg p done d b).wf = true → ready [dst d false] (if done then [B] else []) →
        let m := old (maskAt t pa)
        let m' := if done then m - (m &&& s.srcVal t p B % 4096) else m
        ∃ s', exec (.xflg p done d b) s = .next s' ∧ Wrote s' p t (cells false d m' .n32) 0#6 ∧ number s'.mem (maskAt t pa) 4 = m')) ∧
    ((Instr.xmrd p d a b).wf = true → ready [dst d false] [B] → s.mqBusy t.id.core t.team a s.fresh = false →
      let m := (s.team t.team).mregs.getD a MReg.reset
      let e := s.srcVal t p B % 4096
      m.form ≠ .factor →
      ∃ s', exec (.xmrd p d a b) s = .next s' ∧ Apart s s' (s.actors p) ∧
        Wrote s' p t (cells false d (if m.form = .empty then 0 else tileAt m (e / 64) (e % 64)) (if m.form = .empty then .f32 else m.tag)) 0#6) ∧
    (let A := srcR 1 a noPerm
     let kind : MOpKind := .xmwr d (s.srcVal t p B % 4096) (BitVec.ofNat 32 (s.srcVal t p A)) mt init
     (Instr.xmwr p mt init d a b).wf = true → ready [] [A, B] → s.mwaits t.team kind = false → s.engineFull t .mat 0 = false →
     s.mcheck t.team kind = none → ∃ s', exec (.xmwr p mt init d a b) s = .next s' ∧ Passed s' p t ∧ Entered s s' t kind)

/-! ## Completion, window writes, headers, rejected items and the runtime's answers (14, 05, 12, 06) -/

namespace Sys2Proof.Claim

/-- The parts of a thread that a change of its registers leaves. -/
def Standing (t t' : Thread) : Prop :=
  t'.pc = t.pc ∧ t'.clause = t.clause ∧ t'.run = t.run ∧ t'.id = t.id ∧ t'.team = t.team ∧ t'.depth = t.depth ∧ t'.traps = t.traps ∧
    t'.reds = t.reds

/-- Only this thread is different. -/
def OthersSame (s s' : State) (i : Tid) : Prop := ∀ j, j ≠ i → s'.thread j = s.thread j

/-- No access of the thread at its depth stands in the operand log. -/
def NoneLogged (s : State) (t : Thread) : Prop := ∀ e ∈ s.log, ∀ l ∈ e.lanes, ¬(l.tid = t.id ∧ l.depth = t.depth)

/-- The thread resumes past the item of a trap record as NEXT does (12/R273): a header's at the header. -/
def Resumed (t' : Thread) (r : TrapRec) : Prop :=
  t'.run = .ready ∧ t'.pc = (if r.clause = none then r.pc else r.pc + r.len.bytes) ∧ t'.clause = nextClause r.clause

/-- Causes that the emulation vector, and at depth 2 the management cores, take (12/R267, R277). -/
def emulated (cause : Nat) : Prop := cause = 0x01 ∨ cause = 0x02 ∨ cause = 0x30 ∨ cause = 0x31

/-- The grid of a thread is listed and runs. -/
def Running (s : State) (g : Nat) : Prop := ∃ x, s.grids.find? (fun y => y.id == g) = some x ∧ x.status = none

end Sys2Proof.Claim

/-- LONG_LATENCY_COMPLETE, WINDOW_WRITE_APPLY and CLAUSE_START (14/R309 to R312; 05/R111): a completed operation writes its
registers, adds its status and is over; a window write waits for its owner's clause boundary, and one to v0 to v15 of an owner at level
E goes to its frame (12/R269); a header starts its clause once no flag
it waits for is pending, and else the thread waits there: parked if a flag is that of a logged access, at a blocking point if it is that
of a load of another node (04/R97).
Points that the spec leaves open follow the model (log entries 10, 49, 79). -/
def Obligations.CompletionsAndHeaders : Prop :=
  ∀ (s : State) (t : Thread), Listed s t →
    (∀ (o : LongOp), s.ops.find? (fun x => x.id == o.id) = some o → o.tid = t.id → o.depth = t.depth → o.src = .done → o.dead = false →
      t.run ≠ .exited → (s.team t.team).image = none →
      ∃ s', exec (.longLatencyComplete o.id) s = .next s' ∧ (∀ n, (s'.thread t.id).reg n = regAfter t o.writes n) ∧
        (s'.thread t.id).astat = t.astat ||| o.astat ∧ Standing t (s'.thread t.id) ∧ (s'.thread t.id).win = t.win ∧
        OthersSame s s' t.id ∧ (∀ x, x ∈ s'.ops ↔ x ∈ s.ops ∧ x.id ≠ o.id) ∧
        s' = { s with threads := s'.threads, ops := s'.ops }) ∧
    (∀ (w : WinWrite), t.win = [w] → (s.team t.team).image = none → s.fabric.performing = [] →
      let value := fun (v : Word) => (v &&& ~~~w.mask) ||| (w.v &&& w.mask)
      (t.clause = none ∨ t.run = .exited → t.depth = 0 ∨ 16 ≤ w.n ∨ t.run = .exited →
        ∃ s', exec (.windowWriteApply t.id) s = .next s' ∧ (s'.thread t.id).win = [] ∧
          (∀ n, (s'.thread t.id).reg n = if n = w.n ∧ n ≠ 255 then (value (t.reg n).1, w.tag) else t.reg n) ∧
          (s'.thread t.id).astat = t.astat ∧ Standing t (s'.thread t.id) ∧ OthersSame s s' t.id ∧
          s' = { s with threads := s'.threads }) ∧
      (∀ pa, t.clause = none → t.run ≠ .exited → 0 < t.depth → w.n < 16 → FrameOpen s t 1 pa →
        let tags := pa + 2048 + 16 * w.n + t.id.lane / 2
        let other := fun (m : Memory) => (memGet m tags).toNat / 16 ^ ((t.id.lane + 1) % 2) % 16
        ∃ s', exec (.windowWriteApply t.id) s = .next s' ∧ (s'.thread t.id).win = [] ∧
          number s'.mem (regAt t pa w.n) 4 = (value (BitVec.ofNat 32 (number s.mem (regAt t pa w.n) 4))).toNat ∧
          tagAt s'.mem t pa w.n = w.tag.code ∧ other s'.mem = other s.mem ∧
          (∀ x, (x < regAt t pa w.n ∨ regAt t pa w.n + 4 ≤ x) → x ≠ tags → memGet s'.mem x = memGet s.mem x) ∧
          (∀ n, (s'.thread t.id).reg n = t.reg n) ∧ (s'.thread t.id).astat = t.astat ∧ Standing t (s'.thread t.id)) ∧
      (t.clause ≠ none → t.run ≠ .exited → exec (.windowWriteApply t.id) s = .next s)) ∧
    (∀ (h : Header), s.issue = [t.id] → t.clause = none → t.run = .ready → t.win = [] →
      let waits : Prop := s.flagMask t.id t.depth &&& h.wait ≠ 0
      let stays := fun (s' : State) (r : Run) => (s'.thread t.id).run = r ∧ (s'.thread t.id).pc = t.pc ∧ (s'.thread t.id).clause = none
      (∀ e ∈ s.log, e.forward = false) →
      ∃ s', exec (.clauseStart h) s = .next s' ∧ (∀ n, (s'.thread t.id).reg n = t.reg n) ∧ (s'.thread t.id).astat = t.astat ∧
        SameRest t (s'.thread t.id) ∧ Apart s s' [t.id] ∧
        (¬waits → (s'.thread t.id).run = .ready ∧ (s'.thread t.id).pc = t.pc + 8 ∧
          (s'.thread t.id).clause =
            some { seta := h.seta, setb := h.setb, pred := h.pred, count := h.count, idx := 0, yield := h.yield }) ∧
        (waits → NoneLogged s t → (∀ o ∈ s.ops, ∀ a b, o.src ≠ .fabric a b) → stays s' (.flagWait h.wait)) ∧
        (waits → NoneLogged s t → ∀ o ∈ s.ops, ∀ a b f, o.tid = t.id → o.depth = t.depth → o.src = .fabric a b → o.flag = some f →
          h.wait.testBit f = true → stays s' (.blocked (.fabricLoad h.wait) 0 none)) ∧
        (∀ e ∈ s.log, ∀ l ∈ e.lanes, ∀ f, l.tid = t.id → l.depth = t.depth → l.flag = some f → f < 12 → h.wait.testBit f = true →
          stays s' .logWait))

/-- UNDEFINED_ENCODING (14/R318, 12/R267, R275): every thread that reaches a malformed item parks with cause 0x04; one of an
undefined or disabled instruction parks with 0x01 or 0x02 where its guard passes, of class 01 once its earlier accesses are over, of
class 10 with its subgroup together, for which it waits; and MGMT_CORE_PATH and BIND_SERVICE (12/R277, R279): what the runtime does for a thread, which
then goes on past its item, or ends its grid with status 3.
Points that the spec leaves open follow the model (log entries 41, 42, 80). -/
def Obligations.RejectedItems : Prop :=
  ∀ (s : State) (t : Thread), Listed s t →
    (∀ (r : RawItem), t.id ∈ s.issue →
      let p := rawPre r s.ir.2
      let traps := fun (who : List Tid) =>
        ∃ s', exec (.undefinedEncoding r) s = .next s' ∧ Trapped s' t r.cause ∧ Apart s s' who
      (r.cause = 4 → traps s.issue) ∧
      (r.cause ≠ 4 → r.op / 256 ≠ 2 → s.guard t p = .ok false →
        ∃ s', exec (.undefinedEncoding r) s = .next s' ∧ Passed s' p t ∧ Apart s s' s.issue) ∧
      (r.cause ≠ 4 → r.op / 256 ≠ 2 → s.guard t p = .ok true →
        (r.op / 256 ≠ 1 ∨ s.accessesOut t = false → traps s.issue) ∧
        (r.op / 256 = 1 → s.accessesOut t = true →
          ∃ s', exec (.undefinedEncoding r) s = .next s' ∧ (s'.thread t.id).run = .held ∧ (s'.thread t.id).pc = t.pc ∧
            Apart s s' s.issue)) ∧
      (r.cause ≠ 4 → r.op / 256 = 2 →
        let g := fun (x : Thread) => min (s.gSize x p) (s.width x)
        (s.converged t (g t) = true → traps (s.convGroup g)) ∧
        (s.stands t (g t) = false →
          ∃ s', exec (.undefinedEncoding r) s = .next s' ∧ Waits s' p t (.converge (g t)) none ∧ Apart s s' (s.convGroup g)) ∧
        (s.stands t (g t) = true → s.awake t (g t) = false →
          ∃ s', exec (.undefinedEncoding r) s = .next s' ∧ (s'.thread t.id).run = .held ∧ (s'.thread t.id).pc = t.pc ∧
            Apart s s' (s.convGroup g)))) ∧
    (∀ (r : TrapRec) (w : List (Nat × Word × Tag)) (st : BitVec 6), t.run = .mgmt r → r.logged = none → (s.team t.team).image = none →
      (emulated r.cause → ∃ s', exec (.mgmtCorePath t.id (.executed w st [])) s = .next s' ∧ Resumed (s'.thread t.id) r ∧
        (∀ n, (s'.thread t.id).reg n = regAfter t (w.map fun x => { n := x.1, v := x.2.1, tag := x.2.2 }) n) ∧
        (s'.thread t.id).astat = t.astat ||| st ∧ SameRest t (s'.thread t.id) ∧ OthersSame s s' t.id ∧
        s' = { s with threads := s'.threads }) ∧
      (Running s (s.team t.team).grid → s.l1 = [] → s.upd = [] →
        (∃ s', exec (.mgmtCorePath t.id .cannot) s = .next s' ∧ (s'.grid (s.team t.team).grid).status = some 3) ∧
        (¬emulated r.cause →
          ∃ s', exec (.mgmtCorePath t.id (.executed w st [])) s = .next s' ∧ (s'.grid (s.team t.team).grid).status = some 3))) ∧
    (∀ (r : TrapRec) (word pa : Nat) (target : DWord), t.run = .parked r → r.cause = 0x0D → r.detail = 0x8001 → r.logged = none →
      target.toNat % 32 = 0 → 1 < target.toNat → word % 8 = 0 → Memory.wf s.mem = true →
      Through s (t.id.core / 4) (s.grid (s.team t.team).grid).ctx word pa true → HomeFree s pa 8 →
      ∃ s', exec (.bindService t.id word target) s = .next s' ∧ number s'.mem pa 8 = target.toNat ∧
        (∀ x, (x < pa ∨ pa + 8 ≤ x) → memGet s'.mem x = memGet s.mem x) ∧ Resumed (s'.thread t.id) r ∧
        (∀ n, (s'.thread t.id).reg n = t.reg n) ∧ (s'.thread t.id).astat = t.astat ∧ SameRest t (s'.thread t.id) ∧
        (∀ e, e ∈ s'.board.events ↔ e ∈ s.board.events ∧ e ≠ .service t.id 0x8001))

/-- The answers to a fault report (06/R146; 10/R225) and the report of a write to an uncorrectable line (06/R152): replay offers
parked threads again, performs logged accesses and tries commands again; forward makes them trap, parked threads where they stand,
logged ones at a clause boundary, and commands finish with error 6; end ends the grid with status 3.
Points that the spec leaves open follow the model (log entries 9, 14, 26, 41, 49). -/
def Obligations.FaultReports : Prop :=
  ∀ (s : State) (k : ReportKey),
    (∀ (pa ctx : Nat), exec (.uncorrectableWriteReport pa ctx) s =
      .next { s with board := { s.board with events := s.board.events ++ [.badWrite pa ctx] } }) ∧
    (∀ (t : Thread) (r : TrapRec), Listed s t → t.run = .faulted r → s.reports = [{ key := k, cmds := [], tids := [t.id], grids := [] }] →
      (∀ e ∈ s.log, e.key ≠ k) →
      (k.cause ≠ 0x14 → k.cause ≠ 0x15 → k.cause ≠ 0x16 → (∀ x ∈ s.threads, x.run ≠ .logWait) →
        ∃ s', exec (.reportReplay k) s = .next s' ∧ s'.thread t.id = { t with run := .held } ∧ OthersSame s s' t.id ∧ s'.reports = [] ∧
          s' = { s with threads := s'.threads, reports := [] }) ∧
      (∃ s' l, exec (.reportForward k) s = .next s' ∧ s'.thread t.id = { t with run := .parked { r with lanes := l } } ∧
        (t.id.lane < 32 → l.testBit t.id.lane = true) ∧ OthersSame s s' t.id ∧ s' = { s with threads := s'.threads, reports := [] }) ∧
      (Running s (s.team t.team).grid → s.l1 = [] → s.upd = [] →
        ∃ s', exec (.reportEnd k) s = .next s' ∧ (s'.grid (s.team t.team).grid).status = some 3)) ∧
    (∀ (t : Thread) (e : LogEntry) (a : Acc) (va pa : Nat) (f : Option Nat), Listed s t → t.run = .logWait → s.log = [e] → e.key = k →
      e.forward = false → e.lanes = [{ tid := t.id, depth := t.depth, flag := f, acc := a }] →
      s.reports = [{ key := k, cmds := [], tids := [], grids := [] }] → (s.team t.team).image = none →
      a.sp = .g → a.kind = .store → a.ord = .none → a.mis = false → a.elem = 4 → a.elems = [(0, va)] → a.data.length = 4 → va % 4 = 0 →
      (k.cause ≠ 0x14 → k.cause ≠ 0x15 → k.cause ≠ 0x16 → s.l1 = [] → s.upd = [] → Memory.wf s.mem = true →
        Through s (t.id.core / 4) (s.grid (s.team t.team).grid).ctx va pa true → HomeFree s pa 4 →
        ∃ s', exec (.reportReplay k) s = .next s' ∧ s'.log = [] ∧ s'.reports = [] ∧ (s'.thread t.id).run = .held ∧
          number s'.mem pa 4 = leNat a.data ∧ (∀ x, (x < pa ∨ pa + 4 ≤ x) → memGet s'.mem x = memGet s.mem x)) ∧
      exec (.reportForward k) s = .next { s with log := [{ e with forward := true }], reports := [] }) ∧
    (∀ (c : Cmd) (rest : List Cmd) (cause va stage : Nat), s.cmds = c :: rest → (∀ x ∈ rest, x.id ≠ c.id) →
      c.state = .faulted cause va stage → s.reports = [] →
      (0 < stage ∨ c.aw = none → exec (.engineFaultReplay c.id) s =
        .next { s with cmds := { c with state := if stage = 0 then .queued else if stage = 1 then .running else .acking } :: rest }) ∧
      exec (.engineFaultForward c.id) s =
        .next { s with cmds := { c with err := 6, cause := cause, state := .acking, owed := if stage = 1 then c.owed else 0
                                        sent := if stage = 1 then c.sent else [] } :: rest } ∧
      (Running s (s.team c.team).grid → s.l1 = [] → s.upd = [] →
        ∃ s', exec (.engineFaultEnd c.id) s = .next s' ∧ (s'.grid (s.team c.team).grid).status = some 3))

/-! ## Reset, bring-up, power, the side-band (01, 03) -/

namespace Sys2Proof.Claim

/-- n bits of a register from bit lo. -/
def bits (x : DWord) (lo n : Nat) : Nat := x.toNat / 2 ^ lo % 2 ^ n

/-- A register with the bits of a field replaced, and no other bit changed. -/
def FieldSet (old new : DWord) (lo n v : Nat) : Prop :=
  bits new lo n = v ∧ ∀ i, i < lo ∨ lo + n ≤ i → new.toNat.testBit i = old.toNat.testBit i

/-- The slices hold nothing; lines that stand in DDR with an uncorrectable code are known as they are read (01/R13, R32). -/
def SlicesEmpty (s : State) (bad : List Nat) : Prop := s.l2 = { L2.reset with bad := bad, ddrBad := bad }

/-- The die-to-die link of two panels, a below b, in the order of 01/R31. -/
def d2dLink (a b : Nat) : Nat := a * (15 - a) / 2 + (b - a - 1)
/-- The link of two panels trained. -/
def linked (mask a b : Nat) : Prop := mask.testBit (d2dLink (min a b) (max a b)) = true
/-- Two panels reach each other (01/R8): by their link, or through a third panel whose links to both trained. -/
def reached (mask a b : Nat) : Prop := linked mask a b ∨ ∃ c, c < 8 ∧ c ≠ a ∧ c ≠ b ∧ linked mask a c ∧ linked mask b c

/-- Nothing of the device's own state is left (01/R28): no grid, team, thread, command, cache line, translation or request. -/
def Emptied (s : State) : Prop :=
  s.ctxs = [] ∧ s.cores = [] ∧ s.grids = [] ∧ s.teams = [] ∧ s.threads = [] ∧ s.ops = [] ∧ s.log = [] ∧ s.reports = [] ∧
  s.cmds = [] ∧ s.entries = [] ∧ s.l1 = [] ∧ s.upd = [] ∧ s.const = [] ∧ s.tlb = [] ∧ s.rev = [] ∧ s.invs = [] ∧
  s.bobbins = [] ∧ s.privs = [] ∧ s.stops = [] ∧ s.fabric.reqs = [] ∧ s.fabric.lossy = [] ∧ s.fabric.hot = []

/-- What the board carries through a reset: fuses, boot flash, modules and which links train. -/
def SameBoard (b c : Board) : Prop :=
  c.keyDigest = b.keyDigest ∧ c.minVersion = b.minVersion ∧ c.fuses = b.fuses ∧ c.secret = b.secret ∧ c.slotA = b.slotA ∧
  c.slotB = b.slotB ∧ c.modules = b.modules ∧ c.d2dTrains = b.d2dTrains ∧ c.mlTrains = b.mlTrains ∧ c.fpTrains = b.fpTrains

/-- A measurement register extended (03/R71). -/
def extends' (old x : List Byte) : List Byte := Config.shake256 (old ++ x) 64

/-- A step of bring-up has run without failing: PHASE is its number and the step's own effect is done. -/
def Began (s s' : State) (n : Nat) : Prop := bits s'.sys.bootstat 0 4 = n ∧ bits s'.sys.bootstat 32 8 = 0 ∧ s'.mem = s.mem

end Sys2Proof.Claim

/-- COLD_RESET, WARM_RESET, RAILS_GOOD, RAILS_DOWN and BRING_UP (01/R14, R22, R28, R30, R32; 03/R70, R71): a reset leaves the
registers at their reset values and nothing running; a warm one keeps what DDR holds, good lines and bad, and restarts at step 2; rails
out of order set PWRSEQ and keep the package in reset, which a cold reset does not change; each step of bring-up sets PHASE and does
its action, or fails with its number and detail.
Points that the spec leaves open follow the model (log entries 2, 71, 72, 74). -/
def Obligations.ResetAndBringUp : Prop :=
  ∀ (s : State) (order : List Nat),
    (s.board.rails = [1, 2, 3, 4, 5] →
      ∃ s', exec .coldReset s = .next s' ∧ Emptied s' ∧ SlicesEmpty s' [] ∧ s'.sys = SysRegs.reset ∧ s'.time = { ns := 0, cyc := 0, frac := 0 } ∧
        SameBoard s.board s'.board ∧ s'.board.held = false ∧ s'.board.tripped = false) ∧
    (s.board.rails ≠ [1, 2, 3, 4, 5] →
      ∃ s', exec .coldReset s = .next s' ∧ Emptied s' ∧ s'.board.held = true ∧ s'.board.rails = s.board.rails ∧
        bits s'.sys.thermstat 33 1 = bits s.sys.thermstat 33 1) ∧
    (s.board.held = false → s.board.tripped = false →
      ∃ s', exec .warmReset s = .next s' ∧ Emptied s' ∧ s'.sys = { SysRegs.reset with bootstat := s'.sys.bootstat } ∧
        s'.sys.bootstat = 1#64 ∧ SameBoard s.board s'.board ∧ s'.board.held = false ∧
        SlicesEmpty s' s'.l2.ddrBad ∧
        (s.l2.writes = [] → s'.l2.ddrBad = s.l2.ddrBad ∧ ∀ x, memGet s'.mem x = memGet s.ddr x)) ∧
    (s.board.rails ≠ [1, 2, 3, 4, 5] →
      ∃ s', exec (.railsGood order) s = .next s' ∧ Emptied s' ∧ s'.board.rails = order ∧ SameBoard s.board s'.board ∧
        (order = [1, 2, 3, 4, 5] → s'.board.held = false ∧ s'.sys = SysRegs.reset) ∧
        (order ≠ [1, 2, 3, 4, 5] → s'.board.held = true ∧ bits s'.sys.thermstat 33 1 = 1)) ∧
    (∃ s', exec (.railsDown order) s = .next s' ∧ Emptied s' ∧ s'.board.rails = [] ∧ s'.board.held = true ∧
      bits s'.sys.thermstat 33 1 = (if order = [5, 4, 3, 2, 1] then 0 else 1)) ∧
    (let b := s.board
     let n := bits s.sys.bootstat 0 4 + 1
     let fine := fun (f : FlashSlot) => ∃ x, f.fw = some x ∧ Config.shake256 x.key 32 = b.keyDigest ∧
       Config.slhVerify x.key x.image x.sig = true ∧ b.minVersion ≤ x.version
     let image := fun (f : FlashSlot) => (f.fw.map (·.image)).getD []
     let measured := fun (s' : State) (k : Nat) (x : List Byte) => s'.board.meas.getD k [] = extends' (b.meas.getD k []) x
     let failed := fun (s' : State) (k d : Nat) => bits s'.sys.bootstat 0 4 = n ∧ bits s'.sys.bootstat 32 8 = k ∧ bits s'.sys.bootstat 16 16 = d
     b.held = false → b.tripped = false → bits s.sys.bootstat 32 8 = 0 → n ≤ 10 → b.meas.length = 8 →
      ∃ s', exec .bringUp s = .next s' ∧
        (n = 1 ∨ n = 10 → Began s s' n) ∧
        (n = 2 → Began s s' n ∧ measured s' 0 (Config.shake256 b.fuses 64)) ∧
        (n = 3 → (fine b.slotA → Began s s' n ∧ measured s' 1 (Config.shake256 (image b.slotA) 64) ∧ bits s'.sys.bootstat 8 8 = 0) ∧
          (¬fine b.slotA → fine b.slotB →
            Began s s' n ∧ measured s' 1 (Config.shake256 (image b.slotB) 64) ∧ bits s'.sys.bootstat 8 8 = 1) ∧
          (¬fine b.slotA → ¬fine b.slotB → failed s' 3 0)) ∧
        (n = 4 → (b.cacheBad = none → Began s s' n) ∧ (∀ p, b.cacheBad = some p → p < 8 → failed s' 4 p)) ∧
        (n = 5 → b.d2dTrains < 2 ^ 28 → s'.sys.d2dstat.toNat = b.d2dTrains ∧
          ((∀ x y, x < y → y < 8 → reached b.d2dTrains x y) → Began s s' n) ∧
          (∀ x y, x < y → y < 8 → ¬reached b.d2dTrains x y →
            (∀ v w, v < w → w < 8 → d2dLink v w < d2dLink x y → reached b.d2dTrains v w) → failed s' 5 (d2dLink x y))) ∧
        (n = 6 →
          (∀ k, k < 64 → s'.sys.mlstat.toNat.testBit k = (b.mlTrains.testBit k && !b.mlAbsent.testBit k)) ∧
          ((∀ k, k < 64 → b.mlTrains.testBit k = true ∧ b.mlAbsent.testBit k = false) → b.modules ≠ [] →
            Began s s' n ∧ s'.board.capacity ∈ b.modules ∧ (∀ m ∈ b.modules, s'.board.capacity ≤ m) ∧
            (bits s'.sys.bootstat 40 1 = 1 ↔ ∃ m ∈ b.modules, m ≠ s'.board.capacity)) ∧
          (∀ k, k < 64 → (b.mlTrains.testBit k = false ∨ b.mlAbsent.testBit k = true) →
            (∀ j, j < k → b.mlTrains.testBit j = true ∧ b.mlAbsent.testBit j = false) → failed s' 6 k)) ∧
        (n = 7 → Began s s' n ∧ SlicesEmpty s' s.l2.ddrBad) ∧
        (n = 8 → b.fpTrains < 2 ^ 48 → s'.sys.fpstat.toNat = b.fpTrains ∧ (b.fpTrains ≠ 0 → Began s s' n) ∧
          (b.fpTrains = 0 → failed s' 8 0)) ∧
        (n = 9 → Began s s' n ∧ measured s' 2 (Config.shake256 b.runtime 64) ∧ measured s' 3 (Config.shake256 b.runtimeConf 64)))

/-- Power, temperature, the side-band and attestation (01/R18, R22 to R25, R27; 03/R70, R72): once in a ms the average of WINDOW ms over
the cap raises STEP by 1 up to 8 with CAUSE 1, one well below it lowers STEP by 1 down to the floor; a hottest junction at 100 °C raises
STEP once in a ms with CAUSE 2 and sets HOT; at 115 °C everything halts; a regulator follows requests within 650 mV to 850 mV; a
monitoring request is answered with every junction's reading, power, STEP and links, an unsupported PLDM type as unsupported; an
update is accepted as R70 accepts; a quote over a nonce of 32 bytes is answered.
Points that the spec leaves open follow the model (log entries 2, 47, 73, 75, 113). -/
def Obligations.PowerAndSideband : Prop :=
  ∀ (s : State), s.board.held = false → s.board.tripped = false →
    let step := bits s.sys.clkstep 0 4
    let cause := bits s.sys.clkstep 4 4
    let floor := min 8 (bits s.sys.clkstep 8 4)
    let cap := bits s.sys.pwrcap 0 16
    let same := fun (s' : State) => bits s'.sys.clkstep 0 4 = step ∧ bits s'.sys.clkstep 4 4 = cause
    let ms := s.time.ns / 1000000
    (∀ (now : Nat), s.tickStart < ms →
      let history := (now :: s.board.power).take 1000
      let window := history.take (max 1 (min 1000 (bits s.sys.pwrcap 16 16)))
      let w := window.sum / window.length
      ∃ s', exec (.powerCapTick now) s = .next s' ∧ bits s'.sys.clkstep 8 56 = bits s.sys.clkstep 8 56 ∧
      s' = { s with sys := { s.sys with clkstep := s'.sys.clkstep }, board := { s.board with watts := w, power := history }, tickStart := ms } ∧
      (cap < w → step < 8 → bits s'.sys.clkstep 0 4 = step + 1 ∧ bits s'.sys.clkstep 4 4 = 1) ∧
      (cap < w → 8 ≤ step → same s') ∧
      (100 * w < 95 * cap → s.board.hottest < 1600 → floor < step → bits s'.sys.clkstep 0 4 = step - 1 ∧
        (step = 1 → bits s'.sys.clkstep 4 4 = 0)) ∧
      (w ≤ cap → (95 * cap ≤ 100 * w ∨ 1600 ≤ s.board.hottest ∨ step ≤ floor) → same s')) ∧
    (∀ (now : Nat), ms ≤ s.tickStart → exec (.powerCapTick now) s = .next s) ∧
    (∀ (t k : Nat), t < 65536 → k < 8 →
      (t < 1840 → ∃ s', exec (.thermalThrottleTick t k) s = .next s' ∧ bits s'.sys.thermstat 0 16 = t ∧ bits s'.sys.thermstat 24 8 = k ∧
        (1600 ≤ t → bits s'.sys.thermstat 32 1 = 1) ∧ (t < 1600 → bits s'.sys.thermstat 32 1 = bits s.sys.thermstat 32 1) ∧
        bits s'.sys.thermstat 33 31 = bits s.sys.thermstat 33 31 ∧ bits s'.sys.clkstep 8 56 = bits s.sys.clkstep 8 56 ∧
        (1600 ≤ t ∧ step < 8 ∧ s.board.thermMs < ms → bits s'.sys.clkstep 0 4 = step + 1 ∧ bits s'.sys.clkstep 4 4 = 2 ∧ s'.board.thermMs = ms) ∧
        (t < 1600 ∨ 8 ≤ step ∨ ms ≤ s.board.thermMs → same s')) ∧
      (1840 ≤ t → ∃ s', exec (.thermalTrip t k) s = .next s' ∧ exec (.thermalThrottleTick t k) s = .next s' ∧ s'.board.tripped = true ∧ bits s'.sys.thermstat 0 16 = t ∧
        ∀ n : Nat, exec (.powerCapTick n) s' = .next s') ∧
      (t < 1840 → exec (.thermalTrip t k) s = .next s)) ∧
    (∀ (k mv : Nat), k < 8 → s.board.volts.length = 8 → ∃ s', exec (.adaptiveVoltageRequest k mv) s = .next s' ∧
      s' = { s with board := { s.board with volts := s'.board.volts } } ∧
      ∀ j, j < 8 → s'.board.volts.getD j 0 = if j = k ∧ 650 ≤ mv ∧ mv ≤ 850 then mv else s.board.volts.getD j 0) ∧
    (2 ≤ bits s.sys.bootstat 0 4 →
      let gives := fun (i : Instr) (r : SideReply) =>
        exec i s = .next { s with board := { s.board with replies := s.board.replies ++ [r] } }
      (∀ t c : Nat, t ≠ 2 → t ≠ 5 → gives (.pldmMonitorRequest t c) .unsupported) ∧
      (∀ c : Nat, ∃ sensors : List Nat, sensors.length = 160 ∧ (∀ x ∈ sensors, x ≤ s.board.hottest) ∧
        (bits s.sys.thermstat 24 8 < 8 → ∃ k, k < 20 ∧ sensors.getD (20 * bits s.sys.thermstat 24 8 + k) 0 = s.board.hottest) ∧
        gives (.pldmMonitorRequest 2 c)
        (.monitor sensors s.board.watts step s.sys.d2dstat.toNat s.sys.mlstat.toNat s.sys.fpstat.toNat)) ∧
      (∀ (slot : Nat) (fw : Firmware) (raise : Nat), slot < 2 →
        let good : Prop := Config.shake256 fw.key 32 = s.board.keyDigest ∧ Config.slhVerify fw.key fw.image fw.sig = true ∧
          s.board.minVersion ≤ fw.version
        (¬good → gives (.pldmFirmwareUpdate slot fw raise) (.refused slot)) ∧
        (good → ∃ s', exec (.pldmFirmwareUpdate slot fw raise) s = .next s' ∧ s'.board.replies = s.board.replies ++ [.updated slot] ∧
          (slot = 0 → s'.board.slotA = { fw := some fw } ∧ s'.board.slotB = s.board.slotB) ∧
          (slot = 1 → s'.board.slotB = { fw := some fw } ∧ s'.board.slotA = s.board.slotA) ∧
          s.board.minVersion ≤ s'.board.minVersion)) ∧
      (∀ nonce : List Byte, nonce.length = 32 → ∃ q sig, gives (.attestationQuote nonce) (.quote q) ∧
        q = leBytes 4 1 ++ nonce ++ s.board.meas.flatten ++ Config.identityKey s.board.secret (s.board.meas.headD []) ++ sig))

/-! ## Requests that arrive on the fabric (02, 10/R231, R232) -/

namespace Sys2Proof.Claim

/-- A packet arrives on a trained port, is for this device, and is well formed (02/R33, R38, R40). -/
structure Arrives (s : State) (port : Nat) (k : Packet) : Prop where
  fields : k.ok = true
  up : s.sys.fpstat.toNat.testBit port = true
  mine : k.dst = bits s.sys.nodeid 0 16
  named : bits s.sys.nodeid 0 16 ≠ 0xFFFF
  formed : malformed k = false
  cold : k.hot = false ∨ s.sys.hotcfg.toNat.testBit 0 = false

/-- It is met for the first time (02/R46). -/
structure First (s : State) (k : Packet) : Prop where
  performing : ∀ p ∈ s.fabric.performing, ¬(p.pkt.src = k.src ∧ p.pkt.tag = k.tag)
  dups : ∀ d ∈ s.fabric.dups, ¬(d.src = k.src ∧ d.tag = k.tag)

/-- A packet has left, or is queued on a port. -/
def Leaves (s : State) (k : Packet) : Prop := ∃ p vc, (p, k) ∈ s.fabric.sent ∨ (vc, k) ∈ (s.port p).queue

/-- A response to a packet: its type, status, TAG and payload, back to its source (02/R38, R44). -/
def Answers (s' : State) (k : Packet) (typ status : Nat) (data : List Byte) : Prop :=
  ∃ r, Leaves s' r ∧ r.typ = typ ∧ r.aux = status ∧ r.dst = k.src ∧ r.tag = k.tag ∧ r.cls = k.cls ∧ r.data = data ∧ r.etag = etagOf r

/-- The request and its response are kept for 100 µs (02/R46). -/
def Recorded (s s' : State) (k : Packet) : Prop :=
  ∃ d ∈ s'.fabric.dups, d.src = k.src ∧ d.tag = k.tag ∧ d.til = s.time.ns + 100000 ∧ Leaves s' d.resp

/-- No memory line holds contributions back, and none of some bytes is uncorrectable or comes over a link that is retraining. -/
structure Plain (s : State) (pa n : Nat) : Prop where
  upd : s.upd = []
  det : s.l2.det = []
  good : ∀ i, i < n → s.lineBad ((pa + i) / 128) = false
  ready : ∀ i, i < n → s.homeWaits ((pa + i) / 128) = false
  form : Memory.wf s.mem = true

/-- No grid is being recorded (03/R73). -/
def Unrecorded (s : State) : Prop := ∀ g ∈ s.grids, g.capture = false

/-- An arrival word's fields TARGET, COUNT and GEN, read before and after a credit of b bytes (10/R229). -/
def Advanced (old new : Nat → Nat) (b : Nat) : Prop :=
  let sum := min (old 1 + b) (2 ^ 32 - 1)
  new 0 = old 0 ∧ new 1 = (if old 0 = 0 then sum else sum % old 0) ∧ new 2 = (if old 0 = 0 then old 2 else (old 2 + sum / old 0) % 2 ^ 32)

/-- A lossy word of a resident team's scratchpad, at offset o, with its region and its mask area apart from one another
(10/R227, R231): R and M are where they begin. -/
structure LossyWord (s : State) (e : LossyEntry) (team o R M : Nat) : Prop where
  loc : e.loc = .scr team o
  resident : (s.team team).state = .resident
  form : Memory.wf (s.team team).scr = true
  intact : (s.team team).scrBad = []
  region : R = number (s.team team).scr (o + 16) 8
  mask : ((o : Int) + (if e.maskAt < 2 ^ 31 then (e.maskAt : Int) else (e.maskAt : Int) - 2 ^ 32)) = (M : Int)
  range : e.maskAt < 2 ^ 32
  blocks : e.size % 256 = 0
  apart1 : R + e.size ≤ o ∨ o + 32 ≤ R
  apart2 : M + 2 * bitmapBytes e.size ≤ o ∨ o + 32 ≤ M
  apart3 : M + 2 * bitmapBytes e.size ≤ R ∨ R + e.size ≤ M

/-- Bit j of the valid mask, map 0, or the landed mask, map 1. -/
def maskBitAt (s : State) (team M size map j : Nat) : Bool :=
  (memGet (s.team team).scr (M + map * bitmapBytes size + j / 8)).toNat.testBit (j % 8)

end Sys2Proof.Claim

/-- READ, WRITE, ATOMIC and CREDIT (02/R38, R46, R47, R52, R55; 17/R375; 10/R229): a request that the inbound table permits is
performed at its home, answered OK and recorded; one that it does not is answered DENIED with nothing done; one whose tag fails is
answered NACK, and of the four a READ, an ATOMIC and a CREDIT change no memory then; one met again within 100 µs is answered from its
record alone.
Points that the spec leaves open follow the model (log entries 57, 60, 61, 64). -/
def Obligations.FabricRequests : Prop :=
  ∀ (s : State) (port : Nat) (k : Packet), Arrives s port k →
    let step : Option Instr :=
      if k.typ = 0x01 then some (.readReceive port k)
      else if k.typ = 0x03 ∧ k.cls = 0 then some (.writeReceive port k)
      else if k.typ = 0x05 then some (.atomicReceive port k)
      else if k.typ = 0x08 then some (.creditReceive port k)
      else none
    (∀ i, step = some i →
      (∀ d, (∀ p ∈ s.fabric.performing, ¬(p.pkt.src = k.src ∧ p.pkt.tag = k.tag)) →
        s.fabric.dups.find? (fun x => x.src == k.src && x.tag == k.tag && decide (s.time.ns < x.til)) = some d →
        ∃ s', exec i s = .next s' ∧ Leaves s' d.resp ∧ s' = { s with fabric := s'.fabric }) ∧
      (First s k → k.etag ≠ etagOf k → k.typ ≠ 0x03 →
        ∃ s', exec i s = .next s' ∧ Answers s' k 0x07 0 [] ∧
          bits s'.sys.fperr 48 16 = min 0xFFFF (bits s.sys.fperr 48 16 + 1) ∧ (∀ x, memGet s'.mem x = memGet s.mem x))) ∧
    (First s k → k.etag = etagOf k → k.addr < 0xFFFFF00000000 →
      (k.typ = 0x01 →
        (s.permits k 0 = true → Plain s k.addr (32 * k.aux) →
          ∃ s', exec (.readReceive port k) s = .next s' ∧ Answers s' k 0x02 0 (memRead s.mem k.addr (32 * k.aux)) ∧ Recorded s s' k ∧
            (∀ x, memGet s'.mem x = memGet s.mem x)) ∧
        (s.permits k 0 = false →
          ∃ s', exec (.readReceive port k) s = .next s' ∧ Answers s' k 0x02 1 (List.replicate 32 0#8) ∧ Recorded s s' k ∧
            s' = { s with fabric := s'.fabric })) ∧
      (k.typ = 0x03 → k.cls = 0 →
        let written := fun (x : Nat) => k.addr ≤ x ∧ x < k.addr + 32 * k.len ∧ (k.len = 1 → k.bmask.testBit (x - k.addr) = true)
        (s.permits k 1 = true → Plain s k.addr (32 * k.len) → Unrecorded s →
          ∃ s', exec (.writeReceive port k) s = .next s' ∧ Answers s' k 0x04 0 [] ∧ Recorded s s' k ∧
            (∀ x, written x → memGet s'.mem x = k.data.getD (x - k.addr) 0#8) ∧ (∀ x, ¬written x → memGet s'.mem x = memGet s.mem x)) ∧
        (s.permits k 1 = false →
          ∃ s', exec (.writeReceive port k) s = .next s' ∧ Answers s' k 0x04 1 [] ∧ Recorded s s' k ∧
            s' = { s with fabric := s'.fabric })) ∧
      (k.typ = 0x05 →
        let ty := Tag.ofCode (k.aux / 8 % 16)
        let n := if ty.is64 then 8 else 4
        let b := leNat (k.data.take 8)
        let c := leNat ((k.data.drop 8).take 8)
        (∀ op, AtOp.ofCode? (k.aux % 8) = some op → s.permits k 2 = true → Plain s k.addr n → Unrecorded s → k.addr % 128 + n ≤ 128 →
          b < 2 ^ (8 * n) → c < 2 ^ (8 * n) →
          let old := number s.mem k.addr n
          ∃ s', exec (.atomicReceive port k) s = .next s' ∧ Answers s' k 0x06 0 (leBytes 32 old) ∧ Recorded s s' k ∧
            number s'.mem k.addr n = combined op ty old b c ∧
            (∀ x, (x < k.addr ∨ k.addr + n ≤ x) → memGet s'.mem x = memGet s.mem x)) ∧
        (s.permits k 2 = false →
          ∃ s', exec (.atomicReceive port k) s = .next s' ∧ Answers s' k 0x06 1 (List.replicate 32 0#8) ∧ Recorded s s' k ∧
            s' = { s with fabric := s'.fabric })) ∧
      (k.typ = 0x08 → Plain s k.addr 16 → Unrecorded s → k.addr % 16 = 0 →
        ∃ s', exec (.creditReceive port k) s = .next s' ∧ Answers s' k 0x04 0 [] ∧ Recorded s s' k ∧
          Advanced (fun i => number s.mem (k.addr + 4 * i) 4) (fun i => number s'.mem (k.addr + 4 * i) 4) k.aux ∧
          (∀ x, (x < k.addr ∨ k.addr + 16 ≤ x) → memGet s'.mem x = memGet s.mem x)))

/-- LOSSY_WRITE_RECEIVE and LOSSY_DEADLINE (02/R51, R52; 10/R229, R231, R232), on a lossy word of a scratchpad: the first block of
the open generation for its place lands, its bits are set and 256 bytes credited; another one is counted and changes nothing; at the
deadline every block that has not landed reads as zeros, is LOST and credited, and the region leaves the table.
Points that the spec leaves open follow the model (log entries 64, 65). -/
def Obligations.LossyBlocks : Prop :=
  ∀ (s : State) (e : LossyEntry) (team o R M : Nat), LossyWord s e team o R M → Unrecorded s →
    let scr := (s.team team).scr
    let fields := fun (x : State) (i : Nat) => number (x.team team).scr (o + 4 * i) 4
    (∀ (port : Nat) (k : Packet), Arrives s port k → k.typ = 0x03 → k.cls = 1 →
      s.fabric.lossy.find? (fun x => decide (x.region ≤ k.addr) && decide (k.addr < x.region + x.size)) = some e →
      let j := (k.addr - e.region) / 256
      let fits : Prop := k.aux / 2 ^ 16 % 256 = fields s 2 % 256 ∧ maskBitAt s team M e.size 1 j = false
      (s.permits k 3 = true → fits →
        ∃ s', exec (.lossyWriteReceive port k) s = .next s' ∧ maskBitAt s' team M e.size 1 j = true ∧
          Advanced (fields s) (fields s') 256 ∧
          (k.etag = etagOf k → maskBitAt s' team M e.size 0 j = true ∧ fields s' 7 = fields s 7 ∧
            ∀ i, i < 256 → memGet (s'.team team).scr (R + 256 * j + i) = k.data.getD i 0#8) ∧
          (k.etag ≠ etagOf k → maskBitAt s' team M e.size 0 j = maskBitAt s team M e.size 0 j ∧
            fields s' 7 = (fields s 7 + 256) % 2 ^ 32 ∧ (∀ i, i < 256 → memGet (s'.team team).scr (R + 256 * j + i) = 0#8) ∧
            bits s'.sys.fperr 48 16 = min 0xFFFF (bits s.sys.fperr 48 16 + 1)) ∧
          (∀ i, i < e.size / 256 → i ≠ j → maskBitAt s' team M e.size 1 i = maskBitAt s team M e.size 1 i ∧
            ∀ x, R + 256 * i ≤ x → x < R + 256 * i + 256 → memGet (s'.team team).scr x = memGet scr x) ∧
          (∀ x, memGet s'.mem x = memGet s.mem x)) ∧
      (s.permits k 3 = false ∨ ¬fits →
        ∃ s', exec (.lossyWriteReceive port k) s = .next s' ∧ bits s'.sys.fperr 16 16 = min 0xFFFF (bits s.sys.fperr 16 16 + 1) ∧
          s' = { s with sys := { s.sys with fperr := s'.sys.fperr }, fabric := { s.fabric with releases := s'.fabric.releases } })) ∧
    (s.fabric.lossy.find? (fun x => x.region == e.region) = some e →
      let missing := (List.range (e.size / 256)).filter fun j => !maskBitAt s team M e.size 1 j
      (e.expiry ≤ s.time.ns → fields s 1 < fields s 0 →
        ∃ s', exec (.lossyDeadline e.region) s = .next s' ∧ (∀ x ∈ s'.fabric.lossy, x.loc ≠ .scr team o) ∧
          (∀ j, j < e.size / 256 → maskBitAt s' team M e.size 1 j = true ∧
            maskBitAt s' team M e.size 0 j = maskBitAt s team M e.size 0 j ∧
            ∀ i, i < 256 → memGet (s'.team team).scr (R + 256 * j + i) =
              if maskBitAt s team M e.size 1 j = true then memGet scr (R + 256 * j + i) else 0#8) ∧
          fields s' 7 = (fields s 7 + 256 * missing.length) % 2 ^ 32 ∧ Advanced (fields s) (fields s') (256 * missing.length)) ∧
      (s.time.ns < e.expiry → exec (.lossyDeadline e.region) s = .next s))

/-! ## Responses, timers, links and bolts (02, 01/R12, R16) -/

namespace Sys2Proof.Claim

/-- The one request that is out, of this device, and a packet that answers it (02/R38, R45). -/
structure Asked (s : State) (port : Nat) (k : Packet) (r : Req) : Prop extends Arrives s port k where
  one : s.fabric.reqs = [r]
  node : r.dst = k.src
  tag : r.pkt.tag = k.tag
  out : 0 < r.sends
  cls : r.pkt.cls = k.cls
  kind : k.typ = 0x02 ∧ r.pkt.typ = 0x01 ∨ k.typ = 0x04 ∧ (r.pkt.typ = 0x03 ∨ r.pkt.typ = 0x08) ∨ k.typ = 0x06 ∧ r.pkt.typ = 0x05 ∨
    k.typ = 0x07

/-- A request is over: it is out no more, and its TAG rests for 100 µs (02/R45). -/
def Over (s s' : State) (r : Req) : Prop :=
  (∀ x ∈ s'.fabric.reqs, ¬(x.dst = r.dst ∧ x.tag = r.tag)) ∧ (r.dst, r.pkt.tag, s.time.ns + 100000) ∈ s'.fabric.tags

/-- A request has been sent once more (02/R45). -/
def SentAgain (s s' : State) (r : Req) : Prop :=
  { r with sentAt := s.time.ns, sends := r.sends + 1 } ∈ s'.fabric.reqs ∧ Leaves s' r.pkt

/-- A group of a listed team. -/
def HasGroup (s : State) (team g : Nat) : Prop :=
  (s.teams.find? fun x => x.id == team).isSome = true ∧ g < (s.team team).groups.length

end Sys2Proof.Claim

/-- RESPONSE_RECEIVE, NACK_RECEIVE, LCOMP_RECEIVE and the timers of requests (02/R38, R45, R46, R48): an OK answer ends its request,
a store's group counts one fewer, a load gets its bytes; a failed one is sticky for the group; an answer whose tag fails, a NACK, or
20 µs without an answer sends the request again, and after the fifth sending it is over as TIMEOUT; records and TAGs leave after their
100 µs; a packet taken in returns its credits, one for its header and one for each data flit.
Points that the spec leaves open follow the model (log entries 12, 57, 67, 102). -/
def Obligations.FabricResponses : Prop :=
  ∀ (s : State) (port : Nat) (k : Packet) (r : Req),
    (Asked s port k r → k.typ ≠ 0x07 → k.etag = etagOf k → (k.typ = 0x02 → k.len = r.pkt.aux) → Unrecorded s → s.l1 = [] →
      (∀ team g, r.why = .store team g → counted r.pkt = true → HasGroup s team g →
        (s.team team).state ≠ .evicted →
        ∃ s', exec (.responseReceive port k) s = .next s' ∧ Over s s' r ∧
          (s'.group team g).ack = (s.group team g).ack - 1 ∧
          (s'.group team g).sticky = ((s.group team g).sticky || decide (k.aux % 256 ≠ 0)) ∧ (∀ x, memGet s'.mem x = memGet s.mem x)) ∧
      (∀ o a va lvl leaf, k.typ = 0x02 → k.aux % 256 = 0 → r.why = .op o.id → s.ops.find? (fun x => x.id == o.id) = some o →
        o.src = .fabric r.dst r.tag → o.acc = some a → a.elems = [(0, va)] → a.ord = .none → (∃ sg, a.kind = .load sg) →
        (s.walk (s.ctxOf (s.thread o.tid)) va).2 = .leaf lvl leaf → leaf.toNat / 2 ^ 10 % 4 ≠ 0 →
        ∃ s' o', exec (.responseReceive port k) s = .next s' ∧ Over s s' r ∧ o' ∈ s'.ops ∧ o'.id = o.id ∧ o'.src = .done ∧
          o'.tid = o.tid ∧ o'.depth = o.depth ∧ o'.flag = o.flag ∧
          o'.writes = a.cells 0 ((k.data.drop (va % (32 * r.pkt.aux))).take a.elem))) ∧
    (Asked s port k r → k.typ = 0x07 ∨ k.etag ≠ etagOf k → r.sends < 5 → (s.firstHop r.pkt).isSome = true →
      ∃ s', exec (if k.typ = 0x07 then .nackReceive port k else .responseReceive port k) s = .next s' ∧ SentAgain s s' r ∧
        (k.typ ≠ 0x07 → bits s'.sys.fperr 48 16 = min 0xFFFF (bits s.sys.fperr 48 16 + 1))) ∧
    (Arrives s port k → k.typ = 0x11 →
      let credits := fun (f vc : Nat) => f / 2 ^ (224 + 8 * vc) % 256
      ∃ s' f, exec (.lcompReceive port k) s = .next s' ∧
        s' = { s with board := { s.board with events := s.board.events ++ [.mgmt port k] }
                      fabric := { s.fabric with releases := s.fabric.releases ++ [(port, f)] } } ∧
        (∀ vc, vc < 4 → credits f vc = if vc = 1 then 1 else 0) ∧ (∀ i, i < 7 → f / 2 ^ (208 - 24 * i) % 65536 = 0xFFFF)) ∧
    (s.fabric.reqs = [r] → r.pkt.tag < 2 ^ 24 → bits s.sys.nodeid 0 16 ≠ 0xFFFF →
      (0 < r.sends → r.sentAt + 20000 ≤ s.time.ns →
        (r.sends < 5 → (s.firstHop r.pkt).isSome = true →
          ∃ s', exec (.requestTimeout r.dst r.tag) s = .next s' ∧ SentAgain s s' r) ∧
        (5 ≤ r.sends → ∃ s', exec (.requestTimeout r.dst r.tag) s = .next s' ∧ (r.dst, r.pkt.tag, s.time.ns + 100000) ∈ s'.fabric.tags ∧
          ((∃ team g, r.why = .store team g) → Over s s' r) ∧
          bits s'.sys.fperr 0 16 = min 0xFFFF (bits s.sys.fperr 0 16 + 1))) ∧
      (0 < r.sends → s.time.ns < r.sentAt + 20000 → exec (.requestTimeout r.dst r.tag) s = .next s)) ∧
    (∀ (a b : Nat),
      (∃ s', exec (.requestRecordExpiry a b) s = .next s' ∧ s' = { s with fabric := { s.fabric with dups := s'.fabric.dups } } ∧
        ∀ d, d ∈ s'.fabric.dups ↔ d ∈ s.fabric.dups ∧ ¬(d.src = a ∧ d.tag = b ∧ d.til ≤ s.time.ns)) ∧
      (∃ s', exec (.tagReuseExpiry a b) s = .next s' ∧ (s.fabric.reqs = [] → s' = { s with fabric := { s.fabric with tags := s'.fabric.tags } }) ∧
        ∀ t, t ∈ s'.fabric.tags ↔ t ∈ s.fabric.tags ∧ ¬(t.1 = a ∧ t.2.1 = b ∧ t.2.2 ≤ s.time.ns)))

/-- The links (01/R12, R16; 02/R34, R35, R41, R42): a flit of a memory link is tried again, after 16 in a row the link retrains or its
bit of MLSTAT falls and its lines are uncorrectable; a fabric flit's retry is counted; a port that goes down leaves FPSTAT, loses its
LOSSY packets, and queues the others elsewhere; a release flit returns credits and depths; a bolt sends a held packet on, in the order
of its line and by one port for its line, to this device where its cable goes there, serves one that is for its own banks, or after
10 µs discards it.
Points that the spec leaves open follow the model (log entries 69, 70, 76). -/
def Obligations.LinksAndBolts : Prop :=
  ∀ (s : State) (n : Nat),
    (n < 64 →
      let retries := ((s.board.mlRetry.find? fun x => x.1 == n).map (·.2)).getD 0
      (s.sys.mlstat.toNat.testBit n = true → ∃ s', exec (.memoryLinkFlitRetry n) s = .next s' ∧
        s' = { s with board := { s.board with mlRetry := s'.board.mlRetry } } ∧
        ((s'.board.mlRetry.find? fun x => x.1 == n).map (·.2)).getD 0 = min 16 (retries + 1)) ∧
      ((n, 16) ∈ s.board.mlRetry → ∀ ok : Bool, ∃ s', exec (.memoryLinkRetrain n ok) s = .next s' ∧
        (∀ x ∈ s'.board.mlRetry, x.1 ≠ n) ∧
        (∀ j, j < 64 → s'.sys.mlstat.toNat.testBit j = (s.sys.mlstat.toNat.testBit j && (ok || j != n))) ∧
        (ok = false → 0 < s.board.capacity → ∀ line, linkOf (128 * line) = n → s'.lineBad line = true))) ∧
    (n < 48 →
      (s.sys.fpstat.toNat.testBit n = true → ∃ s', exec (.fabricFlitRetry n) s = .next s' ∧
        s' = { s with sys := { s.sys with fperr := s'.sys.fperr } } ∧
        bits s'.sys.fperr 32 16 = min 0xFFFF (bits s.sys.fperr 32 16 + 1)) ∧
      (∃ s', exec (.fabricPortDown n) s = .next s' ∧
        (∀ j, j < 64 → s'.sys.fpstat.toNat.testBit j = (s.sys.fpstat.toNat.testBit j && j != n)) ∧
        ((∀ x ∈ (s.port n).queue, x.1 = 2) → (s'.port n).queue = [] ∧ s'.fabric.sent = s.fabric.sent) ∧
        (∀ k, (s.port n).queue = [(vcOf k, k)] → vcOf k ≠ 2 →
          (∃ q, q < 48 ∧ q ≠ n ∧ (s.routeMask k.dst).testBit q = true ∧ s.sys.fpstat.toNat.testBit q = true) → Leaves s' k)) ∧
      (∀ flit : Nat, flit < 2 ^ 256 → (s.port n).queue = [] → (s.port n).credits.length = 4 →
        let credit := fun (vc : Nat) => flit / 2 ^ (224 + 8 * vc) % 256
        let node := fun (i : Nat) => flit / 2 ^ (208 - 24 * i) % 65536
        let depth := fun (i : Nat) => flit / 2 ^ (200 - 24 * i) % 256
        ∃ s', exec (.bufferReleaseFlit n flit) s = .next s' ∧ s' = { s with fabric := s'.fabric } ∧
          (∀ vc, vc < 4 → (s'.port n).credits.getD vc 0 = (s.port n).credits.getD vc 0 + credit vc) ∧
          ∀ i, i < 7 → node i ≠ 0xFFFF → (∀ j, i < j → j < 7 → node j ≠ node i) →
            (s'.port n).depths.find? (fun x => x.1 == node i) = some (node i, depth i))) ∧
    (∀ (b : Bolt) (p : BoltPkt) (egress : Nat), s.fabric.bolts = [b] →
      let plain : Prop := ¬(p.pkt.cls = 2 ∧ p.pkt.dst = 0xFFFF)
      (b.held = [p] → b.sent = [] →
        let gone := fun (x : List (Nat × BoltPkt)) (c : Nat) =>
          ({ s with fabric := { s.fabric with bolts := [{ b with held := [], sent := x, discards := c }] } } : State)
        (s.time.ns < p.since + 10000 →
          (plain → p.pkt.dst ≠ b.node → b.trained.testBit egress = true → p.via = none ∨ p.via = some egress →
            (∃ x ∈ b.routes, x.1 = p.pkt.dst ∧ egress ∈ x.2) →
            ((∀ c ∈ b.cables, c.2 ≠ egress) → exec (.boltForward b.id 0 egress) s = .next (gone [(egress, p)] b.discards)) ∧
            (n < 48 → b.cables = [(n, egress)] → exec (.boltForward b.id 0 egress) s =
              .next { gone [(egress, p)] b.discards with agenda := s.agenda ++ [arrivalStep n p.pkt] })) ∧
          (plain → p.pkt.dst ≠ b.node → b.trained.testBit egress = false ∨ (∃ e, p.via = some e ∧ e ≠ egress) →
            exec (.boltForward b.id 0 egress) s = .next s) ∧
          (p.pkt.cls = 2 → p.pkt.dst = 0xFFFF → (∀ c ∈ b.cables, c.2 ≠ p.pkt.addr % 64) → exec (.boltForward b.id 0 egress) s =
            .next (if b.trained.testBit (p.pkt.addr % 64) = true then gone [(p.pkt.addr % 64, p)] b.discards
                   else gone [] (b.discards + 1))) ∧
          (plain → p.pkt.dst = b.node → p.pkt.cls = 0 → p.pkt.etag = etagOf p.pkt → b.dups = [] →
            (p.pkt.typ = 0x01 ∨ p.pkt.typ = 0x03 ∧ 1 < p.pkt.len ∧ Memory.wf b.mem = true) →
            ∃ s' c x, exec (.boltForward b.id 0 egress) s = .next s' ∧ s'.fabric.bolts = [c] ∧ c.held = [x] ∧ x.pkt.dst = p.pkt.src ∧
              x.pkt.tag = p.pkt.tag ∧ x.pkt.aux = 0 ∧
              (p.pkt.typ = 0x01 → x.pkt.typ = 0x02 ∧ x.pkt.data = memRead b.mem p.pkt.addr (32 * p.pkt.aux) ∧ c.mem = b.mem) ∧
              (p.pkt.typ = 0x03 → p.pkt.data.length = 32 * p.pkt.len → x.pkt.typ = 0x04 ∧ ∀ y, memGet c.mem y =
                if p.pkt.addr ≤ y ∧ y < p.pkt.addr + 32 * p.pkt.len then p.pkt.data.getD (y - p.pkt.addr) 0#8 else memGet b.mem y)) ∧
          exec (.boltDiscard b.id 0) s = .next s) ∧
        (p.since + 10000 ≤ s.time.ns →
          exec (.boltForward b.id 0 egress) s = .next s ∧ exec (.boltDiscard b.id 0) s = .next (gone [] (b.discards + 1)))) ∧
      (∀ q, b.held = [q, p] → q.seq < p.seq → q.ingress = p.ingress → q.vc = p.vc → q.pkt.dst = p.pkt.dst →
        q.pkt.addr / 128 = p.pkt.addr / 128 → plain → exec (.boltForward b.id 1 egress) s = .next s))

/-! ## Scheduling on a core (04/R87 to R95) -/

namespace Sys2Proof.Claim

/-- A thread of a core stands ready at a header, its team resident and not being evicted, and its group in the active set (04/R87, R91, R98). -/
structure Stands (s : State) (core : Nat) (t : Thread) : Prop where
  on : t.id.core = core
  lane : t.id.lane < 32
  ready : t.run = .ready
  header : t.clause = none
  resident : (s.team t.team).state = .resident
  stays : (s.team t.team).leaving = false
  active : ∃ c, (t.id.slot, c) ∈ (s.core core).active
  level : t.depth = 0

/-- The core has two threads, which stand, and nothing on it moves or waits. -/
structure TwoThreads (s : State) (core : Nat) (t u : Thread) : Prop where
  threads : s.threads = [t, u]
  names : t.id ≠ u.id
  first : Stands s core t
  second : Stands s core u
  moves : (s.core core).moves = []
  log : s.log = []
  issue : s.issue = []
  plain : (s.grid (s.team t.team).grid).determ = false ∧ (s.grid (s.team u.team).grid).determ = false

/-- The effective priority of an entry of one thread: its team's, and what it has aged, at most 127 (04/R94). -/
def effOf (s : State) (e : Entry) (t : Thread) : Nat := min 127 ((s.team t.team).prio + e.aged)

/-- The two threads stand in entries of their own. -/
structure TwoEntries (s : State) (core : Nat) (t u : Thread) (e f : Entry) : Prop extends TwoThreads s core t u where
  entries : s.entries = [e, f]
  cores : e.core = core ∧ f.core = core
  members : e.members = [t.id] ∧ f.members = [u.id]
  numbers : e.id ≠ f.id
  places : (e.set, e.way) ≠ (f.set, f.way)

/-- The entry of a thread issues from a slot. -/
def IssuesFrom (s' : State) (core slot : Nat) (e : Entry) (t : Thread) : Prop :=
  s'.issue = [t.id] ∧ ((s'.core core).slotOf slot).entry = some e.id

end Sys2Proof.Claim

/-- ISSUE_FORMATION, ISSUE_SLOT_CHOICE, FAIRNESS_SWITCH and PRIORITY_AGING (04/R90 to R95): threads at one PC of one context and in
different lanes join an entry, others have entries of their own, in the set of their PC and context; a slot issues again from the entry it issued from last, up to 64 times while a higher one
waits, else from the entry of highest effective priority; a thread that has waited 4,096 cycles while another path of its group issued
goes first; an entry ages by 1 for every 4,096 cycles.
Points that the spec leaves open follow the model (log entries 53, 54). -/
def Obligations.IssueScheduling : Prop :=
  ∀ (s : State) (core : Nat) (t u : Thread),
    (TwoThreads s core t u → s.entries = [] →
      let ctx := (s.grid (s.team t.team).grid).ctx
      let one := fun (s' : State) (x : Thread) (l : List Tid → Prop) => ∃ e ∈ s'.entries, e.core = core ∧ e.pc = x.pc ∧
        e.ctx = (s.grid (s.team x.team).grid).ctx ∧ e.set = x.pc / 4 % 64 ^^^ x.pc / 256 % 64 ^^^ e.ctx % 64 ∧ e.way < 4 ∧ l e.members
      ∃ s', exec (.issueFormation core) s = .next s' ∧
        (t.pc = u.pc → ctx = (s.grid (s.team u.team).grid).ctx → t.id.lane ≠ u.id.lane →
          s'.entries.length = 1 ∧ one s' t fun m => ∀ i, i ∈ m ↔ i = t.id ∨ i = u.id) ∧
        (t.pc ≠ u.pc ∨ ctx ≠ (s.grid (s.team u.team).grid).ctx ∨ t.id.lane = u.id.lane →
          s'.entries.length = 2 ∧ (one s' t fun m => m = [t.id]) ∧ (one s' u fun m => m = [u.id])) ∧
        (∀ x ∈ [t, u], (s'.thread x.id).run = .ready ∧ (s'.thread x.id).pc = x.pc ∧ ∀ n, (s'.thread x.id).reg n = x.reg n) ∧
        s' = { s with entries := s'.entries, threads := s'.threads, fresh := s'.fresh }) ∧
    (∀ (e f : Entry) (k : Nat), TwoEntries s core t u e f → k < 2 → ((s.core core).slotOf (1 - k)).entry = none →
      let last := ((s.core core).slotOf k)
      let chosen := fun (x : Entry) (y : Thread) => ∃ s', exec (.issueSlotChoice core k) s = .next s' ∧ IssuesFrom s' core k x y
      (last.entry = none → effOf s e t < effOf s f u → chosen f u) ∧
      (last.entry = none → effOf s f u < effOf s e t → chosen e t) ∧
      (last.entry = some e.id → last.run < 64 ∨ effOf s f u ≤ effOf s e t → chosen e t) ∧
      (last.entry = some e.id → 64 ≤ last.run → effOf s e t < effOf s f u → chosen f u) ∧
      (s.time.cyc < max t.lastIssue t.readySince + 4096 → max u.lastIssue u.readySince + 4096 ≤ s.time.cyc →
        t.id.slot = u.id.slot → t.pc ≠ u.pc → max u.lastIssue u.readySince < t.lastIssue →
        ∃ s', exec (.fairnessSwitch core k) s = .next s' ∧ IssuesFrom s' core k f u)) ∧
    (∃ s', exec (.priorityAging core) s = .next s' ∧ s' = { s with entries := s'.entries, cores := s'.cores } ∧
      s'.entries = s.entries.map (fun e => if e.core = core then { e with aged := min 127 ((s.time.cyc - e.since) / 4096) } else e) ∧
      (s'.core core).slow = (s.core core).slow.map fun x => (x.1, x.2.1, min 127 ((s.time.cyc - x.2.1) / 4096)))

/-- ROTATION_BLOCKED, ROTATION_QUANTUM and CONTEXT_MOVE_COMPLETE (04/R87 to R89): while a ready group waits in the slow file, an active
group with no thread that can run leaves, and the waiting one enters where there is room; contexts move one after the other in each
direction, at 256 bytes a cycle; once in 65,536 cycles the active group
leaves for one of equal or higher effective priority that waits; a move ends when its time has passed and, of a group that leaves,
its clauses are complete.
Points that the spec leaves open follow the model (log entries 54, 55). -/
def Obligations.ActiveSet : Prop :=
  ∀ (s : State) (core : Nat),
    let c := s.core core
    let kib := fun (slot : Nat) => s.slotKib core slot
    let alone := fun (s' : State) => s' = { s with cores := s'.cores }
    (∀ (x : Nat × Nat × Nat), c.slow = [x] → s.groupReady core x.1 = true → (c.active.map (·.1)).Nodup →
      let room : Prop := c.active.length < 16 ∧ (c.active.map fun a => kib a.1).sum + kib x.1 ≤ 128
      let free := fun (into : Bool) => ((c.moves.filter fun m => m.into == into).map (·.til)).foldl max s.time.cyc
      let goes : Move := { slot := x.1, into := true, til := free true + 4 * kib x.1 }
      (room → (∀ a ∈ c.active, s.groupStopped core a.1 = false) →
        ∃ s', exec (.rotationBlocked core) s = .next s' ∧ alone s' ∧ (s'.core core).active = c.active ++ [(x.1, s.time.cyc)] ∧
          (s'.core core).slow = [] ∧ (s'.core core).moves = c.moves ++ [goes]) ∧
      (∀ a ∈ c.active, (∀ b ∈ c.active, s.groupStopped core b.1 = true ↔ b = a) → (∀ m ∈ c.moves, m.slot ≠ a.1) →
        let gone : Move := { slot := a.1, into := false, til := free false + 4 * kib a.1 }
        ∃ s', exec (.rotationBlocked core) s = .next s' ∧ alone s' ∧
          (room → (s'.core core).active = c.active ++ [(x.1, s.time.cyc)] ∧ (s'.core core).slow = [] ∧ (s'.core core).moves = c.moves ++ [gone, goes]) ∧
          (¬room → (s'.core core).active = c.active ∧ (s'.core core).slow = c.slow ∧ (s'.core core).moves = c.moves ++ [gone])) ∧
      (¬room → c.moves = [] →
        let eff := min 127 (s.slotPrio core x.1 + x.2.2)
        let leaves := fun (s' : State) (a : Nat × Nat) => (s'.core core).moves = [{ slot := a.1, into := false, til := s.time.cyc + 4 * kib a.1 }]
        ((∀ a ∈ c.active, s.groupStopped core a.1 = false) → exec (.rotationBlocked core) s = .next s) ∧
        (s.coreDeterm core = false → s.entries = [] →
          (c.lastQuantum + 65536 ≤ s.time.cyc →
            ∃ s', exec (.rotationQuantum core) s = .next s' ∧ alone s' ∧ (s'.core core).lastQuantum = s.time.cyc ∧
              (∀ a ∈ c.active, (∀ b ∈ c.active, b ≠ a → s.slotPrio core a.1 < s.slotPrio core b.1) → s.slotPrio core a.1 ≤ eff →
                c.active.length ≤ 16 → (c.active.map fun b => kib b.1).sum + kib x.1 ≤ 128 + kib a.1 → leaves s' a) ∧
              ((∀ a ∈ c.active, eff < s.slotPrio core a.1) → (s'.core core).moves = [])) ∧
          (s.time.cyc < c.lastQuantum + 65536 → exec (.rotationQuantum core) s = .next s)))) ∧
    (∀ (m : Move), c.moves = [m] →
      (s.time.cyc < m.til → exec (.contextMoveComplete core m.slot) s = .next s) ∧
      (m.til ≤ s.time.cyc → m.into = true →
        ∃ s', exec (.contextMoveComplete core m.slot) s = .next s' ∧ alone s' ∧ (s'.core core).moves = [] ∧
          (s'.core core).active = c.active ∧ (s'.core core).slow = c.slow) ∧
      (m.til ≤ s.time.cyc → m.into = false → (∀ t ∈ s.threads, t.id.core = core → t.id.slot = m.slot → t.clause = none) →
        ∃ s', exec (.contextMoveComplete core m.slot) s = .next s' ∧ (s'.core core).moves = [] ∧
          (s'.core core).active = (c.active.filter fun a => a.1 != m.slot) ∧ (s'.core core).slow = c.slow ++ [(m.slot, s.time.cyc, 0)] ∧
          s' = { s with cores := s'.cores, entries := s'.entries } ∧
          (∀ e ∈ s'.entries, e.core = core → ∀ i ∈ e.members, i.core = core → i.slot ≠ m.slot)))

/-! ## Placing, forming, evicting and discarding teams (03/R63, 04/R76 to R86, R98 to R104, 12/R280) -/

namespace Sys2Proof.Claim

/-- The block of group gi in a save area that begins at b, for a team of a scratchpad size (12/R280): after the header, the
scratchpad, the matrix registers and the tacks. -/
def blockAt (b scratch gi : Nat) : Nat := b + 4096 + scratch + 16 * 16384 + 16 * 8192 + 40960 * gi

/-- A team without tiles or tacks, whose scratchpad and groups are as R280 lays them out. -/
structure Layout (s : State) (tm : Team) : Prop where
  groups : tm.slots.length = tm.groups.length
  slots : tm.slots.Nodup ∧ ∀ k ∈ tm.slots, k < 64
  tiles : tm.mregs = List.replicate 16 MReg.reset
  tacks : tm.tacks = List.replicate 16 Tack.reset
  six : ∀ g ∈ tm.groups, g.errs.length = 6
  scr : Memory.wf tm.scr = true
  within : ∀ c ∈ tm.scr, c.1 < tm.scratch
  names : (s.threads.map fun t => t.id).Nodup
  threads : ∀ t ∈ s.threads, t.team = tm.id → t.id.core = tm.core ∧ t.id.slot ∈ tm.slots ∧ t.id.lane < 32 ∧ regsRise 0 t.regs = true ∧ ∀ c ∈ t.regs, c.n < 255

/-- An evicted team of a core has woken and has no room, another is resident there, of no higher priority, and would make room
(04/R99). -/
structure Pressed (s : State) (core : Nat) (tm w : Team) (st : TeamState) : Prop where
  teams : s.teams = [tm, w]
  ids : tm.id ≠ w.id
  cores : tm.core = core ∧ w.core = core
  resident : tm.state = .resident
  evicted : w.state = .evicted
  woken : w.woken.isSome = true
  prio : tm.prio ≤ w.prio
  full : s.returns w = false
  makes : (s.editTeam tm.id fun x => { x with state := st }).returns w = true

end Sys2Proof.Claim

/-- TEAM_PLACEMENT and BOBBIN_TIMER (03/R63; 04/R76, R79, R84, R86): on an empty core of its partition the next team of a grid is
placed with its PARTWORD, in the lowest slots, and every thread stands at the entry with the argument in v0 and v1 as far as NR reaches
and every other register zero; a bobbin whose timer has run out forms a pending team of its children, and before that nothing.
Points that the spec leaves open follow the model (log entry 36). -/
def Obligations.Placement : Prop :=
  ∀ (s : State),
    (∀ (panel core : Nat) (g : Grid), s.grids = [g] → s.teams = [] → s.threads = [] → g.status = none → g.privWords = 0 → g.nextTeam = 0 →
      0 < g.teams → panel < 8 → core / 128 = panel → g.clusters.testBit (core / 4) = true →
      (∀ j, j / 128 = panel → j < core → g.clusters.testBit (j / 4) = false) → (s.panel panel).lastPlaced = none →
      s.sys.savepool.toNat.testBit 0 = false → (footprint g.roles g.scratch).fits g.partword = true →
      ∃ s', exec (.teamPlacement panel) s = .next s' ∧ (s'.team s.fresh).state = .resident ∧ (s'.team s.fresh).grid = g.id ∧
        (s'.team s.fresh).num = 0 ∧ (s'.team s.fresh).core = core ∧ (s'.team s.fresh).slots = List.range g.roles.length ∧
        (s'.core core).partword = some g.partword ∧ (s'.grid g.id).nextTeam = 1 ∧ (s'.panel panel).lastPlaced = some core ∧
        (∀ gi lane, gi < g.roles.length → lane < 32 →
          let t := s'.thread { core := core, slot := gi, lane := lane }
          let nr := (g.roles.getD gi { kind := 4, nr := 255 }).nr
          t.team = s.fresh ∧ t.depth = 0 ∧ t.clause = none ∧ t.astat = 0#6 ∧
          (g.width = 1 ∧ 16 ≤ lane → t.run = .exited) ∧
          (g.width ≠ 1 ∨ lane < 16 → t.run = .ready ∧ t.pc = g.entry ∧
            ∀ n, t.reg n = if n = 0 then (BitVec.ofNat 32 (g.args.toNat % 2 ^ 32), .n64)
              else if n = 1 ∧ 1 < nr then (BitVec.ofNat 32 (g.args.toNat / 2 ^ 32), .n64) else (0#32, .raw))) ∧
        (∀ x, memGet s'.mem x = memGet s.mem x)) ∧
    (∀ (cluster : Nat) (b : Bobbin), s.bobbins = [(cluster, b)] → (s.grid b.grid).determ = false → (s.grid b.grid).capture = false →
      (b.opened + b.timer ≤ s.time.cyc →
        ∃ s' tm, exec (.bobbinTimer cluster b.index) s = .next s' ∧ s'.bobbins = [] ∧ tm ∈ s'.teams ∧ tm.state = .pending ∧
          tm.grid = b.grid ∧ tm.args = b.kids ∧ tm.entry = b.entry ∧ tm.spawner = some cluster ∧
          tm.groups.length = (b.kids.length + 31) / 32) ∧
      (s.time.cyc < b.opened + b.timer → exec (.bobbinTimer cluster b.index) s = .next s))

/-- EVICTION, REINSTATEMENT and IDEMPOTENT_DISCARD (04/R98 to R103; 12/R280): the victim of a core's demand stops issuing; while its commands
or loads are under way its eviction waits; then it is abandoned where a wake condition holds, and else its registers and its
scratchpad are written to its save area, and it keeps its slots and granules; a woken team returns to them with what its save area holds; a
discarded team goes back to its grid's pending teams, restarted.
Points that the spec leaves open follow the model (log entries 39, 43). -/
def Obligations.Evictions : Prop :=
  ∀ (s : State) (core : Nat) (tm : Team), Layout s tm → Memory.wf s.mem = true → s.l1 = [] →
    let group := fun (t : Thread) => tm.slots.findIdx fun x => x == t.id.slot
    let image := fun (b : Nat) (t : Thread) (n : Nat) => blockAt b tm.scratch (group t) + 128 * n + 4 * t.id.lane
    let tags := fun (b : Nat) (t : Thread) (n : Nat) => blockAt b tm.scratch (group t) + 32768 + 16 * n + t.id.lane / 2
    let nibble := fun (x : Byte) (t : Thread) => x.toNat / 16 ^ (t.id.lane % 2) % 16
    (∀ (w : Team), Pressed s core tm w .evicted → tm.leaving = false → s.evictable tm = true →
      exec (.eviction core) s = .next { s with teams := [{ tm with leaving := true }, w] }) ∧
    (∀ (rest : List Team), s.teams = tm :: rest → (∀ x ∈ rest, x.id ≠ tm.id) → tm.core = core → tm.state = .resident → tm.leaving = true →
      (s.teamQuiet tm = false → exec (.eviction core) s = .next s) ∧
      (s.teamQuiet tm = true → s.evictEnds tm = true → exec (.eviction core) s = .next { s with teams := { tm with leaving := false } :: rest })) ∧
    (∀ (w : Team) (b n : Nat), s.teams = [tm, w] → w.id ≠ tm.id → tm.core = core → tm.state = .resident → tm.leaving = true →
      s.teamQuiet tm = true → s.evictEnds tm = false → tm.save = some (b, n) →
      ∃ s', exec (.eviction core) s = .next s' ∧ (s'.team tm.id).state = .evicted ∧ (s'.team tm.id).leaving = false ∧ (s'.team tm.id).slots = tm.slots ∧
        (s'.team tm.id).gran = tm.gran ∧ (s'.team tm.id).save = some (b, n) ∧ s'.team w.id = s.team w.id ∧
        (∀ t ∈ s.threads, t.team = tm.id → ∀ k, k < 255 →
          number s'.mem (image b t k) 4 = (t.reg k).1.toNat ∧ nibble (memGet s'.mem (tags b t k)) t = (t.reg k).2.code) ∧
        (∀ x, x < tm.scratch → memGet s'.mem (b + 4096 + x) = memGet tm.scr x) ∧
        (∀ x, (x < b ∨ blockAt b tm.scratch tm.groups.length ≤ x) → memGet s'.mem x = memGet s.mem x) ∧
        s'.threads = s.threads ∧ (∀ k ∈ tm.slots, ¬((s'.core core).active.any fun a => a.1 == k) = true)) ∧
    (∀ (b n : Nat), s.teams = [tm] → tm.core = core → tm.state = .evicted → tm.woken.isSome = true → tm.save = some (b, n) →
      s.returns tm = true →
      ∃ s', exec (.reinstatement core) s = .next s' ∧ (s'.team tm.id).state = .resident ∧ (s'.team tm.id).slots = tm.slots ∧
        (s'.team tm.id).gran = tm.gran ∧ s'.mem = s.mem ∧
        (∀ x, x < tm.scratch → memGet (s'.team tm.id).scr x = memGet s.mem (b + 4096 + x)) ∧
        (∀ t ∈ s.threads, t.team = tm.id → ∀ k, k < (tm.groups.getD (group t) (Group.fresh { kind := 4, nr := 255 })).role.nr →
          (s'.thread t.id).pc = t.pc ∧ (s'.thread t.id).run = t.run ∧
          (k < 255 → (s'.thread t.id).reg k =
            (BitVec.ofNat 32 (number s.mem (image b t k) 4), Tag.ofCode (nibble (memGet s.mem (tags b t k)) t)))) ∧
        (∀ k ∈ tm.slots, ((s'.core core).slow.any fun a => a.1 == k) = true)) ∧
    (∀ (w : Team), Pressed s core tm w .gone → tm.idem = true → tm.sfx = false → (s.grid tm.grid).status = none → s.evictable tm = false →
      tm.restarts < 65535 → w.id < s.fresh → tm.id < s.fresh →
      ∃ s', exec (.idempotentDiscard tm.id) s = .next s' ∧ (∀ x ∈ s'.teams, x.id ≠ tm.id) ∧
        (s'.team s.fresh).state = .pending ∧ (s'.team s.fresh).num = tm.num ∧ (s'.team s.fresh).grid = tm.grid ∧
        (s'.team s.fresh).restarts = tm.restarts + 1 ∧ (s'.team s.fresh).sfx = false ∧ (∀ t ∈ s'.threads, t.team ≠ tm.id) ∧
        (∀ x, memGet s'.mem x = memGet s.mem x))

/-! ## Launch requests, capture and replay, the end of grids and stops (03/R58 to R66, R73, R74; 19/R427, R428) -/

namespace Sys2Proof.Claim

/-- n bytes of a record at an offset, as a little-endian number. -/
def fieldOf (r : List Byte) (a n : Nat) : Nat := leNat ((r.drop a).take n)

/-- A launch record that a context's address names, in a LOCAL page whose line is good, and its 128 bytes (03/R61). -/
structure RecordAt (s : State) (ctx va : Nat) (r : List Byte) : Prop where
  aligned : va % 128 = 0 ∧ va < 2 ^ 55
  page : ∃ lvl leaf, (s.walk ctx va).2 = .leaf lvl leaf ∧ (leafXlat lvl leaf va).apt = 0 ∧
    s.lineBad ((leafXlat lvl leaf va).pa / 128) = false ∧ r = memRead s.mem (leafXlat lvl leaf va).pa 128
  upd : s.upd = []
  det : s.l2.det = []
  none : s.records = []
  ids : ∀ x ∈ s.grids, x.id < s.fresh

/-- The status of a request whose record is r (03/R59, R61), in the order of R59. -/
inductive Judged (s : State) (ctx : Nat) (r : List Byte) : Nat → Prop where
  | invalid : s.recordOk ctx r = false → Judged s ctx r 7
  | features (k : Nat) : s.recordOk ctx r = true → k < 32 → (fieldOf r 52 4).testBit k = true →
      s.sys.features.toNat.testBit k = false → Judged s ctx r 8
  | tooBig : s.recordOk ctx r = true → (∀ k, k < 32 → (fieldOf r 52 4).testBit k = true → s.sys.features.toNat.testBit k = true) →
      (footprint (recRoles r) (fieldOf r 40 4)).fits (BitVec.ofNat 64 (fieldOf r 32 8)) = false → Judged s ctx r 9
  | stopping (x : Stop) : s.recordOk ctx r = true →
      (∀ k, k < 32 → (fieldOf r 52 4).testBit k = true → s.sys.features.toNat.testBit k = true) →
      (footprint (recRoles r) (fieldOf r 40 4)).fits (BitVec.ofNat 64 (fieldOf r 32 8)) = true →
      x ∈ s.stops → x.ctx = ctx → fieldOf r 56 4 ∈ x.jobs → Judged s ctx r 10
  | accepted : s.recordOk ctx r = true →
      (∀ k, k < 32 → (fieldOf r 52 4).testBit k = true → s.sys.features.toNat.testBit k = true) →
      (footprint (recRoles r) (fieldOf r 40 4)).fits (BitVec.ofNat 64 (fieldOf r 32 8)) = true →
      (∀ x ∈ s.stops, ¬(x.ctx = ctx ∧ fieldOf r 56 4 ∈ x.jobs)) → s.grids.length < 4096 → Judged s ctx r 0

/-- A grid has been accepted with what its record says; where the status is another, no grid is new. -/
def Taken (s s' : State) (ctx va st cookie : Nat) (req : Option (Nat × Nat × Nat)) (r : List Byte) : Prop :=
  (st ≠ 0 → s'.grids = s.grids) ∧
  (st = 0 → ∃ g, s'.grids = s.grids ++ [g] ∧ g.ctx = ctx ∧ g.record = va ∧ g.cookie = cookie ∧ g.requester = req ∧
    g.entry = fieldOf r 0 8 ∧ g.teams = fieldOf r 8 4 ∧ g.roles = recRoles r ∧ g.partword = BitVec.ofNat 64 (fieldOf r 32 8) ∧
    g.scratch = fieldOf r 40 4 ∧ g.privWords = fieldOf r 44 4 ∧ g.prio = fieldOf r 48 1 ∧ g.width = fieldOf r 49 1 ∧
    g.idem = (fieldOf r 50 1).testBit 0 ∧ g.capture = (fieldOf r 50 1).testBit 1 ∧ g.determ = (fieldOf r 50 1).testBit 2 ∧
    g.notify = (fieldOf r 50 1).testBit 3 ∧ g.featmask = fieldOf r 52 4 ∧ g.job = fieldOf r 56 4 ∧ g.part = fieldOf r 60 1 ∧
    g.args = BitVec.ofNat 64 (fieldOf r 64 8) ∧ g.done = fieldOf r 72 8 ∧ g.nextTeam = 0 ∧ g.status = none ∧ g.finished = false)

/-- A grid that is the only one, is over but for its completion word, and whose writes have been answered (03/R64). -/
structure WordDue (s : State) (g : Grid) (st : Nat) : Prop where
  grids : s.grids = [g]
  status : g.status = some st
  open_ : g.finished = false
  reqs : s.fabric.reqs = []
  acks : ∀ t ∈ s.teams, t.grid = g.id → ∀ x ∈ t.groups, x.ack = 0
  cores : ∀ c ∈ s.cores, ∀ x ∈ c.ctxAck, x.1 ≠ g.ctx
  cmds : s.cmds = []

/-- A grid is finished: its teams are gone, and its requester, if it asked for it, is told its status. -/
def Finished (s' : State) (g : Grid) (st : Nat) : Prop :=
  (s'.grid g.id).finished = true ∧ (s'.grid g.id).status = some st ∧ (∀ t ∈ s'.teams, t.grid ≠ g.id) ∧ (∀ p ∈ s'.privs, p.grid ≠ g.id) ∧
  ∀ port src tag, g.requester = some (port, src, tag) → g.notify = true →
    ∃ r, Leaves s' r ∧ r.typ = 0x11 ∧ r.aux = 0x80 + st ∧ r.dst = src ∧ r.tag = tag ∧ r.etag = etagOf r

/-- A completion word lies in a writable LOCAL page whose line is free and good. -/
def WordAt (s : State) (g : Grid) (pa : Nat) : Prop :=
  g.done ≠ 0 ∧ g.done < 2 ^ 55 ∧ Plain s pa 8 ∧ pa % 8 = 0 ∧ ∃ lvl leaf, (s.walk g.ctx g.done).2 = .leaf lvl leaf ∧
    (leafXlat lvl leaf g.done).pa = pa ∧ (leafXlat lvl leaf g.done).w = true ∧ (leafXlat lvl leaf g.done).apt = 0

end Sys2Proof.Claim

/-- LAUNCH, LAUNCH_REQUEST and MGMT_RECEIVE (03/R58 to R61; 01/R29; 19/R427): a request's record is read once and judged in the order
of R59; an accepted one is a pending grid with what the record says; a thread gets the status, a packet its answer, which is NOTREADY
before bring-up is over and DENIED where the launch access list does not permit it; a thread's launch waits for its releases at SY; a
message goes to the runtime.
Points that the spec leaves open follow the model (log entries 37, 58). -/
def Obligations.Launches : Prop :=
  ∀ (s : State) (r : List Byte) (st : Nat),
    (∀ (p : Pre) (d a : Nat) (t : Thread),
      let A := srcP 1 a noPerm
      let ctx := (s.grid (s.team t.team).grid).ctx
      let va := s.srcVal t p A
      Alone s p t → (Instr.launch p d a).wf = true → s.gate t p .any [dst d false] [A] = none → RecordAt s ctx va r → Judged s ctx r st → s.releaseOpen t = false →
      ∃ s', exec (.launch p d a) s = .next s' ∧ Passed s' p t ∧ Pending s' p t (cells false d st .n32) 0#6 ∧
        Taken s s' ctx va st 0 none r) ∧
    (∀ (p : Pre) (d a : Nat) (t : Thread), Alone s p t → (Instr.launch p d a).wf = true → s.gate t p .any [dst d false] [srcP 1 a noPerm] = none →
      s.releaseOpen t = true →
      ∃ s', exec (.launch p d a) s = .next s' ∧ (s'.thread t.id).run = .held ∧ (s'.thread t.id).pc = t.pc ∧ Apart s s' (s.actors p)) ∧
    (∀ (port : Nat) (k : Packet), Arrives s port k →
      let up : Prop := bits s.sys.bootstat 0 4 = 10 ∧ bits s.sys.bootstat 32 8 = 0
      let va := fieldOf k.data 0 8
      (k.typ = 0x10 →
        (up → s.laclOk k.src k.ctx = true → RecordAt s k.ctx va r → Judged s k.ctx r st →
          ∃ s', exec (.launchRequest port k) s = .next s' ∧ Answers s' k 0x11 st [] ∧
            Taken s s' k.ctx va st (fieldOf k.data 8 4) (some (port, k.src, k.tag)) r) ∧
        (up → s.laclOk k.src k.ctx = false →
          ∃ s', exec (.launchRequest port k) s = .next s' ∧ Answers s' k 0x11 1 [] ∧ s' = { s with fabric := s'.fabric }) ∧
        (¬up → ∃ s', exec (.launchRequest port k) s = .next s' ∧ Answers s' k 0x11 5 [] ∧ s' = { s with fabric := s'.fabric })) ∧
      (k.typ = 0x12 →
        (up → ∃ s', exec (.mgmtReceive port k) s = .next s' ∧ Answers s' k 0x11 0 [] ∧
          s'.board.events = s.board.events ++ [.mgmt port k]) ∧
        (¬up → ∃ s', exec (.mgmtReceive port k) s = .next s' ∧ Answers s' k 0x11 5 [] ∧ s' = { s with fabric := s'.fabric })))

/-- CAPMARK and REPLAY_INJECTION (03/R73, R74; 19/R428): a captured grid records 32 bytes at the end of its region, time, kind 7,
core, immediate, PC; another grid records nothing; a replay takes the next record of the core, and one that differs ends the grid with
status 3; a recorded WRITE is performed where it was performed, once.
Points that the spec leaves open follow the model (log entries 24, 25). -/
def Obligations.CaptureAndReplay : Prop :=
  ∀ (s : State),
    (∀ (p : Pre) (imm : Int) (t : Thread), Alone s p t → (Instr.capmark p imm).wf = true →
      let g := s.grid (s.team t.team).grid
      let again : Prop := g.determ = true ∧ s.sys.capcfg.toNat.testBit 1 = true
      let v := (imm % 2 ^ 32).toNat
      let a := bits s.sys.capcfg 12 40 * 4096 + s.capture.pos
      (¬again → g.capture = false ∨ s.sys.capcfg.toNat.testBit 0 = false →
        ∃ s', exec (.capmark p imm) s = .next s' ∧ Passed s' p t ∧ Apart s s' (s.actors p)) ∧
      (¬again → g.capture = true → s.sys.capcfg.toNat.testBit 0 = true → s.sys.capcfg.toNat.testBit 2 = false →
        s.capture.pos + 32 ≤ bits s.sys.capcfg 52 12 * 2 ^ 20 → Plain s a 32 →
        ∃ s', exec (.capmark p imm) s = .next s' ∧ Passed s' p t ∧ s'.capture.pos = s.capture.pos + 32 ∧
          number s'.mem a 8 = s.time.ns % 2 ^ 64 ∧ number s'.mem (a + 8) 1 = 7 ∧ number s'.mem (a + 9) 3 = t.id.core % 2 ^ 24 ∧
          number s'.mem (a + 12) 4 = v ∧ number s'.mem (a + 16) 8 = t.pc % 2 ^ 64 ∧ number s'.mem (a + 24) 8 = 0 ∧
          (∀ x, (x < a ∨ a + 32 ≤ x) → memGet s'.mem x = memGet s.mem x)) ∧
      (∀ (c : CapRec), again → s.capNext (fun r => r.kind == 7 && r.unit == t.id.core) = some c →
        (c.detail = v → ∃ s', exec (.capmark p imm) s = .next s' ∧ Passed s' p t ∧ s'.capture.used = s.capture.used ++ [c.pos] ∧
          (∀ x, memGet s'.mem x = memGet s.mem x)) ∧
        (c.detail ≠ v → Running s (s.team t.team).grid → s.l1 = [] → s.upd = [] →
          ∃ s', exec (.capmark p imm) s = .next s' ∧ (s'.grid (s.team t.team).grid).status = some 3))) ∧
    (∀ (core : Nat) (g : Grid) (c : CapRec), g ∈ s.grids → s.grid g.id = g → g.status = none → g.determ = true →
      s.sys.capcfg.toNat.testBit 1 = true → s.injectable = some c → (c.kind = 1 ∨ c.kind = 5) →
      c.detail / 2 ^ 24 = 0x03 → 1 ≤ c.detail % 16 → c.detail % 16 ≤ 8 → c.value < 0xFFFFF00000000 →
      (∀ e ∈ s.fabric.lossy, ¬(e.region ≤ c.value ∧ c.value < e.region + e.size)) →
      let n := c.detail % 16
      Plain s c.value (32 * n) →
      ∃ s', exec (.replayInjection core) s = .next s' ∧ s'.capture.used = s.capture.used ++ [c.pos] ∧
        (∀ i, i < 32 * n → memGet s'.mem (c.value + i) =
          if n = 1 ∧ (number s.mem (c.data + 32) 4).testBit i = false then memGet s.mem (c.value + i) else memGet s.mem (c.data + i)) ∧
        (∀ x, (x < c.value ∨ c.value + 32 * n ≤ x) → memGet s'.mem x = memGet s.mem x))

/-- GRID_COMPLETE, COMPLETION_WORD_ANSWER, JOB_STOP and STOP_LIMIT (03/R64 to R66): a grid whose teams, bobbins and commands are over
ends with status 0; with its writes answered its completion word takes the status and the cookie, and its requester is told; a word
that cannot be written is reported, and the answer writes it again or leaves it; a stop takes jobs in downstream order and ends clean
ones with status 1, or 2 where a team has no save area; past STOPLIM those that are not clean end with status 2.
Points that the spec leaves open follow the model (log entries 38, 46). -/
def Obligations.GridEnds : Prop :=
  ∀ (s : State) (g : Grid),
    (s.grids = [g] → g.status = none → g.finished = false → g.teams ≤ g.nextTeam → (∀ t ∈ s.teams, t.grid = g.id → t.state = .gone) →
      (∀ b ∈ s.bobbins, b.2.grid ≠ g.id) → s.cmds = [] → s.l1 = [] → s.upd = [] →
      exec (.gridComplete g.id) s = .next { s with grids := [{ g with status := some 0 }] }) ∧
    (∀ (st : Nat), WordDue s g st → s.reports = [] →
      (g.done = 0 → ∃ s', exec (.gridComplete g.id) s = .next s' ∧ Finished s' g st ∧ (∀ x, memGet s'.mem x = memGet s.mem x)) ∧
      (∀ pa, WordAt s g pa → st < 2 ^ 32 → g.cookie < 2 ^ 32 →
        ∃ s', exec (.gridComplete g.id) s = .next s' ∧ Finished s' g st ∧ number s'.mem pa 4 = st ∧ number s'.mem (pa + 4) 4 = g.cookie ∧
          (∀ x, (x < pa ∨ pa + 8 ≤ x) → memGet s'.mem x = memGet s.mem x)) ∧
      (∀ c, g.done ≠ 0 → g.done < 2 ^ 55 → (s.walk g.ctx g.done).2 = .fault c → s.upd = [] → s.l2.det = [] →
        ∃ s' rep, exec (.gridComplete g.id) s = .next s' ∧ s'.reports = [rep] ∧ rep.grids = [g.id] ∧ rep.key.cause = c ∧
          rep.key.ctx = g.ctx ∧ rep.key.page = g.done / 65536 ∧ s'.board.events = s.board.events ++ [.doneFault g.id g.done c] ∧
          (s'.grid g.id).finished = false)) ∧
    (∀ (st : Nat) (rep : Report), WordDue s g st → s.reports = [rep] → rep.grids = [g.id] → rep.cmds = [] → rep.tids = [] → s.log = [] →
      (∀ ans : Answer, ans ≠ .replay → ∃ s', exec (.completionWordAnswer g.id ans) s = .next s' ∧ Finished s' g st ∧ s'.reports = [] ∧
        (∀ x, memGet s'.mem x = memGet s.mem x)) ∧
      (∀ pa, WordAt s g pa → st < 2 ^ 32 → g.cookie < 2 ^ 32 →
        ∃ s', exec (.completionWordAnswer g.id .replay) s = .next s' ∧ Finished s' g st ∧ s'.reports = [] ∧
          number s'.mem pa 4 = st ∧ number s'.mem (pa + 4) 4 = g.cookie)) ∧
    (∀ (h : Grid), s.grids = [g, h] → g.ctx = h.ctx → g.status = none → h.status = none → g.job ≠ h.job → g.edges = [] → h.edges = [g.job] →
      s.stops = [] → ∃ x, exec (.jobStop g.ctx g.job) s = .next { s with stops := [x] } ∧ x.ctx = g.ctx ∧
        x.sets = [[g.job], [h.job]] ∧ x.jobs = [g.job, h.job] ∧ x.began = s.time.ns) ∧
    (∀ (x : Stop), s.stops = [x] → s.grids = [g] → g.ctx = x.ctx → x.jobs = [g.job] → x.sets = [[g.job]] → g.status = none →
      s.l1 = [] → s.upd = [] →
      (s.cleanSet x.ctx [g.job] = true →
        ∃ s', exec (.jobStop x.ctx g.job) s = .next s' ∧ s'.stops = [] ∧
          ((∃ t ∈ s.teams, t.grid = g.id ∧ t.state = .resident ∧ t.save = none) → (s'.grid g.id).status = some 2) ∧
          ((∀ t ∈ s.teams, t.grid = g.id → t.state = .resident → t.save ≠ none) → (s'.grid g.id).status = some 1)) ∧
      (s.cleanSet x.ctx [g.job] = false →
        exec (.jobStop x.ctx g.job) s = .next s ∧
        (bits s.sys.stoplim 0 32 ≠ 0 → x.began + 1000 * bits s.sys.stoplim 0 32 ≤ s.time.ns →
          ∃ s', exec (.stopLimit x.ctx g.job) s = .next s' ∧ (s'.grid g.id).status = some 2) ∧
        (bits s.sys.stoplim 0 32 = 0 ∨ s.time.ns < x.began + 1000 * bits s.sys.stoplim 0 32 →
          exec (.stopLimit x.ctx g.job) s = .next s)))

/-! ## Steps of the memory system, translations and registers of the runtime (05/R116 to R131, 06/R133 to R145, 19/R416) -/

namespace Sys2Proof.Claim

/-- Byte i of a 128-byte line. -/
def lineByte (data i : Nat) : Byte := BitVec.ofNat 8 (data / 256 ^ i % 256)

/-- No byte of local memory, of DDR's own list, or of a scratchpad changes. -/
def SameBytes (s s' : State) : Prop := (∀ x, memGet s'.mem x = memGet s.mem x) ∧ s'.teams = s.teams ∧ s'.threads = s.threads

/-- Every 4 bytes of a line of memory hold the same number. -/
def repeats (s : State) (line v : Nat) : Prop := ∀ j, j < 32 → number s.mem (128 * line + 4 * j) 4 = v

/-- The bits of a register that a write in the S view sets (19/R416 and the tables it names); the bits of a register not named here
have rules of their own, or are read-only. -/
def writable (n i : Nat) : Bool :=
  let r := fun (lo hi : Nat) => decide (lo ≤ i) && decide (i ≤ hi)
  match n with
  | 0x025 | 0x045 | 0x050 => r 0 31
  | 0x030 => r 0 15
  | 0x031 | 0x032 => r 16 51 || i == 0
  | 0x033 => r 16 31 || r 8 11 || i == 0
  | 0x042 => r 13 51 || r 0 7
  | 0x043 | 0x044 => r 6 51 || i == 0
  | 0x052 => r 30 63 || i == 0
  | 0x060 => r 32 54 || i == 0
  | 0x062 => r 30 63 || i == 0
  | 0x070 => r 15 51 || i == 0
  | 0x090 | 0x091 => r 5 54
  | 0x092 => r 30 54 || i == 0
  | 0x093 => r 7 51 || i == 0
  | 0x047 => r 12 63 || r 0 1
  | _ => false

/-- A register held once per context. -/
def perContext (n : Nat) : Bool := n == 0x050 || n == 0x060 || n == 0x062 || n == 0x090 || n == 0x091 || n == 0x092

/-- The L1s hold no dirty byte. -/
def CleanL1 (s : State) : Prop := ∀ l ∈ s.l1, l.dirty = 0

/-- A request of an engine command of a context that an invalidation names is out (06/R140). -/
def commandOut (s : State) (i : Inval) : Prop :=
  ∃ r ∈ s.fabric.reqs, ∃ c ∈ s.cmds, (r.why = .cmd c.id ∨ r.why = .credit c.id) ∧ (i.mode = 2 ∨ i.ctx = c.ctx)

/-- A TLB entry covers an address of a page of b address bits (06/R140). -/
def covers (e : TlbEntry) (b vpn : Nat) : Prop :=
  ∃ va, va / 2 ^ (if e.level = 1 then 42 else if e.level = 2 then 29 else 16) = e.vpn ∧ va / 2 ^ b = vpn * 65536 / 2 ^ b

/-- L1_EVICTION and UPDATE_LINE_MERGE (05/R116, R118, R120): a line that leaves takes its dirty bytes home and no other; a busy one
or one whose fill is outstanding stays; an update line's elements are combined at the home, one by one. -/
def LinesLeave : Prop :=
  ∀ (s : State) (core ctx line : Nat),
    (∀ (l : L1Line), s.line? core ctx line = some l →
      (s.lineBusy l = true ∨ s.lineFilling l = true → exec (.l1Eviction core ctx line) s = .next s) ∧
      (s.lineBusy l = false → s.lineFilling l = false → l.dirty = 0 → ∃ s', exec (.l1Eviction core ctx line) s = .next s' ∧ SameBytes s s' ∧
        s'.line? core ctx line = none ∧ (∀ a b c, (a, b, c) ≠ (core, ctx, line) → s'.line? a b c = s.line? a b c)) ∧
      (s.lineBusy l = false → s.lineFilling l = false → l.dirty ≠ 0 → l.dirty < 2 ^ 128 → l.bad = false → l.apt = 0 → l.pa % 128 = 0 → Plain s l.pa 128 →
        ∃ s', exec (.l1Eviction core ctx line) s = .next s' ∧ s'.line? core ctx line = none ∧
          (∀ i, i < 128 → memGet s'.mem (l.pa + i) = if l.dirty.testBit i = true then lineByte l.data i else memGet s.mem (l.pa + i)) ∧
          (∀ x, (x < l.pa ∨ l.pa + 128 ≤ x) → memGet s'.mem x = memGet s.mem x) ∧
          (∀ a b c, (a, b, c) ≠ (core, ctx, line) → s'.line? a b c = s.line? a b c))) ∧
    (∀ (u : UpdLine), s.upd = [u] → u.core = core → u.ctx = ctx → u.line = line → s.lineBad (u.pa / 128) = false →
      Memory.wf s.mem = true → u.ty ∈ [Tag.s32, .n32, .s64, .n64, .f32] →
      let n := if u.ty.is64 then 8 else 4
      let base := u.pa / 128 * 128
      ∃ s', exec (.updateLineMerge core ctx line) s = .next s' ∧ s'.upd = [] ∧
        (∀ j, j < 128 / n → number s'.mem (base + n * j) n =
          if u.mask.testBit (n * j) = true then
            combined u.op u.ty (number s.mem (base + n * j) n) (u.data / 2 ^ (8 * n * j) % 2 ^ (8 * n)) 0 % 2 ^ (8 * n)
          else number s.mem (base + n * j) n) ∧
        (∀ x, (x < base ∨ base + 128 ≤ x) → memGet s'.mem x = memGet s.mem x))

/-- L2_MISS, L2_LINE_MOVE and DDR_WRITE_ACK (05/R126 to R131): a wanted line takes a miss register and then comes in, with the
smallest encoding of its bytes where its page is compressible and RAW elsewhere; a line whose bytes have changed takes the encoding
they have now; the bytes that an encoding stores are as many as its size, and give the line back; an acknowledged write is in DDR.
None changes the value of a byte. -/
def SlicesWork : Prop :=
  ∀ (s : State) (line : Nat),
    let alone := fun (s' : State) => SameBytes s s' ∧ s' = { s with l2 := s'.l2 }
    (∀ (c w : Bool), s.l2.want = [(line, c, w)] → s.board.mlRetry = [] →
      (s.l2.miss = [] → ∃ s', exec (.l2Miss line) s = .next s' ∧ alone s' ∧ s'.l2.miss = [(sliceOf (128 * line), line)] ∧
        s'.l2.want = s.l2.want ∧ s'.l2.lines = s.l2.lines) ∧
      (s.l2.miss = [(sliceOf (128 * line), line)] → s.l2.lines = [] → ∃ s' x, exec (.l2Miss line) s = .next s' ∧ alone s' ∧
        s'.l2.miss = [] ∧ s'.l2.want = [] ∧ s'.l2.lines = [x] ∧ x.line = line ∧ x.dirty = w ∧ x.slice = sliceOf (128 * line) ∧
        x.set = line % 12288 ∧ x.store = encodeLine x.enc (lineOf (memRead s.mem (128 * line) 128)) ∧ (c = false → x.enc = 6) ∧ (c = true → repeats s line 0 → x.enc = 0) ∧
        (∀ v, c = true → v ≠ 0 → repeats s line v → x.enc = 1))) ∧
    (∀ (x : L2Line), s.l2.lines = [x] → x.line = line →
      (x.comp = false → x.enc ≠ 6 → ∃ s', exec (.l2LineMove line) s = .next s' ∧ alone s' ∧ s'.l2.lines = [{ x with enc := 6, half := 2, store := memRead s.mem (128 * line) 128 }]) ∧
      (x.comp = true → x.enc = 6 → repeats s line 0 →
        ∃ s', exec (.l2LineMove line) s = .next s' ∧ alone s' ∧ s'.l2.lines = [{ x with enc := 0, half := 0, store := [] }])) ∧
    (∀ d, d < 2 ^ 1024 → (encodeLine (lineEncoding d) d).length = encodingSize (lineEncoding d) ∧
      decodeLine (lineEncoding d) (encodeLine (lineEncoding d) d) = d) ∧
    (∀ (w : DdrWrite), s.l2.writes = [w] → w.line = line → Memory.wf s.ddr = true →
      ∃ s', exec (.ddrWriteAck line) s = .next s' ∧ SameBytes s s' ∧ s'.l2.writes = [] ∧ s'.l2.lines = s.l2.lines ∧
        (∀ i, i < 128 → memGet s'.ddr (128 * line + i) = lineByte w.data i) ∧
        (∀ x, (x < 128 * line ∨ 128 * line + 128 ≤ x) → memGet s'.ddr x = memGet s.ddr x))

/-- TABLE_WALK and TLBINV (06/R133, R139, R140): the leaf that a walk finds is in the cluster's TLB, a fault enters nothing; an
invalidation drops every entry of the context, of all, or of the context that covers an address of the page, and the lines with it; it
retires when no command that it names has a request out. -/
def TablesFollow : Prop :=
  ∀ (s : State) (cluster ctx va vpn : Nat),
    (s.upd = [] → s.l2.det = [] → s.l1 = [] → va < 2 ^ 55 → s.tlb? cluster ctx va = none → s.tlb.length < 4096 →
      ∃ s', exec (.tableWalk cluster ctx va) s = .next s' ∧ (∀ x, memGet s'.mem x = memGet s.mem x) ∧
        (∀ lvl leaf, (s.walk ctx va).2 = .leaf lvl leaf → ∃ e, s'.tlb? cluster ctx va = some e ∧ e.level = lvl ∧ e.leaf = leaf) ∧
        (∀ c, (s.walk ctx va).2 = .fault c → s'.tlb = s.tlb)) ∧
    (s.upd = [] → CleanL1 s →
      let same := fun (s' : State) (mode : Nat) => SameBytes s s' ∧
        (∃ i, s'.invs = s.invs ++ [i] ∧ i.id = s.fresh ∧ i.mode = mode ∧ i.move = none ∧ (mode ≠ 2 → i.ctx = ctx)) ∧
        s' = { s with tlb := s'.tlb, rev := s'.rev, l1 := s'.l1, invs := s'.invs, fresh := s.fresh + 1 }
      (∃ s', exec (.tlbinvContext ctx) s = .next s' ∧ same s' 1 ∧ (∀ e, e ∈ s'.tlb ↔ e ∈ s.tlb ∧ e.ctx ≠ ctx) ∧
        (∀ l, l ∈ s'.l1 ↔ l ∈ s.l1 ∧ l.ctx ≠ ctx)) ∧
      (∃ s', exec .tlbinvAll s = .next s' ∧ same s' 2 ∧ s'.tlb = [] ∧ s'.l1 = []) ∧
      (∀ size, size < 3 → let b := [16, 29, 42].getD size 0
        ∃ s', exec (.tlbinvPage size ctx vpn) s = .next s' ∧ same s' 0 ∧
          (∀ e, e ∈ s'.tlb ↔ e ∈ s.tlb ∧ ¬(e.ctx = ctx ∧ covers e b vpn)) ∧
          (∀ l, l ∈ s'.l1 ↔ l ∈ s.l1 ∧ ¬(l.ctx = ctx ∧ l.line * 128 / 2 ^ b = vpn * 65536 / 2 ^ b))) ∧
      exec (.tlbinvPage 3 ctx vpn) s = .next s) ∧
    (∀ (i : Inval), s.invs = [i] → i.move = none →
      (commandOut s i → exec .tlbinvRetire s = .next s) ∧ (¬commandOut s i → exec .tlbinvRetire s = .next { s with invs := [] })) ∧
    (s.invs = [] → exec .tlbinvRetire s = .next s)

/-- REGISTER_WRITE, HOTSEL and OPLOGSTAT (19/R416; 02/R57; 06/R145; 01/R25): a write sets the writable bits of the register that it
names and no other bit of any; bits written as 1 clear THERMSTAT's and CAPCFG's flags; counters written as 0 are cleared; HOTSEL's CLR
empties an entry, and HOTDAT shows the selected one; OPLOGSTAT selects a core and clears its counters. -/
def RegistersWritten : Prop :=
  ∀ (s : State) (n ctx : Nat) (v : DWord),
    (n ∈ [0x025, 0x030, 0x031, 0x032, 0x033, 0x042, 0x043, 0x044, 0x045, 0x047, 0x050, 0x052, 0x060, 0x062, 0x070, 0x090, 0x091, 0x092,
        0x093] →
      ∃ s', exec (.registerWrite n ctx v) s = .next s' ∧
        (∀ i, i < 64 → (s'.viewS n ctx).testBit i =
          if writable n i = true then v.getLsbD i else (s.viewS n ctx).testBit i && !(n == 0x047 && i == 2 && v.getLsbD 2)) ∧
        (∀ m c, m ≠ n ∨ (perContext n = true ∧ c ≠ ctx) → s'.viewS m c = s.viewS m c) ∧
        s' = { s with sys := s'.sys, ctxs := s'.ctxs, capture := s'.capture }) ∧
    (∃ s', exec (.registerWrite 0x024 ctx v) s = .next s' ∧ s' = { s with sys := { s.sys with thermstat := s'.sys.thermstat } } ∧
      ∀ i, i < 64 → s'.sys.thermstat.getLsbD i = (s.sys.thermstat.getLsbD i && !((i == 32 || i == 33) && v.getLsbD i))) ∧
    (∃ s', exec (.registerWrite 0x036 ctx v) s = .next s' ∧ s' = { s with sys := { s.sys with fperr := s'.sys.fperr } } ∧
      ∀ k, k < 4 → bits s'.sys.fperr (16 * k) 16 = if bits v (16 * k) 16 = 0 then 0 else bits s.sys.fperr (16 * k) 16) ∧
    (∃ s', exec (.registerWrite 0x061 ctx v) s = .next s' ∧ s' = { s with sys := { s.sys with detstat := s'.sys.detstat } } ∧
      bits s'.sys.detstat 0 32 = if bits v 0 32 = 0 then 0 else bits s.sys.detstat 0 32) ∧
    (let port := bits v 10 6
     let index := bits v 0 10
     let clear := bits v 31 1 = 1
     ∃ s', exec (.hotselWrite v) s = .next s' ∧ exec (.registerWrite 0x034 ctx v) s = .next s' ∧ s'.sys.hotsel.toNat = bits v 0 16 ∧
      s' = { s with sys := { s.sys with hotsel := s'.sys.hotsel, hotdat := s'.sys.hotdat }
                    fabric := { s.fabric with hot := s'.fabric.hot } } ∧
      (port < 48 → clear → s'.sys.hotdat = 0#64 ∧
        ∀ e, e ∈ s'.fabric.hot ↔ e ∈ s.fabric.hot ∧ ¬(e.port = port ∧ e.index = index)) ∧
      (¬clear → s'.fabric.hot = s.fabric.hot ∧ ∀ e, port < 48 → s.hotEntry port index = some e →
        bits s'.sys.hotdat 28 36 = e.page % 2 ^ 36 ∧ bits s'.sys.hotdat 12 16 = e.src % 2 ^ 16 ∧ bits s'.sys.hotdat 0 12 = e.count % 2 ^ 12)) ∧
    (let core := bits v 16 10
     ∃ s', exec (.oplogstatWrite v) s = .next s' ∧ exec (.registerWrite 0x072 ctx v) s = .next s' ∧ s'.sys.oplogCore = core ∧
      (s'.core core).logFull = (if bits v 32 32 = 0 then 0 else (s.core core).logFull) ∧
      (bits v 8 8 ≠ 0 → (s'.core core).logPeak = (s.core core).logPeak) ∧
      s' = { s with sys := { s.sys with oplogCore := core }, cores := s'.cores } ∧ ∀ k, k ≠ core → s'.core k = s.core k)

end Sys2Proof.Claim

/-- The steps of the memory system that no program starts, the table walks and invalidations, and the runtime's writes of system
registers (05/R116 to R131; 06/R133 to R145; 19/R416).
Points that the spec leaves open follow the model (log entries 48, 77, 85). -/
def Obligations.MemoryAndRegisters : Prop := LinesLeave ∧ SlicesWork ∧ TablesFollow ∧ RegistersWritten

/-! ## The machine as a whole -/

namespace Sys2Proof.Claim

/-- The package runs and no device step is due before the threads. -/
structure Goes (s : State) : Prop where
  held : s.board.held = false
  tripped : s.board.tripped = false
  agenda : s.agenda = []

/-- The state in which the item at the head of an issue is known: after the cycle's tick and the fetch, with its words. -/
def fetchedAt (s : State) (i : Tid) (len : Len) (n : Nat) (bs : List Byte) : State :=
  (s.tick.fetch (s.tick.thread i)).1.loadIr len n bs

/-- The bytes at a thread's PC, up to the end of its block of 32, as the fetch gives them (14/R304). -/
def Fetches (s : State) (i : Tid) (bs : List Byte) : Prop :=
  (s.thread i).pc % 4 = 0 ∧ (s.tick.fetch (s.tick.thread i)).2 = .ok bs

/-- The class and number of the item at the head of some bytes (14/R305): bits [11:2] of word 0. -/
def opAt (bs : List Byte) : Nat := leNat (bs.take 8) / 4 % 1024

end Sys2Proof.Claim

/-- A step (14/R304, R309, R318; 01/R18 to R20): a cycle passes, which changes no register, PC, byte or matrix register; a device step
that is due is taken; else, where the thread that heads the issue stands in a clause and its bytes decode to an instruction, the step is
that instruction's; at a header it is the header's; an item that decodes to nothing is a rejected item.
Points that the spec leaves open follow the model (log entry 5). -/
def Obligations.StepRuns : Prop :=
  ∀ (s : State),
    ((∀ x, memGet s.tick.mem x = memGet s.mem x) ∧ s.tick.issue = s.issue ∧ s.tick.sys = s.sys ∧ s.tick.ops = s.ops ∧
      (∀ j, (s.tick.thread j).regs = (s.thread j).regs ∧ (s.tick.thread j).pc = (s.thread j).pc ∧
        (s.tick.thread j).clause = (s.thread j).clause ∧ (s.tick.thread j).run = (s.thread j).run ∧
        (s.tick.thread j).astat = (s.thread j).astat) ∧
      (s.board.held = false → s.board.tripped = false → s.tick.time.cyc = s.time.cyc + 1)) ∧
    (∀ (d : Instr) (l : List Instr), s.board.held = false → s.board.tripped = false → s.agenda = d :: l → d.wf = true →
      step s = exec d { s.tick with agenda := l }) ∧
    (∀ (i : Tid) (rest : List Tid) (bs : List Byte), Goes s → s.issue = i :: rest → Fetches s i bs →
      (∀ (h : Header) (tail : List Byte), decodeItem bs = .ok (.clauseStart h, tail) → (s.thread i).clause = none →
        step s = exec (.clauseStart h) (fetchedAt s i .l64 8 bs)) ∧
      (∀ (x : Instr) (tail : List Byte) (c : Clause), decodeItem bs = .ok (x, tail) → (∀ h, x ≠ .clauseStart h) →
        (s.thread i).clause = some c → (isTransfer bs = true → c.count ≤ c.idx + 1) →
        (∀ j ∈ s.issue, (s.team (s.thread j).team).disabled.testBit (opAt bs) = false) →
        step s = exec x (fetchedAt s i (itemLen bs) (itemLen bs).bytes bs)) ∧
      (∀ (e : Reject) (r : RawItem) (c : Clause), decodeItem bs = .error (e, r) → (s.thread i).clause = some c →
        isTransfer bs = false →
        step s = exec (.undefinedEncoding r) (fetchedAt s i r.len (if r.cause = 4 then 16 else r.len.bytes) bs)))

/-- Local memory, DDR, every scratchpad and the memory behind every bolt keep their canonical form, and every thread's list of registers keeps its own (rising, no
zero of tag RAW listed): every step from a state that has the forms ends in one that has them. (The forms are the model's own.)
Points that the spec leaves open follow the model (log entries 1, 5). -/
def Obligations.FormKept : Prop := ∀ (s s' : State), s.ok = true → step s = .next s' → s'.ok = true

/-- Reset (01/R18, R23, R28; 02/R57; 03/R69): the reset state has the form, no thread, team, grid, request or cache line, the time base
at zero, no byte of memory listed, and the registers at the values their tables give: NODE 0xFFFF, CAPW 3300 with WINDOW 10, PERIOD
10, LIMIT 1,000,000, TIMER 2,000, the others of the S view zero but FEATURES.
Points that the spec leaves open follow the model (log entries 1, 2, 7). -/
def Obligations.ResetState : Prop :=
  let s := State.reset
  s.ok = true ∧ Emptied s ∧ s.mem = [] ∧ s.time = { ns := 0, cyc := 0, frac := 0 } ∧ s.board.held = false ∧
  (∀ c, s.viewS 0x030 c = 0xFFFF ∧ s.viewS 0x025 c = 10 * 2 ^ 16 + 3300 ∧ s.viewS 0x042 c = 2 * 10 ∧ s.viewS 0x045 c = 1000000 ∧
    s.viewS 0x050 c = 2000) ∧
  (∀ n c, n ≠ 0x030 → n ≠ 0x025 → n ≠ 0x042 → n ≠ 0x045 → n ≠ 0x046 → n ≠ 0x050 → s.viewS n c = 0)

/-- The words the spec works out bit by bit, one or more of each family (14, 15 to 19, "Encodings worked"; 14/R318), each with the
instruction it stands for; OP 0x007, unassigned, decodes to none. -/
def Obligations.DecodeWords : Prop :=
  let p : Pre := { len := .l64, fs := false, ge := false, gn := false, gb := 0, sg := 0, pa := noPerm, pb := noPerm, pc := noPerm }
  let p96 : Pre := { p with len := .l96 }
  let p128 : Pre := { p with len := .l128 }
  -- integer, address and control
  decodeTableWord 96 0x04230000880000B0A092E041 =
    some (.iadd { p96 with ge := true, gn := true, gb := 5, sg := 4, pa := { kind := .rot, k := 3 } } .s32 true 9 10 11) ∧
  decodeTableWord 64 0x0400F000303000A0 = some (.and p 3 3 (.imm 15)) ∧
  decodeTableWord 64 0x8400502010700078 = some (.icmp p .s32 .lt .set 7 1 2 5) ∧
  decodeTableWord 64 0x900FF05020A00068 = some (.iaddc p 10 2 5 255) ∧
  decodeTableWord 96 0x000001A0000000000281A109 = some (.call { p96 with ge := true, gb := 3 } 40 0x1A0) ∧
  -- floating point, conversion and cross-lane
  decodeTableWord 64 0x1200B0A09080020C = some (.ffma p .rtz 8 9 10 11) ∧
  decodeTableWord 64 0x1800706050400200 = some (.fadd p .sr 4 5 6 7) ∧
  decodeTableWord 64 0x30201000103002C0 = some (.cvt p .bf16 .rne .f32 false 3 1 0 1) ∧
  decodeTableWord 96 0x040000001000000151400811 = some (.lreduce { p96 with sg := 4 } .f32 false .add 20 21) ∧
  -- memory and synchronisation
  decodeTableWord 64 0x3001005040000404 = some (.st p .s .s32 .none .th .none false 4 5 16) ∧
  decodeTableWord 64 0x20D000504060044C = some (.await p .s .dv 6 4 5 0) ∧
  decodeTableWord 64 0x008000000FF0045C = some (.waitc p .copy 255 (.imm 0)) ∧
  decodeTableWord 96 0x3800000012D0C0B020A0041D = some (.atom p96 .g .n32 .acq .dv .cas 10 2 11 12 0) ∧
  -- patterns, matrices and engines
  decodeTableWord 128 0x02D0004010200C0E = some (.recut p128 true false (some .dv) 2 1 4 0 0) ∧
  decodeTableWord 128 0x9800018100000C42 = some (.mma p128 true .bf16 false 0 16 24 0 0 0) ∧
  decodeTableWord 128 0x00313001000000006000028200200C42 = some (.mma p128 false .xb8 false 2 32 40 1 48 49) ∧
  decodeTableWord 128 0x0200004050100C72 = some (.mdrain p128 false true none 1 5 4 0) ∧
  decodeTableWord 64 0x0000200060800480 = some (.tld p .none .th .none 8 6 2) ∧
  decodeTableWord 64 0x0004000020000C7C = some (.tkset p 0 2 64) ∧
  -- system, trap and emulation
  decodeTableWord 64 0x0800000000200E00 = some (.srd p 0x080 2) ∧
  decodeTableWord 64 0x0800000020000E04 = some (.swr p 0x080 2) ∧
  decodeTableWord 64 0x0004200FF0000E08 = some (.trap p 0x42 255) ∧
  decodeTableWord 64 0x0000000000000E0C = some (.eret p) ∧
  decodeTableWord 64 0x0000E00000000E10 = some (.owrd p 0 14) ∧
  decodeTableWord 64 0x0000F04000000E14 = some (.owwr p 15 4) ∧
  decodeTableWord 64 0x0010803000000E1C = some (.xwr p none 3 (.imm 8)) ∧
  decodeTableWord 64 0x0000000000600E2C = some (.clock p false 6) ∧
  decodeTableWord 64 0x0000000020500E34 = some (.launch p 5 2) ∧
  decodeTableWord 96 0x000012340000000000000E39 = some (.capmark p96 0x1234) ∧
  -- headers and an unassigned number
  decodeTableWord 64 0x0000001000000003 = some (.clauseStart { wait := 0, seta := 0, setb := 0, pred := 0, count := 1, yield := true }) ∧
  decodeTableWord 64 0x0000000000000018 = some (.idq p 0 0) ∧
  decodeTableWord 64 0x000000000000001C = none

/-- Decoding is the inverse of encoding (14/R304 to R308): every well-formed instruction that has an encoding decodes from its words,
whatever bytes follow, to itself with every operand, and leaves those bytes. -/
def Obligations.RoundTrip : Prop :=
  ∀ (i : Instr) (w : Words) (rest : List Byte), i.wf = true → encode i = some w → decodeItem (w.bytes ++ rest) = .ok (i, rest)
end

