-- ==== Sys2Proof/Laws/State.lean ====
section
/-! SUPPORT. What each update of State leaves alone: one lemma per field and update, true by definition, so that no later proof
unfolds a record update; and the same for the updates of a thread. -/

namespace Sys2Proof.Machine

/-! ## setThread -/

@[simp] theorem State.setThread_board (s : State) (x : Thread) : (s.setThread x).board = s.board := rfl
@[simp] theorem State.setThread_sys (s : State) (x : Thread) : (s.setThread x).sys = s.sys := rfl
@[simp] theorem State.setThread_ctxs (s : State) (x : Thread) : (s.setThread x).ctxs = s.ctxs := rfl
@[simp] theorem State.setThread_time (s : State) (x : Thread) : (s.setThread x).time = s.time := rfl
@[simp] theorem State.setThread_mem (s : State) (x : Thread) : (s.setThread x).mem = s.mem := rfl
@[simp] theorem State.setThread_ddr (s : State) (x : Thread) : (s.setThread x).ddr = s.ddr := rfl
@[simp] theorem State.setThread_l2 (s : State) (x : Thread) : (s.setThread x).l2 = s.l2 := rfl
@[simp] theorem State.setThread_l1 (s : State) (x : Thread) : (s.setThread x).l1 = s.l1 := rfl
@[simp] theorem State.setThread_upd (s : State) (x : Thread) : (s.setThread x).upd = s.upd := rfl
@[simp] theorem State.setThread_const (s : State) (x : Thread) : (s.setThread x).const = s.const := rfl
@[simp] theorem State.setThread_tlb (s : State) (x : Thread) : (s.setThread x).tlb = s.tlb := rfl
@[simp] theorem State.setThread_rev (s : State) (x : Thread) : (s.setThread x).rev = s.rev := rfl
@[simp] theorem State.setThread_invs (s : State) (x : Thread) : (s.setThread x).invs = s.invs := rfl
@[simp] theorem State.setThread_cores (s : State) (x : Thread) : (s.setThread x).cores = s.cores := rfl
@[simp] theorem State.setThread_panels (s : State) (x : Thread) : (s.setThread x).panels = s.panels := rfl
@[simp] theorem State.setThread_bobbins (s : State) (x : Thread) : (s.setThread x).bobbins = s.bobbins := rfl
@[simp] theorem State.setThread_entries (s : State) (x : Thread) : (s.setThread x).entries = s.entries := rfl
@[simp] theorem State.setThread_grids (s : State) (x : Thread) : (s.setThread x).grids = s.grids := rfl
@[simp] theorem State.setThread_teams (s : State) (x : Thread) : (s.setThread x).teams = s.teams := rfl
@[simp] theorem State.setThread_ops (s : State) (x : Thread) : (s.setThread x).ops = s.ops := rfl
@[simp] theorem State.setThread_log (s : State) (x : Thread) : (s.setThread x).log = s.log := rfl
@[simp] theorem State.setThread_reports (s : State) (x : Thread) : (s.setThread x).reports = s.reports := rfl
@[simp] theorem State.setThread_cmds (s : State) (x : Thread) : (s.setThread x).cmds = s.cmds := rfl
@[simp] theorem State.setThread_fabric (s : State) (x : Thread) : (s.setThread x).fabric = s.fabric := rfl
@[simp] theorem State.setThread_privs (s : State) (x : Thread) : (s.setThread x).privs = s.privs := rfl
@[simp] theorem State.setThread_records (s : State) (x : Thread) : (s.setThread x).records = s.records := rfl
@[simp] theorem State.setThread_stops (s : State) (x : Thread) : (s.setThread x).stops = s.stops := rfl
@[simp] theorem State.setThread_slots (s : State) (x : Thread) : (s.setThread x).slots = s.slots := rfl
@[simp] theorem State.setThread_charges (s : State) (x : Thread) : (s.setThread x).charges = s.charges := rfl
@[simp] theorem State.setThread_budgets (s : State) (x : Thread) : (s.setThread x).budgets = s.budgets := rfl
@[simp] theorem State.setThread_periodStart (s : State) (x : Thread) : (s.setThread x).periodStart = s.periodStart := rfl
@[simp] theorem State.setThread_tickStart (s : State) (x : Thread) : (s.setThread x).tickStart = s.tickStart := rfl
@[simp] theorem State.setThread_capture (s : State) (x : Thread) : (s.setThread x).capture = s.capture := rfl
@[simp] theorem State.setThread_agenda (s : State) (x : Thread) : (s.setThread x).agenda = s.agenda := rfl
@[simp] theorem State.setThread_issue (s : State) (x : Thread) : (s.setThread x).issue = s.issue := rfl
@[simp] theorem State.setThread_ir (s : State) (x : Thread) : (s.setThread x).ir = s.ir := rfl
@[simp] theorem State.setThread_fresh (s : State) (x : Thread) : (s.setThread x).fresh = s.fresh := rfl
@[simp] theorem State.setThread_free (s : State) (x : Thread) : (s.setThread x).free = s.free := rfl

/-! ## editThread -/

@[simp] theorem State.editThread_board (s : State) (i : Tid) (f : Thread → Thread) : (s.editThread i f).board = s.board := rfl
@[simp] theorem State.editThread_sys (s : State) (i : Tid) (f : Thread → Thread) : (s.editThread i f).sys = s.sys := rfl
@[simp] theorem State.editThread_ctxs (s : State) (i : Tid) (f : Thread → Thread) : (s.editThread i f).ctxs = s.ctxs := rfl
@[simp] theorem State.editThread_time (s : State) (i : Tid) (f : Thread → Thread) : (s.editThread i f).time = s.time := rfl
@[simp] theorem State.editThread_mem (s : State) (i : Tid) (f : Thread → Thread) : (s.editThread i f).mem = s.mem := rfl
@[simp] theorem State.editThread_ddr (s : State) (i : Tid) (f : Thread → Thread) : (s.editThread i f).ddr = s.ddr := rfl
@[simp] theorem State.editThread_l2 (s : State) (i : Tid) (f : Thread → Thread) : (s.editThread i f).l2 = s.l2 := rfl
@[simp] theorem State.editThread_l1 (s : State) (i : Tid) (f : Thread → Thread) : (s.editThread i f).l1 = s.l1 := rfl
@[simp] theorem State.editThread_upd (s : State) (i : Tid) (f : Thread → Thread) : (s.editThread i f).upd = s.upd := rfl
@[simp] theorem State.editThread_const (s : State) (i : Tid) (f : Thread → Thread) : (s.editThread i f).const = s.const := rfl
@[simp] theorem State.editThread_tlb (s : State) (i : Tid) (f : Thread → Thread) : (s.editThread i f).tlb = s.tlb := rfl
@[simp] theorem State.editThread_rev (s : State) (i : Tid) (f : Thread → Thread) : (s.editThread i f).rev = s.rev := rfl
@[simp] theorem State.editThread_invs (s : State) (i : Tid) (f : Thread → Thread) : (s.editThread i f).invs = s.invs := rfl
@[simp] theorem State.editThread_cores (s : State) (i : Tid) (f : Thread → Thread) : (s.editThread i f).cores = s.cores := rfl
@[simp] theorem State.editThread_panels (s : State) (i : Tid) (f : Thread → Thread) : (s.editThread i f).panels = s.panels := rfl
@[simp] theorem State.editThread_bobbins (s : State) (i : Tid) (f : Thread → Thread) : (s.editThread i f).bobbins = s.bobbins := rfl
@[simp] theorem State.editThread_entries (s : State) (i : Tid) (f : Thread → Thread) : (s.editThread i f).entries = s.entries := rfl
@[simp] theorem State.editThread_grids (s : State) (i : Tid) (f : Thread → Thread) : (s.editThread i f).grids = s.grids := rfl
@[simp] theorem State.editThread_teams (s : State) (i : Tid) (f : Thread → Thread) : (s.editThread i f).teams = s.teams := rfl
@[simp] theorem State.editThread_ops (s : State) (i : Tid) (f : Thread → Thread) : (s.editThread i f).ops = s.ops := rfl
@[simp] theorem State.editThread_log (s : State) (i : Tid) (f : Thread → Thread) : (s.editThread i f).log = s.log := rfl
@[simp] theorem State.editThread_reports (s : State) (i : Tid) (f : Thread → Thread) : (s.editThread i f).reports = s.reports := rfl
@[simp] theorem State.editThread_cmds (s : State) (i : Tid) (f : Thread → Thread) : (s.editThread i f).cmds = s.cmds := rfl
@[simp] theorem State.editThread_fabric (s : State) (i : Tid) (f : Thread → Thread) : (s.editThread i f).fabric = s.fabric := rfl
@[simp] theorem State.editThread_privs (s : State) (i : Tid) (f : Thread → Thread) : (s.editThread i f).privs = s.privs := rfl
@[simp] theorem State.editThread_records (s : State) (i : Tid) (f : Thread → Thread) : (s.editThread i f).records = s.records := rfl
@[simp] theorem State.editThread_stops (s : State) (i : Tid) (f : Thread → Thread) : (s.editThread i f).stops = s.stops := rfl
@[simp] theorem State.editThread_slots (s : State) (i : Tid) (f : Thread → Thread) : (s.editThread i f).slots = s.slots := rfl
@[simp] theorem State.editThread_charges (s : State) (i : Tid) (f : Thread → Thread) : (s.editThread i f).charges = s.charges := rfl
@[simp] theorem State.editThread_budgets (s : State) (i : Tid) (f : Thread → Thread) : (s.editThread i f).budgets = s.budgets := rfl
@[simp] theorem State.editThread_periodStart (s : State) (i : Tid) (f : Thread → Thread) : (s.editThread i f).periodStart = s.periodStart := rfl
@[simp] theorem State.editThread_tickStart (s : State) (i : Tid) (f : Thread → Thread) : (s.editThread i f).tickStart = s.tickStart := rfl
@[simp] theorem State.editThread_capture (s : State) (i : Tid) (f : Thread → Thread) : (s.editThread i f).capture = s.capture := rfl
@[simp] theorem State.editThread_agenda (s : State) (i : Tid) (f : Thread → Thread) : (s.editThread i f).agenda = s.agenda := rfl
@[simp] theorem State.editThread_issue (s : State) (i : Tid) (f : Thread → Thread) : (s.editThread i f).issue = s.issue := rfl
@[simp] theorem State.editThread_ir (s : State) (i : Tid) (f : Thread → Thread) : (s.editThread i f).ir = s.ir := rfl
@[simp] theorem State.editThread_fresh (s : State) (i : Tid) (f : Thread → Thread) : (s.editThread i f).fresh = s.fresh := rfl
@[simp] theorem State.editThread_free (s : State) (i : Tid) (f : Thread → Thread) : (s.editThread i f).free = s.free := rfl

/-! ## editTeam -/

@[simp] theorem State.editTeam_board (s : State) (i : Nat) (f : Team → Team) : (s.editTeam i f).board = s.board := rfl
@[simp] theorem State.editTeam_sys (s : State) (i : Nat) (f : Team → Team) : (s.editTeam i f).sys = s.sys := rfl
@[simp] theorem State.editTeam_ctxs (s : State) (i : Nat) (f : Team → Team) : (s.editTeam i f).ctxs = s.ctxs := rfl
@[simp] theorem State.editTeam_time (s : State) (i : Nat) (f : Team → Team) : (s.editTeam i f).time = s.time := rfl
@[simp] theorem State.editTeam_mem (s : State) (i : Nat) (f : Team → Team) : (s.editTeam i f).mem = s.mem := rfl
@[simp] theorem State.editTeam_ddr (s : State) (i : Nat) (f : Team → Team) : (s.editTeam i f).ddr = s.ddr := rfl
@[simp] theorem State.editTeam_l2 (s : State) (i : Nat) (f : Team → Team) : (s.editTeam i f).l2 = s.l2 := rfl
@[simp] theorem State.editTeam_l1 (s : State) (i : Nat) (f : Team → Team) : (s.editTeam i f).l1 = s.l1 := rfl
@[simp] theorem State.editTeam_upd (s : State) (i : Nat) (f : Team → Team) : (s.editTeam i f).upd = s.upd := rfl
@[simp] theorem State.editTeam_const (s : State) (i : Nat) (f : Team → Team) : (s.editTeam i f).const = s.const := rfl
@[simp] theorem State.editTeam_tlb (s : State) (i : Nat) (f : Team → Team) : (s.editTeam i f).tlb = s.tlb := rfl
@[simp] theorem State.editTeam_rev (s : State) (i : Nat) (f : Team → Team) : (s.editTeam i f).rev = s.rev := rfl
@[simp] theorem State.editTeam_invs (s : State) (i : Nat) (f : Team → Team) : (s.editTeam i f).invs = s.invs := rfl
@[simp] theorem State.editTeam_cores (s : State) (i : Nat) (f : Team → Team) : (s.editTeam i f).cores = s.cores := rfl
@[simp] theorem State.editTeam_panels (s : State) (i : Nat) (f : Team → Team) : (s.editTeam i f).panels = s.panels := rfl
@[simp] theorem State.editTeam_bobbins (s : State) (i : Nat) (f : Team → Team) : (s.editTeam i f).bobbins = s.bobbins := rfl
@[simp] theorem State.editTeam_entries (s : State) (i : Nat) (f : Team → Team) : (s.editTeam i f).entries = s.entries := rfl
@[simp] theorem State.editTeam_grids (s : State) (i : Nat) (f : Team → Team) : (s.editTeam i f).grids = s.grids := rfl
@[simp] theorem State.editTeam_threads (s : State) (i : Nat) (f : Team → Team) : (s.editTeam i f).threads = s.threads := rfl
@[simp] theorem State.editTeam_ops (s : State) (i : Nat) (f : Team → Team) : (s.editTeam i f).ops = s.ops := rfl
@[simp] theorem State.editTeam_log (s : State) (i : Nat) (f : Team → Team) : (s.editTeam i f).log = s.log := rfl
@[simp] theorem State.editTeam_reports (s : State) (i : Nat) (f : Team → Team) : (s.editTeam i f).reports = s.reports := rfl
@[simp] theorem State.editTeam_cmds (s : State) (i : Nat) (f : Team → Team) : (s.editTeam i f).cmds = s.cmds := rfl
@[simp] theorem State.editTeam_fabric (s : State) (i : Nat) (f : Team → Team) : (s.editTeam i f).fabric = s.fabric := rfl
@[simp] theorem State.editTeam_privs (s : State) (i : Nat) (f : Team → Team) : (s.editTeam i f).privs = s.privs := rfl
@[simp] theorem State.editTeam_records (s : State) (i : Nat) (f : Team → Team) : (s.editTeam i f).records = s.records := rfl
@[simp] theorem State.editTeam_stops (s : State) (i : Nat) (f : Team → Team) : (s.editTeam i f).stops = s.stops := rfl
@[simp] theorem State.editTeam_slots (s : State) (i : Nat) (f : Team → Team) : (s.editTeam i f).slots = s.slots := rfl
@[simp] theorem State.editTeam_charges (s : State) (i : Nat) (f : Team → Team) : (s.editTeam i f).charges = s.charges := rfl
@[simp] theorem State.editTeam_budgets (s : State) (i : Nat) (f : Team → Team) : (s.editTeam i f).budgets = s.budgets := rfl
@[simp] theorem State.editTeam_periodStart (s : State) (i : Nat) (f : Team → Team) : (s.editTeam i f).periodStart = s.periodStart := rfl
@[simp] theorem State.editTeam_tickStart (s : State) (i : Nat) (f : Team → Team) : (s.editTeam i f).tickStart = s.tickStart := rfl
@[simp] theorem State.editTeam_capture (s : State) (i : Nat) (f : Team → Team) : (s.editTeam i f).capture = s.capture := rfl
@[simp] theorem State.editTeam_agenda (s : State) (i : Nat) (f : Team → Team) : (s.editTeam i f).agenda = s.agenda := rfl
@[simp] theorem State.editTeam_issue (s : State) (i : Nat) (f : Team → Team) : (s.editTeam i f).issue = s.issue := rfl
@[simp] theorem State.editTeam_ir (s : State) (i : Nat) (f : Team → Team) : (s.editTeam i f).ir = s.ir := rfl
@[simp] theorem State.editTeam_fresh (s : State) (i : Nat) (f : Team → Team) : (s.editTeam i f).fresh = s.fresh := rfl
@[simp] theorem State.editTeam_free (s : State) (i : Nat) (f : Team → Team) : (s.editTeam i f).free = s.free := rfl

/-! ## editGroup -/

@[simp] theorem State.editGroup_board (s : State) (i k : Nat) (f : Group → Group) : (s.editGroup i k f).board = s.board := rfl
@[simp] theorem State.editGroup_sys (s : State) (i k : Nat) (f : Group → Group) : (s.editGroup i k f).sys = s.sys := rfl
@[simp] theorem State.editGroup_ctxs (s : State) (i k : Nat) (f : Group → Group) : (s.editGroup i k f).ctxs = s.ctxs := rfl
@[simp] theorem State.editGroup_time (s : State) (i k : Nat) (f : Group → Group) : (s.editGroup i k f).time = s.time := rfl
@[simp] theorem State.editGroup_mem (s : State) (i k : Nat) (f : Group → Group) : (s.editGroup i k f).mem = s.mem := rfl
@[simp] theorem State.editGroup_ddr (s : State) (i k : Nat) (f : Group → Group) : (s.editGroup i k f).ddr = s.ddr := rfl
@[simp] theorem State.editGroup_l2 (s : State) (i k : Nat) (f : Group → Group) : (s.editGroup i k f).l2 = s.l2 := rfl
@[simp] theorem State.editGroup_l1 (s : State) (i k : Nat) (f : Group → Group) : (s.editGroup i k f).l1 = s.l1 := rfl
@[simp] theorem State.editGroup_upd (s : State) (i k : Nat) (f : Group → Group) : (s.editGroup i k f).upd = s.upd := rfl
@[simp] theorem State.editGroup_const (s : State) (i k : Nat) (f : Group → Group) : (s.editGroup i k f).const = s.const := rfl
@[simp] theorem State.editGroup_tlb (s : State) (i k : Nat) (f : Group → Group) : (s.editGroup i k f).tlb = s.tlb := rfl
@[simp] theorem State.editGroup_rev (s : State) (i k : Nat) (f : Group → Group) : (s.editGroup i k f).rev = s.rev := rfl
@[simp] theorem State.editGroup_invs (s : State) (i k : Nat) (f : Group → Group) : (s.editGroup i k f).invs = s.invs := rfl
@[simp] theorem State.editGroup_cores (s : State) (i k : Nat) (f : Group → Group) : (s.editGroup i k f).cores = s.cores := rfl
@[simp] theorem State.editGroup_panels (s : State) (i k : Nat) (f : Group → Group) : (s.editGroup i k f).panels = s.panels := rfl
@[simp] theorem State.editGroup_bobbins (s : State) (i k : Nat) (f : Group → Group) : (s.editGroup i k f).bobbins = s.bobbins := rfl
@[simp] theorem State.editGroup_entries (s : State) (i k : Nat) (f : Group → Group) : (s.editGroup i k f).entries = s.entries := rfl
@[simp] theorem State.editGroup_grids (s : State) (i k : Nat) (f : Group → Group) : (s.editGroup i k f).grids = s.grids := rfl
@[simp] theorem State.editGroup_threads (s : State) (i k : Nat) (f : Group → Group) : (s.editGroup i k f).threads = s.threads := rfl
@[simp] theorem State.editGroup_ops (s : State) (i k : Nat) (f : Group → Group) : (s.editGroup i k f).ops = s.ops := rfl
@[simp] theorem State.editGroup_log (s : State) (i k : Nat) (f : Group → Group) : (s.editGroup i k f).log = s.log := rfl
@[simp] theorem State.editGroup_reports (s : State) (i k : Nat) (f : Group → Group) : (s.editGroup i k f).reports = s.reports := rfl
@[simp] theorem State.editGroup_cmds (s : State) (i k : Nat) (f : Group → Group) : (s.editGroup i k f).cmds = s.cmds := rfl
@[simp] theorem State.editGroup_fabric (s : State) (i k : Nat) (f : Group → Group) : (s.editGroup i k f).fabric = s.fabric := rfl
@[simp] theorem State.editGroup_privs (s : State) (i k : Nat) (f : Group → Group) : (s.editGroup i k f).privs = s.privs := rfl
@[simp] theorem State.editGroup_records (s : State) (i k : Nat) (f : Group → Group) : (s.editGroup i k f).records = s.records := rfl
@[simp] theorem State.editGroup_stops (s : State) (i k : Nat) (f : Group → Group) : (s.editGroup i k f).stops = s.stops := rfl
@[simp] theorem State.editGroup_slots (s : State) (i k : Nat) (f : Group → Group) : (s.editGroup i k f).slots = s.slots := rfl
@[simp] theorem State.editGroup_charges (s : State) (i k : Nat) (f : Group → Group) : (s.editGroup i k f).charges = s.charges := rfl
@[simp] theorem State.editGroup_budgets (s : State) (i k : Nat) (f : Group → Group) : (s.editGroup i k f).budgets = s.budgets := rfl
@[simp] theorem State.editGroup_periodStart (s : State) (i k : Nat) (f : Group → Group) : (s.editGroup i k f).periodStart = s.periodStart := rfl
@[simp] theorem State.editGroup_tickStart (s : State) (i k : Nat) (f : Group → Group) : (s.editGroup i k f).tickStart = s.tickStart := rfl
@[simp] theorem State.editGroup_capture (s : State) (i k : Nat) (f : Group → Group) : (s.editGroup i k f).capture = s.capture := rfl
@[simp] theorem State.editGroup_agenda (s : State) (i k : Nat) (f : Group → Group) : (s.editGroup i k f).agenda = s.agenda := rfl
@[simp] theorem State.editGroup_issue (s : State) (i k : Nat) (f : Group → Group) : (s.editGroup i k f).issue = s.issue := rfl
@[simp] theorem State.editGroup_ir (s : State) (i k : Nat) (f : Group → Group) : (s.editGroup i k f).ir = s.ir := rfl
@[simp] theorem State.editGroup_fresh (s : State) (i k : Nat) (f : Group → Group) : (s.editGroup i k f).fresh = s.fresh := rfl
@[simp] theorem State.editGroup_free (s : State) (i k : Nat) (f : Group → Group) : (s.editGroup i k f).free = s.free := rfl

/-! ## editGrid -/

@[simp] theorem State.editGrid_board (s : State) (i : Nat) (f : Grid → Grid) : (s.editGrid i f).board = s.board := rfl
@[simp] theorem State.editGrid_sys (s : State) (i : Nat) (f : Grid → Grid) : (s.editGrid i f).sys = s.sys := rfl
@[simp] theorem State.editGrid_ctxs (s : State) (i : Nat) (f : Grid → Grid) : (s.editGrid i f).ctxs = s.ctxs := rfl
@[simp] theorem State.editGrid_time (s : State) (i : Nat) (f : Grid → Grid) : (s.editGrid i f).time = s.time := rfl
@[simp] theorem State.editGrid_mem (s : State) (i : Nat) (f : Grid → Grid) : (s.editGrid i f).mem = s.mem := rfl
@[simp] theorem State.editGrid_ddr (s : State) (i : Nat) (f : Grid → Grid) : (s.editGrid i f).ddr = s.ddr := rfl
@[simp] theorem State.editGrid_l2 (s : State) (i : Nat) (f : Grid → Grid) : (s.editGrid i f).l2 = s.l2 := rfl
@[simp] theorem State.editGrid_l1 (s : State) (i : Nat) (f : Grid → Grid) : (s.editGrid i f).l1 = s.l1 := rfl
@[simp] theorem State.editGrid_upd (s : State) (i : Nat) (f : Grid → Grid) : (s.editGrid i f).upd = s.upd := rfl
@[simp] theorem State.editGrid_const (s : State) (i : Nat) (f : Grid → Grid) : (s.editGrid i f).const = s.const := rfl
@[simp] theorem State.editGrid_tlb (s : State) (i : Nat) (f : Grid → Grid) : (s.editGrid i f).tlb = s.tlb := rfl
@[simp] theorem State.editGrid_rev (s : State) (i : Nat) (f : Grid → Grid) : (s.editGrid i f).rev = s.rev := rfl
@[simp] theorem State.editGrid_invs (s : State) (i : Nat) (f : Grid → Grid) : (s.editGrid i f).invs = s.invs := rfl
@[simp] theorem State.editGrid_cores (s : State) (i : Nat) (f : Grid → Grid) : (s.editGrid i f).cores = s.cores := rfl
@[simp] theorem State.editGrid_panels (s : State) (i : Nat) (f : Grid → Grid) : (s.editGrid i f).panels = s.panels := rfl
@[simp] theorem State.editGrid_bobbins (s : State) (i : Nat) (f : Grid → Grid) : (s.editGrid i f).bobbins = s.bobbins := rfl
@[simp] theorem State.editGrid_entries (s : State) (i : Nat) (f : Grid → Grid) : (s.editGrid i f).entries = s.entries := rfl
@[simp] theorem State.editGrid_teams (s : State) (i : Nat) (f : Grid → Grid) : (s.editGrid i f).teams = s.teams := rfl
@[simp] theorem State.editGrid_threads (s : State) (i : Nat) (f : Grid → Grid) : (s.editGrid i f).threads = s.threads := rfl
@[simp] theorem State.editGrid_ops (s : State) (i : Nat) (f : Grid → Grid) : (s.editGrid i f).ops = s.ops := rfl
@[simp] theorem State.editGrid_log (s : State) (i : Nat) (f : Grid → Grid) : (s.editGrid i f).log = s.log := rfl
@[simp] theorem State.editGrid_reports (s : State) (i : Nat) (f : Grid → Grid) : (s.editGrid i f).reports = s.reports := rfl
@[simp] theorem State.editGrid_cmds (s : State) (i : Nat) (f : Grid → Grid) : (s.editGrid i f).cmds = s.cmds := rfl
@[simp] theorem State.editGrid_fabric (s : State) (i : Nat) (f : Grid → Grid) : (s.editGrid i f).fabric = s.fabric := rfl
@[simp] theorem State.editGrid_privs (s : State) (i : Nat) (f : Grid → Grid) : (s.editGrid i f).privs = s.privs := rfl
@[simp] theorem State.editGrid_records (s : State) (i : Nat) (f : Grid → Grid) : (s.editGrid i f).records = s.records := rfl
@[simp] theorem State.editGrid_stops (s : State) (i : Nat) (f : Grid → Grid) : (s.editGrid i f).stops = s.stops := rfl
@[simp] theorem State.editGrid_slots (s : State) (i : Nat) (f : Grid → Grid) : (s.editGrid i f).slots = s.slots := rfl
@[simp] theorem State.editGrid_charges (s : State) (i : Nat) (f : Grid → Grid) : (s.editGrid i f).charges = s.charges := rfl
@[simp] theorem State.editGrid_budgets (s : State) (i : Nat) (f : Grid → Grid) : (s.editGrid i f).budgets = s.budgets := rfl
@[simp] theorem State.editGrid_periodStart (s : State) (i : Nat) (f : Grid → Grid) : (s.editGrid i f).periodStart = s.periodStart := rfl
@[simp] theorem State.editGrid_tickStart (s : State) (i : Nat) (f : Grid → Grid) : (s.editGrid i f).tickStart = s.tickStart := rfl
@[simp] theorem State.editGrid_capture (s : State) (i : Nat) (f : Grid → Grid) : (s.editGrid i f).capture = s.capture := rfl
@[simp] theorem State.editGrid_agenda (s : State) (i : Nat) (f : Grid → Grid) : (s.editGrid i f).agenda = s.agenda := rfl
@[simp] theorem State.editGrid_issue (s : State) (i : Nat) (f : Grid → Grid) : (s.editGrid i f).issue = s.issue := rfl
@[simp] theorem State.editGrid_ir (s : State) (i : Nat) (f : Grid → Grid) : (s.editGrid i f).ir = s.ir := rfl
@[simp] theorem State.editGrid_fresh (s : State) (i : Nat) (f : Grid → Grid) : (s.editGrid i f).fresh = s.fresh := rfl
@[simp] theorem State.editGrid_free (s : State) (i : Nat) (f : Grid → Grid) : (s.editGrid i f).free = s.free := rfl

/-! ## editCore -/

@[simp] theorem State.editCore_board (s : State) (n : Nat) (f : Core → Core) : (s.editCore n f).board = s.board := rfl
@[simp] theorem State.editCore_sys (s : State) (n : Nat) (f : Core → Core) : (s.editCore n f).sys = s.sys := rfl
@[simp] theorem State.editCore_ctxs (s : State) (n : Nat) (f : Core → Core) : (s.editCore n f).ctxs = s.ctxs := rfl
@[simp] theorem State.editCore_time (s : State) (n : Nat) (f : Core → Core) : (s.editCore n f).time = s.time := rfl
@[simp] theorem State.editCore_mem (s : State) (n : Nat) (f : Core → Core) : (s.editCore n f).mem = s.mem := rfl
@[simp] theorem State.editCore_ddr (s : State) (n : Nat) (f : Core → Core) : (s.editCore n f).ddr = s.ddr := rfl
@[simp] theorem State.editCore_l2 (s : State) (n : Nat) (f : Core → Core) : (s.editCore n f).l2 = s.l2 := rfl
@[simp] theorem State.editCore_l1 (s : State) (n : Nat) (f : Core → Core) : (s.editCore n f).l1 = s.l1 := rfl
@[simp] theorem State.editCore_upd (s : State) (n : Nat) (f : Core → Core) : (s.editCore n f).upd = s.upd := rfl
@[simp] theorem State.editCore_const (s : State) (n : Nat) (f : Core → Core) : (s.editCore n f).const = s.const := rfl
@[simp] theorem State.editCore_tlb (s : State) (n : Nat) (f : Core → Core) : (s.editCore n f).tlb = s.tlb := rfl
@[simp] theorem State.editCore_rev (s : State) (n : Nat) (f : Core → Core) : (s.editCore n f).rev = s.rev := rfl
@[simp] theorem State.editCore_invs (s : State) (n : Nat) (f : Core → Core) : (s.editCore n f).invs = s.invs := rfl
@[simp] theorem State.editCore_panels (s : State) (n : Nat) (f : Core → Core) : (s.editCore n f).panels = s.panels := rfl
@[simp] theorem State.editCore_bobbins (s : State) (n : Nat) (f : Core → Core) : (s.editCore n f).bobbins = s.bobbins := rfl
@[simp] theorem State.editCore_entries (s : State) (n : Nat) (f : Core → Core) : (s.editCore n f).entries = s.entries := rfl
@[simp] theorem State.editCore_grids (s : State) (n : Nat) (f : Core → Core) : (s.editCore n f).grids = s.grids := rfl
@[simp] theorem State.editCore_teams (s : State) (n : Nat) (f : Core → Core) : (s.editCore n f).teams = s.teams := rfl
@[simp] theorem State.editCore_threads (s : State) (n : Nat) (f : Core → Core) : (s.editCore n f).threads = s.threads := rfl
@[simp] theorem State.editCore_ops (s : State) (n : Nat) (f : Core → Core) : (s.editCore n f).ops = s.ops := rfl
@[simp] theorem State.editCore_log (s : State) (n : Nat) (f : Core → Core) : (s.editCore n f).log = s.log := rfl
@[simp] theorem State.editCore_reports (s : State) (n : Nat) (f : Core → Core) : (s.editCore n f).reports = s.reports := rfl
@[simp] theorem State.editCore_cmds (s : State) (n : Nat) (f : Core → Core) : (s.editCore n f).cmds = s.cmds := rfl
@[simp] theorem State.editCore_fabric (s : State) (n : Nat) (f : Core → Core) : (s.editCore n f).fabric = s.fabric := rfl
@[simp] theorem State.editCore_privs (s : State) (n : Nat) (f : Core → Core) : (s.editCore n f).privs = s.privs := rfl
@[simp] theorem State.editCore_records (s : State) (n : Nat) (f : Core → Core) : (s.editCore n f).records = s.records := rfl
@[simp] theorem State.editCore_stops (s : State) (n : Nat) (f : Core → Core) : (s.editCore n f).stops = s.stops := rfl
@[simp] theorem State.editCore_slots (s : State) (n : Nat) (f : Core → Core) : (s.editCore n f).slots = s.slots := rfl
@[simp] theorem State.editCore_charges (s : State) (n : Nat) (f : Core → Core) : (s.editCore n f).charges = s.charges := rfl
@[simp] theorem State.editCore_budgets (s : State) (n : Nat) (f : Core → Core) : (s.editCore n f).budgets = s.budgets := rfl
@[simp] theorem State.editCore_periodStart (s : State) (n : Nat) (f : Core → Core) : (s.editCore n f).periodStart = s.periodStart := rfl
@[simp] theorem State.editCore_tickStart (s : State) (n : Nat) (f : Core → Core) : (s.editCore n f).tickStart = s.tickStart := rfl
@[simp] theorem State.editCore_capture (s : State) (n : Nat) (f : Core → Core) : (s.editCore n f).capture = s.capture := rfl
@[simp] theorem State.editCore_agenda (s : State) (n : Nat) (f : Core → Core) : (s.editCore n f).agenda = s.agenda := rfl
@[simp] theorem State.editCore_issue (s : State) (n : Nat) (f : Core → Core) : (s.editCore n f).issue = s.issue := rfl
@[simp] theorem State.editCore_ir (s : State) (n : Nat) (f : Core → Core) : (s.editCore n f).ir = s.ir := rfl
@[simp] theorem State.editCore_fresh (s : State) (n : Nat) (f : Core → Core) : (s.editCore n f).fresh = s.fresh := rfl
@[simp] theorem State.editCore_free (s : State) (n : Nat) (f : Core → Core) : (s.editCore n f).free = s.free := rfl

/-! ## editCtx -/

@[simp] theorem State.editCtx_board (s : State) (n : Nat) (f : Ctx → Ctx) : (s.editCtx n f).board = s.board := rfl
@[simp] theorem State.editCtx_sys (s : State) (n : Nat) (f : Ctx → Ctx) : (s.editCtx n f).sys = s.sys := rfl
@[simp] theorem State.editCtx_time (s : State) (n : Nat) (f : Ctx → Ctx) : (s.editCtx n f).time = s.time := rfl
@[simp] theorem State.editCtx_mem (s : State) (n : Nat) (f : Ctx → Ctx) : (s.editCtx n f).mem = s.mem := rfl
@[simp] theorem State.editCtx_ddr (s : State) (n : Nat) (f : Ctx → Ctx) : (s.editCtx n f).ddr = s.ddr := rfl
@[simp] theorem State.editCtx_l2 (s : State) (n : Nat) (f : Ctx → Ctx) : (s.editCtx n f).l2 = s.l2 := rfl
@[simp] theorem State.editCtx_l1 (s : State) (n : Nat) (f : Ctx → Ctx) : (s.editCtx n f).l1 = s.l1 := rfl
@[simp] theorem State.editCtx_upd (s : State) (n : Nat) (f : Ctx → Ctx) : (s.editCtx n f).upd = s.upd := rfl
@[simp] theorem State.editCtx_const (s : State) (n : Nat) (f : Ctx → Ctx) : (s.editCtx n f).const = s.const := rfl
@[simp] theorem State.editCtx_tlb (s : State) (n : Nat) (f : Ctx → Ctx) : (s.editCtx n f).tlb = s.tlb := rfl
@[simp] theorem State.editCtx_rev (s : State) (n : Nat) (f : Ctx → Ctx) : (s.editCtx n f).rev = s.rev := rfl
@[simp] theorem State.editCtx_invs (s : State) (n : Nat) (f : Ctx → Ctx) : (s.editCtx n f).invs = s.invs := rfl
@[simp] theorem State.editCtx_cores (s : State) (n : Nat) (f : Ctx → Ctx) : (s.editCtx n f).cores = s.cores := rfl
@[simp] theorem State.editCtx_panels (s : State) (n : Nat) (f : Ctx → Ctx) : (s.editCtx n f).panels = s.panels := rfl
@[simp] theorem State.editCtx_bobbins (s : State) (n : Nat) (f : Ctx → Ctx) : (s.editCtx n f).bobbins = s.bobbins := rfl
@[simp] theorem State.editCtx_entries (s : State) (n : Nat) (f : Ctx → Ctx) : (s.editCtx n f).entries = s.entries := rfl
@[simp] theorem State.editCtx_grids (s : State) (n : Nat) (f : Ctx → Ctx) : (s.editCtx n f).grids = s.grids := rfl
@[simp] theorem State.editCtx_teams (s : State) (n : Nat) (f : Ctx → Ctx) : (s.editCtx n f).teams = s.teams := rfl
@[simp] theorem State.editCtx_threads (s : State) (n : Nat) (f : Ctx → Ctx) : (s.editCtx n f).threads = s.threads := rfl
@[simp] theorem State.editCtx_ops (s : State) (n : Nat) (f : Ctx → Ctx) : (s.editCtx n f).ops = s.ops := rfl
@[simp] theorem State.editCtx_log (s : State) (n : Nat) (f : Ctx → Ctx) : (s.editCtx n f).log = s.log := rfl
@[simp] theorem State.editCtx_reports (s : State) (n : Nat) (f : Ctx → Ctx) : (s.editCtx n f).reports = s.reports := rfl
@[simp] theorem State.editCtx_cmds (s : State) (n : Nat) (f : Ctx → Ctx) : (s.editCtx n f).cmds = s.cmds := rfl
@[simp] theorem State.editCtx_fabric (s : State) (n : Nat) (f : Ctx → Ctx) : (s.editCtx n f).fabric = s.fabric := rfl
@[simp] theorem State.editCtx_privs (s : State) (n : Nat) (f : Ctx → Ctx) : (s.editCtx n f).privs = s.privs := rfl
@[simp] theorem State.editCtx_records (s : State) (n : Nat) (f : Ctx → Ctx) : (s.editCtx n f).records = s.records := rfl
@[simp] theorem State.editCtx_stops (s : State) (n : Nat) (f : Ctx → Ctx) : (s.editCtx n f).stops = s.stops := rfl
@[simp] theorem State.editCtx_slots (s : State) (n : Nat) (f : Ctx → Ctx) : (s.editCtx n f).slots = s.slots := rfl
@[simp] theorem State.editCtx_charges (s : State) (n : Nat) (f : Ctx → Ctx) : (s.editCtx n f).charges = s.charges := rfl
@[simp] theorem State.editCtx_budgets (s : State) (n : Nat) (f : Ctx → Ctx) : (s.editCtx n f).budgets = s.budgets := rfl
@[simp] theorem State.editCtx_periodStart (s : State) (n : Nat) (f : Ctx → Ctx) : (s.editCtx n f).periodStart = s.periodStart := rfl
@[simp] theorem State.editCtx_tickStart (s : State) (n : Nat) (f : Ctx → Ctx) : (s.editCtx n f).tickStart = s.tickStart := rfl
@[simp] theorem State.editCtx_capture (s : State) (n : Nat) (f : Ctx → Ctx) : (s.editCtx n f).capture = s.capture := rfl
@[simp] theorem State.editCtx_agenda (s : State) (n : Nat) (f : Ctx → Ctx) : (s.editCtx n f).agenda = s.agenda := rfl
@[simp] theorem State.editCtx_issue (s : State) (n : Nat) (f : Ctx → Ctx) : (s.editCtx n f).issue = s.issue := rfl
@[simp] theorem State.editCtx_ir (s : State) (n : Nat) (f : Ctx → Ctx) : (s.editCtx n f).ir = s.ir := rfl
@[simp] theorem State.editCtx_fresh (s : State) (n : Nat) (f : Ctx → Ctx) : (s.editCtx n f).fresh = s.fresh := rfl
@[simp] theorem State.editCtx_free (s : State) (n : Nat) (f : Ctx → Ctx) : (s.editCtx n f).free = s.free := rfl

/-! ## editPort -/

@[simp] theorem State.editPort_board (s : State) (n : Nat) (f : Port → Port) : (s.editPort n f).board = s.board := rfl
@[simp] theorem State.editPort_sys (s : State) (n : Nat) (f : Port → Port) : (s.editPort n f).sys = s.sys := rfl
@[simp] theorem State.editPort_ctxs (s : State) (n : Nat) (f : Port → Port) : (s.editPort n f).ctxs = s.ctxs := rfl
@[simp] theorem State.editPort_time (s : State) (n : Nat) (f : Port → Port) : (s.editPort n f).time = s.time := rfl
@[simp] theorem State.editPort_mem (s : State) (n : Nat) (f : Port → Port) : (s.editPort n f).mem = s.mem := rfl
@[simp] theorem State.editPort_ddr (s : State) (n : Nat) (f : Port → Port) : (s.editPort n f).ddr = s.ddr := rfl
@[simp] theorem State.editPort_l2 (s : State) (n : Nat) (f : Port → Port) : (s.editPort n f).l2 = s.l2 := rfl
@[simp] theorem State.editPort_l1 (s : State) (n : Nat) (f : Port → Port) : (s.editPort n f).l1 = s.l1 := rfl
@[simp] theorem State.editPort_upd (s : State) (n : Nat) (f : Port → Port) : (s.editPort n f).upd = s.upd := rfl
@[simp] theorem State.editPort_const (s : State) (n : Nat) (f : Port → Port) : (s.editPort n f).const = s.const := rfl
@[simp] theorem State.editPort_tlb (s : State) (n : Nat) (f : Port → Port) : (s.editPort n f).tlb = s.tlb := rfl
@[simp] theorem State.editPort_rev (s : State) (n : Nat) (f : Port → Port) : (s.editPort n f).rev = s.rev := rfl
@[simp] theorem State.editPort_invs (s : State) (n : Nat) (f : Port → Port) : (s.editPort n f).invs = s.invs := rfl
@[simp] theorem State.editPort_cores (s : State) (n : Nat) (f : Port → Port) : (s.editPort n f).cores = s.cores := rfl
@[simp] theorem State.editPort_panels (s : State) (n : Nat) (f : Port → Port) : (s.editPort n f).panels = s.panels := rfl
@[simp] theorem State.editPort_bobbins (s : State) (n : Nat) (f : Port → Port) : (s.editPort n f).bobbins = s.bobbins := rfl
@[simp] theorem State.editPort_entries (s : State) (n : Nat) (f : Port → Port) : (s.editPort n f).entries = s.entries := rfl
@[simp] theorem State.editPort_grids (s : State) (n : Nat) (f : Port → Port) : (s.editPort n f).grids = s.grids := rfl
@[simp] theorem State.editPort_teams (s : State) (n : Nat) (f : Port → Port) : (s.editPort n f).teams = s.teams := rfl
@[simp] theorem State.editPort_threads (s : State) (n : Nat) (f : Port → Port) : (s.editPort n f).threads = s.threads := rfl
@[simp] theorem State.editPort_ops (s : State) (n : Nat) (f : Port → Port) : (s.editPort n f).ops = s.ops := rfl
@[simp] theorem State.editPort_log (s : State) (n : Nat) (f : Port → Port) : (s.editPort n f).log = s.log := rfl
@[simp] theorem State.editPort_reports (s : State) (n : Nat) (f : Port → Port) : (s.editPort n f).reports = s.reports := rfl
@[simp] theorem State.editPort_cmds (s : State) (n : Nat) (f : Port → Port) : (s.editPort n f).cmds = s.cmds := rfl
@[simp] theorem State.editPort_privs (s : State) (n : Nat) (f : Port → Port) : (s.editPort n f).privs = s.privs := rfl
@[simp] theorem State.editPort_records (s : State) (n : Nat) (f : Port → Port) : (s.editPort n f).records = s.records := rfl
@[simp] theorem State.editPort_stops (s : State) (n : Nat) (f : Port → Port) : (s.editPort n f).stops = s.stops := rfl
@[simp] theorem State.editPort_slots (s : State) (n : Nat) (f : Port → Port) : (s.editPort n f).slots = s.slots := rfl
@[simp] theorem State.editPort_charges (s : State) (n : Nat) (f : Port → Port) : (s.editPort n f).charges = s.charges := rfl
@[simp] theorem State.editPort_budgets (s : State) (n : Nat) (f : Port → Port) : (s.editPort n f).budgets = s.budgets := rfl
@[simp] theorem State.editPort_periodStart (s : State) (n : Nat) (f : Port → Port) : (s.editPort n f).periodStart = s.periodStart := rfl
@[simp] theorem State.editPort_tickStart (s : State) (n : Nat) (f : Port → Port) : (s.editPort n f).tickStart = s.tickStart := rfl
@[simp] theorem State.editPort_capture (s : State) (n : Nat) (f : Port → Port) : (s.editPort n f).capture = s.capture := rfl
@[simp] theorem State.editPort_agenda (s : State) (n : Nat) (f : Port → Port) : (s.editPort n f).agenda = s.agenda := rfl
@[simp] theorem State.editPort_issue (s : State) (n : Nat) (f : Port → Port) : (s.editPort n f).issue = s.issue := rfl
@[simp] theorem State.editPort_ir (s : State) (n : Nat) (f : Port → Port) : (s.editPort n f).ir = s.ir := rfl
@[simp] theorem State.editPort_fresh (s : State) (n : Nat) (f : Port → Port) : (s.editPort n f).fresh = s.fresh := rfl
@[simp] theorem State.editPort_free (s : State) (n : Nat) (f : Port → Port) : (s.editPort n f).free = s.free := rfl

/-! ## editPanel -/

@[simp] theorem State.editPanel_board (s : State) (n : Nat) (f : Panel → Panel) : (s.editPanel n f).board = s.board := rfl
@[simp] theorem State.editPanel_sys (s : State) (n : Nat) (f : Panel → Panel) : (s.editPanel n f).sys = s.sys := rfl
@[simp] theorem State.editPanel_ctxs (s : State) (n : Nat) (f : Panel → Panel) : (s.editPanel n f).ctxs = s.ctxs := rfl
@[simp] theorem State.editPanel_time (s : State) (n : Nat) (f : Panel → Panel) : (s.editPanel n f).time = s.time := rfl
@[simp] theorem State.editPanel_mem (s : State) (n : Nat) (f : Panel → Panel) : (s.editPanel n f).mem = s.mem := rfl
@[simp] theorem State.editPanel_ddr (s : State) (n : Nat) (f : Panel → Panel) : (s.editPanel n f).ddr = s.ddr := rfl
@[simp] theorem State.editPanel_l2 (s : State) (n : Nat) (f : Panel → Panel) : (s.editPanel n f).l2 = s.l2 := rfl
@[simp] theorem State.editPanel_l1 (s : State) (n : Nat) (f : Panel → Panel) : (s.editPanel n f).l1 = s.l1 := rfl
@[simp] theorem State.editPanel_upd (s : State) (n : Nat) (f : Panel → Panel) : (s.editPanel n f).upd = s.upd := rfl
@[simp] theorem State.editPanel_const (s : State) (n : Nat) (f : Panel → Panel) : (s.editPanel n f).const = s.const := rfl
@[simp] theorem State.editPanel_tlb (s : State) (n : Nat) (f : Panel → Panel) : (s.editPanel n f).tlb = s.tlb := rfl
@[simp] theorem State.editPanel_rev (s : State) (n : Nat) (f : Panel → Panel) : (s.editPanel n f).rev = s.rev := rfl
@[simp] theorem State.editPanel_invs (s : State) (n : Nat) (f : Panel → Panel) : (s.editPanel n f).invs = s.invs := rfl
@[simp] theorem State.editPanel_cores (s : State) (n : Nat) (f : Panel → Panel) : (s.editPanel n f).cores = s.cores := rfl
@[simp] theorem State.editPanel_bobbins (s : State) (n : Nat) (f : Panel → Panel) : (s.editPanel n f).bobbins = s.bobbins := rfl
@[simp] theorem State.editPanel_entries (s : State) (n : Nat) (f : Panel → Panel) : (s.editPanel n f).entries = s.entries := rfl
@[simp] theorem State.editPanel_grids (s : State) (n : Nat) (f : Panel → Panel) : (s.editPanel n f).grids = s.grids := rfl
@[simp] theorem State.editPanel_teams (s : State) (n : Nat) (f : Panel → Panel) : (s.editPanel n f).teams = s.teams := rfl
@[simp] theorem State.editPanel_threads (s : State) (n : Nat) (f : Panel → Panel) : (s.editPanel n f).threads = s.threads := rfl
@[simp] theorem State.editPanel_ops (s : State) (n : Nat) (f : Panel → Panel) : (s.editPanel n f).ops = s.ops := rfl
@[simp] theorem State.editPanel_log (s : State) (n : Nat) (f : Panel → Panel) : (s.editPanel n f).log = s.log := rfl
@[simp] theorem State.editPanel_reports (s : State) (n : Nat) (f : Panel → Panel) : (s.editPanel n f).reports = s.reports := rfl
@[simp] theorem State.editPanel_cmds (s : State) (n : Nat) (f : Panel → Panel) : (s.editPanel n f).cmds = s.cmds := rfl
@[simp] theorem State.editPanel_fabric (s : State) (n : Nat) (f : Panel → Panel) : (s.editPanel n f).fabric = s.fabric := rfl
@[simp] theorem State.editPanel_privs (s : State) (n : Nat) (f : Panel → Panel) : (s.editPanel n f).privs = s.privs := rfl
@[simp] theorem State.editPanel_records (s : State) (n : Nat) (f : Panel → Panel) : (s.editPanel n f).records = s.records := rfl
@[simp] theorem State.editPanel_stops (s : State) (n : Nat) (f : Panel → Panel) : (s.editPanel n f).stops = s.stops := rfl
@[simp] theorem State.editPanel_slots (s : State) (n : Nat) (f : Panel → Panel) : (s.editPanel n f).slots = s.slots := rfl
@[simp] theorem State.editPanel_charges (s : State) (n : Nat) (f : Panel → Panel) : (s.editPanel n f).charges = s.charges := rfl
@[simp] theorem State.editPanel_budgets (s : State) (n : Nat) (f : Panel → Panel) : (s.editPanel n f).budgets = s.budgets := rfl
@[simp] theorem State.editPanel_periodStart (s : State) (n : Nat) (f : Panel → Panel) : (s.editPanel n f).periodStart = s.periodStart := rfl
@[simp] theorem State.editPanel_tickStart (s : State) (n : Nat) (f : Panel → Panel) : (s.editPanel n f).tickStart = s.tickStart := rfl
@[simp] theorem State.editPanel_capture (s : State) (n : Nat) (f : Panel → Panel) : (s.editPanel n f).capture = s.capture := rfl
@[simp] theorem State.editPanel_agenda (s : State) (n : Nat) (f : Panel → Panel) : (s.editPanel n f).agenda = s.agenda := rfl
@[simp] theorem State.editPanel_issue (s : State) (n : Nat) (f : Panel → Panel) : (s.editPanel n f).issue = s.issue := rfl
@[simp] theorem State.editPanel_ir (s : State) (n : Nat) (f : Panel → Panel) : (s.editPanel n f).ir = s.ir := rfl
@[simp] theorem State.editPanel_fresh (s : State) (n : Nat) (f : Panel → Panel) : (s.editPanel n f).fresh = s.fresh := rfl
@[simp] theorem State.editPanel_free (s : State) (n : Nat) (f : Panel → Panel) : (s.editPanel n f).free = s.free := rfl

/-! ## post -/

@[simp] theorem State.post_sys (s : State) (e : RtEvent) : (s.post e).sys = s.sys := rfl
@[simp] theorem State.post_ctxs (s : State) (e : RtEvent) : (s.post e).ctxs = s.ctxs := rfl
@[simp] theorem State.post_time (s : State) (e : RtEvent) : (s.post e).time = s.time := rfl
@[simp] theorem State.post_mem (s : State) (e : RtEvent) : (s.post e).mem = s.mem := rfl
@[simp] theorem State.post_ddr (s : State) (e : RtEvent) : (s.post e).ddr = s.ddr := rfl
@[simp] theorem State.post_l2 (s : State) (e : RtEvent) : (s.post e).l2 = s.l2 := rfl
@[simp] theorem State.post_l1 (s : State) (e : RtEvent) : (s.post e).l1 = s.l1 := rfl
@[simp] theorem State.post_upd (s : State) (e : RtEvent) : (s.post e).upd = s.upd := rfl
@[simp] theorem State.post_const (s : State) (e : RtEvent) : (s.post e).const = s.const := rfl
@[simp] theorem State.post_tlb (s : State) (e : RtEvent) : (s.post e).tlb = s.tlb := rfl
@[simp] theorem State.post_rev (s : State) (e : RtEvent) : (s.post e).rev = s.rev := rfl
@[simp] theorem State.post_invs (s : State) (e : RtEvent) : (s.post e).invs = s.invs := rfl
@[simp] theorem State.post_cores (s : State) (e : RtEvent) : (s.post e).cores = s.cores := rfl
@[simp] theorem State.post_panels (s : State) (e : RtEvent) : (s.post e).panels = s.panels := rfl
@[simp] theorem State.post_bobbins (s : State) (e : RtEvent) : (s.post e).bobbins = s.bobbins := rfl
@[simp] theorem State.post_entries (s : State) (e : RtEvent) : (s.post e).entries = s.entries := rfl
@[simp] theorem State.post_grids (s : State) (e : RtEvent) : (s.post e).grids = s.grids := rfl
@[simp] theorem State.post_teams (s : State) (e : RtEvent) : (s.post e).teams = s.teams := rfl
@[simp] theorem State.post_threads (s : State) (e : RtEvent) : (s.post e).threads = s.threads := rfl
@[simp] theorem State.post_ops (s : State) (e : RtEvent) : (s.post e).ops = s.ops := rfl
@[simp] theorem State.post_log (s : State) (e : RtEvent) : (s.post e).log = s.log := rfl
@[simp] theorem State.post_reports (s : State) (e : RtEvent) : (s.post e).reports = s.reports := rfl
@[simp] theorem State.post_cmds (s : State) (e : RtEvent) : (s.post e).cmds = s.cmds := rfl
@[simp] theorem State.post_fabric (s : State) (e : RtEvent) : (s.post e).fabric = s.fabric := rfl
@[simp] theorem State.post_privs (s : State) (e : RtEvent) : (s.post e).privs = s.privs := rfl
@[simp] theorem State.post_records (s : State) (e : RtEvent) : (s.post e).records = s.records := rfl
@[simp] theorem State.post_stops (s : State) (e : RtEvent) : (s.post e).stops = s.stops := rfl
@[simp] theorem State.post_slots (s : State) (e : RtEvent) : (s.post e).slots = s.slots := rfl
@[simp] theorem State.post_charges (s : State) (e : RtEvent) : (s.post e).charges = s.charges := rfl
@[simp] theorem State.post_budgets (s : State) (e : RtEvent) : (s.post e).budgets = s.budgets := rfl
@[simp] theorem State.post_periodStart (s : State) (e : RtEvent) : (s.post e).periodStart = s.periodStart := rfl
@[simp] theorem State.post_tickStart (s : State) (e : RtEvent) : (s.post e).tickStart = s.tickStart := rfl
@[simp] theorem State.post_capture (s : State) (e : RtEvent) : (s.post e).capture = s.capture := rfl
@[simp] theorem State.post_agenda (s : State) (e : RtEvent) : (s.post e).agenda = s.agenda := rfl
@[simp] theorem State.post_issue (s : State) (e : RtEvent) : (s.post e).issue = s.issue := rfl
@[simp] theorem State.post_ir (s : State) (e : RtEvent) : (s.post e).ir = s.ir := rfl
@[simp] theorem State.post_fresh (s : State) (e : RtEvent) : (s.post e).fresh = s.fresh := rfl
@[simp] theorem State.post_free (s : State) (e : RtEvent) : (s.post e).free = s.free := rfl

/-! ## reply -/

@[simp] theorem State.reply_sys (s : State) (r : SideReply) : (s.reply r).sys = s.sys := rfl
@[simp] theorem State.reply_ctxs (s : State) (r : SideReply) : (s.reply r).ctxs = s.ctxs := rfl
@[simp] theorem State.reply_time (s : State) (r : SideReply) : (s.reply r).time = s.time := rfl
@[simp] theorem State.reply_mem (s : State) (r : SideReply) : (s.reply r).mem = s.mem := rfl
@[simp] theorem State.reply_ddr (s : State) (r : SideReply) : (s.reply r).ddr = s.ddr := rfl
@[simp] theorem State.reply_l2 (s : State) (r : SideReply) : (s.reply r).l2 = s.l2 := rfl
@[simp] theorem State.reply_l1 (s : State) (r : SideReply) : (s.reply r).l1 = s.l1 := rfl
@[simp] theorem State.reply_upd (s : State) (r : SideReply) : (s.reply r).upd = s.upd := rfl
@[simp] theorem State.reply_const (s : State) (r : SideReply) : (s.reply r).const = s.const := rfl
@[simp] theorem State.reply_tlb (s : State) (r : SideReply) : (s.reply r).tlb = s.tlb := rfl
@[simp] theorem State.reply_rev (s : State) (r : SideReply) : (s.reply r).rev = s.rev := rfl
@[simp] theorem State.reply_invs (s : State) (r : SideReply) : (s.reply r).invs = s.invs := rfl
@[simp] theorem State.reply_cores (s : State) (r : SideReply) : (s.reply r).cores = s.cores := rfl
@[simp] theorem State.reply_panels (s : State) (r : SideReply) : (s.reply r).panels = s.panels := rfl
@[simp] theorem State.reply_bobbins (s : State) (r : SideReply) : (s.reply r).bobbins = s.bobbins := rfl
@[simp] theorem State.reply_entries (s : State) (r : SideReply) : (s.reply r).entries = s.entries := rfl
@[simp] theorem State.reply_grids (s : State) (r : SideReply) : (s.reply r).grids = s.grids := rfl
@[simp] theorem State.reply_teams (s : State) (r : SideReply) : (s.reply r).teams = s.teams := rfl
@[simp] theorem State.reply_threads (s : State) (r : SideReply) : (s.reply r).threads = s.threads := rfl
@[simp] theorem State.reply_ops (s : State) (r : SideReply) : (s.reply r).ops = s.ops := rfl
@[simp] theorem State.reply_log (s : State) (r : SideReply) : (s.reply r).log = s.log := rfl
@[simp] theorem State.reply_reports (s : State) (r : SideReply) : (s.reply r).reports = s.reports := rfl
@[simp] theorem State.reply_cmds (s : State) (r : SideReply) : (s.reply r).cmds = s.cmds := rfl
@[simp] theorem State.reply_fabric (s : State) (r : SideReply) : (s.reply r).fabric = s.fabric := rfl
@[simp] theorem State.reply_privs (s : State) (r : SideReply) : (s.reply r).privs = s.privs := rfl
@[simp] theorem State.reply_records (s : State) (r : SideReply) : (s.reply r).records = s.records := rfl
@[simp] theorem State.reply_stops (s : State) (r : SideReply) : (s.reply r).stops = s.stops := rfl
@[simp] theorem State.reply_slots (s : State) (r : SideReply) : (s.reply r).slots = s.slots := rfl
@[simp] theorem State.reply_charges (s : State) (r : SideReply) : (s.reply r).charges = s.charges := rfl
@[simp] theorem State.reply_budgets (s : State) (r : SideReply) : (s.reply r).budgets = s.budgets := rfl
@[simp] theorem State.reply_periodStart (s : State) (r : SideReply) : (s.reply r).periodStart = s.periodStart := rfl
@[simp] theorem State.reply_tickStart (s : State) (r : SideReply) : (s.reply r).tickStart = s.tickStart := rfl
@[simp] theorem State.reply_capture (s : State) (r : SideReply) : (s.reply r).capture = s.capture := rfl
@[simp] theorem State.reply_agenda (s : State) (r : SideReply) : (s.reply r).agenda = s.agenda := rfl
@[simp] theorem State.reply_issue (s : State) (r : SideReply) : (s.reply r).issue = s.issue := rfl
@[simp] theorem State.reply_ir (s : State) (r : SideReply) : (s.reply r).ir = s.ir := rfl
@[simp] theorem State.reply_fresh (s : State) (r : SideReply) : (s.reply r).fresh = s.fresh := rfl
@[simp] theorem State.reply_free (s : State) (r : SideReply) : (s.reply r).free = s.free := rfl

/-! ## due -/

@[simp] theorem State.due_board (s : State) (i : Instr) : (s.due i).board = s.board := rfl
@[simp] theorem State.due_sys (s : State) (i : Instr) : (s.due i).sys = s.sys := rfl
@[simp] theorem State.due_ctxs (s : State) (i : Instr) : (s.due i).ctxs = s.ctxs := rfl
@[simp] theorem State.due_time (s : State) (i : Instr) : (s.due i).time = s.time := rfl
@[simp] theorem State.due_mem (s : State) (i : Instr) : (s.due i).mem = s.mem := rfl
@[simp] theorem State.due_ddr (s : State) (i : Instr) : (s.due i).ddr = s.ddr := rfl
@[simp] theorem State.due_l2 (s : State) (i : Instr) : (s.due i).l2 = s.l2 := rfl
@[simp] theorem State.due_l1 (s : State) (i : Instr) : (s.due i).l1 = s.l1 := rfl
@[simp] theorem State.due_upd (s : State) (i : Instr) : (s.due i).upd = s.upd := rfl
@[simp] theorem State.due_const (s : State) (i : Instr) : (s.due i).const = s.const := rfl
@[simp] theorem State.due_tlb (s : State) (i : Instr) : (s.due i).tlb = s.tlb := rfl
@[simp] theorem State.due_rev (s : State) (i : Instr) : (s.due i).rev = s.rev := rfl
@[simp] theorem State.due_invs (s : State) (i : Instr) : (s.due i).invs = s.invs := rfl
@[simp] theorem State.due_cores (s : State) (i : Instr) : (s.due i).cores = s.cores := rfl
@[simp] theorem State.due_panels (s : State) (i : Instr) : (s.due i).panels = s.panels := rfl
@[simp] theorem State.due_bobbins (s : State) (i : Instr) : (s.due i).bobbins = s.bobbins := rfl
@[simp] theorem State.due_entries (s : State) (i : Instr) : (s.due i).entries = s.entries := rfl
@[simp] theorem State.due_grids (s : State) (i : Instr) : (s.due i).grids = s.grids := rfl
@[simp] theorem State.due_teams (s : State) (i : Instr) : (s.due i).teams = s.teams := rfl
@[simp] theorem State.due_threads (s : State) (i : Instr) : (s.due i).threads = s.threads := rfl
@[simp] theorem State.due_ops (s : State) (i : Instr) : (s.due i).ops = s.ops := rfl
@[simp] theorem State.due_log (s : State) (i : Instr) : (s.due i).log = s.log := rfl
@[simp] theorem State.due_reports (s : State) (i : Instr) : (s.due i).reports = s.reports := rfl
@[simp] theorem State.due_cmds (s : State) (i : Instr) : (s.due i).cmds = s.cmds := rfl
@[simp] theorem State.due_fabric (s : State) (i : Instr) : (s.due i).fabric = s.fabric := rfl
@[simp] theorem State.due_privs (s : State) (i : Instr) : (s.due i).privs = s.privs := rfl
@[simp] theorem State.due_records (s : State) (i : Instr) : (s.due i).records = s.records := rfl
@[simp] theorem State.due_stops (s : State) (i : Instr) : (s.due i).stops = s.stops := rfl
@[simp] theorem State.due_slots (s : State) (i : Instr) : (s.due i).slots = s.slots := rfl
@[simp] theorem State.due_charges (s : State) (i : Instr) : (s.due i).charges = s.charges := rfl
@[simp] theorem State.due_budgets (s : State) (i : Instr) : (s.due i).budgets = s.budgets := rfl
@[simp] theorem State.due_periodStart (s : State) (i : Instr) : (s.due i).periodStart = s.periodStart := rfl
@[simp] theorem State.due_tickStart (s : State) (i : Instr) : (s.due i).tickStart = s.tickStart := rfl
@[simp] theorem State.due_capture (s : State) (i : Instr) : (s.due i).capture = s.capture := rfl
@[simp] theorem State.due_issue (s : State) (i : Instr) : (s.due i).issue = s.issue := rfl
@[simp] theorem State.due_ir (s : State) (i : Instr) : (s.due i).ir = s.ir := rfl
@[simp] theorem State.due_fresh (s : State) (i : Instr) : (s.due i).fresh = s.fresh := rfl
@[simp] theorem State.due_free (s : State) (i : Instr) : (s.due i).free = s.free := rfl

/-! ## newOp -/

@[simp] theorem State.newOp_board (s : State) (t : Thread) (p : Pre) (w : List RegCell) (st : Status) (src : OpSrc) (acc : Option Acc) : (s.newOp t p w st src acc).board = s.board := rfl
@[simp] theorem State.newOp_sys (s : State) (t : Thread) (p : Pre) (w : List RegCell) (st : Status) (src : OpSrc) (acc : Option Acc) : (s.newOp t p w st src acc).sys = s.sys := rfl
@[simp] theorem State.newOp_ctxs (s : State) (t : Thread) (p : Pre) (w : List RegCell) (st : Status) (src : OpSrc) (acc : Option Acc) : (s.newOp t p w st src acc).ctxs = s.ctxs := rfl
@[simp] theorem State.newOp_time (s : State) (t : Thread) (p : Pre) (w : List RegCell) (st : Status) (src : OpSrc) (acc : Option Acc) : (s.newOp t p w st src acc).time = s.time := rfl
@[simp] theorem State.newOp_mem (s : State) (t : Thread) (p : Pre) (w : List RegCell) (st : Status) (src : OpSrc) (acc : Option Acc) : (s.newOp t p w st src acc).mem = s.mem := rfl
@[simp] theorem State.newOp_ddr (s : State) (t : Thread) (p : Pre) (w : List RegCell) (st : Status) (src : OpSrc) (acc : Option Acc) : (s.newOp t p w st src acc).ddr = s.ddr := rfl
@[simp] theorem State.newOp_l2 (s : State) (t : Thread) (p : Pre) (w : List RegCell) (st : Status) (src : OpSrc) (acc : Option Acc) : (s.newOp t p w st src acc).l2 = s.l2 := rfl
@[simp] theorem State.newOp_l1 (s : State) (t : Thread) (p : Pre) (w : List RegCell) (st : Status) (src : OpSrc) (acc : Option Acc) : (s.newOp t p w st src acc).l1 = s.l1 := rfl
@[simp] theorem State.newOp_upd (s : State) (t : Thread) (p : Pre) (w : List RegCell) (st : Status) (src : OpSrc) (acc : Option Acc) : (s.newOp t p w st src acc).upd = s.upd := rfl
@[simp] theorem State.newOp_const (s : State) (t : Thread) (p : Pre) (w : List RegCell) (st : Status) (src : OpSrc) (acc : Option Acc) : (s.newOp t p w st src acc).const = s.const := rfl
@[simp] theorem State.newOp_tlb (s : State) (t : Thread) (p : Pre) (w : List RegCell) (st : Status) (src : OpSrc) (acc : Option Acc) : (s.newOp t p w st src acc).tlb = s.tlb := rfl
@[simp] theorem State.newOp_rev (s : State) (t : Thread) (p : Pre) (w : List RegCell) (st : Status) (src : OpSrc) (acc : Option Acc) : (s.newOp t p w st src acc).rev = s.rev := rfl
@[simp] theorem State.newOp_invs (s : State) (t : Thread) (p : Pre) (w : List RegCell) (st : Status) (src : OpSrc) (acc : Option Acc) : (s.newOp t p w st src acc).invs = s.invs := rfl
@[simp] theorem State.newOp_cores (s : State) (t : Thread) (p : Pre) (w : List RegCell) (st : Status) (src : OpSrc) (acc : Option Acc) : (s.newOp t p w st src acc).cores = s.cores := rfl
@[simp] theorem State.newOp_panels (s : State) (t : Thread) (p : Pre) (w : List RegCell) (st : Status) (src : OpSrc) (acc : Option Acc) : (s.newOp t p w st src acc).panels = s.panels := rfl
@[simp] theorem State.newOp_bobbins (s : State) (t : Thread) (p : Pre) (w : List RegCell) (st : Status) (src : OpSrc) (acc : Option Acc) : (s.newOp t p w st src acc).bobbins = s.bobbins := rfl
@[simp] theorem State.newOp_entries (s : State) (t : Thread) (p : Pre) (w : List RegCell) (st : Status) (src : OpSrc) (acc : Option Acc) : (s.newOp t p w st src acc).entries = s.entries := rfl
@[simp] theorem State.newOp_grids (s : State) (t : Thread) (p : Pre) (w : List RegCell) (st : Status) (src : OpSrc) (acc : Option Acc) : (s.newOp t p w st src acc).grids = s.grids := rfl
@[simp] theorem State.newOp_teams (s : State) (t : Thread) (p : Pre) (w : List RegCell) (st : Status) (src : OpSrc) (acc : Option Acc) : (s.newOp t p w st src acc).teams = s.teams := rfl
@[simp] theorem State.newOp_threads (s : State) (t : Thread) (p : Pre) (w : List RegCell) (st : Status) (src : OpSrc) (acc : Option Acc) : (s.newOp t p w st src acc).threads = s.threads := rfl
@[simp] theorem State.newOp_log (s : State) (t : Thread) (p : Pre) (w : List RegCell) (st : Status) (src : OpSrc) (acc : Option Acc) : (s.newOp t p w st src acc).log = s.log := rfl
@[simp] theorem State.newOp_reports (s : State) (t : Thread) (p : Pre) (w : List RegCell) (st : Status) (src : OpSrc) (acc : Option Acc) : (s.newOp t p w st src acc).reports = s.reports := rfl
@[simp] theorem State.newOp_cmds (s : State) (t : Thread) (p : Pre) (w : List RegCell) (st : Status) (src : OpSrc) (acc : Option Acc) : (s.newOp t p w st src acc).cmds = s.cmds := rfl
@[simp] theorem State.newOp_fabric (s : State) (t : Thread) (p : Pre) (w : List RegCell) (st : Status) (src : OpSrc) (acc : Option Acc) : (s.newOp t p w st src acc).fabric = s.fabric := rfl
@[simp] theorem State.newOp_privs (s : State) (t : Thread) (p : Pre) (w : List RegCell) (st : Status) (src : OpSrc) (acc : Option Acc) : (s.newOp t p w st src acc).privs = s.privs := rfl
@[simp] theorem State.newOp_records (s : State) (t : Thread) (p : Pre) (w : List RegCell) (st : Status) (src : OpSrc) (acc : Option Acc) : (s.newOp t p w st src acc).records = s.records := rfl
@[simp] theorem State.newOp_stops (s : State) (t : Thread) (p : Pre) (w : List RegCell) (st : Status) (src : OpSrc) (acc : Option Acc) : (s.newOp t p w st src acc).stops = s.stops := rfl
@[simp] theorem State.newOp_slots (s : State) (t : Thread) (p : Pre) (w : List RegCell) (st : Status) (src : OpSrc) (acc : Option Acc) : (s.newOp t p w st src acc).slots = s.slots := rfl
@[simp] theorem State.newOp_charges (s : State) (t : Thread) (p : Pre) (w : List RegCell) (st : Status) (src : OpSrc) (acc : Option Acc) : (s.newOp t p w st src acc).charges = s.charges := rfl
@[simp] theorem State.newOp_budgets (s : State) (t : Thread) (p : Pre) (w : List RegCell) (st : Status) (src : OpSrc) (acc : Option Acc) : (s.newOp t p w st src acc).budgets = s.budgets := rfl
@[simp] theorem State.newOp_periodStart (s : State) (t : Thread) (p : Pre) (w : List RegCell) (st : Status) (src : OpSrc) (acc : Option Acc) : (s.newOp t p w st src acc).periodStart = s.periodStart := rfl
@[simp] theorem State.newOp_tickStart (s : State) (t : Thread) (p : Pre) (w : List RegCell) (st : Status) (src : OpSrc) (acc : Option Acc) : (s.newOp t p w st src acc).tickStart = s.tickStart := rfl
@[simp] theorem State.newOp_capture (s : State) (t : Thread) (p : Pre) (w : List RegCell) (st : Status) (src : OpSrc) (acc : Option Acc) : (s.newOp t p w st src acc).capture = s.capture := rfl
@[simp] theorem State.newOp_agenda (s : State) (t : Thread) (p : Pre) (w : List RegCell) (st : Status) (src : OpSrc) (acc : Option Acc) : (s.newOp t p w st src acc).agenda = s.agenda := rfl
@[simp] theorem State.newOp_issue (s : State) (t : Thread) (p : Pre) (w : List RegCell) (st : Status) (src : OpSrc) (acc : Option Acc) : (s.newOp t p w st src acc).issue = s.issue := rfl
@[simp] theorem State.newOp_ir (s : State) (t : Thread) (p : Pre) (w : List RegCell) (st : Status) (src : OpSrc) (acc : Option Acc) : (s.newOp t p w st src acc).ir = s.ir := rfl
@[simp] theorem State.newOp_free (s : State) (t : Thread) (p : Pre) (w : List RegCell) (st : Status) (src : OpSrc) (acc : Option Acc) : (s.newOp t p w st src acc).free = s.free := rfl

/-! ## settle -/

@[simp] theorem State.settle_board (s : State) (who : List Tid) : (s.settle who).board = s.board := rfl
@[simp] theorem State.settle_sys (s : State) (who : List Tid) : (s.settle who).sys = s.sys := rfl
@[simp] theorem State.settle_ctxs (s : State) (who : List Tid) : (s.settle who).ctxs = s.ctxs := rfl
@[simp] theorem State.settle_time (s : State) (who : List Tid) : (s.settle who).time = s.time := rfl
@[simp] theorem State.settle_mem (s : State) (who : List Tid) : (s.settle who).mem = s.mem := rfl
@[simp] theorem State.settle_ddr (s : State) (who : List Tid) : (s.settle who).ddr = s.ddr := rfl
@[simp] theorem State.settle_l2 (s : State) (who : List Tid) : (s.settle who).l2 = s.l2 := rfl
@[simp] theorem State.settle_l1 (s : State) (who : List Tid) : (s.settle who).l1 = s.l1 := rfl
@[simp] theorem State.settle_upd (s : State) (who : List Tid) : (s.settle who).upd = s.upd := rfl
@[simp] theorem State.settle_const (s : State) (who : List Tid) : (s.settle who).const = s.const := rfl
@[simp] theorem State.settle_tlb (s : State) (who : List Tid) : (s.settle who).tlb = s.tlb := rfl
@[simp] theorem State.settle_rev (s : State) (who : List Tid) : (s.settle who).rev = s.rev := rfl
@[simp] theorem State.settle_invs (s : State) (who : List Tid) : (s.settle who).invs = s.invs := rfl
@[simp] theorem State.settle_cores (s : State) (who : List Tid) : (s.settle who).cores = s.cores := rfl
@[simp] theorem State.settle_panels (s : State) (who : List Tid) : (s.settle who).panels = s.panels := rfl
@[simp] theorem State.settle_bobbins (s : State) (who : List Tid) : (s.settle who).bobbins = s.bobbins := rfl
@[simp] theorem State.settle_grids (s : State) (who : List Tid) : (s.settle who).grids = s.grids := rfl
@[simp] theorem State.settle_teams (s : State) (who : List Tid) : (s.settle who).teams = s.teams := rfl
@[simp] theorem State.settle_ops (s : State) (who : List Tid) : (s.settle who).ops = s.ops := rfl
@[simp] theorem State.settle_log (s : State) (who : List Tid) : (s.settle who).log = s.log := rfl
@[simp] theorem State.settle_reports (s : State) (who : List Tid) : (s.settle who).reports = s.reports := rfl
@[simp] theorem State.settle_cmds (s : State) (who : List Tid) : (s.settle who).cmds = s.cmds := rfl
@[simp] theorem State.settle_fabric (s : State) (who : List Tid) : (s.settle who).fabric = s.fabric := rfl
@[simp] theorem State.settle_privs (s : State) (who : List Tid) : (s.settle who).privs = s.privs := rfl
@[simp] theorem State.settle_records (s : State) (who : List Tid) : (s.settle who).records = s.records := rfl
@[simp] theorem State.settle_stops (s : State) (who : List Tid) : (s.settle who).stops = s.stops := rfl
@[simp] theorem State.settle_slots (s : State) (who : List Tid) : (s.settle who).slots = s.slots := rfl
@[simp] theorem State.settle_charges (s : State) (who : List Tid) : (s.settle who).charges = s.charges := rfl
@[simp] theorem State.settle_budgets (s : State) (who : List Tid) : (s.settle who).budgets = s.budgets := rfl
@[simp] theorem State.settle_periodStart (s : State) (who : List Tid) : (s.settle who).periodStart = s.periodStart := rfl
@[simp] theorem State.settle_tickStart (s : State) (who : List Tid) : (s.settle who).tickStart = s.tickStart := rfl
@[simp] theorem State.settle_capture (s : State) (who : List Tid) : (s.settle who).capture = s.capture := rfl
@[simp] theorem State.settle_agenda (s : State) (who : List Tid) : (s.settle who).agenda = s.agenda := rfl
@[simp] theorem State.settle_ir (s : State) (who : List Tid) : (s.settle who).ir = s.ir := rfl
@[simp] theorem State.settle_fresh (s : State) (who : List Tid) : (s.settle who).fresh = s.fresh := rfl
@[simp] theorem State.settle_free (s : State) (who : List Tid) : (s.settle who).free = s.free := rfl

/-! ## mapLanes -/

@[simp] theorem State.mapLanes_board (s : State) (p : Pre) (f : Thread → Lane) : (s.mapLanes p f).board = s.board := rfl
@[simp] theorem State.mapLanes_sys (s : State) (p : Pre) (f : Thread → Lane) : (s.mapLanes p f).sys = s.sys := rfl
@[simp] theorem State.mapLanes_ctxs (s : State) (p : Pre) (f : Thread → Lane) : (s.mapLanes p f).ctxs = s.ctxs := rfl
@[simp] theorem State.mapLanes_time (s : State) (p : Pre) (f : Thread → Lane) : (s.mapLanes p f).time = s.time := rfl
@[simp] theorem State.mapLanes_mem (s : State) (p : Pre) (f : Thread → Lane) : (s.mapLanes p f).mem = s.mem := rfl
@[simp] theorem State.mapLanes_ddr (s : State) (p : Pre) (f : Thread → Lane) : (s.mapLanes p f).ddr = s.ddr := rfl
@[simp] theorem State.mapLanes_l2 (s : State) (p : Pre) (f : Thread → Lane) : (s.mapLanes p f).l2 = s.l2 := rfl
@[simp] theorem State.mapLanes_l1 (s : State) (p : Pre) (f : Thread → Lane) : (s.mapLanes p f).l1 = s.l1 := rfl
@[simp] theorem State.mapLanes_upd (s : State) (p : Pre) (f : Thread → Lane) : (s.mapLanes p f).upd = s.upd := rfl
@[simp] theorem State.mapLanes_const (s : State) (p : Pre) (f : Thread → Lane) : (s.mapLanes p f).const = s.const := rfl
@[simp] theorem State.mapLanes_tlb (s : State) (p : Pre) (f : Thread → Lane) : (s.mapLanes p f).tlb = s.tlb := rfl
@[simp] theorem State.mapLanes_rev (s : State) (p : Pre) (f : Thread → Lane) : (s.mapLanes p f).rev = s.rev := rfl
@[simp] theorem State.mapLanes_invs (s : State) (p : Pre) (f : Thread → Lane) : (s.mapLanes p f).invs = s.invs := rfl
@[simp] theorem State.mapLanes_cores (s : State) (p : Pre) (f : Thread → Lane) : (s.mapLanes p f).cores = s.cores := rfl
@[simp] theorem State.mapLanes_panels (s : State) (p : Pre) (f : Thread → Lane) : (s.mapLanes p f).panels = s.panels := rfl
@[simp] theorem State.mapLanes_bobbins (s : State) (p : Pre) (f : Thread → Lane) : (s.mapLanes p f).bobbins = s.bobbins := rfl
@[simp] theorem State.mapLanes_grids (s : State) (p : Pre) (f : Thread → Lane) : (s.mapLanes p f).grids = s.grids := rfl
@[simp] theorem State.mapLanes_teams (s : State) (p : Pre) (f : Thread → Lane) : (s.mapLanes p f).teams = s.teams := rfl
@[simp] theorem State.mapLanes_ops (s : State) (p : Pre) (f : Thread → Lane) : (s.mapLanes p f).ops = s.ops := rfl
@[simp] theorem State.mapLanes_log (s : State) (p : Pre) (f : Thread → Lane) : (s.mapLanes p f).log = s.log := rfl
@[simp] theorem State.mapLanes_reports (s : State) (p : Pre) (f : Thread → Lane) : (s.mapLanes p f).reports = s.reports := rfl
@[simp] theorem State.mapLanes_cmds (s : State) (p : Pre) (f : Thread → Lane) : (s.mapLanes p f).cmds = s.cmds := rfl
@[simp] theorem State.mapLanes_fabric (s : State) (p : Pre) (f : Thread → Lane) : (s.mapLanes p f).fabric = s.fabric := rfl
@[simp] theorem State.mapLanes_privs (s : State) (p : Pre) (f : Thread → Lane) : (s.mapLanes p f).privs = s.privs := rfl
@[simp] theorem State.mapLanes_records (s : State) (p : Pre) (f : Thread → Lane) : (s.mapLanes p f).records = s.records := rfl
@[simp] theorem State.mapLanes_stops (s : State) (p : Pre) (f : Thread → Lane) : (s.mapLanes p f).stops = s.stops := rfl
@[simp] theorem State.mapLanes_slots (s : State) (p : Pre) (f : Thread → Lane) : (s.mapLanes p f).slots = s.slots := rfl
@[simp] theorem State.mapLanes_charges (s : State) (p : Pre) (f : Thread → Lane) : (s.mapLanes p f).charges = s.charges := rfl
@[simp] theorem State.mapLanes_budgets (s : State) (p : Pre) (f : Thread → Lane) : (s.mapLanes p f).budgets = s.budgets := rfl
@[simp] theorem State.mapLanes_periodStart (s : State) (p : Pre) (f : Thread → Lane) : (s.mapLanes p f).periodStart = s.periodStart := rfl
@[simp] theorem State.mapLanes_tickStart (s : State) (p : Pre) (f : Thread → Lane) : (s.mapLanes p f).tickStart = s.tickStart := rfl
@[simp] theorem State.mapLanes_capture (s : State) (p : Pre) (f : Thread → Lane) : (s.mapLanes p f).capture = s.capture := rfl
@[simp] theorem State.mapLanes_agenda (s : State) (p : Pre) (f : Thread → Lane) : (s.mapLanes p f).agenda = s.agenda := rfl
@[simp] theorem State.mapLanes_ir (s : State) (p : Pre) (f : Thread → Lane) : (s.mapLanes p f).ir = s.ir := rfl
@[simp] theorem State.mapLanes_fresh (s : State) (p : Pre) (f : Thread → Lane) : (s.mapLanes p f).fresh = s.fresh := rfl
@[simp] theorem State.mapLanes_free (s : State) (p : Pre) (f : Thread → Lane) : (s.mapLanes p f).free = s.free := rfl

/-! ## regOp -/

@[simp] theorem State.regOp_board (s : State) (p : Pre) (r : RoleRow) (dsts srcs : List Src) (f : Thread → Lane) : (s.regOp p r dsts srcs f).board = s.board := rfl
@[simp] theorem State.regOp_sys (s : State) (p : Pre) (r : RoleRow) (dsts srcs : List Src) (f : Thread → Lane) : (s.regOp p r dsts srcs f).sys = s.sys := rfl
@[simp] theorem State.regOp_ctxs (s : State) (p : Pre) (r : RoleRow) (dsts srcs : List Src) (f : Thread → Lane) : (s.regOp p r dsts srcs f).ctxs = s.ctxs := rfl
@[simp] theorem State.regOp_time (s : State) (p : Pre) (r : RoleRow) (dsts srcs : List Src) (f : Thread → Lane) : (s.regOp p r dsts srcs f).time = s.time := rfl
@[simp] theorem State.regOp_mem (s : State) (p : Pre) (r : RoleRow) (dsts srcs : List Src) (f : Thread → Lane) : (s.regOp p r dsts srcs f).mem = s.mem := rfl
@[simp] theorem State.regOp_ddr (s : State) (p : Pre) (r : RoleRow) (dsts srcs : List Src) (f : Thread → Lane) : (s.regOp p r dsts srcs f).ddr = s.ddr := rfl
@[simp] theorem State.regOp_l2 (s : State) (p : Pre) (r : RoleRow) (dsts srcs : List Src) (f : Thread → Lane) : (s.regOp p r dsts srcs f).l2 = s.l2 := rfl
@[simp] theorem State.regOp_l1 (s : State) (p : Pre) (r : RoleRow) (dsts srcs : List Src) (f : Thread → Lane) : (s.regOp p r dsts srcs f).l1 = s.l1 := rfl
@[simp] theorem State.regOp_upd (s : State) (p : Pre) (r : RoleRow) (dsts srcs : List Src) (f : Thread → Lane) : (s.regOp p r dsts srcs f).upd = s.upd := rfl
@[simp] theorem State.regOp_const (s : State) (p : Pre) (r : RoleRow) (dsts srcs : List Src) (f : Thread → Lane) : (s.regOp p r dsts srcs f).const = s.const := rfl
@[simp] theorem State.regOp_tlb (s : State) (p : Pre) (r : RoleRow) (dsts srcs : List Src) (f : Thread → Lane) : (s.regOp p r dsts srcs f).tlb = s.tlb := rfl
@[simp] theorem State.regOp_rev (s : State) (p : Pre) (r : RoleRow) (dsts srcs : List Src) (f : Thread → Lane) : (s.regOp p r dsts srcs f).rev = s.rev := rfl
@[simp] theorem State.regOp_invs (s : State) (p : Pre) (r : RoleRow) (dsts srcs : List Src) (f : Thread → Lane) : (s.regOp p r dsts srcs f).invs = s.invs := rfl
@[simp] theorem State.regOp_cores (s : State) (p : Pre) (r : RoleRow) (dsts srcs : List Src) (f : Thread → Lane) : (s.regOp p r dsts srcs f).cores = s.cores := rfl
@[simp] theorem State.regOp_panels (s : State) (p : Pre) (r : RoleRow) (dsts srcs : List Src) (f : Thread → Lane) : (s.regOp p r dsts srcs f).panels = s.panels := rfl
@[simp] theorem State.regOp_bobbins (s : State) (p : Pre) (r : RoleRow) (dsts srcs : List Src) (f : Thread → Lane) : (s.regOp p r dsts srcs f).bobbins = s.bobbins := rfl
@[simp] theorem State.regOp_grids (s : State) (p : Pre) (r : RoleRow) (dsts srcs : List Src) (f : Thread → Lane) : (s.regOp p r dsts srcs f).grids = s.grids := rfl
@[simp] theorem State.regOp_teams (s : State) (p : Pre) (r : RoleRow) (dsts srcs : List Src) (f : Thread → Lane) : (s.regOp p r dsts srcs f).teams = s.teams := rfl
@[simp] theorem State.regOp_ops (s : State) (p : Pre) (r : RoleRow) (dsts srcs : List Src) (f : Thread → Lane) : (s.regOp p r dsts srcs f).ops = s.ops := rfl
@[simp] theorem State.regOp_log (s : State) (p : Pre) (r : RoleRow) (dsts srcs : List Src) (f : Thread → Lane) : (s.regOp p r dsts srcs f).log = s.log := rfl
@[simp] theorem State.regOp_reports (s : State) (p : Pre) (r : RoleRow) (dsts srcs : List Src) (f : Thread → Lane) : (s.regOp p r dsts srcs f).reports = s.reports := rfl
@[simp] theorem State.regOp_cmds (s : State) (p : Pre) (r : RoleRow) (dsts srcs : List Src) (f : Thread → Lane) : (s.regOp p r dsts srcs f).cmds = s.cmds := rfl
@[simp] theorem State.regOp_fabric (s : State) (p : Pre) (r : RoleRow) (dsts srcs : List Src) (f : Thread → Lane) : (s.regOp p r dsts srcs f).fabric = s.fabric := rfl
@[simp] theorem State.regOp_privs (s : State) (p : Pre) (r : RoleRow) (dsts srcs : List Src) (f : Thread → Lane) : (s.regOp p r dsts srcs f).privs = s.privs := rfl
@[simp] theorem State.regOp_records (s : State) (p : Pre) (r : RoleRow) (dsts srcs : List Src) (f : Thread → Lane) : (s.regOp p r dsts srcs f).records = s.records := rfl
@[simp] theorem State.regOp_stops (s : State) (p : Pre) (r : RoleRow) (dsts srcs : List Src) (f : Thread → Lane) : (s.regOp p r dsts srcs f).stops = s.stops := rfl
@[simp] theorem State.regOp_slots (s : State) (p : Pre) (r : RoleRow) (dsts srcs : List Src) (f : Thread → Lane) : (s.regOp p r dsts srcs f).slots = s.slots := rfl
@[simp] theorem State.regOp_charges (s : State) (p : Pre) (r : RoleRow) (dsts srcs : List Src) (f : Thread → Lane) : (s.regOp p r dsts srcs f).charges = s.charges := rfl
@[simp] theorem State.regOp_budgets (s : State) (p : Pre) (r : RoleRow) (dsts srcs : List Src) (f : Thread → Lane) : (s.regOp p r dsts srcs f).budgets = s.budgets := rfl
@[simp] theorem State.regOp_periodStart (s : State) (p : Pre) (r : RoleRow) (dsts srcs : List Src) (f : Thread → Lane) : (s.regOp p r dsts srcs f).periodStart = s.periodStart := rfl
@[simp] theorem State.regOp_tickStart (s : State) (p : Pre) (r : RoleRow) (dsts srcs : List Src) (f : Thread → Lane) : (s.regOp p r dsts srcs f).tickStart = s.tickStart := rfl
@[simp] theorem State.regOp_capture (s : State) (p : Pre) (r : RoleRow) (dsts srcs : List Src) (f : Thread → Lane) : (s.regOp p r dsts srcs f).capture = s.capture := rfl
@[simp] theorem State.regOp_agenda (s : State) (p : Pre) (r : RoleRow) (dsts srcs : List Src) (f : Thread → Lane) : (s.regOp p r dsts srcs f).agenda = s.agenda := rfl
@[simp] theorem State.regOp_ir (s : State) (p : Pre) (r : RoleRow) (dsts srcs : List Src) (f : Thread → Lane) : (s.regOp p r dsts srcs f).ir = s.ir := rfl
@[simp] theorem State.regOp_fresh (s : State) (p : Pre) (r : RoleRow) (dsts srcs : List Src) (f : Thread → Lane) : (s.regOp p r dsts srcs f).fresh = s.fresh := rfl
@[simp] theorem State.regOp_free (s : State) (p : Pre) (r : RoleRow) (dsts srcs : List Src) (f : Thread → Lane) : (s.regOp p r dsts srcs f).free = s.free := rfl

@[simp] theorem State.settle_issue (s : State) (who : List Tid) : (s.settle who).issue = [] := rfl
@[simp] theorem State.mapLanes_issue (s : State) (p : Pre) (f : Thread → Lane) : (s.mapLanes p f).issue = [] := rfl
@[simp] theorem State.newOp_fresh (s : State) (t : Thread) (p : Pre) (w : List RegCell) (st : Status) (src : OpSrc) (acc : Option Acc) :
    (s.newOp t p w st src acc).fresh = s.fresh + 1 := rfl
@[simp] theorem State.due_agenda (s : State) (i : Instr) : (s.due i).agenda = s.agenda ++ [i] := rfl

/-! ## Thread.orStat -/

@[simp] theorem Thread.orStat_id (t : Thread) (x : Status) : (t.orStat x).id = t.id := rfl
@[simp] theorem Thread.orStat_team (t : Thread) (x : Status) : (t.orStat x).team = t.team := rfl
@[simp] theorem Thread.orStat_pc (t : Thread) (x : Status) : (t.orStat x).pc = t.pc := rfl
@[simp] theorem Thread.orStat_clause (t : Thread) (x : Status) : (t.orStat x).clause = t.clause := rfl
@[simp] theorem Thread.orStat_depth (t : Thread) (x : Status) : (t.orStat x).depth = t.depth := rfl
@[simp] theorem Thread.orStat_run (t : Thread) (x : Status) : (t.orStat x).run = t.run := rfl
@[simp] theorem Thread.orStat_regs (t : Thread) (x : Status) : (t.orStat x).regs = t.regs := rfl
@[simp] theorem Thread.orStat_traps (t : Thread) (x : Status) : (t.orStat x).traps = t.traps := rfl
@[simp] theorem Thread.orStat_tstTo (t : Thread) (x : Status) : (t.orStat x).tstTo = t.tstTo := rfl
@[simp] theorem Thread.orStat_logHeld (t : Thread) (x : Status) : (t.orStat x).logHeld = t.logHeld := rfl
@[simp] theorem Thread.orStat_child (t : Thread) (x : Status) : (t.orStat x).child = t.child := rfl
@[simp] theorem Thread.orStat_win (t : Thread) (x : Status) : (t.orStat x).win = t.win := rfl
@[simp] theorem Thread.orStat_reds (t : Thread) (x : Status) : (t.orStat x).reds = t.reds := rfl
@[simp] theorem Thread.orStat_lastIssue (t : Thread) (x : Status) : (t.orStat x).lastIssue = t.lastIssue := rfl
@[simp] theorem Thread.orStat_readySince (t : Thread) (x : Status) : (t.orStat x).readySince = t.readySince := rfl
@[simp] theorem Thread.orStat_sinceCount (t : Thread) (x : Status) : (t.orStat x).sinceCount = t.sinceCount := rfl
@[simp] theorem Thread.orStat_perf (t : Thread) (x : Status) : (t.orStat x).perf = t.perf := rfl

/-! ## Thread.issued -/

@[simp] theorem Thread.issued_id (t : Thread) (c : Nat) : (t.issued c).id = t.id := rfl
@[simp] theorem Thread.issued_team (t : Thread) (c : Nat) : (t.issued c).team = t.team := rfl
@[simp] theorem Thread.issued_pc (t : Thread) (c : Nat) : (t.issued c).pc = t.pc := rfl
@[simp] theorem Thread.issued_clause (t : Thread) (c : Nat) : (t.issued c).clause = t.clause := rfl
@[simp] theorem Thread.issued_depth (t : Thread) (c : Nat) : (t.issued c).depth = t.depth := rfl
@[simp] theorem Thread.issued_run (t : Thread) (c : Nat) : (t.issued c).run = t.run := rfl
@[simp] theorem Thread.issued_regs (t : Thread) (c : Nat) : (t.issued c).regs = t.regs := rfl
@[simp] theorem Thread.issued_astat (t : Thread) (c : Nat) : (t.issued c).astat = t.astat := rfl
@[simp] theorem Thread.issued_traps (t : Thread) (c : Nat) : (t.issued c).traps = t.traps := rfl
@[simp] theorem Thread.issued_tstTo (t : Thread) (c : Nat) : (t.issued c).tstTo = t.tstTo := rfl
@[simp] theorem Thread.issued_logHeld (t : Thread) (c : Nat) : (t.issued c).logHeld = t.logHeld := rfl
@[simp] theorem Thread.issued_child (t : Thread) (c : Nat) : (t.issued c).child = t.child := rfl
@[simp] theorem Thread.issued_win (t : Thread) (c : Nat) : (t.issued c).win = t.win := rfl
@[simp] theorem Thread.issued_reds (t : Thread) (c : Nat) : (t.issued c).reds = t.reds := rfl
@[simp] theorem Thread.issued_sinceCount (t : Thread) (c : Nat) : (t.issued c).sinceCount = t.sinceCount := rfl

/-! ## Thread.jump -/

@[simp] theorem Thread.jump_id (t : Thread) (a : Nat) : (t.jump a).id = t.id := rfl
@[simp] theorem Thread.jump_team (t : Thread) (a : Nat) : (t.jump a).team = t.team := rfl
@[simp] theorem Thread.jump_depth (t : Thread) (a : Nat) : (t.jump a).depth = t.depth := rfl
@[simp] theorem Thread.jump_run (t : Thread) (a : Nat) : (t.jump a).run = t.run := rfl
@[simp] theorem Thread.jump_regs (t : Thread) (a : Nat) : (t.jump a).regs = t.regs := rfl
@[simp] theorem Thread.jump_astat (t : Thread) (a : Nat) : (t.jump a).astat = t.astat := rfl
@[simp] theorem Thread.jump_traps (t : Thread) (a : Nat) : (t.jump a).traps = t.traps := rfl
@[simp] theorem Thread.jump_tstTo (t : Thread) (a : Nat) : (t.jump a).tstTo = t.tstTo := rfl
@[simp] theorem Thread.jump_logHeld (t : Thread) (a : Nat) : (t.jump a).logHeld = t.logHeld := rfl
@[simp] theorem Thread.jump_child (t : Thread) (a : Nat) : (t.jump a).child = t.child := rfl
@[simp] theorem Thread.jump_win (t : Thread) (a : Nat) : (t.jump a).win = t.win := rfl
@[simp] theorem Thread.jump_reds (t : Thread) (a : Nat) : (t.jump a).reds = t.reds := rfl
@[simp] theorem Thread.jump_lastIssue (t : Thread) (a : Nat) : (t.jump a).lastIssue = t.lastIssue := rfl
@[simp] theorem Thread.jump_readySince (t : Thread) (a : Nat) : (t.jump a).readySince = t.readySince := rfl
@[simp] theorem Thread.jump_sinceCount (t : Thread) (a : Nat) : (t.jump a).sinceCount = t.sinceCount := rfl
@[simp] theorem Thread.jump_perf (t : Thread) (a : Nat) : (t.jump a).perf = t.perf := rfl

/-! ## Thread.advance -/

@[simp] theorem Thread.advance_id (t : Thread) (n : Nat) : (t.advance n).id = t.id := by
  unfold Thread.advance; split <;> [rfl; (split <;> rfl)]
@[simp] theorem Thread.advance_team (t : Thread) (n : Nat) : (t.advance n).team = t.team := by
  unfold Thread.advance; split <;> [rfl; (split <;> rfl)]
@[simp] theorem Thread.advance_depth (t : Thread) (n : Nat) : (t.advance n).depth = t.depth := by
  unfold Thread.advance; split <;> [rfl; (split <;> rfl)]
@[simp] theorem Thread.advance_run (t : Thread) (n : Nat) : (t.advance n).run = t.run := by
  unfold Thread.advance; split <;> [rfl; (split <;> rfl)]
@[simp] theorem Thread.advance_regs (t : Thread) (n : Nat) : (t.advance n).regs = t.regs := by
  unfold Thread.advance; split <;> [rfl; (split <;> rfl)]
@[simp] theorem Thread.advance_astat (t : Thread) (n : Nat) : (t.advance n).astat = t.astat := by
  unfold Thread.advance; split <;> [rfl; (split <;> rfl)]
@[simp] theorem Thread.advance_traps (t : Thread) (n : Nat) : (t.advance n).traps = t.traps := by
  unfold Thread.advance; split <;> [rfl; (split <;> rfl)]
@[simp] theorem Thread.advance_tstTo (t : Thread) (n : Nat) : (t.advance n).tstTo = t.tstTo := by
  unfold Thread.advance; split <;> [rfl; (split <;> rfl)]
@[simp] theorem Thread.advance_logHeld (t : Thread) (n : Nat) : (t.advance n).logHeld = t.logHeld := by
  unfold Thread.advance; split <;> [rfl; (split <;> rfl)]
@[simp] theorem Thread.advance_child (t : Thread) (n : Nat) : (t.advance n).child = t.child := by
  unfold Thread.advance; split <;> [rfl; (split <;> rfl)]
@[simp] theorem Thread.advance_win (t : Thread) (n : Nat) : (t.advance n).win = t.win := by
  unfold Thread.advance; split <;> [rfl; (split <;> rfl)]
@[simp] theorem Thread.advance_reds (t : Thread) (n : Nat) : (t.advance n).reds = t.reds := by
  unfold Thread.advance; split <;> [rfl; (split <;> rfl)]
@[simp] theorem Thread.advance_lastIssue (t : Thread) (n : Nat) : (t.advance n).lastIssue = t.lastIssue := by
  unfold Thread.advance; split <;> [rfl; (split <;> rfl)]
@[simp] theorem Thread.advance_readySince (t : Thread) (n : Nat) : (t.advance n).readySince = t.readySince := by
  unfold Thread.advance; split <;> [rfl; (split <;> rfl)]
@[simp] theorem Thread.advance_sinceCount (t : Thread) (n : Nat) : (t.advance n).sinceCount = t.sinceCount := by
  unfold Thread.advance; split <;> [rfl; (split <;> rfl)]
@[simp] theorem Thread.advance_perf (t : Thread) (n : Nat) : (t.advance n).perf = t.perf := by
  unfold Thread.advance; split <;> [rfl; (split <;> rfl)]

/-! ## Thread.setReg -/

@[simp] theorem Thread.setReg_id (t : Thread) (n : Nat) (v : Word) (g : Tag) : (t.setReg n v g).id = t.id := by
  unfold Thread.setReg; split <;> rfl
@[simp] theorem Thread.setReg_team (t : Thread) (n : Nat) (v : Word) (g : Tag) : (t.setReg n v g).team = t.team := by
  unfold Thread.setReg; split <;> rfl
@[simp] theorem Thread.setReg_pc (t : Thread) (n : Nat) (v : Word) (g : Tag) : (t.setReg n v g).pc = t.pc := by
  unfold Thread.setReg; split <;> rfl
@[simp] theorem Thread.setReg_clause (t : Thread) (n : Nat) (v : Word) (g : Tag) : (t.setReg n v g).clause = t.clause := by
  unfold Thread.setReg; split <;> rfl
@[simp] theorem Thread.setReg_depth (t : Thread) (n : Nat) (v : Word) (g : Tag) : (t.setReg n v g).depth = t.depth := by
  unfold Thread.setReg; split <;> rfl
@[simp] theorem Thread.setReg_run (t : Thread) (n : Nat) (v : Word) (g : Tag) : (t.setReg n v g).run = t.run := by
  unfold Thread.setReg; split <;> rfl
@[simp] theorem Thread.setReg_astat (t : Thread) (n : Nat) (v : Word) (g : Tag) : (t.setReg n v g).astat = t.astat := by
  unfold Thread.setReg; split <;> rfl
@[simp] theorem Thread.setReg_traps (t : Thread) (n : Nat) (v : Word) (g : Tag) : (t.setReg n v g).traps = t.traps := by
  unfold Thread.setReg; split <;> rfl
@[simp] theorem Thread.setReg_tstTo (t : Thread) (n : Nat) (v : Word) (g : Tag) : (t.setReg n v g).tstTo = t.tstTo := by
  unfold Thread.setReg; split <;> rfl
@[simp] theorem Thread.setReg_logHeld (t : Thread) (n : Nat) (v : Word) (g : Tag) : (t.setReg n v g).logHeld = t.logHeld := by
  unfold Thread.setReg; split <;> rfl
@[simp] theorem Thread.setReg_child (t : Thread) (n : Nat) (v : Word) (g : Tag) : (t.setReg n v g).child = t.child := by
  unfold Thread.setReg; split <;> rfl
@[simp] theorem Thread.setReg_win (t : Thread) (n : Nat) (v : Word) (g : Tag) : (t.setReg n v g).win = t.win := by
  unfold Thread.setReg; split <;> rfl
@[simp] theorem Thread.setReg_reds (t : Thread) (n : Nat) (v : Word) (g : Tag) : (t.setReg n v g).reds = t.reds := by
  unfold Thread.setReg; split <;> rfl
@[simp] theorem Thread.setReg_lastIssue (t : Thread) (n : Nat) (v : Word) (g : Tag) : (t.setReg n v g).lastIssue = t.lastIssue := by
  unfold Thread.setReg; split <;> rfl
@[simp] theorem Thread.setReg_readySince (t : Thread) (n : Nat) (v : Word) (g : Tag) : (t.setReg n v g).readySince = t.readySince := by
  unfold Thread.setReg; split <;> rfl
@[simp] theorem Thread.setReg_sinceCount (t : Thread) (n : Nat) (v : Word) (g : Tag) : (t.setReg n v g).sinceCount = t.sinceCount := by
  unfold Thread.setReg; split <;> rfl
@[simp] theorem Thread.setReg_perf (t : Thread) (n : Nat) (v : Word) (g : Tag) : (t.setReg n v g).perf = t.perf := by
  unfold Thread.setReg; split <;> rfl

@[simp] theorem Thread.putAll_id (t : Thread) (w : List RegCell) : (t.putAll w).id = t.id := by
  induction w generalizing t with
  | nil => rfl
  | cons c l ih => simp [Thread.putAll, ih]
@[simp] theorem Thread.putAll_team (t : Thread) (w : List RegCell) : (t.putAll w).team = t.team := by
  induction w generalizing t with
  | nil => rfl
  | cons c l ih => simp [Thread.putAll, ih]
@[simp] theorem Thread.putAll_pc (t : Thread) (w : List RegCell) : (t.putAll w).pc = t.pc := by
  induction w generalizing t with
  | nil => rfl
  | cons c l ih => simp [Thread.putAll, ih]
@[simp] theorem Thread.putAll_clause (t : Thread) (w : List RegCell) : (t.putAll w).clause = t.clause := by
  induction w generalizing t with
  | nil => rfl
  | cons c l ih => simp [Thread.putAll, ih]
@[simp] theorem Thread.putAll_depth (t : Thread) (w : List RegCell) : (t.putAll w).depth = t.depth := by
  induction w generalizing t with
  | nil => rfl
  | cons c l ih => simp [Thread.putAll, ih]
@[simp] theorem Thread.putAll_run (t : Thread) (w : List RegCell) : (t.putAll w).run = t.run := by
  induction w generalizing t with
  | nil => rfl
  | cons c l ih => simp [Thread.putAll, ih]
@[simp] theorem Thread.putAll_astat (t : Thread) (w : List RegCell) : (t.putAll w).astat = t.astat := by
  induction w generalizing t with
  | nil => rfl
  | cons c l ih => simp [Thread.putAll, ih]
@[simp] theorem Thread.putAll_traps (t : Thread) (w : List RegCell) : (t.putAll w).traps = t.traps := by
  induction w generalizing t with
  | nil => rfl
  | cons c l ih => simp [Thread.putAll, ih]
@[simp] theorem Thread.putAll_tstTo (t : Thread) (w : List RegCell) : (t.putAll w).tstTo = t.tstTo := by
  induction w generalizing t with
  | nil => rfl
  | cons c l ih => simp [Thread.putAll, ih]
@[simp] theorem Thread.putAll_logHeld (t : Thread) (w : List RegCell) : (t.putAll w).logHeld = t.logHeld := by
  induction w generalizing t with
  | nil => rfl
  | cons c l ih => simp [Thread.putAll, ih]
@[simp] theorem Thread.putAll_child (t : Thread) (w : List RegCell) : (t.putAll w).child = t.child := by
  induction w generalizing t with
  | nil => rfl
  | cons c l ih => simp [Thread.putAll, ih]
@[simp] theorem Thread.putAll_win (t : Thread) (w : List RegCell) : (t.putAll w).win = t.win := by
  induction w generalizing t with
  | nil => rfl
  | cons c l ih => simp [Thread.putAll, ih]
@[simp] theorem Thread.putAll_reds (t : Thread) (w : List RegCell) : (t.putAll w).reds = t.reds := by
  induction w generalizing t with
  | nil => rfl
  | cons c l ih => simp [Thread.putAll, ih]
@[simp] theorem Thread.putAll_lastIssue (t : Thread) (w : List RegCell) : (t.putAll w).lastIssue = t.lastIssue := by
  induction w generalizing t with
  | nil => rfl
  | cons c l ih => simp [Thread.putAll, ih]
@[simp] theorem Thread.putAll_readySince (t : Thread) (w : List RegCell) : (t.putAll w).readySince = t.readySince := by
  induction w generalizing t with
  | nil => rfl
  | cons c l ih => simp [Thread.putAll, ih]
@[simp] theorem Thread.putAll_sinceCount (t : Thread) (w : List RegCell) : (t.putAll w).sinceCount = t.sinceCount := by
  induction w generalizing t with
  | nil => rfl
  | cons c l ih => simp [Thread.putAll, ih]
@[simp] theorem Thread.putAll_perf (t : Thread) (w : List RegCell) : (t.putAll w).perf = t.perf := by
  induction w generalizing t with
  | nil => rfl
  | cons c l ih => simp [Thread.putAll, ih]

@[simp] theorem Thread.orStat_astat (t : Thread) (x : Status) : (t.orStat x).astat = t.astat ||| x := rfl
@[simp] theorem Thread.issued_lastIssue (t : Thread) (c : Nat) : (t.issued c).lastIssue = c := rfl
@[simp] theorem Thread.issued_readySince (t : Thread) (c : Nat) : (t.issued c).readySince = c := rfl
@[simp] theorem Thread.jump_pc (t : Thread) (a : Nat) : (t.jump a).pc = a := rfl
@[simp] theorem Thread.jump_clause (t : Thread) (a : Nat) : (t.jump a).clause = none := rfl
@[simp] theorem Thread.advance_pc (t : Thread) (n : Nat) : (t.advance n).pc = t.pc + n := by
  unfold Thread.advance; split <;> [rfl; (split <;> rfl)]

end Sys2Proof.Machine
end

