-- ==== Sys2Proof/Laws/Regs.lean ====
section
/-! SUPPORT. The laws of a thread's registers: a read after a write, what a write leaves alone, `vz`, and that a write keeps
the canonical form. -/

namespace Sys2Proof.Machine

theorem regsRise_mono {b c : Nat} (h : b ≤ c) : ∀ l : List RegCell, regsRise c l = true → regsRise b l = true
  | [], _ => rfl
  | x :: l, hm => by
    simp only [regsRise, Bool.and_eq_true, decide_eq_true_eq] at hm ⊢
    exact ⟨⟨le_trans h hm.1.1, hm.1.2⟩, hm.2⟩

theorem regGet_below : ∀ (l : List RegCell) (b n : Nat), regsRise b l = true → n < b → regGet l n = (0#32, .raw)
  | [], _, _, _, _ => rfl
  | c :: l, b, n, hm, h => by
    simp only [regsRise, Bool.and_eq_true, decide_eq_true_eq] at hm
    have : c.n ≠ n := by omega
    simp only [regGet, this, if_false]
    exact regGet_below l (c.n + 1) n hm.2 (by omega)

theorem regGet_regSet_ne : ∀ (l : List RegCell) (n m : Nat) (v : Word) (g : Tag), m ≠ n → regGet (regSet l n v g) m = regGet l m
  | [], n, m, v, g, h => by
    simp only [regSet]; split <;> simp [regGet, Ne.symm h]
  | c :: l, n, m, v, g, h => by
    simp only [regSet]
    split
    · split <;> simp [regGet, Ne.symm h]
    · split
      · rename_i e; subst e
        split <;> simp [regGet, Ne.symm h]
      · simp only [regGet]
        split
        · rfl
        · exact regGet_regSet_ne l n m v g h

theorem regGet_regSet_eq : ∀ (l : List RegCell) (b n : Nat) (v : Word) (g : Tag), regsRise b l = true → regGet (regSet l n v g) n = (v, g)
  | [], _, n, v, g, _ => by
    simp only [regSet]; split
    · rename_i h; simp only [Bool.and_eq_true, beq_iff_eq] at h; simp [regGet, h.1, h.2]
    · simp [regGet]
  | c :: l, b, n, v, g, hm => by
    simp only [regsRise, Bool.and_eq_true, decide_eq_true_eq] at hm
    simp only [regSet]
    split
    · rename_i hlt
      split
      · rename_i hz; simp only [Bool.and_eq_true, beq_iff_eq] at hz
        have : c.n ≠ n := by omega
        simp only [regGet, this, if_false, hz.1, hz.2]
        exact regGet_below l (c.n + 1) n hm.2 (by omega)
      · simp [regGet]
    · split
      · rename_i hne e; subst e
        split
        · rename_i hz; simp only [Bool.and_eq_true, beq_iff_eq] at hz
          rw [hz.1, hz.2]
          exact regGet_below l (c.n + 1) c.n hm.2 (by omega)
        · simp [regGet]
      · rename_i hne e
        simp only [regGet, Ne.symm e, if_false]
        exact regGet_regSet_eq l (c.n + 1) n v g hm.2

theorem regSet_rises : ∀ (l : List RegCell) (b n : Nat) (v : Word) (g : Tag), regsRise b l = true → b ≤ n → regsRise b (regSet l n v g) = true
  | [], b, n, v, g, _, h => by
    simp only [regSet]; split
    · rfl
    · rename_i hz; simp_all [regsRise, imp_iff_not_or]
  | c :: l, b, n, v, g, hm, h => by
    have hm' := hm
    simp only [regsRise, Bool.and_eq_true, decide_eq_true_eq] at hm
    simp only [regSet]
    split
    · rename_i hlt
      split
      · exact hm'
      · rename_i hz
        simp only [regsRise, Bool.and_eq_true, decide_eq_true_eq]
        exact ⟨⟨h, by simpa [imp_iff_not_or] using hz⟩, ⟨by omega, hm.1.2⟩, hm.2⟩
    · split
      · rename_i hne e; subst e
        split
        · exact regsRise_mono (by omega) l hm.2
        · rename_i hz
          simp only [regsRise, Bool.and_eq_true, decide_eq_true_eq]
          exact ⟨⟨h, by simpa [imp_iff_not_or] using hz⟩, hm.2⟩
      · rename_i hne e
        simp only [regsRise, Bool.and_eq_true, decide_eq_true_eq]
        exact ⟨hm.1, regSet_rises l (c.n + 1) n v g hm.2 (by omega)⟩

/-- A register written reads as written; `vz` reads as zero with tag RAW. -/
theorem Thread.reg_setReg_eq (t : Thread) (n : Nat) (v : Word) (g : Tag) (h : regsRise 0 t.regs = true) :
    (t.setReg n v g).reg n = if n = 255 then (0#32, .raw) else (v, g) := by
  by_cases e : n = 255
  · simp [Thread.reg, e]
  · simp [Thread.reg, Thread.setReg, e, regGet_regSet_eq t.regs 0 n v g h]

/-- The other registers keep their values. -/
theorem Thread.reg_setReg_ne (t : Thread) (n m : Nat) (v : Word) (g : Tag) (h : m ≠ n) : (t.setReg n v g).reg m = t.reg m := by
  by_cases e : n = 255
  · simp [Thread.setReg, e]
  · simp [Thread.reg, Thread.setReg, e, regGet_regSet_ne t.regs n m v g h]

theorem Thread.setReg_rises (t : Thread) (n : Nat) (v : Word) (g : Tag) (h : regsRise 0 t.regs = true) :
    regsRise 0 (t.setReg n v g).regs = true := by
  by_cases e : n = 255
  · simpa [Thread.setReg, e] using h
  · simpa [Thread.setReg, e] using regSet_rises t.regs 0 n v g h (Nat.zero_le n)

theorem Thread.putAll_rises (t : Thread) (w : List RegCell) (h : regsRise 0 t.regs = true) : regsRise 0 (t.putAll w).regs = true := by
  induction w generalizing t with
  | nil => exact h
  | cons c l ih => exact ih _ (Thread.setReg_rises t c.n c.v c.tag h)

/-- The last of the cells written to a number is what it reads as. -/
theorem Thread.reg_putAll (t : Thread) (w : List RegCell) (n : Nat) (h : regsRise 0 t.regs = true) :
    (t.putAll w).reg n = if n = 255 then (0#32, .raw)
      else match w.reverse.find? (fun c => c.n == n) with
        | some c => (c.v, c.tag)
        | none => t.reg n := by
  induction w generalizing t with
  | nil => by_cases e : n = 255 <;> simp [Thread.putAll, Thread.reg, e]
  | cons c l ih =>
    rw [Thread.putAll, ih _ (Thread.setReg_rises t c.n c.v c.tag h), List.reverse_cons, List.find?_append]
    by_cases e : n = 255
    · simp [e]
    · simp only [e, if_false]
      cases hl : l.reverse.find? (fun c => c.n == n) with
      | some x => simp
      | none =>
        by_cases hc : c.n = n
        · subst hc; simp [Thread.reg_setReg_eq t c.n c.v c.tag h, e]
        · simp [hc, Thread.reg_setReg_ne t c.n n c.v c.tag (Ne.symm hc)]

end Sys2Proof.Machine
end

