-- ==== Sys2Proof/Laws/Issue.lean ====
section
/-! SUPPORT. What an issue does, once: the lanes of a register instruction, one lane of an instruction that acts on more than
its thread, and a long-latency instruction whose result is known at issue. -/

namespace Sys2Proof.Machine

/-! ## Looking a thread up -/

theorem find_map_id {α β : Type} [BEq β] (key : α → β) (f : α → α) (h : ∀ x, key (f x) = key x) (i : β) :
    ∀ l : List α, (l.map f).find? (fun x => key x == i) = (l.find? fun x => key x == i).map f
  | [] => rfl
  | x :: l => by
    simp only [List.map_cons, List.find?_cons, h]
    cases key x == i
    · exact find_map_id key f h i l
    · rfl

/-- A thread listed under its name is the thread of that name. -/
theorem State.thread_of_find (s : State) (t : Thread) (h : s.threads.find? (fun x => x.id == t.id) = some t) : s.thread t.id = t := by
  simp [State.thread, h]

theorem Thread.after_id (t : Thread) (s : State) (p : Pre) (gv : Bool) (r : Lane) : (t.after s p gv r).id = t.id := by
  cases r <;> simp [Thread.after]

theorem Thread.sealed_id (t : Thread) (s : State) (who : List Tid) : (t.sealed s who).id = t.id := by
  unfold Thread.sealed; split <;> [(split <;> rfl); rfl]

/-- A thread that has not parked is not changed by the end of an issue. -/
theorem Thread.sealed_ready (t : Thread) (s : State) (who : List Tid) (h : ∀ r, t.run ≠ .parked r) : t.sealed s who = t := by
  unfold Thread.sealed
  split
  · rename_i r e; exact absurd e (h r)
  · rfl

theorem State.laneThread_id (s : State) (p : Pre) (t : Thread) (f : Thread → Lane) : (s.laneThread p t f).id = t.id := by
  unfold State.laneThread; split
  · split
    · exact Thread.after_id ..
    · split <;> exact Thread.after_id ..
  · exact Thread.after_id ..

/-- A thread after an issue over its lanes. -/
theorem State.mapLanes_thread (s : State) (p : Pre) (f : Thread → Lane) (t : Thread)
    (h : s.threads.find? (fun x => x.id == t.id) = some t) :
    (s.mapLanes p f).thread t.id =
      Thread.sealed (if (s.actors p).contains t.id then s.laneThread p t f else t)
        { s with threads := s.threads.map fun t => if (s.actors p).contains t.id then s.laneThread p t f else t } (s.actors p) := by
  simp only [State.mapLanes, State.settle, State.thread]
  rw [find_map_id (fun x : Thread => x.id) _ (fun x => Thread.sealed_id x _ _),
    find_map_id (fun x : Thread => x.id) _ (fun x => by
      by_cases hc : (s.actors p).contains x.id = true <;> simp only [hc, if_true, State.laneThread_id]; rfl), h]
  rfl

/-- A thread of an issue is one of its actors. -/
theorem State.mem_actors (s : State) (p : Pre) (i : Tid) (h : i ∈ s.issue) : i ∈ s.actors p := by
  unfold State.actors
  split
  · unfold State.convGroup
    rw [List.mem_eraseDups, List.mem_flatMap]
    refine ⟨i, h, ?_⟩
    dsimp only
    split <;> simp
  · exact h

/-- A thread that does not take part stays as it is. -/
theorem State.mapLanes_other (s : State) (p : Pre) (f : Thread → Lane) (i : Tid) (h : i ∉ s.actors p) :
    (s.mapLanes p f).thread i = s.thread i := by
  cases e : s.threads.find? (fun x => x.id == i) with
  | none =>
    simp only [State.mapLanes, State.settle, State.thread]
    rw [find_map_id (fun x : Thread => x.id) _ (fun x => Thread.sealed_id x _ _),
      find_map_id (fun x : Thread => x.id) _ (fun x => by
        by_cases hc : (s.actors p).contains x.id = true <;> simp only [hc, if_true, State.laneThread_id]; rfl), e]
    rfl
  | some t =>
    have hi : t.id = i := by simpa using List.find?_some e
    subst hi
    rw [State.mapLanes_thread s p f t e, State.thread_of_find s t e]
    have hc : (s.actors p).contains t.id = false := by simpa using h
    simp only [hc, if_false, Bool.false_eq_true, if_false]
    unfold Thread.sealed
    split
    · rw [hc]; simp
    · rfl

/-- What stands in the way of a convergent instruction in a lane is absent: the subgroup fits the width, all of it stands
there, and no live member waits at issue. -/
def State.together (s : State) (p : Pre) (t : Thread) (f : Thread → Lane) : Prop :=
  permuted p = true →
    s.tooWide t p = false ∧ s.converged t (s.gSize t p) = true ∧
      s.subgroupHolds (s.gSize t p) (fun x => s.underGuard p x (f x)) t = false

/-- A lane of a register instruction that passes its guard meets its own effect. -/
theorem State.mapLanes_runs (s : State) (p : Pre) (f : Thread → Lane) (t : Thread)
    (h : s.threads.find? (fun x => x.id == t.id) = some t) (hi : t.id ∈ s.issue) (hg : s.guard t p = .ok true)
    (hc : s.together p t f) (hr : ∀ c d v, f t ≠ .trap c d v) (hu : f t = .asIs → ∀ r, t.run ≠ .parked r) :
    (s.mapLanes p f).thread t.id = t.after s p true (f t) := by
  rw [State.mapLanes_thread s p f t h]
  have ha : (s.actors p).contains t.id = true := by simpa using State.mem_actors s p t.id hi
  have hl : s.laneThread p t f = t.after s p true (f t) := by
    unfold State.laneThread
    by_cases hp : permuted p = true
    · obtain ⟨h1, h2, h3⟩ := hc hp
      have hv : s.underGuard p t (f t) = f t := by simp [State.underGuard, hg, hp, h1]
      simp [hp, h1, h2, h3, hv, State.guardValue, hg]
    · simp [hp, State.underGuard, State.guardValue, hg]
  simp only [ha, if_true, hl]
  refine Thread.sealed_ready _ _ _ ?_
  intro r e
  cases hf : f t with
  | trap c d v => exact hr c d v hf
  | asIs => rw [hf] at e; exact hu hf r e
  | done w st => simp [hf, Thread.after] at e
  | jump w a => simp [hf, Thread.after] at e
  | hold => simp [hf, Thread.after] at e
  | logHold => simp [hf, Thread.after] at e
  | pause n => simp [hf, Thread.after] at e
  | block w g => simp [hf, Thread.after] at e

/-- A lane whose guard fails changes nothing but its place (14/R313). -/
theorem State.mapLanes_skips (s : State) (p : Pre) (f : Thread → Lane) (t : Thread)
    (h : s.threads.find? (fun x => x.id == t.id) = some t) (hi : t.id ∈ s.issue) (hg : s.guard t p = .ok false)
    (hc : s.together p t f) :
    (s.mapLanes p f).thread t.id = t.after s p false (.done [] 0#6) := by
  rw [State.mapLanes_thread s p f t h]
  have ha : (s.actors p).contains t.id = true := by simpa using State.mem_actors s p t.id hi
  have hl : s.laneThread p t f = t.after s p false (.done [] 0#6) := by
    unfold State.laneThread
    by_cases hp : permuted p = true
    · obtain ⟨h1, h2, h3⟩ := hc hp
      have hv : s.underGuard p t (f t) = .done [] 0#6 := by simp [State.underGuard, hg]
      simp [hp, h1, h2, h3, hv, State.guardValue, hg]
    · simp [hp, State.underGuard, State.guardValue, hg]
  simp only [ha, if_true, hl]
  refine Thread.sealed_ready _ _ _ ?_
  intro r e
  simp [Thread.after] at e

/-- A register instruction in a lane that passes its guard and its checks. -/
theorem State.regOp_runs (s : State) (p : Pre) (r : RoleRow) (dsts srcs : List Src) (f : Thread → Lane) (t : Thread)
    (h : s.threads.find? (fun x => x.id == t.id) = some t) (hi : t.id ∈ s.issue) (hg : s.guard t p = .ok true)
    (hk : s.gate t p r dsts srcs = none)
    (hc : s.together p t fun x => match s.gate x p r dsts srcs with | some y => y | none => f x)
    (hr : ∀ c d v, f t ≠ .trap c d v) (hu : f t ≠ .asIs) :
    (s.regOp p r dsts srcs f).thread t.id = t.after s p true (f t) := by
  unfold State.regOp
  refine (State.mapLanes_runs s p _ t h hi hg ?_ ?_ ?_).trans ?_
  · exact hc
  · simpa [hk] using hr
  · intro e; simp only [hk] at e; exact absurd e hu
  · simp only [hk]

end Sys2Proof.Machine
end

