-- ==== Sys2Proof/Laws/Claims.lean ====
section
/-! SUPPORT. From the shared operations to the terms of the statements: an instruction of `regOp` that executes in a lane has
written its cells and changed nothing else. -/

namespace Sys2Proof.Claim

open Sys2Proof.Machine

/-- A guard adds no waiting at issue. -/
theorem underGuard_waits (s : State) (p : Pre) (t : Thread) (f : Lane) (h : f.waits = false) : (s.underGuard p t f).waits = false := by
  unfold State.underGuard
  cases hg : s.guard t p with
  | error x =>
    have hx : x.waits = false := by
      unfold State.guard at hg
      revert hg
      dsimp only
      repeat' split
      all_goals intro hg; cases hg
      rfl
    dsimp only
    split
    · rfl
    · unfold lowerTrap
      split
      · split
        · rfl
        · exact hx
      · exact hx
  | ok b =>
    cases b
    · rfl
    · dsimp only
      split
      · rfl
      · exact h

/-- The waiting of a subgroup, from the absence of pending destinations. -/
theorem Together.holds {s : State} {p : Pre} {r : RoleRow} {dsts srcs : List Src} {t : Thread} {f : Thread → Lane}
    {pend : Thread → List Src} (h : Together s p t pend)
    (hd : ∀ x, s.destPending x (pend x) = false → (match s.gate x p r dsts srcs with | some y => y | none => f x).waits = false) :
    s.together p t fun x => match s.gate x p r dsts srcs with | some y => y | none => f x := by
  intro hp
  obtain ⟨h1, h2, h3⟩ := h hp
  refine ⟨h1, h2, ?_⟩
  unfold State.subgroupHolds
  rw [List.any_eq_false]
  intro q hq e
  rw [Bool.and_eq_true] at e
  have hn := underGuard_waits s p (s.thread q) _ (hd (s.thread q) (h3 q hq e.1))
  simp only [hn] at e
  exact absurd e.2 Bool.false_ne_true

/-- The checks before an instruction's effect wait only for a pending destination. -/
theorem gate_waits {s : State} {x : Thread} {p : Pre} {r : RoleRow} {dsts srcs : List Src} {y : Lane}
    (h : s.destPending x dsts = false) (e : s.gate x p r dsts srcs = some y) : y.waits = false := by
  unfold State.gate State.preGate at e
  revert e
  split
  · rename_i z hz
    intro e
    cases e
    revert hz
    split
    · rename_i w hw
      intro e; cases e
      unfold State.roleFault at hw
      revert hw
      repeat' split
      all_goals intro e; cases e
      all_goals rfl
    · split
      · rename_i w hw
        intro e; cases e
        unfold State.rangeFault at hw
        rw [Option.map_eq_some_iff] at hw
        obtain ⟨_, _, rfl⟩ := hw
        rfl
      · simp [h]
  · intro e
    unfold State.formatFault at e
    revert e
    dsimp only
    split
    · intro e; cases e; rfl
    · intro e
      rw [Option.map_eq_some_iff] at e
      obtain ⟨_, _, rfl⟩ := e
      rfl

/-- What a thread reads as after cells are written. -/
theorem reg_after (t : Thread) (w : List RegCell) (n : Nat) (h : regsRise 0 t.regs = true) : (t.putAll w).reg n = regAfter t w n := by
  rw [Thread.reg_putAll t w n h]; rfl

theorem advance_clause (t : Thread) (n : Nat) : (t.advance n).clause = nextClause t.clause := by
  unfold Thread.advance nextClause
  cases e : t.clause with
  | none => rfl
  | some c => by_cases h : c.count ≤ c.idx + 1 <;> simp only [h, if_true, if_false]

/-- A lane that is done has written its cells. -/
theorem wrote_of_after {s s' : State} {p : Pre} {t : Thread} {w : List RegCell} {st : Status} {gv : Bool}
    (h : regsRise 0 t.regs = true) (e : s'.thread t.id = t.after s p gv (.done w st)) : Wrote s' p t w st := by
  constructor
  · intro n
    rw [e, ← reg_after t w n h]
    simp [Thread.after, Thread.reg]
  all_goals rw [e]
  · simp [Thread.after]
  · simp [Thread.after]
  · simp [Thread.after, advance_clause]
  · simp [Thread.after]
  · simp [Thread.after, SameRest]

/-- A lane that jumps has written its cells. -/
theorem jumped_of_after {s s' : State} {p : Pre} {t : Thread} {w : List RegCell} {a : Nat} {gv : Bool}
    (h : regsRise 0 t.regs = true) (e : s'.thread t.id = t.after s p gv (.jump w a)) : Jumped s' t w a := by
  constructor
  · intro n
    rw [e, ← reg_after t w n h]
    simp [Thread.after, Thread.reg, Thread.jump, Thread.issued]
  all_goals rw [e]
  · simp [Thread.after]
  · simp [Thread.after]
  · simp [Thread.after]
  · simp [Thread.after]
  · simp [Thread.after, SameRest]

/-- An issue over its lanes leaves everything but its threads alone. -/
theorem apart_mapLanes (s : State) (p : Pre) (f : Thread → Lane) : Apart s (s.mapLanes p f) (s.actors p) where
  rest := rfl
  bytes := fun _ => rfl
  others := fun i h => State.mapLanes_other s p f i h

/-- A register instruction that executes in a lane meets its own effect there. -/
theorem Executes.after {s : State} {p : Pre} {r : RoleRow} {dsts srcs : List Src} {t : Thread} {f : Thread → Lane}
    (h : Executes s p r dsts srcs t) (hf : ∀ x, (f x).waits = false) (ht : ∀ c d v, f t ≠ .trap c d v) (hu : f t ≠ .asIs) :
    (s.regOp p r dsts srcs f).thread t.id = t.after s p true (f t) := by
  refine State.regOp_runs s p r dsts srcs f t h.listed h.issued h.passes h.clear (Together.holds h.together ?_) ht hu
  intro x hx
  cases e : s.gate x p r dsts srcs with
  | none => exact hf x
  | some y => exact gate_waits hx e

/-- A register instruction whose lane is done. -/
theorem Executes.wrote {s : State} {p : Pre} {r : RoleRow} {dsts srcs : List Src} {t : Thread} {f : Thread → Lane}
    {w : List RegCell} {st : Status} (h : Executes s p r dsts srcs t) (hf : ∀ x, (f x).waits = false) (e : f t = .done w st) :
    Wrote (s.regOp p r dsts srcs f) p t w st ∧ Apart s (s.regOp p r dsts srcs f) (s.actors p) :=
  ⟨wrote_of_after h.form (by rw [h.after hf (by simp [e]) (by simp [e]), e]), apart_mapLanes s p _⟩

/-- A register instruction whose lane transfers control. -/
theorem Executes.jumped {s : State} {p : Pre} {r : RoleRow} {dsts srcs : List Src} {t : Thread} {f : Thread → Lane}
    {w : List RegCell} {a : Nat} (h : Executes s p r dsts srcs t) (hf : ∀ x, (f x).waits = false) (e : f t = .jump w a) :
    Jumped (s.regOp p r dsts srcs f) t w a ∧ Apart s (s.regOp p r dsts srcs f) (s.actors p) :=
  ⟨jumped_of_after h.form (by rw [h.after hf (by simp [e]) (by simp [e]), e]), apart_mapLanes s p _⟩

end Sys2Proof.Claim
end

