-- ==== Sys2Proof/Laws/Elems.lean ====
section
/-! SUPPORT. Packed elements: what an element of a packed value is, how wide the value is, and the status of an element-wise
operation. -/

namespace Sys2Proof.Machine

theorem packElems_lt (w : Nat) : ∀ l : List Nat, packElems w l < 2 ^ (w * l.length)
  | [] => by simp [packElems]
  | x :: l => by
    have h1 := Nat.mod_lt x (Nat.two_pow_pos w)
    have h2 := packElems_lt w l
    have e : 2 ^ (w * (x :: l).length) = 2 ^ w * 2 ^ (w * l.length) := by
      rw [List.length_cons, Nat.mul_add, Nat.mul_one, Nat.pow_add, Nat.mul_comm]
    rw [packElems, e]
    calc x % 2 ^ w + 2 ^ w * packElems w l < 2 ^ w + 2 ^ w * packElems w l := by omega
      _ = 2 ^ w * (packElems w l + 1) := by rw [Nat.mul_add, Nat.mul_one, Nat.add_comm]
      _ ≤ 2 ^ w * 2 ^ (w * l.length) := Nat.mul_le_mul_left _ h2

/-- Element j of a packed value. -/
theorem elemAt_packElems (w : Nat) : ∀ (l : List Nat) (j : Nat), elemAt w j (packElems w l) = l.getD j 0 % 2 ^ w
  | [], j => by simp [elemAt, bitsAt, packElems]
  | x :: l, 0 => by
    simp [elemAt, bitsAt, packElems, Nat.add_mul_mod_self_left]
  | x :: l, j + 1 => by
    have ih := elemAt_packElems w l j
    have e : w * (j + 1) = w + w * j := by rw [Nat.mul_add, Nat.mul_one, Nat.add_comm]
    unfold elemAt bitsAt at ih ⊢
    rw [e, Nat.pow_add, ← Nat.div_div_eq_div_mul]
    have : packElems w (x :: l) / 2 ^ w = packElems w l := by
      rw [packElems, Nat.add_mul_div_left _ _ (Nat.two_pow_pos w), Nat.div_eq_of_lt (Nat.mod_lt _ (Nat.two_pow_pos w)), Nat.zero_add]
    rw [this]
    simpa using ih

theorem mapElems_length (w : Nat) (f : Nat → Nat × Status) : ∀ n j, (mapElems w f n j).1.length = n
  | 0, _ => rfl
  | n + 1, j => by simp [mapElems, mapElems_length w f n (j + 1)]

/-- Element k of an element-wise operation that starts at element j. -/
theorem mapElems_get (w : Nat) (f : Nat → Nat × Status) : ∀ n j k, k < n → (mapElems w f n j).1.getD k 0 = (f (j + k)).1
  | 0, _, _, h => absurd h (Nat.not_lt_zero _)
  | n + 1, j, 0, _ => by simp [mapElems]
  | n + 1, j, k + 1, h => by
    have := mapElems_get w f n (j + 1) k (by omega)
    simp only [mapElems, List.getD_cons_succ, this]
    congr 2; omega

/-- Its status is every element's ORed. -/
theorem mapElems_stat (w : Nat) (f : Nat → Nat × Status) (P : Nat → Prop) (b : Status)
    (h : ∀ k, P k ∧ (f k).2 = b ∨ ¬P k ∧ (f k).2 = 0#6) : ∀ n j,
    (∃ k, k < n ∧ P (j + k)) ∧ (mapElems w f n j).2 = b ∨ (∀ k, k < n → ¬P (j + k)) ∧ (mapElems w f n j).2 = 0#6
  | 0, _ => .inr ⟨fun _ h => absurd h (Nat.not_lt_zero _), rfl⟩
  | n + 1, j => by
    simp only [mapElems]
    rcases h j with ⟨h1, h2⟩ | ⟨h1, h2⟩ <;> rcases mapElems_stat w f P b h n (j + 1) with ⟨⟨k, hk, h3⟩, h4⟩ | ⟨h3, h4⟩
    · exact .inl ⟨⟨0, by omega, by simpa using h1⟩, by rw [h2, h4]; exact BitVec.or_self⟩
    · exact .inl ⟨⟨0, by omega, by simpa using h1⟩, by rw [h2, h4]; simp⟩
    · exact .inl ⟨⟨k + 1, by omega, by rw [show j + (k + 1) = j + 1 + k by omega]; exact h3⟩, by rw [h2, h4]; simp⟩
    · refine .inr ⟨?_, by rw [h2, h4]; simp⟩
      intro k hk
      cases k with
      | zero => simpa using h1
      | succ k => rw [show j + (k + 1) = j + 1 + k by omega]; exact h3 k (by omega)

end Sys2Proof.Machine
end

