-- ==== Sys2Proof/Laws/Memory.lean ====
section
/-! SUPPORT. The laws of memory: a read after a write, what a write leaves alone, and that every write keeps the canonical
form. -/

namespace Sys2Proof.Machine

theorem risesAbove_mono {b c : Nat} (h : b ≤ c) : ∀ m : Memory, risesAbove c m = true → risesAbove b m = true
  | [], _ => rfl
  | (a, v) :: l, hm => by
    simp only [risesAbove, Bool.and_eq_true, decide_eq_true_eq] at hm ⊢
    exact ⟨⟨le_trans h hm.1.1, hm.1.2⟩, hm.2⟩

/-- A byte below every listed address reads as an unlisted one. -/
theorem memGet_below : ∀ (m : Memory) (b a : Nat), risesAbove b m = true → a < b → memGet m a = memDefault
  | [], _, _, _, _ => rfl
  | (c, v) :: l, b, a, hm, h => by
    simp only [risesAbove, Bool.and_eq_true, decide_eq_true_eq] at hm
    have : a ≠ c := by omega
    simp only [memGet, this, if_false]
    exact memGet_below l (c + 1) a hm.2 (by omega)

/-- A write leaves every other byte alone. -/
theorem memGet_memSet_ne : ∀ (m : Memory) (a x : Nat) (v : Byte), x ≠ a → memGet (memSet m a v) x = memGet m x
  | [], a, x, v, h => by
    simp only [memSet]; split <;> simp [memGet, h]
  | (c, w) :: l, a, x, v, h => by
    simp only [memSet]
    split
    · split <;> simp [memGet, h]
    · split
      · rename_i e; subst e
        split <;> simp [memGet, h]
      · simp only [memGet]
        split
        · rfl
        · exact memGet_memSet_ne l a x v h

/-- A read after a write of the same byte gives it. -/
theorem memGet_memSet_eq : ∀ (m : Memory) (b a : Nat) (v : Byte), risesAbove b m = true → memGet (memSet m a v) a = v
  | [], _, a, v, _ => by
    simp only [memSet]; split <;> simp_all [memGet]
  | (c, w) :: l, b, a, v, hm => by
    simp only [risesAbove, Bool.and_eq_true, decide_eq_true_eq] at hm
    simp only [memSet]
    split
    · rename_i hlt
      split
      · rename_i hv; subst hv
        have : a ≠ c := by omega
        simp only [memGet, this, if_false]
        exact memGet_below l (c + 1) a hm.2 (by omega)
      · simp [memGet]
    · split
      · rename_i hne e; subst e
        split
        · rename_i hv; subst hv
          exact memGet_below l (a + 1) a hm.2 (by omega)
        · simp [memGet]
      · rename_i hne e
        simp only [memGet, e, if_false]
        exact memGet_memSet_eq l (c + 1) a v hm.2

theorem memSet_rises : ∀ (m : Memory) (b a : Nat) (v : Byte), risesAbove b m = true → b ≤ a → risesAbove b (memSet m a v) = true
  | [], b, a, v, _, h => by
    simp only [memSet]; split <;> simp_all [risesAbove]
  | (c, w) :: l, b, a, v, hm, h => by
    have hm' := hm
    simp only [risesAbove, Bool.and_eq_true, decide_eq_true_eq] at hm
    simp only [memSet]
    split
    · rename_i hlt
      split
      · exact hm'
      · simp only [risesAbove, Bool.and_eq_true, decide_eq_true_eq]
        exact ⟨⟨h, by simp_all⟩, ⟨by omega, hm.1.2⟩, hm.2⟩
    · split
      · rename_i hne e; subst e
        split
        · exact risesAbove_mono (by omega) l hm.2
        · simp only [risesAbove, Bool.and_eq_true, decide_eq_true_eq]
          exact ⟨⟨h, by simp_all⟩, hm.2⟩
      · rename_i hne e
        simp only [risesAbove, Bool.and_eq_true, decide_eq_true_eq]
        exact ⟨hm.1, memSet_rises l (c + 1) a v hm.2 (by omega)⟩

/-- A write keeps the canonical form. -/
theorem memSet_wf (m : Memory) (a : Nat) (v : Byte) (h : Memory.wf m = true) : Memory.wf (memSet m a v) = true :=
  memSet_rises m 0 a v h (Nat.zero_le a)

theorem memWrite_wf : ∀ (l : List Byte) (m : Memory) (a : Nat), Memory.wf m = true → Memory.wf (memWrite m a l) = true
  | [], _, _, h => h
  | v :: l, m, a, h => memWrite_wf l (memSet m a v) (a + 1) (memSet_wf m a v h)

theorem memPaste_wf : ∀ (l : Memory) (m : Memory) (a : Nat), Memory.wf m = true → Memory.wf (memPaste m a l) = true
  | [], _, _, h => h
  | c :: l, m, a, h => memPaste_wf l (memSet m (a + c.1) c.2) a (memSet_wf m (a + c.1) c.2 h)

theorem memFields_wf : ∀ (l : List (Nat × Nat × Nat)) (m : Memory), Memory.wf m = true → Memory.wf (memFields m l) = true
  | [], _, h => h
  | _ :: l, m, h => memFields_wf l _ (memWrite_wf _ m _ h)

/-- Bytes outside the written ones are left alone. -/
theorem memGet_memWrite_ne : ∀ (l : List Byte) (m : Memory) (a x : Nat), (x < a ∨ a + l.length ≤ x) → memGet (memWrite m a l) x = memGet m x
  | [], _, _, _, _ => rfl
  | v :: l, m, a, x, h => by
    simp only [List.length_cons] at h
    rw [memWrite, memGet_memWrite_ne l (memSet m a v) (a + 1) x (by omega), memGet_memSet_ne m a x v (by omega)]

/-- A read of the written bytes gives them. -/
theorem memRead_memWrite : ∀ (l : List Byte) (m : Memory) (a : Nat), Memory.wf m = true → memRead (memWrite m a l) a l.length = l
  | [], _, _, _ => rfl
  | v :: l, m, a, h => by
    have h1 : memGet (memWrite m a (v :: l)) a = v := by
      rw [memWrite, memGet_memWrite_ne l _ (a + 1) a (by omega)]
      exact memGet_memSet_eq m 0 a v h
    have h2 : memRead (memWrite m a (v :: l)) (a + 1) l.length = l := by
      rw [memWrite]
      exact memRead_memWrite l _ (a + 1) (memSet_wf m a v h)
    simp only [List.length_cons, memRead, h1, h2]

end Sys2Proof.Machine
end

