-- ==== Sys2Proof/Tests/Slice0.lean ====
section
/-! SUPPORT. The author's own tests. The words are written out from the encoding tables of 14 to 19, the expected results are the
worked examples of spec/ or hand calculation from its rules, and every statement's hypotheses have a witness. -/

namespace Sys2Proof.Tests

open Sys2Proof Sys2Proof.Machine Sys2Proof.Claim

set_option Elab.async false

/-! ## Words -/

/-- No guard, no permutation, FS 0. -/
abbrev p : Pre :=
  { len := .l64, fs := false, ge := false, gn := false, gb := 0, sg := 0, pa := noPerm, pb := noPerm, pc := noPerm }
/-- The same in an item of 96 bits, and of 128. -/
abbrev p96 : Pre := { p with len := .l96 }
abbrev p128 : Pre := { p with len := .l128 }

/-- Words of 15/R329 to R334: the OP of 14/R317 and the fields of R305 and R306. -/
theorem test_words_moves_1 :
    decodeTableWord 64 0x0000000000000000 = some (.nop p) ∧
    decodeTableWord 64 0x0010000FC0A00004 = some (.mov p true 10 252) ∧
    decodeTableWord 64 0x0000005040300008 = some (.movx p 3 4 5) ∧
    decodeTableWord 64 0x000000504030000C = some (.movxw p 3 4 5) ∧
    decodeTableWord 64 0x01F0000080600010 = some (.tag p true .foreign 6 8) ∧
    decodeTableWord 64 0x0000000090700014 = some (.tagq p 7 9) ∧
    decodeTableWord 64 0x0001100000100018 = some (.idq p 1 17) ∧
    decodeTableWord 64 0x800FE000008000F0 = some (.movi p .s32 8 (-2)) ∧
    decodeTableWord 64 0xB007F000008000F4 = some (.movi64 p .n64 8 127) := by decide

/-- Words of 15/R329 to R334: the OP of 14/R317 and the fields of R305 and R306. -/
theorem test_words_moves_2 :
    decodeTableWord 96 0x0001234590000000008000F1 = some (.movi p96 .n32 8 0x12345) ∧
    decodeTableWord 128 0xFFFFFFFF0000000000000000004000F2 = some (.movi p128 .raw 4 (-1)) := by decide

/-- Words of 15/R320 to R324: the OP of 14/R317 and the fields of R305 and R306. -/
theorem test_words_arithmetic_1 :
    decodeTableWord 64 0x4800003020100040 = some (.iadd p .s8 true 1 2 3) ∧
    decodeTableWord 64 0x7000003020100044 = some (.isub p .n16 false 1 2 3) ∧
    decodeTableWord 64 0x6800000020100048 = some (.ineg p .s16 true 1 2) ∧
    decodeTableWord 64 0x800000002010004C = some (.iabs p .s32 false 1 2) ∧
    decodeTableWord 64 0x5000003020100050 = some (.imin p .n8 1 2 3) ∧
    decodeTableWord 64 0x4000003020100054 = some (.imax p .s8 1 2 3) ∧
    decodeTableWord 64 0x9800003020100058 = some (.imul p .n32 true 1 2 3) ∧
    decodeTableWord 64 0x800000302010005C = some (.imulh p .s32 1 2 3) ∧
    decodeTableWord 64 0x9000403020100060 = some (.imad p .n32 false 1 2 3 4) := by decide

/-- Words of 15/R320 to R324: the OP of 14/R317 and the fields of R305 and R306. -/
theorem test_words_arithmetic_2 :
    decodeTableWord 64 0x8800605030200064 = some (.imadw p .s32 true 2 3 5 6) ∧
    decodeTableWord 64 0x900FF05020A00068 = some (.iaddc p 10 2 5 255) ∧
    decodeTableWord 64 0x9000B05020A0006C = some (.isubb p 10 2 5 11) ∧
    decodeTableWord 64 0xA800006040200070 = some (.iadd64 p .s64 true 2 4 6) ∧
    decodeTableWord 64 0xB00000604FF00074 = some (.isub64 p .n64 false 255 4 6) ∧
    decodeTableWord 64 0xBB01F04020700078 = some (.icmp p .n64 .ge .or 7 2 4 31) ∧
    decodeTableWord 64 0x01F040302010007C = some (.isel p 1 2 3 4 31) := by decide

/-- Words of 15/R325 to R328: the OP of 14/R317 and the fields of R305 and R306. -/
theorem test_words_bits_1 :
    decodeTableWord 64 0x040C800020100080 = some (.shl p 1 2 (.imm 200)) ∧
    decodeTableWord 64 0x0000003020100084 = some (.shr p 1 2 (.reg 3)) ∧
    decodeTableWord 64 0x040C800020100088 = some (.sar p 1 2 (.imm 200)) ∧
    decodeTableWord 64 0x000000302010008C = some (.rotl p 1 2 (.reg 3)) ∧
    decodeTableWord 64 0x0403F00040200090 = some (.shl64 p 2 4 (.imm 63)) ∧
    decodeTableWord 64 0x0000007040200094 = some (.shr64 p 2 4 (.reg 7)) ∧
    decodeTableWord 64 0x0400F000303000A0 = some (.and p 3 3 (.imm 15)) ∧
    decodeTableWord 64 0x00000030201000A4 = some (.or p 1 2 (.reg 3)) ∧
    decodeTableWord 64 0x040FF000201000A8 = some (.xor p 1 2 (.imm 255)) := by decide

/-- Words of 15/R325 to R328: the OP of 14/R317 and the fields of R305 and R306. -/
theorem test_words_bits_2 :
    decodeTableWord 64 0x00000030201000AC = some (.andn p 1 2 (.reg 3)) ∧
    decodeTableWord 64 0x0E804030201000B0 = some (.lut3 p 1 2 3 4 0xE8) ∧
    decodeTableWord 64 0x8071F000201000C0 = some (.bfx p .s32 1 2 31 7) ∧
    decodeTableWord 64 0x01F04030201000C4 = some (.bfi p 1 2 3 4 31) ∧
    decodeTableWord 64 0x00000000201000C8 = some (.popc p 1 2) ∧
    decodeTableWord 64 0x00000000201000CC = some (.clz p 1 2) ∧
    decodeTableWord 64 0x00000000201000D0 = some (.ctz p 1 2) ∧
    decodeTableWord 64 0x00000000201000D4 = some (.brev p 1 2) ∧
    decodeTableWord 64 0x00004030201000D8 = some (.bperm p 1 2 3 4) := by decide

/-- Words of 15/R325 to R328: the OP of 14/R317 and the fields of R305 and R306. -/
theorem test_words_bits_3 :
    decodeTableWord 64 0x04009000201000DC = some (.bset p 1 2 (.imm 9)) ∧
    decodeTableWord 64 0x00000090201000E0 = some (.bclr p 1 2 (.reg 9)) := by decide

/-- Words of 15/R335 to R342: the OP of 14/R317 and the fields of R305 and R306. -/
theorem test_words_control_1 :
    decodeTableWord 96 0x00FFFFFC0000000000000101 = some (.bra p96 (-4)) ∧
    decodeTableWord 64 0x0000000060000104 = some (.brx p 6) ∧
    decodeTableWord 128 0x000001A000000000000000000280010A = some (.call p128 40 0x1A0) ∧
    decodeTableWord 64 0x000000006280010C = some (.callx p 40 6) ∧
    decodeTableWord 64 0x0000000280000110 = some (.ret p 40) ∧
    decodeTableWord 64 0x0000000000000114 = some (.seam p) ∧
    decodeTableWord 64 0x0000000000000118 = some (.bar p) ∧
    decodeTableWord 64 0x000000000000011C = some (.yield p) ∧
    decodeTableWord 64 0x000FF00000000120 = some (.pause p 255) := by decide

/-- Words of 15/R335 to R342: the OP of 14/R317 and the fields of R305 and R306. -/
theorem test_words_control_2 :
    decodeTableWord 64 0x0000004020000124 = some (.spawn p 2 4) ∧
    decodeTableWord 64 0x0000000000000128 = some (.exit p) := by decide

/-- Words of 16/R344 to R349: the OP of 14/R317 and the fields of R305 and R306. -/
theorem test_words_float_1 :
    decodeTableWord 64 0x1800706050400200 = some (.fadd p .sr 4 5 6 7) ∧
    decodeTableWord 64 0x1400006050400204 = some (.fsub p .rup 4 5 6 0) ∧
    decodeTableWord 64 0x1600006050400208 = some (.fmul p .rdn 4 5 6 0) ∧
    decodeTableWord 64 0x1200B0A09080020C = some (.ffma p .rtz 8 9 10 11) ∧
    decodeTableWord 64 0x1000003020100210 = some (.fmin p 1 2 3) ∧
    decodeTableWord 64 0x1000003020100214 = some (.fmax p 1 2 3) ∧
    decodeTableWord 64 0x1E80302010700218 = some (.fcmp p .num .and 7 1 2 3) ∧
    decodeTableWord 64 0x160000002010021C = some (.fround p .rdn 1 2) ∧
    decodeTableWord 64 0x1000000020100220 = some (.fclass p 1 2) := by decide

/-- Words of 16/R344 to R349: the OP of 14/R317 and the fields of R305 and R306. -/
theorem test_words_float_2 :
    decodeTableWord 64 0x1200003020100224 = some (.fscale p .rtz 1 2 3) ∧
    decodeTableWord 64 0x1200000020100240 = some (.frcp p .rtz 1 2) ∧
    decodeTableWord 64 0x1400000020100244 = some (.frsq p .rup 1 2) ∧
    decodeTableWord 64 0x1600000020100248 = some (.fsqrt p .rdn 1 2) ∧
    decodeTableWord 64 0x100000302010024C = some (.fdiv p .rne 1 2 3) ∧
    decodeTableWord 64 0x1000000020100250 = some (.fexp2 p 1 2) ∧
    decodeTableWord 64 0x1000000020100254 = some (.flog2 p 1 2) ∧
    decodeTableWord 64 0x1000000020100258 = some (.fsin p 1 2) ∧
    decodeTableWord 64 0x100000002010025C = some (.fcos p 1 2) := by decide

/-- Words of 16/R344 to R349: the OP of 14/R317 and the fields of R305 and R306. -/
theorem test_words_float_3 :
    decodeTableWord 64 0x1000000020100260 = some (.ftanh p 1 2) := by decide

/-- Words of 16/R350 to R357: the OP of 14/R317 and the fields of R305 and R306. -/
theorem test_words_packed_1 :
    decodeTableWord 64 0x2800403020100280 = some (.hadd2 p .f16 .sr 1 2 3 4) ∧
    decodeTableWord 64 0x3200003020100284 = some (.hmul2 p .bf16 .rtz 1 2 3 0) ∧
    decodeTableWord 64 0x2400403020100288 = some (.hfma2 p .f16 .rup 1 2 3 4) ∧
    decodeTableWord 64 0x200000302010028C = some (.hmin2 p .f16 1 2 3) ∧
    decodeTableWord 64 0x3000003020100290 = some (.hmax2 p .bf16 1 2 3) ∧
    decodeTableWord 64 0x3600403020100294 = some (.dot2 p .bf16 .rdn 1 2 3 4) ∧
    decodeTableWord 64 0x5800403020100298 = some (.dot4 p .n8 true 1 2 3 4) ∧
    decodeTableWord 64 0x30201000103002C0 = some (.cvt p .bf16 .rne .f32 false 3 1 0 1) ∧
    decodeTableWord 64 0xD9014030401002C4 = some (.cvtxb p .xb4 .sr true 1 4 3 20) := by decide

/-- Words of 16/R350 to R357: the OP of 14/R317 and the fields of R305 and R306. -/
theorem test_words_packed_2 :
    decodeTableWord 64 0x3C800030408002C8 = some (.xbunp p .bf16 .xb8 true 8 4 3) ∧
    decodeTableWord 64 0xC1000000401002CC = some (.xbexp p .xb8 .rne true 1 4 0) ∧
    decodeTableWord 64 0x13010092801002D0 = some (.mreduce p .rtz .scale 1 40 9 16) := by decide

/-- Words of 17/R366 to R385, 18/R397: the OP of 14/R317 and the fields of R305 and R306. -/
theorem test_words_memory_1 :
    decodeTableWord 96 0x880000052800000040300401 = some (.ld p96 .s .s8 .none .th .evl true 3 4 5) ∧
    decodeTableWord 64 0x3001005040000404 = some (.st p .s .s32 .none .th .none false 4 5 16) ∧
    decodeTableWord 96 0x1000000062D0000040800409 = some (.ldv p96 .w .f32 .acq .dv .none 2 8 4 0) ∧
    decodeTableWord 96 0x48FFFFF8536000804000040D = some (.stv p96 .p .n32 .rel .sy .evf 1 4 8 (-8)) ∧
    decodeTableWord 64 0x160F800020800410 = some (.ldc p .n64 8 2 (-8)) ∧
    decodeTableWord 96 0x880000004000000040000415 = some (.pref p96 .p .evl true 4 0) ∧
    decodeTableWord 96 0x080000400000000040000419 = some (.flushl p96 .g true 4 64) ∧
    decodeTableWord 96 0x3800000012D0C0B020A0041D = some (.atom p96 .g .n32 .acq .dv .cas 10 2 11 12 0) ∧
    decodeTableWord 96 0x280000081400004020000421 = some (.red p96 .g .s64 .none .xor 2 4 8) := by decide

/-- Words of 17/R366 to R385, 18/R397: the OP of 14/R317 and the fields of R305 and R306. -/
theorem test_words_memory_2 :
    decodeTableWord 64 0x01E0000000000424 = some (.fence p .full .sy) ∧
    decodeTableWord 64 0x0040000000000428 = some (.cinv p .pn) ∧
    decodeTableWord 96 0x2800000016D0004020800441 = some (.waitv p96 .g .n64 .dv .ge 8 2 4 0) ∧
    decodeTableWord 64 0x0000604020800444 = some (.awset p .g 8 2 4 6 0) ∧
    decodeTableWord 64 0x2131005040000448 = some (.arrive p .s .cl 4 5 16) ∧
    decodeTableWord 64 0x20D000504060044C = some (.await p .s .dv 6 4 5 0) ∧
    decodeTableWord 64 0x0000502010000450 = some (.srinit p 1 2 5) ∧
    decodeTableWord 64 0x0010502010000454 = some (.srwait p true 1 2 5) ∧
    decodeTableWord 64 0x0000002010000458 = some (.srfree p 1 2) := by decide

/-- Words of 17/R366 to R385, 18/R397: the OP of 14/R317 and the fields of R305 and R306. -/
theorem test_words_memory_3 :
    decodeTableWord 64 0x00D000000FF0045C = some (.waitc p .dec 255 (.imm 0)) ∧
    decodeTableWord 96 0x4000000000A0200060800481 = some (.tld p96 .acq .tm .evf 8 6 2) ∧
    decodeTableWord 64 0x0161F08060000484 = some (.tst p .rel .sy .none 6 8 31) := by decide

/-- Words of 16/R359 to R363: the OP of 14/R317 and the fields of R305 and R306. -/
theorem test_words_lanes :
    decodeTableWord 64 0x7800300040200800 = some (.shfl p .xor true 2 4 (.imm 3)) ∧
    decodeTableWord 64 0x0001F00020100804 = some (.ballot p 1 2 31) ∧
    decodeTableWord 64 0x81F0300020100808 = some (.vote p .uni 1 2 3 31) ∧
    decodeTableWord 64 0x001000002010080C = some (.matchv p true 1 2) ∧
    decodeTableWord 64 0xA800000040200810 = some (.lreduce p .s64 true .add 2 4) ∧
    decodeTableWord 64 0x1280000040200814 = some (.lscan p .f32 false .max true 2 4) := by decide

/-- Words of 18/R389 to R400, R411 to R413: the OP of 14/R317 and the fields of R305 and R306. -/
theorem test_words_tensors_1 :
    decodeTableWord 64 0x2000000041F00C00 = some (.tsinit p true 31 4) ∧
    decodeTableWord 64 0x1093F14100300C00 = some (.tsinitFrag p 9 3 16 20 63) ∧
    decodeTableWord 64 0x0003F00040300C04 = some (.tsset p 3 4 63) ∧
    decodeTableWord 64 0x0003F00030400C08 = some (.tsget p 4 3 63) ∧
    decodeTableWord 128 0xFFFFFFF00000000002D0004010200C0E = some (.recut p128 true false (some .dv) 2 1 4 0 (-16)) ∧
    decodeTableWord 64 0x0100002030400C10 = some (.recutq p true 4 3 2) ∧
    decodeTableWord 64 0x20E0000040000C14 = some (.gather p true (some .sy) 4) ∧
    decodeTableWord 64 0x0000000040000C18 = some (.scatter p false none 4) ∧
    decodeTableWord 64 0x0080000040000C80 = some (.coll p (some .th) 4) := by decide

/-- Words of 18/R389 to R400, R411 to R413: the OP of 14/R317 and the fields of R305 and R306. -/
theorem test_words_tensors_2 :
    decodeTableWord 64 0x0000000040000C84 = some (.decode p none 4) ∧
    decodeTableWord 64 0x0000000040800C88 = some (.decq p 8 4) := by decide

/-- Words of 18/R402 to R410: the OP of 14/R317 and the fields of R305 and R306. -/
theorem test_words_matrices_1 :
    decodeTableWord 128 0x00313001000000006000028200200C42 = some (.mma p128 false .xb8 false 2 32 40 1 48 49) ∧
    decodeTableWord 128 0x0000000F000000001000004030200C46 = some (.mlru p128 2 3 4 15) ∧
    decodeTableWord 64 0x0000003020100C48 = some (.mlrmul p 1 2 3) ∧
    decodeTableWord 64 0x0000000020100C4C = some (.mlradd p 1 2) ∧
    decodeTableWord 64 0x0010000140100C50 = some (.mrecomp p true 1 20) ∧
    decodeTableWord 64 0x0000000000F00C54 = some (.mdense p 15) ∧
    decodeTableWord 64 0x0000000000F00C58 = some (.mzero p 15) ∧
    decodeTableWord 64 0x0000000020100C5C = some (.mcopy p 1 2) ∧
    decodeTableWord 64 0x0000000020100C60 = some (.mswap p 1 2) := by decide

/-- Words of 18/R402 to R410: the OP of 14/R317 and the fields of R305 and R306. -/
theorem test_words_matrices_2 :
    decodeTableWord 64 0x0000000021400C64 = some (.mstat p 20 2) ∧
    decodeTableWord 64 0x0001F00000200C68 = some (.mclrs p 2 31) ∧
    decodeTableWord 64 0x0000100000200C6C = some (.mpol p 2 true false) ∧
    decodeTableWord 128 0xFFFFFFF8000000008200004050100C72 = some (.mdrain p128 true true none 1 5 4 (-8)) ∧
    decodeTableWord 64 0x8007F00140100C74 = some (.mfill p .s32 1 20 127) ∧
    decodeTableWord 96 0x000040000000000140100C79 = some (.mspill p96 1 20 0x4000) ∧
    decodeTableWord 64 0x0004000020000C7C = some (.tkset p 0 2 64) := by decide

/-- Words of 19/R415 to R428: the OP of 14/R317 and the fields of R305 and R306. -/
theorem test_words_system_1 :
    decodeTableWord 64 0x0800000000200E00 = some (.srd p 0x080 2) ∧
    decodeTableWord 64 0x0920000040000E04 = some (.swr p 0x092 4) ∧
    decodeTableWord 96 0x000080010000000040000E09 = some (.trap p96 0x8001 4) ∧
    decodeTableWord 64 0x0000000000000E0C = some (.eret p) ∧
    decodeTableWord 64 0x0000E00000300E10 = some (.owrd p 3 14) ∧
    decodeTableWord 64 0x0000F04000000E14 = some (.owwr p 15 4) ∧
    decodeTableWord 64 0x0000004000300E18 = some (.xrd p 3 (.reg 4)) ∧
    decodeTableWord 64 0x03F0803000000E1C = some (.xwr p (some .foreign) 3 (.imm 8)) ∧
    decodeTableWord 64 0x0000004020300E20 = some (.xmrd p 3 2 4) := by decide

/-- Words of 19/R415 to R428: the OP of 14/R317 and the fields of R305 and R306. -/
theorem test_words_system_2 :
    decodeTableWord 64 0x8010004030200E24 = some (.xmwr p .s32 true 2 3 4) ∧
    decodeTableWord 64 0x0010004000300E28 = some (.xflg p true 3 4) ∧
    decodeTableWord 64 0x0010000000600E2C = some (.clock p true 6) ∧
    decodeTableWord 64 0x0010F00000600E30 = some (.perfq p true 6 15) ∧
    decodeTableWord 64 0x0000000020500E34 = some (.launch p 5 2) ∧
    decodeTableWord 64 0x000FF00000000E38 = some (.capmark p (-1)) := by decide

/-! ## Words that are not instructions (14/R318), and guards and headers -/

/-- The worked example of 14 with guard, permutation and subgroup size, and the headers and items of R318's table. -/
theorem test_words_guarded :
    decodeTableWord 96 0x04230000880000B0A092E041 =
      some (.iadd { p96 with ge := true, gn := true, gb := 5, sg := 4, pa := { kind := .rot, k := 3 } } .s32 true 9 10 11) ∧
    decodeTableWord 64 0x0000001000000003 =
      some (.clauseStart { wait := 0, seta := 0, setb := 0, pred := 0, count := 1, yield := true }) ∧
    decodeTableWord 64 0x00000007FFFFFFFF =
      some (.clauseStart { wait := 4095, seta := 15, setb := 15, pred := 255, count := 32, yield := false }) := by decide

/-- Unassigned numbers, a reserved header bit, a length the map does not allow, a reserved COND, an odd pair, RND 5. -/
theorem test_words_refused :
    decodeTableWord 64 0x000000000000001C = none ∧ decodeTableWord 64 0x0000002000000003 = none ∧
    decodeTableWord 64 0x0000000000000C0C = none ∧ decodeTableWord 64 0x8C00502010700078 = none ∧
    decodeTableWord 64 0xA000006004300070 = none ∧ decodeTableWord 64 0x1A00706050400200 = none := by decide

/-! ## Ill-formed terms, one for each check -/

/-- A permutation on a field that is not read, a subgroup size without one, a guard bit of 32, a nonzero NOP field. -/
theorem test_wf_fields :
    (Instr.movx { p96 with pa := { kind := .rot, k := 1 } } 3 4 5).wf = false ∧ (Instr.iadd { p96 with sg := 1 } .s32 false 1 2 3).wf = false ∧
    (Instr.iadd { p with gb := 32 } .s32 false 1 2 3).wf = false ∧ (Instr.nop { p with fs := true }).wf = false ∧
    (Instr.iadd { p with pa := { kind := .rot, k := 1 } } .s32 false 1 2 3).wf = false ∧
    (Instr.iadd { p96 with pa := { kind := .none, k := 1 } } .s32 false 1 2 3).wf = false ∧
    (Instr.movi { p96 with sg := 3, pa := { kind := .rot, k := 1 } } .s32 1 0).wf = false := by decide

/-- Register numbers, pairs, selectors, types, predicate bits, counts. -/
theorem test_wf_registers :
    (Instr.movx p 256 4 5).wf = false ∧ (Instr.brx p 3).wf = false ∧ (Instr.brx p 254).wf = false ∧ (Instr.mov p true 3 4).wf = false ∧
    (Instr.idq p 1 18).wf = false ∧ (Instr.isel p 1 2 3 4 32).wf = false ∧ (Instr.shl p 1 2 (.imm 256)).wf = false ∧
    (Instr.lut3 p 1 2 3 4 256).wf = false ∧ (Instr.bfx p .s32 1 2 3 32).wf = false ∧ (Instr.bfi p 1 2 3 32 0).wf = false ∧
    (Instr.icmp p .s32 .eq .set 7 1 2 32).wf = false ∧ (Instr.mreduce p .rne .sum 1 2 3 17).wf = false ∧
    (Instr.mreduce p .rne .sum 1 2 3 0).wf = false := by decide

/-- The types each entry lists. -/
theorem test_wf_types :
    (Instr.iadd p .f32 false 1 2 3).wf = false ∧ (Instr.ineg p .n8 false 1 2).wf = false ∧ (Instr.imul p .s8 false 1 2 3).wf = false ∧
    (Instr.iadd64 p .s32 false 2 4 6).wf = false ∧ (Instr.icmp p .s8 .eq .set 7 1 2 0).wf = false ∧ (Instr.movi p .s64 1 0).wf = false ∧
    (Instr.movi64 p .s32 2 0).wf = false ∧ (Instr.hmin2 p .f32 1 2 3).wf = false ∧ (Instr.dot4 p .s16 false 1 2 3 4).wf = false ∧
    (Instr.cvt p .raw .rne .f32 false 1 2 0 0).wf = false ∧ (Instr.cvtxb p .f32 .rne false 20 0 40 0).wf = false ∧
    (Instr.xbunp p .f16 .xb8 false 20 0 40).wf = false ∧ (Instr.ld p .s .foreign .none .th .none false 1 2 0).wf = false ∧
    (Instr.atom p .s .f16 .none .th .add 1 2 3 0 0).wf = false ∧ (Instr.lreduce p .s8 false .add 1 2).wf = false ∧
    (Instr.mma p128 false .f32 false 0 0 8 0 0 0).wf = false ∧ (Instr.mfill p .n32 0 1 0).wf = false ∧
    (Instr.xmwr p .n32 false 0 1 2).wf = false := by decide

/-- Rounding modes and the seed field, conversions, blocks. -/
theorem test_wf_rounding :
    (Instr.fadd p .rne 1 2 3 4).wf = false ∧ (Instr.ffma p .sr 1 2 3 4).wf = false ∧ (Instr.cvtxb p .xb8 .rtz false 20 0 40 0).wf = false ∧
    (Instr.cvt p .s32 .rtz .s16 false 1 2 0 0).wf = false ∧ (Instr.cvt p .s32 .rne .f32 true 1 2 0 0).wf = false ∧
    (Instr.cvt p .bf16 .rne .f32 false 1 2 0 2).wf = false ∧ (Instr.cvtxb p .xb8 .rne false 13 0 40 0).wf = false ∧
    (Instr.cvtxb p .xb8 .rne false 252 0 40 0).wf = false := by decide

/-- Immediates, spaces, orders and scopes, widths, atomic operations. -/
theorem test_wf_memory :
    (Instr.ld p .s .s32 .none .th .none false 1 2 128).wf = false ∧ (Instr.bra p 8).wf = false ∧ (Instr.call p 2 8).wf = false ∧
    (Instr.atom p .s .s32 .none .th .add 1 2 3 0 4).wf = false ∧ (Instr.ld p .c .s32 .none .th .none false 1 2 0).wf = false ∧
    (Instr.pref p .s .none false 1 0).wf = false ∧ (Instr.arrive p .p .tm 1 2 0).wf = false ∧
    (Instr.ld p .s .s32 .rel .tm .none false 1 2 0).wf = false ∧ (Instr.st p .s .s32 .acq .tm .none false 1 2 0).wf = false ∧
    (Instr.atom p .s .s32 .full .tm .add 1 2 3 0 0).wf = false ∧ (Instr.fence p .none .tm).wf = false ∧
    (Instr.ld p .s .s32 .none .tm .none false 1 2 0).wf = false ∧ (Instr.ld p96 .s .s32 .none .th .none true 1 2 0).wf = false ∧
    (Instr.ldv p .s .s32 .none .th .none 0 3 2 0).wf = false ∧ (Instr.ldv p96 .s .s32 .none .th .none 3 2 4 0).wf = false ∧
    (Instr.ld p .s .s32 .none .th .evf false 1 2 0).wf = false ∧ (Instr.atom p96 .s .s64 .none .th .min 2 4 6 0 0).wf = true ∧
    (Instr.atom p96 .s .f32 .none .th .and 1 2 3 0 0).wf = false ∧ (Instr.red p96 .s .f32 .none .min 2 3 0).wf = false ∧
    (Instr.cinv p .gr).wf = false ∧ (Instr.tld p .none .th .none 1 2 32).wf = false ∧
    (Instr.lreduce p .f32 false .and 1 2).wf = false ∧ (Instr.ld p .g .s32 .none .th .none false 1 3 0).wf = false := by decide

/-- Tensor states, recuts, matrices, tacks. -/
theorem test_wf_engines :
    (Instr.tsinit p true 32 4).wf = false ∧ (Instr.tsinit p false 3 5).wf = false ∧ (Instr.tsinitFrag p 10 3 16 0 0).wf = false ∧
    (Instr.tsinitFrag p 0 3 16 4 0).wf = false ∧ (Instr.tsinitFrag p 0 3 16 0 64).wf = false ∧ (Instr.tsset p 3 4 64).wf = false ∧
    (Instr.recut p true false none 1 2 4 0 0).wf = false ∧ (Instr.recut p128 false false none 1 2 255 4 0).wf = false ∧
    (Instr.recut p128 false false none 1 2 255 0 8).wf = false ∧ (Instr.mma p128 false .f16 true 0 0 8 0 0 0).wf = false ∧
    (Instr.mma p128 false .f16 false 0 0 8 0 1 0).wf = false ∧ (Instr.mma p128 false .f16 false 16 0 8 0 0 0).wf = false ∧
    (Instr.mrecomp p false 0 4).wf = false ∧ (Instr.mclrs p 0 32).wf = false ∧ (Instr.mdrain p128 false false none 0 1 255 8).wf = false ∧
    (Instr.tkset p 0 0 65).wf = false ∧ (Instr.mdense p 16).wf = false := by decide

/-- System registers, services, window and counter numbers. -/
theorem test_wf_system :
    (Instr.srd p 0x100 2).wf = false ∧ (Instr.swr p 0x080 3).wf = false ∧ (Instr.trap p96 65536 255).wf = false ∧ (Instr.trap p 128 255).wf = false ∧
    (Instr.owrd p 1 16).wf = false ∧ (Instr.xrd p 1 (.imm 256)).wf = false ∧ (Instr.perfq p false 2 5).wf = false ∧
    (Instr.launch p 1 3).wf = false ∧ (Instr.capmark p 128).wf = false := by decide

set_option maxRecDepth 20000 in
/-- Device steps that name what the device does not have (01/R6), and a packet with more data than its flits hold. -/
theorem test_wf_steps :
    (Instr.issueFormation 1024).wf = false ∧ (Instr.teamPlacement 8).wf = false ∧ (Instr.fabricPortDown 48).wf = false ∧
    (Instr.memoryLinkFlitRetry 64).wf = false ∧ (Instr.tlbinvContext 4096).wf = false ∧ (Instr.issueSlotChoice 0 2).wf = false ∧
    (Instr.pldmFirmwareUpdate 2 ⟨[], 0, [], []⟩ 0).wf = false ∧ (Instr.blockingWake ⟨0, 64, 0⟩).wf = false ∧
    (Instr.handlerEntry ⟨0, 0, 32⟩).wf = false ∧ (Instr.requestTimeout 65536 0).wf = false ∧ (Instr.bufferReleaseFlit 0 (2 ^ 256)).wf = false ∧
    (Instr.clauseStart ⟨4096, 0, 0, 0, 1, false⟩).wf = false ∧ (Instr.clauseStart ⟨0, 0, 0, 0, 33, false⟩).wf = false ∧
    (Instr.undefinedEncoding ⟨.l64, 0, false, false, 0, 3⟩).wf = false ∧ (Instr.reportReplay ⟨256, 0, 0, 0x10⟩).wf = false ∧
    (Instr.bobbinTimer 0 64).wf = false ∧ (Instr.registerWrite 0x100 0 0#64).wf = false ∧ (Instr.decodeUnitOutput 16 ⟨0, 0, 0, 0, false, false, [], false, false, [], []⟩).wf = false ∧
    (Instr.l1Eviction 1024 0 0).wf = false ∧ (Instr.l2Miss (2 ^ 45)).wf = false ∧
    (Instr.readReceive 0 ⟨0, 0, 1, 0, 0, false, false, 0, 0, 0, 0, 1, 0, [0#8]⟩).wf = false := by decide

/-! ## One step of one instruction: the worked examples of spec/ -/

/-- The placed thread of `withFetchWord` with these registers. -/
def at_ (regs : List RegCell) : State :=
  let s := State.reset.withFetchWord 64 0
  { s with threads := s.threads.map fun t => { t with regs := regs } }
/-- One thread for each list, in lanes from 0 on, all of them issuing. -/
def lanes (l : List (List RegCell)) : State :=
  let s := State.reset.withFetchWord 64 0
  { s with
    threads := s.threads.flatMap fun t => l.mapIdx fun k regs => { t with id := { t.id with lane := k }, regs := regs }
    issue := l.mapIdx fun k _ => { placedTid with lane := k } }
/-- The state after an instruction; the state itself if it does not answer a next one. -/
def ran (i : Instr) (s : State) : State := match exec i s with | .next t => t | _ => s
/-- A register, and the status, of a lane. -/
def reg (s : State) (lane n : Nat) : Word × Tag := (s.thread { placedTid with lane := lane }).reg n
def stat (s : State) (lane : Nat) : Status := (s.thread { placedTid with lane := lane }).astat

/-- IADD.S8, the table of 15/R321: saturating sets SAT, wrapping does not. -/
theorem test_iadd_sat :
    let s := ran (.iadd p .s8 true 7 5 6) (at_ [⟨5, 0x7F1080FF#32, .s8⟩, ⟨6, 0x0110FF01#32, .s8⟩])
    reg s 0 7 = (0x7F208000#32, .s8) ∧ stat s 0 = stSAT := by decide +kernel
theorem test_iadd_wrap :
    let s := ran (.iadd p .s8 false 7 5 6) (at_ [⟨5, 0x7F1080FF#32, .s8⟩, ⟨6, 0x0110FF01#32, .s8⟩])
    reg s 0 7 = (0x80207F00#32, .s8) ∧ stat s 0 = 0#6 := by decide +kernel
/-- IADDC, the chain of 15/R322, step 2. -/
theorem test_iaddc :
    let s := ran (.iaddc p 12 3 6 11) (at_ [⟨3, 0xFFFFFFFF#32, .n32⟩, ⟨6, 0#32, .n32⟩, ⟨11, 1#32, .n32⟩])
    reg s 0 12 = (0#32, .n32) ∧ reg s 0 13 = (1#32, .n32) := by decide +kernel
/-- ISUBB of 0 − 1: a borrow (15/R322). -/
theorem test_isubb :
    let s := ran (.isubb p 12 3 6 255) (at_ [⟨6, 1#32, .n32⟩])
    reg s 0 12 = (0xFFFFFFFF#32, .n32) ∧ reg s 0 13 = (1#32, .n32) := by decide +kernel
/-- INEG of the least value, wrapping (15/R321). -/
theorem test_ineg_least : reg (ran (.ineg p .s32 false 1 2) (at_ [⟨2, 0x80000000#32, .s32⟩])) 0 1 = (0x80000000#32, .s32) := by
  decide +kernel
/-- IMULH keeps the high half, signed: −1 × 1 (15/R320). -/
theorem test_imulh : reg (ran (.imulh p .s32 1 2 3) (at_ [⟨2, 0xFFFFFFFF#32, .s32⟩, ⟨3, 1#32, .s32⟩])) 0 1 = (0xFFFFFFFF#32, .s32) := by
  decide +kernel
/-- ICMP.S32.LT sets bit 5 and keeps the others and the tag (15/R323, R339). -/
theorem test_icmp :
    reg (ran (.icmp p .s32 .lt .set 7 1 2 5) (at_ [⟨1, 0xFFFFFFFF#32, .s32⟩, ⟨2, 16#32, .s32⟩, ⟨7, 0x80000001#32, .f32⟩])) 0 7 =
      (0x80000021#32, .f32) := by decide +kernel
/-- A shift by the whole register: 32 gives 0, SAR copies of the sign (15/R325). -/
theorem test_shl_full : reg (ran (.shl p 1 2 (.reg 3)) (at_ [⟨2, 0xFFFFFFFF#32, .n32⟩, ⟨3, 32#32, .n32⟩])) 0 1 = (0#32, .n32) := by decide +kernel
theorem test_sar_full : reg (ran (.sar p 1 2 (.imm 200)) (at_ [⟨2, 0x80000000#32, .s16⟩])) 0 1 = (0xFFFFFFFF#32, .s16) := by decide +kernel
/-- LUT3 table 0xE8 is the majority (15/R326); BPERM selector 0x0123 reverses the bytes of a (R328). -/
theorem test_lut3 : reg (ran (.lut3 p 1 2 3 4 0xE8) (at_ [⟨2, 0b0011#32, .n32⟩, ⟨3, 0b0101#32, .s32⟩, ⟨4, 0b0110#32, .f32⟩])) 0 1 =
    (0b0111#32, .n32) := by decide +kernel
theorem test_bperm : reg (ran (.bperm p 1 2 3 4) (at_ [⟨2, 0x11223344#32, .n32⟩, ⟨4, 0x0123#32, .n32⟩])) 0 1 = (0x44332211#32, .raw) := by
  decide +kernel
/-- BFX.S32 cut at bit 31 and sign-extended (15/R327). -/
theorem test_bfx : reg (ran (.bfx p .s32 1 2 28 7) (at_ [⟨2, 0x80000000#32, .n32⟩])) 0 1 = (0xFFFFFFF8#32, .s32) := by decide +kernel
/-- MOVX reads register (A field + b) mod 256 (15/R330). -/
theorem test_movx : reg (ran (.movx p 1 250 3) (at_ [⟨3, 10#32, .n32⟩, ⟨4, 7#32, .f16⟩])) 0 1 = (7#32, .f16) := by decide +kernel
/-- MOVI.S32 of −2 through the C byte (15/R331). -/
theorem test_movi : reg (ran (.movi p .s32 8 (-2)) (at_ [])) 0 8 = (0xFFFFFFFE#32, .s32) := by decide +kernel
/-- CALLX reads A before D is written, and links past itself (15/R335). -/
theorem test_callx :
    let s := ran (.callx p 2 2) (at_ [⟨2, 0x20000#32, .n32⟩, ⟨3, 0#32, .n32⟩])
    (s.thread placedTid).pc = 0x20000 ∧ reg s 0 2 = (0x10008#32, .n64) ∧ (s.thread placedTid).clause = none := by decide +kernel

/-- CVT.BF16.F32 of 16/R353, steps 1 and 2, and RUP at step 1. -/
theorem test_cvt_half :
    let s := ran (.cvt p .bf16 .rne .f32 false 3 1 0 0) (at_ [⟨1, 0x3F808000#32, .f32⟩])
    reg s 0 3 = (0x00003F80#32, .bf16) ∧ stat s 0 = stNX := by decide +kernel
theorem test_cvt_upper :
    reg (ran (.cvt p .bf16 .rne .f32 false 3 2 0 1) (at_ [⟨2, 0x40400000#32, .f32⟩, ⟨3, 0x00003F81#32, .bf16⟩])) 0 3 = (0x40403F81#32, .bf16) := by
  decide +kernel
/-- FADD rounds 2^24 + 1 to even (16/R344); FROUND of −0.3 is −0 (R347). -/
theorem test_fadd_even :
    let s := ran (.fadd p .rne 1 2 3 0) (at_ [⟨2, 0x4B800000#32, .f32⟩, ⟨3, 0x3F800000#32, .f32⟩])
    reg s 0 1 = (0x4B800000#32, .f32) ∧ stat s 0 = stNX := by decide +kernel
theorem test_fround_minus : reg (ran (.fround p .rne 1 2) (at_ [⟨2, 0xBE99999A#32, .f32⟩])) 0 1 = (0x80000000#32, .f32) := by decide +kernel
/-- FFMA of 0 × ∞ plus a quiet NaN: the canonical NaN with NV (16/R344). -/
theorem test_ffma_invalid :
    let s := ran (.ffma p .rne 1 2 3 4) (at_ [⟨3, 0x7F800000#32, .f32⟩, ⟨4, 0x7FC00001#32, .f32⟩])
    reg s 0 1 = (0x7FC00000#32, .f32) ∧ stat s 0 = stNV := by decide +kernel
/-- FMIN orders −0 below +0 (16/R345); FCLASS of a signaling NaN is bit 8 (R348). -/
theorem test_fmin_zero : reg (ran (.fmin p 1 2 3) (at_ [⟨2, 0#32, .f32⟩, ⟨3, 0x80000000#32, .f32⟩])) 0 1 = (0x80000000#32, .f32) := by decide +kernel
theorem test_fclass_snan : reg (ran (.fclass p 1 2) (at_ [⟨2, 0x7F800001#32, .f32⟩])) 0 1 = (0x100#32, .n32) := by decide +kernel
/-- MREDUCE, the example of 16/R357: MEAN 2.0 and SCALE 8.0. -/
theorem test_mreduce_mean :
    reg (ran (.mreduce p .rne .mean 12 40 9 4)
      (at_ [⟨9, 0b1101#32, .n32⟩, ⟨40, 0x40000000#32, .f32⟩, ⟨42, 0x40400000#32, .f32⟩, ⟨43, 0x3F800000#32, .f32⟩])) 0 12 =
      (0x40000000#32, .f32) := by decide +kernel
theorem test_mreduce_scale :
    reg (ran (.mreduce p .rne .scale 12 40 9 4)
      (at_ [⟨9, 0b1101#32, .n32⟩, ⟨40, 0x40000000#32, .f32⟩, ⟨42, 0x40400000#32, .f32⟩, ⟨43, 0x3F800000#32, .f32⟩])) 0 12 =
      (0x41000000#32, .f32) := by decide +kernel

/-- Four lanes with 2^24, 1, 1, 1: the example of 16/R363. -/
def four : State := lanes [[⟨21, 0x4B800000#32, .f32⟩], [⟨21, 0x3F800000#32, .f32⟩], [⟨21, 0x3F800000#32, .f32⟩], [⟨21, 0x3F800000#32, .f32⟩]]
/-- LREDUCE.F32.ADD in subgroups of 4 gives 16,777,218 to every lane, with NX. -/
theorem test_lreduce :
    let s := ran (.lreduce { p96 with sg := 3 } .f32 false .add 20 21) four
    reg s 0 20 = (0x4B800001#32, .f32) ∧ reg s 3 20 = (0x4B800001#32, .f32) ∧ stat s 2 = stNX := by decide +kernel
/-- LSCAN.F32.ADD gives 2^24 to lane 3 with NX; lane 0 sets nothing. -/
theorem test_lscan :
    let s := ran (.lscan { p96 with sg := 3 } .f32 false .add false 20 21) four
    reg s 3 20 = (0x4B800000#32, .f32) ∧ stat s 3 = stNX ∧ stat s 0 = 0#6 := by decide +kernel
/-- The exclusive scan gives +0 to lane 0. -/
theorem test_lscan_excl : reg (ran (.lscan { p96 with sg := 3 } .f32 false .add true 20 21) four) 0 20 = (0#32, .f32) := by decide +kernel

/-- A word stands at offset 0x4000 of the scratchpad: the team of `at_` with bytes 240 there. -/
def spad (regs : List RegCell) (m : Memory) : State :=
  let s := at_ regs
  { s with teams := s.teams.map fun t => { t with scr := m } }
/-- LD.S.S8.ELT of 0xF0 delivers 0xFFFFFFF0 (17/R366): the operation stands with that value. -/
theorem test_ld_elt :
    ((ran (.ld p96 .s .s8 .none .th .none true 3 4 5) (spad [⟨4, 0x4000#32, .n32⟩] [(0x4005, 0xF0#8)])).ops.map fun o => o.writes) =
      [[⟨3, 0xFFFFFFF0#32, .s8⟩]] := by decide +kernel
/-- ST.S.S32 writes four bytes, little-endian (17/R368). -/
theorem test_st :
    ((ran (.st p .s .s32 .none .th .none false 4 5 16) (spad [⟨4, 0x4000#32, .n32⟩, ⟨5, 0x11223344#32, .s32⟩] [])).teams.map fun t => t.scr) =
      [[(0x4010, 0x44#8), (0x4011, 0x33#8), (0x4012, 0x22#8), (0x4013, 0x11#8)]] := by decide +kernel
/-- TRAP 0x42 parks with cause 0x05 and the service number as its detail (19/R418). -/
theorem test_trap :
    (match ((ran (.trap p 0x42 255) (at_ [])).thread placedTid).run with | .parked r => some (r.cause, r.detail) | _ => none) = some (0x05, 0x42) := by
  decide +kernel
/-- A whole step fetches, decodes and runs the placed word: MOVI.S32 v8, −2. -/
theorem test_step :
    (match step (State.reset.withFetchWord 64 0x800FE000008000F0) with
      | .next s => reg s 0 8 | _ => (0#32, .raw)) = (0xFFFFFFFE#32, .s32) := by decide +kernel

/-! ## Witnesses: states and operands that meet the hypotheses of the statements -/

/-- The checks of `Issues`, `Executes` and `Crosses`, as they are decided. -/
def okIssues (s : State) (q : Pre) (t : Thread) : Bool :=
  decide (s.threads.find? (fun x => x.id == t.id) = some t) && decide (t.id ∈ s.issue) && regsRise 0 t.regs && decide (s.guard t q = .ok true)
theorem issues_of {s : State} {q : Pre} {t : Thread} (h : okIssues s q t = true) : Issues s q t := by
  simp only [okIssues, Bool.and_eq_true, decide_eq_true_eq] at h
  exact ⟨h.1.1.1, h.1.1.2, h.1.2, h.2⟩
def okExec (s : State) (q : Pre) (r : RoleRow) (ds ss : List Src) (t : Thread) : Bool :=
  okIssues s q t && (s.gate t q r ds ss).isNone && !permuted q
theorem executes_of {s : State} {q : Pre} {r : RoleRow} {ds ss : List Src} {t : Thread} (h : okExec s q r ds ss t = true) :
    Executes s q r ds ss t := by
  simp only [okExec, Bool.and_eq_true, Bool.not_eq_true', Option.isNone_iff_eq_none] at h
  exact ⟨issues_of h.1.1, h.1.2, fun c => by simp [h.2] at c⟩
def okAlone (s : State) (q : Pre) (t : Thread) : Bool :=
  okIssues s q t && decide (s.actors q = [t.id]) && decide (t.run = .ready) && !permuted q
theorem alone_of {s : State} {q : Pre} {t : Thread} (h : okAlone s q t = true) : Alone s q t := by
  simp only [okAlone, Bool.and_eq_true, Bool.not_eq_true', decide_eq_true_eq] at h
  exact ⟨issues_of h.1.1.1, h.1.1.2, h.1.2, fun c => by simp [h.2] at c⟩
def okListed (s : State) (t : Thread) : Bool := decide (s.threads.find? (fun x => x.id == t.id) = some t) && regsRise 0 t.regs
theorem listed_of {s : State} {t : Thread} (h : okListed s t = true) : Listed s t := by
  simp only [okListed, Bool.and_eq_true, decide_eq_true_eq] at h
  exact ⟨h.1, h.2⟩

/-- One thread whose registers are all zero, tagged RAW, which every typed check lets pass (08/R199). -/
abbrev s0 : State := at_ []
abbrev t0 : Thread := s0.thread placedTid

theorem witness_IntegerElements (o : IntOp) :
    ∃ ty, (o.instr p ty false 254 4 255).wf = true ∧ Executes s0 p .any [dst 254 false] (o.srcs p ty 4 255) t0 ∨
      (o.instr p ty true 252 4 255).wf = true ∧ Executes s0 p .any [dst 252 true] (o.srcs p ty 4 255) t0 := by
  cases o
  case iadd64 => exact ⟨.s64, .inr ⟨by decide, executes_of (by decide +kernel)⟩⟩
  case isub64 => exact ⟨.n64, .inr ⟨by decide, executes_of (by decide +kernel)⟩⟩
  all_goals exact ⟨.s32, .inl ⟨by decide, executes_of (by decide +kernel)⟩⟩

/-- A permuted operand: four lanes that stand together, subgroups of 4. -/
abbrev pRot : Pre := { p96 with sg := 3, pa := { kind := .rot, k := 3 } }
abbrev s4 : State := lanes [[], [], [], []]
abbrev t4 : Thread := s4.thread { placedTid with lane := 3 }
theorem witness_IntegerElements_permuted :
    (IntOp.iadd.instr pRot .s32 false 1 2 3).wf = true ∧ Executes s4 pRot .any [dst 1 false] (IntOp.iadd.srcs pRot .s32 2 3) t4 :=
  ⟨by decide, issues_of (by decide +kernel), by decide +kernel, fun _ => ⟨by decide +kernel, by decide +kernel, by decide +kernel⟩⟩

theorem witness_IntegerWide :
    ((Instr.imulh p .s32 254 4 255).wf = true ∧ Executes s0 p .any [dst 254 false] [srcT 1 4 p.pa .s32, srcT 2 255 p.pb .s32] t0) ∧
    ((Instr.imad p .n32 true 254 4 5 255).wf = true ∧
      Executes s0 p .any [dst 254 false] [srcT 1 4 p.pa .n32, srcT 2 5 p.pb .n32, srcT 3 255 p.pc .n32] t0) ∧
    ((Instr.imadw p .s32 true 252 4 5 255).wf = true ∧
      Executes s0 p .any [dst 252 true] [srcT 1 4 p.pa .s32, srcT 2 5 p.pb .s32, srcT 3 255 p.pc .s64] t0) ∧
    ((Instr.iaddc p 252 4 5 255).wf = true ∧ (Instr.isubb p 252 4 5 255).wf = true ∧
      Executes s0 p .any [dst 252 true] [srcT 1 4 p.pa .n32, srcT 2 5 p.pb .n32, srcR 3 255 p.pc] t0) :=
  ⟨⟨by decide, executes_of (by decide +kernel)⟩, ⟨by decide, executes_of (by decide +kernel)⟩, ⟨by decide, executes_of (by decide +kernel)⟩,
    by decide, by decide, executes_of (by decide +kernel)⟩

theorem witness_ShiftsAndLogic (o : ShiftOp) (q : LogicOp) :
    (o.instr p 252 4 (.imm 255)).wf = true ∧ Executes s0 p .any [dst 252 o.wide] (srcA p o.wide 4 :: srcRI p (.imm 255)) t0 ∧
    (o.instr p 252 4 (.reg 3)).wf = true ∧ Executes s0 p .any [dst 252 o.wide] (srcA p o.wide 4 :: srcRI p (.reg 3)) t0 ∧
    (q.instr p 254 4 (.imm 128)).wf = true ∧ Executes s0 p .any [dst 254 false] (srcA p false 4 :: srcRI p (.imm 128)) t0 ∧
    (q.instr p 255 4 (.reg 3)).wf = true ∧ Executes s0 p .any [dst 255 false] (srcA p false 4 :: srcRI p (.reg 3)) t0 := by
  have a : ∀ w, Executes s0 p .any [dst 252 w] (srcA p w 4 :: srcRI p (.imm 255)) t0 := fun w => executes_of (by cases w <;> decide +kernel)
  have b : ∀ w, Executes s0 p .any [dst 252 w] (srcA p w 4 :: srcRI p (.reg 3)) t0 := fun w => executes_of (by cases w <;> decide +kernel)
  exact ⟨by cases o <;> decide, a _, by cases o <;> decide, b _, by cases q <;> decide, executes_of (by decide +kernel),
    by cases q <;> decide, executes_of (by decide +kernel)⟩

theorem witness_FieldsAndCounts :
    ((Instr.lut3 p 1 2 3 4 255).wf = true ∧ (Instr.bperm p 1 2 3 4).wf = true ∧
      Executes s0 p .any [dst 1 false] [srcR 1 2 p.pa, srcR 2 3 p.pb, srcR 3 4 p.pc] t0) ∧
    ((Instr.bfx p .s32 1 2 31 31).wf = true ∧ Executes s0 p .any [dst 1 false] [srcR 1 2 p.pa] t0) ∧
    ((Instr.bfi p 1 2 3 31 0).wf = true ∧ Executes s0 p .any [dst 1 false] [srcR 1 2 p.pa, srcR 2 3 p.pb] t0) :=
  ⟨⟨by decide, by decide, executes_of (by decide +kernel)⟩, ⟨by decide, executes_of (by decide +kernel)⟩,
    by decide, executes_of (by decide +kernel)⟩

theorem witness_MovesAndConstants :
    ((Instr.mov p true 252 4).wf = true ∧ Executes s0 p .any [dst 252 true] [srcA p true 4] t0) ∧
    ((Instr.tag p false .f32 254 4).wf = true ∧ Executes s0 p .any [dst 254 false] [srcA p false 4] t0) ∧
    ((Instr.tagq p 254 4).wf = true ∧ Executes s0 p .any [dst 254 false] [srcA p false 4] t0) ∧
    ((Instr.movx p 1 254 3).wf = true ∧ Executes s0 p .any [dst 1 false] [srcR 2 3 p.pb] t0 ∧ (254 + s0.srcVal t0 p (srcR 2 3 p.pb)) % 256 < s0.nrOf t0) ∧
    ((Instr.movxw p 255 4 3).wf = true ∧ Issues s0 p t0 ∧ s0.gate t0 p .any [] [srcA p false 4, srcR 2 3 p.pb] = none ∧
      (255 + s0.srcVal t0 p (srcR 2 3 p.pb)) % 256 = 255 ∧ s0.writePending t0 255 = false) ∧
    ((Instr.movi p .f32 254 (-128)).wf = true ∧ Executes s0 p .any [dst 254 false] [] t0) ∧
    ((Instr.movi64 p .raw 252 127).wf = true ∧ Executes s0 p .any [dst 252 true] [] t0) ∧
    ((Instr.idq p 254 17).wf = true ∧ (Instr.nop p).wf = true ∧ Issues s0 p t0) :=
  ⟨⟨by decide, executes_of (by decide +kernel)⟩, ⟨by decide, executes_of (by decide +kernel)⟩, ⟨by decide, executes_of (by decide +kernel)⟩,
    ⟨by decide, executes_of (by decide +kernel), by decide +kernel⟩, ⟨by decide, issues_of (by decide +kernel), by decide +kernel, by decide +kernel, by decide +kernel⟩,
    ⟨by decide, executes_of (by decide +kernel)⟩, ⟨by decide, executes_of (by decide +kernel)⟩, by decide, by decide, issues_of (by decide +kernel)⟩

/-- TAG.FOREIGN is executed at level E (15/R332). -/
abbrev sE : State := { s0 with threads := s0.threads.map fun t => { t with depth := 1 } }
abbrev tE : Thread := sE.thread placedTid
theorem witness_MovesAndConstants_foreign :
    (Instr.tag p true .foreign 252 4).wf = true ∧ Executes sE p .levelE [dst 252 true] [srcA p true 4] tE :=
  ⟨by decide, executes_of (by decide +kernel)⟩

theorem witness_ControlTransfer :
    ((Instr.bra p96 (-8388608)).wf = true ∧ Issues s0 p96 t0) ∧
    ((Instr.brx p 252).wf = true ∧ (Instr.ret p 252).wf = true ∧ Executes s0 p .any [] [srcP 1 252 p.pa] t0) ∧
    ((Instr.call p96 255 8388607).wf = true ∧ Executes s0 p96 .any [dst 255 true] [] t0) ∧
    ((Instr.callx p 4 4).wf = true ∧ Executes s0 p .any [dst 4 true] [srcP 1 4 p.pa] t0) :=
  ⟨⟨by decide, issues_of (by decide +kernel)⟩, ⟨by decide, by decide, executes_of (by decide +kernel)⟩, ⟨by decide, executes_of (by decide +kernel)⟩,
    by decide, executes_of (by decide +kernel)⟩

theorem witness_FloatArithmetic (o : FOp) :
    (o.instr p .rdn 254 2 3 0).wf = true ∧ Executes s0 p .vector [dst 254 false] (o.srcs p .rdn 2 3 0) t0 := by
  cases o <;> exact ⟨by decide, executes_of (by decide +kernel)⟩
theorem witness_FloatArithmetic_seed :
    (FOp.fadd.instr p .sr 254 2 3 4).wf = true ∧ Executes s0 p .vector [dst 254 false] (FOp.fadd.srcs p .sr 2 3 4) t0 ∧
    (0 < 2 ∧ 65535 < 65536 ∧ 3 % 2 ≠ 0 ∧ 2 * (3 % 2) = 2) :=
  ⟨by decide, executes_of (by decide +kernel), by decide⟩

theorem witness_ComparesAndSelect :
    ((Instr.icmp p .n64 .ge .or 7 252 255 31).wf = true ∧ Executes s0 p .any [dst 7 false] [srcT 1 252 p.pa .n64, srcT 2 255 p.pb .n64] t0) ∧
    ((Instr.isel p 1 2 3 4 31).wf = true ∧ Executes s0 p .any [dst 1 false] [srcR 1 2 p.pa, srcR 2 3 p.pb, srcR 3 4 p.pc] t0) ∧
    ((Instr.fcmp p .num .and 7 1 2 31).wf = true ∧ Executes s0 p .vector [dst 7 false] [srcT 1 1 p.pa .f32, srcT 2 2 p.pb .f32] t0) :=
  ⟨⟨by decide, executes_of (by decide +kernel)⟩, ⟨by decide, executes_of (by decide +kernel)⟩, by decide, executes_of (by decide +kernel)⟩

theorem witness_FloatFunctions (o : FuncOp) :
    (o.instr p .rne 254 2 3).wf = true ∧ Executes s0 p .vector [dst 254 false] (o.srcs p 2 3) t0 := by
  cases o <;> exact ⟨by decide, executes_of (by decide +kernel)⟩

theorem witness_HalvesAndDots (o : HOp) :
    ∃ ty, (o.instr p ty .rne true 254 2 3 0).wf = true ∧ Executes s0 p .vector [dst 254 false] (o.srcs p ty .rne 2 3 0) t0 := by
  cases o
  case dot4 => exact ⟨.s8, by decide, executes_of (by decide +kernel)⟩
  all_goals exact ⟨.f16, by decide, executes_of (by decide +kernel)⟩

theorem witness_Convert :
    ((Instr.cvt p .bf16 .sr .f32 false 254 2 3 1).wf = true ∧ Executes s0 p .vector [dst 254 false] [srcT 1 2 p.pa .f32, srcR 2 3 p.pb] t0) ∧
    ((Instr.cvt p .s64 .rtz .f16 false 252 2 0 1).wf = true ∧ Executes s0 p .vector [dst 252 true] [srcT 1 2 p.pa .f16] t0) :=
  ⟨⟨by decide, executes_of (by decide +kernel)⟩, by decide, executes_of (by decide +kernel)⟩

theorem witness_BlocksAndReduction :
    ((Instr.cvtxb p .xb4 .sr true 253 4 3 20).wf = true ∧ Issues s0 p t0 ∧
      s0.gate t0 p .vector [{ f := 0, n := 253, c := 2, perm := noPerm, want := none }]
        ([{ f := 1, n := 4, c := 16, perm := p.pa, want := some .f32 }, srcR 2 3 p.pb] ++ [srcR 3 20 p.pc]) = none ∧ s0.writePending t0 3 = false) ∧
    ((Instr.xbexp p .xb8 .rne false 254 4 0).wf = true ∧
      Executes s0 p .vector [dst 254 false] [{ f := 1, n := 4, c := 16, perm := p.pa, want := some .f32 }] t0) ∧
    ((Instr.xbunp p .f32 .xb8 false 239 4 3).wf = true ∧
      Executes s0 p .vector [{ f := 0, n := 239, c := 16, perm := noPerm, want := none }]
        [{ f := 1, n := 4, c := 4, perm := p.pa, want := some .xb8 }, srcT 2 3 p.pb .xsc] t0) ∧
    ((Instr.mreduce p .rne .mean 254 239 3 16).wf = true ∧
      Executes s0 p .vector [dst 254 false] [{ f := 1, n := 239, c := 16, perm := p.pa, want := none }, srcR 2 3 p.pb] t0 ∧
      s0.formatFault t0 p [] = none) :=
  ⟨⟨by decide, issues_of (by decide +kernel), by decide +kernel, by decide +kernel⟩, ⟨by decide, executes_of (by decide +kernel)⟩,
    ⟨by decide, executes_of (by decide +kernel)⟩, by decide, executes_of (by decide +kernel), by decide +kernel⟩

/-- Four lanes that stand at a cross-lane instruction of subgroups of 4. -/
abbrev pLane : Pre := { p96 with sg := 3 }
def okCrosses (s : State) (q : Pre) (ds : List Src) (ss : List Src) (t : Thread) : Bool :=
  okIssues s q t && (s.gate t q .vector ds ss).isNone && !s.tooWide t q && s.converged t (s.gSize t q) &&
  (s.subgroup t (s.gSize t q)).all fun x => !(s.thread x).live || !s.destPending (s.thread x) ds
theorem crosses_of {s : State} {q : Pre} {ds ss : List Src} {t : Thread} (h : okCrosses s q ds ss t = true) :
    Crosses s q (fun _ => ds) ss t := by
  simp only [okCrosses, Bool.and_eq_true, Bool.not_eq_true', Option.isNone_iff_eq_none, List.all_eq_true] at h
  refine ⟨issues_of h.1.1.1.1, h.1.1.1.2, h.1.1.2, h.1.2, fun x hx hl => ?_⟩
  simpa [hl] using h.2 x hx

theorem witness_CrossLane :
    ((Instr.shfl pLane .up true 252 4 (.imm 255)).wf = true ∧ Crosses s4 pLane (fun _ => [dst 252 true]) (srcA pLane true 4 :: srcRI pLane (.imm 255)) t4) ∧
    ((Instr.ballot pLane 254 4 31).wf = true ∧ (Instr.matchv pLane false 254 4).wf = true ∧ s4.gSize t4 pLane = 4 ∧
      (∀ x ∈ s4.subgroup t4 4, (s4.thread x).live = true → s4.gSize (s4.thread x) pLane = 4) ∧
      Crosses s4 pLane (fun _ => [dst 254 false]) [srcR 1 4 pLane.pa] t4 ∧ Crosses s4 pLane (fun _ => [dst 254 false]) [srcA pLane false 4] t4) ∧
    ((Instr.vote pLane .uni 254 4 31 31).wf = true ∧ Crosses s4 pLane (fun _ => [dst 254 false]) [srcR 1 4 pLane.pa] t4) :=
  ⟨⟨by decide, crosses_of (by decide +kernel)⟩,
    ⟨by decide, by decide, by decide +kernel, by decide +kernel, crosses_of (by decide +kernel), crosses_of (by decide +kernel)⟩,
    by decide, crosses_of (by decide +kernel)⟩

theorem witness_Numbered : Numbered s4 t4 4 :=
  ⟨by decide +kernel, fun i h => by
    have : ∀ j < 4, (s4.thread (s4.atSpace t4 (s4.spacePos t4 / 4 * 4 + j))).live = true →
        s4.subPos (s4.thread (s4.atSpace t4 (s4.spacePos t4 / 4 * 4 + j))) 4 = j := by decide +kernel
    exact this i h⟩

theorem witness_LaneReductions :
    (Instr.lreduce pLane .f32 false .add 254 4).wf = true ∧ (Instr.lscan pLane .f32 false .max true 254 4).wf = true ∧
    Crosses s4 pLane (fun _ => [dst 254 Tag.f32.is64]) [srcT 1 4 pLane.pa .f32] t4 ∧ s4.gSize t4 pLane = 4 :=
  ⟨by decide, by decide, crosses_of (by decide +kernel), by decide +kernel⟩

/-! ### Pacing, spawning, memory and synchronisation -/

theorem witness_PacingAndGates :
    ((Instr.yield p).wf = true ∧ Issues s0 p t0 ∧ (∀ i ∈ s0.issue, i.core = t0.id.core) ∧ (Instr.pause p 0).wf = true ∧
      (Instr.pause p 255).wf = true) ∧
    ((Instr.seam p).wf = true ∧ (Instr.bar p).wf = true ∧ s0.accPending t0 = false) :=
  ⟨⟨by decide, issues_of (by decide +kernel), by decide +kernel⟩, by decide +kernel⟩

/-- The placed thread in another run state. -/
def inRun (r : Run) : State := { s0 with threads := s0.threads.map fun t => { t with run := r } }
theorem stays_of {s : State} {t : Thread} (h : (s.team t.team).state = .resident ∧ (s.team t.team).leaving = false) : Stays s t :=
  ⟨h.1, h.2⟩
theorem witness_PacingAndGates_wake (seam : Bool) :
    let s := inRun (.blocked (if seam then .seam else .bar) 8 none)
    let t := s.thread placedTid
    Listed s t ∧ Stays s t ∧ t.run = .blocked (if seam then .seam else .bar) 8 none ∧
      ∀ x ∈ counted s t seam, ∃ l g, x.run = .blocked (if seam then .seam else .bar) l g := by
  have h : ∀ b : Bool, let s := inRun (.blocked (if b then .seam else .bar) 8 none)
      ∀ x ∈ counted s (s.thread placedTid) b, x.run = .blocked (if b then .seam else .bar) 8 none := by decide +kernel
  exact ⟨by cases seam <;> exact listed_of (by decide +kernel), by cases seam <;> exact stays_of (by decide +kernel),
    by cases seam <;> decide +kernel, fun x hx => ⟨8, none, h seam x hx⟩⟩

/-- A profile of NR 4 and one granule before the entry 0x10020, whose address stands in v2:v3. -/
def profile : List Byte := [4#8, 0#8, 0#8, 0#8, 0#8, 0#8, 0#8, 0#8, 0#8, 0x40#8, 0#8, 0#8, 0#8, 0#8, 0#8, 0#8, 32#8, 16#8, 16#8, 0#8, 0#8, 0#8, 0#8, 0#8,
  0#8, 0#8, 0#8, 0#8, 0#8, 0#8, 0#8, 0#8]
def spawning : State := let s := at_ [⟨2, 0x10020#32, .raw⟩]; { s with mem := memWrite s.mem 0x10000 profile }
abbrev tS : Thread := spawning.thread placedTid
def spawnRead : State × IssueRes := spawning.issueRun tS 0x10000 4
theorem witness_SpawnAndExit :
    Alone spawning p tS ∧ (Instr.spawn p 2 4).wf = true ∧ tS.child = none ∧ spawning.gate tS p .any [] [srcP 1 2 p.pa, srcP 2 4 p.pb] = none ∧
    spawning.srcVal tS p (srcP 1 2 p.pa) = 0x10020 ∧ spawnRead.2 = .bytes profile ∧
    (spawnRead.1.dropReads tS).profileOk (spawning.gridOf tS).ctx profile = true ∧
    ((spawnRead.1.dropReads tS).bobbinFor 0 (spawning.gridOf tS) 0x10020 profile).isSome = true ∧
    ((spawnRead.1.dropReads tS).beginRelease tS .dv).2 = none ∧ (Instr.exit p).wf = true ∧ spawning.exitWaits tS = false :=
  ⟨alone_of (by decide +kernel), by decide +kernel⟩

/-- A scratchpad access at 0x4000, the lowest offset, and at the highest, with v4 as the address. -/
abbrev sLow : State := at_ [⟨4, 0x4000#32, .n32⟩]
abbrev tLow : Thread := sLow.thread placedTid
abbrev sTop : State := at_ [⟨4, 0x7FE0#32, .n32⟩]
abbrev tTop : Thread := sTop.thread placedTid
theorem scr_of {s : State} {t : Thread} {a : Nat} {off : Int} {size o : Nat}
    (h : ((s.srcVal t p (srcR 1 a p.pa) : Nat) : Int) + off = (o : Int) ∧ 16384 ≤ o ∧ o + size ≤ (s.team t.team).scratch ∧ o % size = 0 ∧
      (s.team t.team).state = .resident ∧ (s.team t.team).scrBad = [] ∧ Memory.wf (s.team t.team).scr = true) :
    InScratch s p t a off size o := by
  obtain ⟨h1, h2, h3, h4, h5, h6, h7⟩ := h
  exact ⟨h1, h2, h3, h4, h5, by simp [Good, h6], h7⟩
theorem unlogged_of {s : State} {t : Thread} (h : s.log = [] ∧ s.ops = [] ∧ s.memHold t s.fresh = false) : Unlogged s t :=
  ⟨by simp [h.1], by simp [h.2.1], h.2.2⟩

theorem witness_ScratchAccesses :
    (Alone sLow p tLow ∧ Unlogged sLow tLow ∧ InScratch sLow p tLow 4 0 8 0x4000 ∧ (Instr.ld p .s .s64 .none .th .none false 252 4 0).wf = true ∧
      sLow.preGate tLow .any [dst 252 true] [srcR 1 4 p.pa] = none) ∧
    (Alone sTop p96 tTop ∧ Unlogged sTop tTop ∧ InScratch sTop p tTop 4 0 32 0x7FE0 ∧ (Instr.ldv p96 .s .f32 .none .th .none 2 8 4 0).wf = true ∧
      sTop.preGate tTop .any [{ f := 0, n := 8, c := 8, perm := noPerm, want := none }] [srcR 1 4 p.pa] = none) ∧
    (Alone sTop p tTop ∧ Released sTop tTop .rel .dv ∧ InScratch sTop p tTop 4 (-4) 4 0x7FDC ∧
      (Instr.st p .s .s32 .rel .dv .none false 4 5 (-4)).wf = true) ∧
    (InScratch sLow p tLow 4 0 8 0x4000 ∧ (Instr.stv p96 .s .n32 .none .th .none 0 4 8 0).wf = true) :=
  ⟨⟨alone_of (by decide +kernel), unlogged_of (by decide +kernel), scr_of (by decide +kernel), by decide +kernel⟩,
    ⟨alone_of (by decide +kernel), unlogged_of (by decide +kernel), scr_of (by decide +kernel), by decide +kernel⟩,
    ⟨alone_of (by decide +kernel), fun _ => by decide +kernel, scr_of (by decide +kernel), by decide +kernel⟩,
    scr_of (by decide +kernel), by decide +kernel⟩
/-- A line beside the accessed bytes may be uncorrectable. -/
theorem witness_ScratchAccesses_good :
    let s := { sLow with teams := sLow.teams.map fun x => { x with scrBad := [0x7F, 0x81] } }
    Good s tLow.team 0x4000 128 := by unfold Good; decide +kernel

/-- The core's L1 holds the line at 0x10000, valid and writable. -/
def line0 : L1Line :=
  { core := 0, ctx := 0, line := 0x200, pa := 0x10000, node := 0, apt := 0, w := true, comp := false, hot := false, valid := 2 ^ 128 - 1
    dirty := 0, data := 0, level := 3, leaf := placedLeaf, prio := 0, used := 0, bad := false, stored := [] }
def cached : State := let s := at_ [⟨2, 0x1007C#32, .raw⟩]; { s with l1 := [line0] }
abbrev tC : Thread := cached.thread placedTid
theorem witness_CachedAccesses :
    Alone cached p tC ∧ Unlogged cached tC ∧ cached.srcVal tC p (srcP 1 2 p.pa) = 0x1007C ∧ cached.line? 0 0 (0x1007C / 128) = some line0 ∧
    line0.bad = false ∧ cached.lineBusy line0 = false ∧
    (∀ u ∈ cached.upd, ¬(u.core = 0 ∧ u.ctx = 0 ∧ u.line = 0x1007C / 128)) ∧ (cached.grid (cached.team tC.team).grid).ctx = 0 ∧
    (Instr.ld p .g .s32 .none .th .none false 254 2 0).wf = true ∧ cached.preGate tC .any [dst 254 false] [srcP 1 2 p.pa] = none ∧
    (∀ i, i < 4 → line0.valid.testBit (0x1007C % 128 + i) = true) ∧ (Instr.st p .g .s32 .none .th .none false 2 5 0).wf = true ∧
    cached.preGate tC .any [] [srcP 1 2 p.pa, { f := 2, n := 5, c := 1, perm := noPerm, want := none }] = none :=
  ⟨alone_of (by decide +kernel), unlogged_of (by decide +kernel), by decide +kernel⟩

theorem witness_ScratchAtomics :
    Alone sLow p tLow ∧ Unlogged sLow tLow ∧ InScratch sLow p tLow 4 0 8 0x4000 ∧ Released sLow tLow .acq .dv ∧
    (Instr.atom p96 .s .f32 .none .th .cas 254 4 5 6 0).wf = true ∧ (Instr.red p96 .s .n32 .none .xor 4 5 0).wf = true ∧
    (Instr.atom p .s .s64 .acq .dv .add 252 4 6 0 0).wf = true ∧
    sLow.gate tLow p .any [dst 254 false] [srcR 1 4 p.pa, srcT 2 5 noPerm .f32, srcT 3 6 noPerm .f32] = none ∧
    sLow.gate tLow p .any [] [srcR 1 4 p.pa, srcT 2 5 noPerm .n32] = none :=
  ⟨alone_of (by decide +kernel), unlogged_of (by decide +kernel), scr_of (by decide +kernel), fun h => by simp at h, by decide +kernel⟩

/-- The core's constant cache holds the line at 0x10000. -/
def constant : State :=
  let s := cached
  { s with const := [{ cluster := false, unit := 0, ctx := 0, line := 0x200, data := 0 }] }
abbrev tK : Thread := constant.thread placedTid
theorem witness_CachesAndFences :
    Alone constant p tK ∧ Unlogged constant tK ∧
    ((Instr.ldc p .n32 254 2 0).wf = true ∧ constant.preGate tK .any [dst 254 false] [srcP 1 2 p.pa] = none ∧
      constant.srcVal tK p (srcP 1 2 p.pa) = 0x1007C ∧
      (constant.const.find? fun x => !x.cluster && x.unit == tK.id.core && x.ctx == 0 && x.line == 0x1007C / 128).isSome = true) ∧
    (Instr.pref p .p .none false 2 127).wf = true ∧
    ((Instr.flushl p96 .g true 2 0).wf = true ∧ constant.preGate tK .any [] [srcP 1 2 p.pa] = none ∧
      (∀ u ∈ constant.upd, ¬(u.core = 0 ∧ u.ctx = 0 ∧ u.line = 0x1007C / 128)) ∧
      constant.line? 0 0 (0x1007C / 128) = some line0 ∧ constant.line? 0 0 (0x1007C / 128 + 1) = none) ∧
    (Instr.cinv p .sy).wf = true ∧
    ((Instr.fence p .full .sy).wf = true ∧ constant.memHold tK constant.fresh = false ∧ constant.accPending tK = false ∧
      (constant.beginRelease tK .sy).2 = none) :=
  ⟨alone_of (by decide +kernel), unlogged_of (by decide +kernel), by decide +kernel⟩
/-- A load of the thread from another node is not yet answered: a fence passes, and a later load waits for it. -/
def awaiting : State :=
  let acc : Acc := { sp := .g, elems := [(0, 0x20000)], elem := 4, kind := .load false, ty := .n32, ord := .none, sc := .th, hint := .none
                     d := 254, data := [], team := tK.team, pc := 0, words := [], len := .l64, clause := tK.clause, age := 0 }
  { constant with ops := [{ id := 0, tid := tK.id, depth := tK.depth, flag := none, writes := [], astat := 0#6, src := .fabric 1 0
                            acc := some acc, dead := false }], fresh := 1 }
theorem witness_CachesAndFences_awaited :
    let t := awaiting.thread placedTid
    Alone awaiting p t ∧ (Instr.fence p .full .pn).wf = true ∧ awaiting.memHold t awaiting.fresh = false ∧ awaiting.accPending t = true ∧
    awaiting.memHold t awaiting.fresh true = false :=
  ⟨alone_of (by decide +kernel), by decide +kernel⟩
theorem test_fence_passes_and_holds :
    (match exec (.fence p .full .pn) awaiting with
     | .next s => (s.thread placedTid).pc != (awaiting.thread placedTid).pc && s.memHold (s.thread placedTid) s.fresh false
     | _ => false) = true := by decide +kernel
/-- An entry of a cluster's TLB: page 1 of context 0 is frame 1 of local memory, written to, and bypasses the L1. -/
def tlb0 : TlbEntry := { cluster := 0, ctx := 0, level := 3, vpn := 1, leaf := 0x140F, used := 0 }
theorem through_of {s : State} {cl ctx va pa : Nat} {w : Bool} (e : TlbEntry)
    (h : va < 2 ^ 55 ∧ s.tlb? cl ctx va = some e ∧ (leafXlat e.level e.leaf va).pa = pa ∧ (leafXlat e.level e.leaf va).apt = 0 ∧
      (leafXlat e.level e.leaf va).cache = 1 ∧ (leafXlat e.level e.leaf va).w = true ∧ s.rev = []) : Through s cl ctx va pa w := by
  obtain ⟨h1, h2, h3, h4, h5, h6, h7⟩ := h
  exact ⟨h1, e, h2, h3, h4, h5, fun _ => h6, by simp [h7]⟩
theorem homeFree_of {s : State} {pa n : Nat}
    (h : pa % 128 + n ≤ 128 ∧ s.upd = [] ∧ s.l2.det = [] ∧ s.lineBad (pa / 128) = false ∧ s.homeWaits (pa / 128) = false) : HomeFree s pa n := by
  obtain ⟨h1, h2, h3, h4, h5⟩ := h
  exact ⟨h1, by simp [h2], by simp [h3], h4, h5⟩
/-- Neither constant cache holds the line, and the L1 holds it dirty: the home is asked. -/
def coldLine : State :=
  let s := at_ [⟨2, 0x1007C#32, .raw⟩]
  { s with tlb := [tlb0], l1 := [{ line0 with dirty := 5 }] }
theorem witness_CachesAndFences_home :
    let t := coldLine.thread placedTid
    Alone coldLine p t ∧ Unlogged coldLine t ∧ Through coldLine (t.id.core / 4) 0 0x1007C 0x1007C false ∧ HomeFree coldLine 0x1007C 4 ∧
    HomeFree coldLine 0x10000 128 ∧ (∀ k ∈ coldLine.const, k.ctx = 0 → k.line = 0x1007C / 128 → k.unit ≠ if k.cluster then 0 else 0) ∧
    Memory.wf coldLine.mem = true ∧ coldLine.srcVal t p (srcP 1 2 p.pa) = 0x1007C ∧ coldLine.preGate t .any [dst 254 false] [srcP 1 2 p.pa] = none ∧
    coldLine.line? 0 0 (0x1007C / 128) = some { line0 with dirty := 5 } :=
  ⟨alone_of (by decide +kernel), unlogged_of (by decide +kernel), through_of tlb0 (by decide +kernel), homeFree_of (by decide +kernel),
    homeFree_of (by decide +kernel), by decide +kernel⟩
/-- A flush of private word 0, where the thread has a private array. -/
theorem witness_CachesAndFences_private :
    let s := { at_ [] with teams := (at_ []).teams.map fun x => { x with privBase := 0x20000, privWords := 1 } }
    let t := s.thread placedTid
    Alone s p t ∧ Unlogged s t ∧ s.preGate t .any [] [srcR 1 4 p.pa] = none ∧ s.srcVal t p (srcR 1 4 p.pa) = 0 ∧ 0 < (s.team t.team).privWords ∧
    privateVa s t 0 = 0x20000 :=
  ⟨alone_of (by decide +kernel), unlogged_of (by decide +kernel), by decide +kernel⟩

theorem wait_of {s : State} {t : Thread} (a : okAlone s p t = true) (h : s.log = [] ∧ s.ops = [] ∧ s.memHold t s.fresh = false) :
    WaitIssues s p t := ⟨alone_of a, unlogged_of h⟩
theorem witness_WaitsOnWords :
    WaitIssues sLow p tLow ∧ InScratch sLow p tLow 4 0 4 0x4000 ∧ InScratch sLow p tLow 4 0 16 0x4000 ∧
    (Instr.waitv p .s .n32 .tm .eq 254 4 5 0).wf = true ∧
    sLow.gate tLow p .any [dst 254 false] [srcR 1 4 p.pa, srcT 2 5 noPerm .n32] = none ∧
    (Instr.await p .s .sy 254 4 5 0).wf = true ∧ sLow.gate tLow p .any [dst 254 false] [srcR 1 4 p.pa, srcR 2 5 noPerm] = none ∧
    (awWord sLow tLow.team 0x4000 3).testBit 0 = false :=
  ⟨wait_of (by decide +kernel) (by decide +kernel), scr_of (by decide +kernel), scr_of (by decide +kernel), by decide +kernel⟩
theorem witness_WaitsOnWords_wake :
    (let s := inRun (.blocked (.waitv (.scr 1 0x4000) 0x4000 .s64 .ge 0#64 252 .dv) 8 (some 7#64))
     Listed s (s.thread placedTid) ∧ Stays s (s.thread placedTid)) ∧
    (let s := inRun (.blocked (.await (.scr 1 0x4000) 5 255 .tm) 12 (some 6#64))
     Listed s (s.thread placedTid) ∧ Stays s (s.thread placedTid)) :=
  ⟨⟨listed_of (by decide +kernel), stays_of (by decide +kernel)⟩, listed_of (by decide +kernel), stays_of (by decide +kernel)⟩

/-- A target of 1 in v5 and a control word with OVRT in v6. -/
abbrev sAw : State := at_ [⟨4, 0x7FF0#32, .n32⟩, ⟨5, 1#32, .n32⟩, ⟨6, 2#32, .n32⟩]
abbrev tAw : Thread := sAw.thread placedTid
theorem witness_ArrivalWords :
    WaitIssues sAw p tAw ∧ InScratch sAw p tAw 4 0 16 0x7FF0 ∧ Good sAw tAw.team 0x7FF0 16 ∧ (Instr.awset p .s 255 4 5 6 0).wf = true ∧
    sAw.gate tAw p .any [dst 255 false] [srcR 1 4 p.pa, srcR 2 5 noPerm, srcR 3 6 noPerm] = none ∧ sAw.srcVal tAw p (srcR 3 6 noPerm) = 2 ∧
    (Instr.arrive p .s .dv 4 5 0).wf = true ∧
    sAw.gate tAw p .any [] [srcR 1 4 p.pa, srcR 2 5 noPerm] = none ∧ (sAw.beginRelease tAw .dv).2 = none ∧
    (awWord sAw tAw.team 0x7FF0 3).testBit 0 = false ∧ (awWord sAw tAw.team 0x7FF0 3).testBit 1 = false ∧
    (sAw.team tAw.team).state = .resident ∧ Memory.wf (sAw.team tAw.team).scr = true :=
  ⟨wait_of (by decide +kernel) (by decide +kernel), scr_of (by decide +kernel), by unfold Good; decide +kernel, by decide +kernel⟩

/-- A ring of 64 stages and 255 consumers at the lowest offset: v1 its offset, v2:v3 its counts, v5 its stage bytes; and an armed ring
of one stage. -/
abbrev sRing : State := at_ [⟨1, 0x4000#32, .n32⟩, ⟨2, 0xFF40#32, .n32⟩, ⟨5, 1#32, .n32⟩]
abbrev tRing : Thread := sRing.thread placedTid
def armed : State := spad [⟨1, 0x4000#32, .n32⟩, ⟨5, 1#32, .n32⟩] [(0x4000, 1#8), (0x4001, 1#8), (0x4004, 1#8)]
abbrev tArm : Thread := armed.thread placedTid
theorem witness_StageRings :
    (WaitIssues sRing p tRing ∧ Good sRing tRing.team 0x4000 1040 ∧ (Instr.srinit p 1 2 5).wf = true ∧
      sRing.gate tRing p .any [] [srcR 1 1 noPerm, srcP 2 2 noPerm, srcR 3 5 noPerm] = none ∧ sRing.srcVal tRing p (srcP 2 2 noPerm) = 64 + 256 * 255 ∧
      0x4000 + 16 + 16 * 64 ≤ (sRing.team tRing.team).scratch ∧ (sRing.team tRing.team).state = .resident ∧
      Memory.wf (sRing.team tRing.team).scr = true) ∧
    (WaitIssues armed p tArm ∧ Good armed tArm.team 0x401C 4 ∧ (Instr.srwait p true 1 6 5).wf = true ∧ (Instr.srfree p 1 6).wf = true ∧
      armed.gate tArm p .any [] [srcR 1 1 noPerm, srcR 2 6 noPerm, srcR 3 5 noPerm] = none ∧
      armed.gate tArm p .any [] [srcR 1 1 noPerm, srcR 2 6 noPerm] = none ∧ armed.accPending tArm = false ∧
      number (armed.team tArm.team).scr 0x4000 1 = 1 ∧ number (armed.team tArm.team).scr 0x4001 1 = 1 ∧
      number (armed.team tArm.team).scr 0x4002 2 = 0 ∧ number (armed.team tArm.team).scr 0x4004 4 = 1 ∧ armed.srcVal tArm p (srcR 2 6 noPerm) = 0 ∧
      Memory.wf (armed.team tArm.team).scr = true) ∧
    (let s := inRun (.blocked (.srwait 0x4010 true false) 8 (some 0#64))
     Listed s (s.thread placedTid) ∧ Stays s (s.thread placedTid)) :=
  ⟨⟨wait_of (by decide +kernel) (by decide +kernel), by unfold Good; decide +kernel, by decide +kernel⟩,
    ⟨wait_of (by decide +kernel) (by decide +kernel), by unfold Good; decide +kernel, by decide +kernel⟩,
    listed_of (by decide +kernel), stays_of (by decide +kernel)⟩
/-- No ring: SRINIT with v5 zero for its stage bytes, SRWAIT and SRFREE at an offset that holds none. -/
theorem witness_StageRings_limits :
    WaitIssues sLow p tLow ∧ (Instr.srinit p 4 2 5).wf = true ∧ sLow.gate tLow p .any [] [srcR 1 4 noPerm, srcP 2 2 noPerm, srcR 3 5 noPerm] = none ∧
    sLow.srcVal tLow p (srcR 3 5 noPerm) = 0 ∧ number (sLow.team tLow.team).scr 0x4000 1 = 0 ∧
    sLow.gate tLow p .any [] [srcR 1 4 noPerm, srcR 2 6 noPerm, srcR 3 5 noPerm] = none :=
  ⟨wait_of (by decide +kernel) (by decide +kernel), by decide +kernel⟩

/-- A command of the placed thread's team and group. -/
def cmdOf (cls : Cls) (kind : CmdKind) (st : CmdState) : Cmd := 
  { id := 9, cls := cls, core := 0, ctx := 0, team := 1, group := 0, tid := placedTid, scope := .tm, kind := kind, aw := none, state := st, prog := 0
    pos := 0, snap := [], buf := [], owed := 0, sent := [], lossy := [], moved := 0, ranges := [], paused := false, err := 0, cause := 0, errcnt := 0
    frames := 0, status := 0 }
def withCmd (c : Cmd) : State := { s0 with cmds := [c] }
def trap0 : TrapRec :=
  { cause := 0x42, detail := 0, value := none, words := [0#32, 0#32, 0#32, 0#32], len := .l64, pc := 0x10000, pred := 0, guard := true, pos := 0, width := 32
    size := 32, lanes := 1, count1 := 0, idx := 0, clause := none, park := 0x10000, parkClause := none, logged := none }
theorem witness_EngineCounters :
    (Alone s0 p t0 ∧ (Instr.waitc p .mat 255 (.imm 0)).wf = true ∧ s0.gate t0 p .any [dst 255 false] [] = none ∧
      (Instr.waitc p .copy 254 (.reg 3)).wf = true ∧ s0.gate t0 p .any [dst 254 false] [srcR 2 3 noPerm] = none) ∧
    (let s := inRun (.blocked (.waitc .mat 0 255 trap0) 8 (some 0#64))
     let t := s.thread placedTid
     Listed s t ∧ Stays s t ∧ (s.team t.team).slots.findIdx (fun x => x == t.id.slot) < (s.team t.team).groups.length ∧
      (s.group t.team 0).errs.length = 6 ∧ (s.group t.team 0).nvt = false) ∧
    (let s := withCmd (cmdOf .copy (.mspill 0 0x4000) .finished)
     (s.group 1 0).ctr.length = 6 ∧ (s.group 1 0).errs.length = 6 ∧ 0 < (s.team 1).groups.length ∧ (s.teams.find? fun x => x.id == 1).isSome = true) :=
  ⟨⟨alone_of (by decide +kernel), by decide +kernel⟩, ⟨listed_of (by decide +kernel), stays_of (by decide +kernel), by decide +kernel⟩,
    by decide +kernel⟩
/-- The same wait where an accumulator-invalid trap of the group is due. -/
theorem witness_EngineCounters_due :
    let s := inRun (.blocked (.waitc .mat 0 255 trap0) 8 (some 0#64))
    let u := { s with teams := s.teams.map fun x => { x with groups := x.groups.map fun g => { g with nvt := true } } }
    let t := u.thread placedTid
    Listed u t ∧ Stays u t ∧ (u.group t.team 0).nvt = true ∧ (u.group t.team 0).errs.length = 6 :=
  ⟨listed_of (by decide +kernel), stays_of (by decide +kernel), by decide +kernel⟩

/-! ### Tensors and engines -/

/-- A placed thread whose scratchpad holds these images, each at its offset. -/
def images (regs : List RegCell) (l : List (Nat × List Byte)) : State := spad regs (l.foldl (fun m x => memWrite m x.1 x.2) [])

theorem resident_of {s : State} {t : Thread} (h : (s.team t.team).state = .resident ∧ Memory.wf (s.team t.team).scr = true) : Resident s t := ⟨h.1, h.2⟩
theorem good_of {s : State} {team o n : Nat} (h : (s.team team).scrBad = []) : Good s team o n := by simp [Good, h]
theorem witness_TensorStates :
    let s := spad [⟨4, 0x4000#32, .n32⟩, ⟨6, 2#32, .raw⟩, ⟨8, 0x10000#32, .raw⟩] []
    let t := s.thread placedTid
    let s1 := (s.recordG p t 0x10000 64 8).1
    Resident s t ∧ Resident s1 t ∧ Alone s p t ∧ Good s t.team (512 * 31) 512 ∧ Good s1 t.team (512 * 31) 512 ∧
    (∃ l, s.recordG p t 0x10000 64 8 = (s1, .ok l) ∧ l.length = 512) ∧ Executes s p .any [dst 252 true] [] t ∧
    s.srcVal t p (srcP 1 8 noPerm) = 0x10000 ∧ s.tsBusy t.team 31 = false ∧ (Instr.tsinit p true 31 4).wf = true ∧ s.gate t p .any [] [srcR 1 4 noPerm] = none ∧
    s.srcVal t p (srcR 1 4 noPerm) = 0x4000 ∧ (Instr.tsinit p false 31 8).wf = true ∧ s.gate t p .any [] [srcP 1 8 noPerm] = none ∧
    s1.threads.find? (fun x => x.id == t.id) = some t ∧ (Instr.tsinitFrag p 9 31 255 40 63).wf = true ∧ s.gate t p .any [] [] = none ∧
    (Instr.tsset p 31 6 10).wf = true ∧ (Instr.tsset p 31 6 1).wf = true ∧ s.gate t p .any [] [srcP 1 6 noPerm] = none ∧
    (Instr.tsget p 252 31 63).wf = true :=
  ⟨resident_of (by decide +kernel), resident_of (by decide +kernel), alone_of (by decide +kernel), good_of (by decide +kernel),
    good_of (by decide +kernel), ⟨zeros 512, Prod.ext rfl (by decide +kernel), by decide +kernel⟩, executes_of (by decide +kernel),
    by decide +kernel⟩

/-- A tensor of 16 N32 elements at 0x4000, as state 18; index 15 in v2:v3, the hole 16 in v4:v5. -/
def sTen : State :=
  spad [⟨2, 15#32, .raw⟩, ⟨4, 16#32, .raw⟩]
    [(9216, 0x92#8), (9217, 1#8), (9218, 4#8), (9225, 0x40#8), (9248, 4#8), (9249, 16#8), (9344, 1#8), (9352, 2#8), (9360, 4#8), (9368, 8#8)]
abbrev tTen : Thread := sTen.thread placedTid
/-- What it says. -/
abbrev xTen : TState :=
  { hdr := 0x40192, base := 0x4000, sbase := 0, ofs := 0, coord := [0x1004, 0, 0, 0, 0, 0], rows := [1, 2, 4, 8] ++ List.replicate 44 0, rest := 0 }
theorem inSpad_of {x : TState} (h : x.cls = 2 ∧ x.xb = false ∧ x.base % (x.s / 8) = 0) : InSpad x := ⟨h.1, h.2.1, h.2.2⟩
theorem witness_TensorElements :
    Alone sTen p tTen ∧ Unlogged sTen tTen ∧ Resident sTen tTen ∧ Released sTen tTen .rel .dv ∧ InSpad xTen ∧ PlaceOf xTen 15 15 ∧
    Good sTen tTen.team (0x4000 + 60) 4 ∧ (¬Hole xTen 15 ∧ Hole xTen 16) ∧
    tTen.tstTo = [] ∧ tsOf (sTen.tsBytes tTen.team 18) = xTen ∧ sTen.useFault (sTen.team tTen.team) xTen = none ∧
    sTen.recutting tTen.team 18 = false ∧ (Instr.tld p .none .th .none 254 2 18).wf = true ∧
    sTen.gate tTen p .any [{ f := 0, n := 254, c := 1, perm := noPerm, want := none }] [srcP 1 2 noPerm] = none ∧
    (Instr.tst p .rel .dv .none 2 6 18).wf = true ∧
    sTen.gate tTen p .any [] [srcP 1 2 noPerm, { f := 2, n := 6, c := 1, perm := noPerm, want := some .n32 }] = none ∧
    xTen.fmt = .n32 ∧ sTen.srcVal tTen p (srcP 1 2 noPerm) = 15 ∧ sTen.srcVal tTen p (srcP 1 4 noPerm) = 16 :=
  ⟨alone_of (by decide +kernel), unlogged_of (by decide +kernel), resident_of (by decide +kernel), fun _ => by decide +kernel,
    inSpad_of (by decide +kernel), by unfold PlaceOf; decide +kernel, good_of (by decide +kernel), by unfold Hole; decide +kernel, by decide +kernel⟩
/-- Four elements in registers v40 to v43 of lane 0 of group 0, the placed thread's own. -/
def sRegs : State :=
  spad [⟨2, 3#32, .raw⟩] [(9216, 0x94#8), (9217, 1#8), (9218, 2#8), (9224, 40#8), (9248, 2#8), (9249, 4#8), (9344, 1#8), (9352, 2#8)]
abbrev xRegs : TState :=
  { hdr := 0x20194, base := 40, sbase := 0, ofs := 0, coord := [0x402, 0, 0, 0, 0, 0], rows := [1, 2] ++ List.replicate 46 0, rest := 0 }
theorem witness_TensorElements_register :
    let t := sRegs.thread placedTid
    Alone sRegs p t ∧ Unlogged sRegs t ∧ Resident sRegs t ∧ ¬Hole xRegs 3 ∧ PlaceOf xRegs 3 3 ∧
    t.tstTo = [] ∧ tsOf (sRegs.tsBytes t.team 18) = xRegs ∧ sRegs.useFault (sRegs.team t.team) xRegs = none ∧
    xRegs.fmt = .n32 ∧ xRegs.stor 3 = .reg 0 0 43 0 ∧ sRegs.srcVal t p (srcP 1 2 noPerm) = 3 ∧ xRegs.xb = false ∧
    (sRegs.thread placedTid).live = true ∧ (sRegs.team t.team).slots.getD 0 64 = 0 :=
  ⟨alone_of (by decide +kernel), unlogged_of (by decide +kernel), resident_of (by decide +kernel), by unfold Hole; decide +kernel,
    by unfold PlaceOf; decide +kernel, by decide +kernel⟩

/-- Tensors of 3 N32 elements and a hole, at 0x4000 (state 1) and 0x5000 (state 2). -/
def sRec : State :=
  spad [⟨4, 0x7F00#32, .n32⟩]
    [(512, 0x92#8), (513, 1#8), (514, 2#8), (521, 0x40#8), (544, 2#8), (545, 3#8), (640, 1#8), (648, 2#8),
     (1024, 0x92#8), (1025, 1#8), (1026, 2#8), (1033, 0x50#8), (1056, 2#8), (1057, 3#8), (1152, 1#8), (1160, 2#8)]
abbrev tRec : Thread := sRec.thread placedTid
abbrev xRec : TState :=
  { hdr := 0x20192, base := 0x4000, sbase := 0, ofs := 0, coord := [0x302, 0, 0, 0, 0, 0], rows := [1, 2] ++ List.replicate 46 0, rest := 0 }
abbrev yRec : TState := { xRec with base := 0x5000 }
/-- Its plan: one pass that moves the elements. -/
abbrev plRec : List Pass := [{ level := 0, rows := [1, 2], off := 0 }]
theorem rec_states : tsOf (sRec.tsBytes 1 1) = xRec ∧ tsOf (sRec.tsBytes 1 2) = yRec ∧ planOf xRec yRec = plRec := by decide +kernel
theorem engines_of {s : State} {t : Thread}
    (h : ((s.team t.team).state = .resident ∧ Memory.wf (s.team t.team).scr = true) ∧ s.threads.find? (fun x => x.id == t.id) = some t ∧
      (s.team t.team).slots.findIdx (fun x => x == t.id.slot) < (s.team t.team).groups.length ∧
      (s.group t.team ((s.team t.team).slots.findIdx fun x => x == t.id.slot)).ctr.length = 6 ∧ ∀ l ∈ s.l1, l.dirty = 0) : Engines s t := by
  obtain ⟨h1, h2, h3, h4, h5⟩ := h
  exact ⟨resident_of h1, h2, h3, h4, fun l hl _ _ => h5 l hl⟩
theorem witness_Recuts :
    Alone sRec p128 tRec ∧ Alone sRec p tRec ∧ Engines sRec tRec ∧ Good sRec tRec.team 512 512 ∧ Good sRec tRec.team 1024 512 ∧
    WordFine sRec tRec (some { scr := true, addr := 0x7F00 }) ∧ OnChip xRec yRec ∧
    (Instr.recut p128 true false none 1 2 4 0 0).wf = true ∧ (Instr.recut p128 false false (some .dv) 1 2 255 0 0).wf = true ∧
    sRec.gate tRec p128 .engine [] [srcR 2 4 noPerm] = none ∧ sRec.recutFault (sRec.team tRec.team) xRec yRec = none ∧
    sRec.engineFull tRec .copy plRec.length = false ∧ sRec.srcVal tRec p128 (srcR 2 4 noPerm) = 0x7F00 ∧
    (Instr.recutq p false 252 1 2).wf = true ∧ (Instr.recutq p true 252 1 2).wf = true ∧ sRec.gate tRec p .engine [dst 252 true] [] = none :=
  ⟨alone_of (by decide +kernel), alone_of (by decide +kernel), engines_of (by decide +kernel), good_of (by decide +kernel),
    good_of (by decide +kernel), fun z h => by cases h; decide +kernel, by unfold OnChip; decide +kernel, by decide +kernel⟩

/-- A recut of state 2 into state 1 that has not run the pass given, and a plan of two passes. -/
def cRec (st : CmdState) (plan : List Pass) (prog : Nat) (snap : List UnitVal) : Cmd :=
  { cmdOf .copy (.recut 1 2 (sRec.tsBytes 1 1) (sRec.tsBytes 1 2) false plan none) st with prog := prog, snap := snap }
abbrev plTwo : List Pass := plRec ++ plRec
/-- The first of two passes, not yet begun; the only pass; and the second of two, with the first pass's elements read. -/
theorem witness_Recuts_pass (c : Cmd) (plan : List Pass)
    (h : c = cRec .running plTwo 0 [] ∧ plan = plTwo ∨ c = cRec .running plRec 0 [] ∧ plan = plRec ∨
      c = cRec .running plTwo 1 [⟨0, 7, 0⟩, ⟨1, 8, 0⟩, ⟨2, 9, 0⟩] ∧ plan = plTwo) :
    let s := { sRec with cmds := [c] }
    let order := passOrder yRec plan c.prog
    InSpad xRec ∧ InSpad yRec ∧ s.cmd? c.id = some c ∧ c.kind = .recut 1 2 (sRec.tsBytes 1 1) (sRec.tsBytes 1 2) false plan none ∧
    (s.team c.team).state = .resident ∧ Memory.wf (s.team c.team).scr = true ∧ (s.team c.team).scrBad = [] ∧
    c.going = true ∧ s.recutBehind c = false ∧ plan ≠ [] ∧ c.pos < order.length ∧
    xRec.valid = true ∧ yRec.valid = true ∧ xRec.fmt = yRec.fmt ∧ 16384 ≤ xRec.base ∧ 16384 ≤ yRec.base ∧
    (c.prog = 0 → c.snap = []) ∧ (c.prog = 0 ∧ 1 < plan.length ∨ c.prog + 1 = plan.length) ∧ fld s.sys.budcfg 0 1 = 0 ∧
    (∀ u ∈ order, ∀ v ∈ order, xRec.place u.n = xRec.place v.n → u = v) := by
  rcases h with ⟨rfl, rfl⟩ | ⟨rfl, rfl⟩ | ⟨rfl, rfl⟩ <;>
    exact ⟨inSpad_of (by decide +kernel), inSpad_of (by decide +kernel), by decide +kernel⟩
theorem witness_Recuts_retire :
    let c := cRec .acking plRec 1 []
    let s := { sRec with cmds := [c] }
    s.cmd? c.id = some c ∧ s.cmdOpen c.id = false ∧ s.creditDue c.id = false ∧ c.owes = false ∧ c.moved = 0 ∧ c.ranges = [] ∧ c.lossy = [] ∧
    (∀ z ∈ s.cmds, z.id = c.id ∨ z.state = .finished ∨ z.team ≠ c.team) := by decide +kernel

/-- A record of 64 bytes: elements of 4 bytes, indices and dense side in the scratchpad, one index, the table at 0x10000. -/
def gsRec (limit : Nat) : List Byte :=
  [2#8, 0#8, 3#8, 0#8] ++ leBytes 4 1 ++ leBytes 8 0x10000 ++ leBytes 8 limit ++ leBytes 8 0x4100 ++ leBytes 8 0x4200 ++ zeros 24
/-- The record at 0x4000, its one index 3, and a translation of the table's page that bypasses the L1. -/
def sGs : State :=
  let s := images [⟨4, 0x4000#32, .n32⟩] [(0x4000, gsRec 4), (0x4100, leBytes 4 3)]
  { s with tlb := [tlb0] }
theorem witness_GathersAndScatters :
    let t := sGs.thread placedTid
    Alone sGs p t ∧ Engines sGs t ∧ WordFine sGs t none ∧ sGs.gate t p .engine [] [srcR 1 4 noPerm] = none ∧
    sGs.gsRecord p t true (sGs.srcVal t p (srcR 1 4 noPerm)) = (sGs, .ok (gsRec 4)) ∧
    gsOk (gsRec 4) (sGs.team t.team).scratch = true ∧ sGs.engineFull t .gath 0 = false ∧
    (Instr.gather p true (some .sy) 4).wf = true ∧ (Instr.scatter p false none 4).wf = true :=
  ⟨alone_of (by decide +kernel), engines_of (by decide +kernel), fun z h => (by cases h), by decide +kernel⟩
theorem witness_GathersAndScatters_last (scatter : Bool) :
    let c := cmdOf .gath (if scatter then .scatter (gsRec 4) else .gather (gsRec 4)) .running
    let s := { sGs with cmds := [c] }
    Through s (c.core / 4) c.ctx (0x10000 + 4 * 3) 0x1000C true ∧ HomeFree s 0x1000C 4 ∧
    s.cmd? c.id = some c ∧ c.paused = false ∧ c.pos + 1 = recField (gsRec 4) 4 4 ∧ gsOk (gsRec 4) (s.team c.team).scratch = true ∧
    recField (gsRec 4) 2 1 = 3 ∧ (s.team c.team).state = .resident ∧ Memory.wf (s.team c.team).scr = true ∧ (s.team c.team).scrBad = [] ∧
    number (s.team c.team).scr 0x4100 4 < recField (gsRec 4) 16 8 ∧
    recField (gsRec 3) 16 8 ≤ 3 ∧ gsOk (gsRec 3) (s.team c.team).scratch = true ∧ Memory.wf s.mem = true := by
  cases scatter <;> exact ⟨through_of tlb0 (by decide +kernel), homeFree_of (by decide +kernel), by decide +kernel⟩

/-- A collective's record: a barrier (4) or another OP of KIND 0, of the clusters of a mask. -/
def collRec (op mask : Nat) : List Byte := BitVec.ofNat 8 op :: zeros 47 ++ leBytes 32 mask ++ zeros 48
/-- The record in memory at 0x10000, whose address stands in v2:v3. -/
def sColl (op mask : Nat) : State :=
  let s := at_ [⟨2, 0x10000#32, .raw⟩]
  { s with mem := memWrite s.mem 0x10000 (collRec op mask) }
theorem witness_Collectives (mask : Nat) (h : mask = 0 ∨ mask = 1) :
    let s := sColl 4 mask
    let t := s.thread placedTid
    let s1 := (s.recordG p t 0x10000 16 128).1
    let r := collRec 4 mask
    Alone s p t ∧ Engines s1 t ∧ s.recordG p t (s.srcVal t p (srcP 1 2 noPerm)) 16 128 = (s1, .ok r) ∧
    (Instr.coll p (some .dv) 2).wf = true ∧ s.gate t p .engine [] [srcP 1 2 noPerm] = none ∧
    collFault r (t.id.core / 4) (s.grid (s.team t.team).grid).clusters = false ∧ s1.engineFull t .coll 0 = false ∧
    (if (collMembers r).isEmpty then none else ((collTargets r (memberOf r 0)).head?).bind (collWord r s.node)) = none ∧
    (collMembers r).isEmpty = (mask == 0) := by
  rcases h with rfl | rfl <;> exact ⟨alone_of (by decide +kernel), engines_of (by decide +kernel), Prod.ext rfl (by decide +kernel),
    by decide +kernel⟩
/-- A record of OP 6, which there is not. -/
theorem witness_Collectives_fault :
    let s := sColl 6 1
    let t := s.thread placedTid
    let s1 := (s.recordG p t 0x10000 16 128).1
    s.recordG p t (s.srcVal t p (srcP 1 2 noPerm)) 16 128 = (s1, .ok (collRec 6 1)) ∧
    collFault (collRec 6 1) (t.id.core / 4) (s.grid (s.team t.team).grid).clusters = true ∧ s1.threads.find? (fun x => x.id == t.id) = some t :=
  ⟨Prod.ext rfl (by decide +kernel), by decide +kernel⟩
/-- The members' commands of a collective of clusters 0 and 1. -/
def member (i : Nat) (r : List Byte) (set : Option Nat) : Cmd :=
  { cmdOf .coll (.coll r 0x10000 set (some i)) .running with id := 9 + i, core := 4 * i }
theorem witness_Collectives_meet (r : List Byte) (h : r = collRec 4 3 ∨ r = collRec 1 3) :
    let l := [member 0 (collRec 4 3) none, member 1 r none]
    let s := { s0 with cmds := l }
    s.cmd? 9 = some (member 0 (collRec 4 3) none) ∧ (member 0 (collRec 4 3) none).going = true ∧ recField (collRec 4 3) 1 1 = 0 ∧
    recField (collRec 4 3) 0 1 ≠ 5 ∧
    l.map some = (List.range (collMembers (collRec 4 3)).length).map (fun m => s.collAt (s.team 1).grid 0x10000 m) ∧
    ∀ x ∈ l, x.err = 0 ∧ ∀ y ∈ s.cmds, y.id = x.id → y = x := by
  rcases h with rfl | rfl <;> decide +kernel
theorem witness_Collectives_barrier :
    let c := member 0 (collRec 4 1) (some 77)
    let s := withCmd c
    s.cmd? c.id = some c ∧ recField (collRec 4 1) 0 1 = 4 ∧ recField (collRec 4 1) 1 1 = 0 ∧ c.paused = false ∧ c.prog = 0 ∧ c.pos = 0 ∧
    c.aw = none ∧ c.owed = 0 ∧ s.cmdOpen c.id = false ∧ s.creditDue c.id = false := by decide +kernel
theorem witness_Collectives_sum :
    let r := [2#8, 0#8, 9#8, 0#8]
    let b := leBytes 4 0xFFFFFFFF ++ zeros 252
    recField r 2 1 = Tag.n32.code ∧ recField r 3 1 = 0 ∧ b.length = 256 ∧
    leNat (((collReduce r [b, b, b]).drop 0).take 4) = 0xFFFFFFFD := by decide +kernel

/-! ### Matrix registers -/

/-- The placed team with matrix registers from m0 on and tack registers from k0 on, and a queue on its core. -/
def matrix (regs : List RegCell) (ms : List MReg) (tk : List Tack) (q : List MOp) : State :=
  ((at_ regs).editTeam 1 fun x => { x with mregs := ms ++ List.replicate (16 - ms.length) MReg.reset, tacks := tk ++ List.replicate (16 - tk.length) Tack.reset })
    |>.editCore 0 fun c => { c with mqueue := q, partword := some 0x101020 }
/-- A dense register with one element, and one of a pair of columns and rows of ones. -/
def mDense (g : Tag) : MReg := { MReg.reset with form := .dense, tag := g, dense := [(65, 7#32)] }
def mPair : MReg := { MReg.reset with form := .factor, tag := .f32, us := [List.replicate 64 0x3F800000#32], vs := [List.replicate 64 0x3F800000#32] }

abbrev sMq : State := matrix [⟨4, 0x3F800000#32, .f32⟩] [mPair, mDense .f32] [] []
abbrev tMq : Thread := sMq.thread placedTid
theorem witness_MatrixQueue :
    Alone sMq p tMq ∧ Engines sMq tMq ∧
    (∀ o : MatIns, o ∈ [.mlrmul 2 0 1, .mlradd 0 0, .mdense 0, .mzero 0, .mcopy 15 1, .mswap 0 1, .mclrs 0 31, .mpol 0 true true] →
      (o.instr p).wf = true ∧ sMq.mwaits tMq.team o.kind = false ∧ sMq.mcheck tMq.team o.kind = none) ∧
    sMq.engineFull tMq .mat 0 = false ∧ sMq.preGate tMq .matrix [] [] = none ∧
    ((MatIns.mlrmul 2 0 0).instr p).wf = true ∧ sMq.mcheck tMq.team (MatIns.mlrmul 2 0 0).kind = some (0x44, 0) ∧
    (Instr.mrecomp p true 0 4).wf = true ∧ sMq.gate tMq p .matrix [] [srcT 1 4 noPerm .f32] = none ∧
    sMq.mwaits tMq.team (.mrecomp 0 0x3F800000#32) = false ∧ sMq.mcheck tMq.team (.mrecomp 0 0x3F800000#32) = none ∧
    (Instr.mrecomp p false 0 0).wf = true ∧ sMq.gate tMq p .matrix [] [] = none :=
  ⟨alone_of (by decide +kernel), engines_of (by decide +kernel), fun o h => by
      simp only [List.mem_cons, List.not_mem_nil, or_false] at h
      rcases h with rfl | rfl | rfl | rfl | rfl | rfl | rfl | rfl <;> decide +kernel, by decide +kernel⟩

/-- A tack register of n members of group 0: with one the placed thread completes it, with two lane 1 is still awaited. -/
def tacked (n : Nat) : State :=
  let s := matrix [] [] [{ g := 0, n := n, op := none, caps := [], cmds := [] }] []
  { s with threads := s.threads ++ s.threads.map fun t => { t with id := { t.id with lane := 1 } } }
theorem witness_Tacks (n : Nat) (h : n = 0 ∨ n = 1 ∨ n = 2) :
    let s := tacked n
    let t := s.thread placedTid
    let x := (s.team t.team).tacks.getD 0 Tack.reset
    Alone s p t ∧ Alone s p128 t ∧ Engines s t ∧
    (∀ k : MOpKind, k ∈ [.mma false .bf16 false 0 [⟨0, List.replicate 16 0#32⟩], .mlru 0 [⟨0, [0#32, 0#32]⟩]] →
      s.mwaits t.team k = false ∧ s.mcheck t.team k = none) ∧
    s.engineFull t .mat 0 = false ∧ (s.team t.team).tacks.length = 16 ∧
    ((Instr.tkset p 15 0 32).wf = true ∧ s.preGate t .matrix [] [] = none ∧ 0 + (32 + 31) / 32 ≤ (s.team t.team).groups.length) ∧
    ((Instr.mma p128 false .bf16 false 0 8 16 0 0 0).wf = true ∧ s.gate t p128 .matrix [] [srcN 1 8 8 (some .bf16), srcN 2 16 8 (some .bf16)] = none ∧
      (Instr.mlru p128 0 8 9 0).wf = true ∧ s.gate t p128 .matrix [] [srcN 1 8 1 (some .f32), srcN 2 9 1 (some .f32)] = none) ∧
    x.op = none ∧ x.caps = [] ∧ (n = 0 → ¬(32 * x.g ≤ 0 ∧ 0 < 32 * x.g + x.n)) ∧ (n ≠ 0 → 32 * x.g ≤ 0 ∧ 0 < 32 * x.g + x.n) ∧
    (n = 2 → s.allTacked t.team x (some 0) = false) ∧ (n = 1 → s.allTacked t.team x (some 0) = true) := by
  rcases h with rfl | rfl | rfl <;> exact ⟨alone_of (by decide +kernel), alone_of (by decide +kernel), engines_of (by decide +kernel), fun k h => by
      simp only [List.mem_cons, List.not_mem_nil, or_false] at h
      rcases h with rfl | rfl <;> decide +kernel, by decide +kernel⟩

theorem getD_all {α : Type} (P : α → Prop) (d : α) (hd : P d) : ∀ (l : List α) (n : Nat), (∀ x ∈ l, P x) → P (l.getD n d)
  | [], _, _ => hd
  | a :: _, 0, h => h a (List.mem_cons_self ..)
  | _ :: l, n + 1, h => by simpa using getD_all P d hd l n fun x hx => h x (List.mem_cons_of_mem _ hx)

/-- An operation that stands first in the queue of core 0. -/
def queued (k : MOpKind) : State := matrix [] [mPair, mDense .f32, mDense .s32] [] [{ id := 7, team := 1, falls := [(0, 0)], kind := k }]
/-- One of each operation, with the forms that its clause asks for. -/
def kinds : List MOpKind :=
  [.mzero 0, .mcopy 3 0, .mswap 0 1, .mclrs 0 31, .mpol 0 true true, .mdense 0, .mlradd 0 0, .mlradd 2 2, .mlrmul 3 0 1, .mlru 0 [⟨63, [1#32, 2#32]⟩],
   .mma false .s8 false 2 [⟨0, List.replicate 16 0#32⟩]]
theorem witness_MatrixResults (k : MOpKind) (h : k ∈ kinds) :
    let s := queued k
    s.mNext 0 = some { id := 7, team := 1, falls := [(0, 0)], kind := k } ∧ (s.team 1).mregs.length = 16 ∧
    (s.teams.find? fun x => x.id == 1).isSome = true ∧ (∃ t ∈ s.threads, t.team = 1 ∧ t.live = true) ∧
    (∀ m, MatOk ((s.team 1).mregs.getD m MReg.reset)) ∧ ((∀ c d, k ≠ .drain c d) ∧ (∀ c d, k ≠ .spill c d) ∧ ∀ c d ty, k ≠ .fill c d ty) ∧
    ((s.team 1).mregs.getD 0 MReg.reset).form = .factor ∧ ((s.team 1).mregs.getD 1 MReg.reset).tag = .f32 ∧
    ((s.team 1).mregs.getD 2 MReg.reset).form = .dense ∧ ((s.team 1).mregs.getD 2 MReg.reset).tag = .s32 := by
  have regs : ∀ k, ((queued k).team 1).mregs = [mPair, mDense .f32, mDense .s32] ++ List.replicate 13 MReg.reset := fun _ => rfl
  have ok : ∀ m, MatOk (([mPair, mDense .f32, mDense .s32] ++ List.replicate 13 MReg.reset).getD m MReg.reset) := fun m => by
    refine getD_all MatOk MReg.reset (show MatOk MReg.reset from ⟨rfl, rfl, rfl⟩) _ m fun x hx => ?_
    simp only [List.mem_append, List.mem_cons, List.not_mem_nil, or_false, List.mem_replicate] at hx
    rcases hx with (rfl | rfl | rfl) | ⟨-, rfl⟩
    · exact ⟨by decide, by decide, by decide, by decide, by decide⟩
    · exact ⟨by decide, by decide⟩
    · exact ⟨by decide, by decide⟩
    · exact ⟨rfl, rfl, rfl⟩
  simp only [kinds, List.mem_cons, List.not_mem_nil, or_false] at h
  rcases h with rfl | rfl | rfl | rfl | rfl | rfl | rfl | rfl | rfl | rfl | rfl <;> exact ⟨by decide +kernel, rfl, rfl,
    ⟨_, List.mem_cons_self .., by decide +kernel⟩, fun m => by rw [regs]; exact ok m, ⟨nofun, nofun, nofun⟩, by decide +kernel⟩

/-- State 18 is a shape record of 64 × 64 elements F32 at 0x4000; v4 holds 0x4000, v5 0x2000. -/
def sXfer : State :=
  (matrix [⟨4, 0x4000#32, .n32⟩, ⟨5, 0x2000#32, .n32⟩] [mDense .f32] [] []).editTeam 1 fun x => { x with
    scr := [(9216, 0x12#8), (9217, 2#8), (9218, 12#8), (9225, 0x40#8), (9248, 6#8), (9249, 64#8), (9256, 6#8), (9257, 64#8), (9344, 1#8), (9352, 2#8),
      (9360, 4#8), (9368, 8#8), (9376, 16#8), (9384, 32#8), (9392, 64#8), (9400, 128#8), (9409, 1#8), (9417, 2#8), (9425, 4#8), (9433, 8#8)] }
abbrev tXfer : Thread := sXfer.thread placedTid
theorem witness_MatrixTransfers :
    (Alone sXfer p tXfer ∧ Alone sXfer p96 tXfer ∧ Alone sXfer p128 tXfer ∧ Engines sXfer tXfer) ∧
    sXfer.engineFull tXfer .copy 1 = false ∧
    ((Instr.mstat p 254 15).wf = true ∧ sXfer.gate tXfer p .matrix [dst 254 false] [] = none) ∧
    ((Instr.mdrain p128 true true none 0 18 4 0).wf = true ∧ (Instr.mdrain p128 false false (some .sy) 0 18 255 0).wf = true ∧
      sXfer.preGate tXfer .matrix [] [srcR 2 4 noPerm] = none ∧ sXfer.preGate tXfer .matrix [] [] = none ∧ sXfer.mwaits tXfer.team (.drain 0 0) = false ∧
      sXfer.shapeFault (sXfer.team tXfer.team) (tsOf (sXfer.tsBytes tXfer.team 18)) (mshapeAt (sXfer.projected tXfer.team).1 0) = none ∧
      sXfer.mcheck tXfer.team (.drain 0 0) = none ∧ sXfer.srcVal tXfer p128 (srcR 2 4 noPerm) = 0x4000) ∧
    ((Instr.mfill p96 .s32 1 5 0x2000).wf = true ∧ (Instr.mspill p96 0 4 0).wf = true ∧ sXfer.preGate tXfer .matrix [] [srcR 1 5 noPerm] = none ∧
      sXfer.srcVal tXfer p96 (srcR 1 5 noPerm) + 0x2000 = 0x4000 ∧ 0x4000 + 16384 ≤ (sXfer.team tXfer.team).scratch ∧
      sXfer.mwaits tXfer.team (.fill 0 1 .s32) = false ∧ sXfer.mcheck tXfer.team (.fill 0 1 .s32) = none ∧
      sXfer.mwaits tXfer.team (.spill 0 0) = false ∧ sXfer.mcheck tXfer.team (.spill 0 0) = none) :=
  ⟨⟨alone_of (by decide +kernel), alone_of (by decide +kernel), alone_of (by decide +kernel), engines_of (by decide +kernel)⟩, by decide +kernel⟩
/-- An operation of MSTAT that stands for register 15, with nothing before it in the queue. -/
theorem witness_MatrixTransfers_status :
    let o : LongOp :=
      { id := 9, tid := placedTid, depth := 0, flag := some 0, writes := cells false 254 0 .n32, astat := 0#6, src := .matrix 15 9, acc := none,
        dead := false }
    let s := { matrix [] [mDense .f32] [] [] with ops := [o] }
    let t := s.thread placedTid
    Listed s t ∧ t.run ≠ .exited ∧ (s.team t.team).image = none ∧ s.ops.find? (fun x => x.id == o.id) = some o ∧ o.tid = t.id ∧ o.depth = t.depth ∧
    s.mqBusy t.id.core t.team 15 9 = false ∧ (s.team t.team).mregs.length = 16 :=
  ⟨listed_of (by decide +kernel), by decide +kernel⟩
theorem witness_MatrixTransfers_turn (fill : Bool) :
    let c := cmdOf .copy (if fill then .mfill 0 0x4000 .f32 else .mspill 0 0x4000) .queued
    let q : MOp := { id := 7, team := 1, falls := [], kind := if fill then .fill 9 0 .f32 else .spill 9 0 }
    let s := { matrix [] [mDense .f32] [] [q] with cmds := [c] }
    s.cmd? c.id = some c ∧ c.cls = .copy ∧ c.paused = false ∧ c.err = 0 ∧ fld s.sys.budcfg 0 1 = 0 ∧ (s.team c.team).state = .resident ∧
    (s.team c.team).scrBad = [] ∧ (s.team c.team).mregs.length = 16 ∧ s.mNext 0 = some q ∧ q.team = c.team ∧ c.pos = 0 ∧ c.snap = [] ∧
    ((s.team c.team).mregs.getD 0 MReg.reset).form = .dense := by
  cases fill <;> decide +kernel
theorem witness_MatrixTransfers_spill :
    let c := { cmdOf .copy (.mspill 0 0x4000) .running with snap := List.replicate 4096 { n := 0, v := 7, scale := 0 } }
    let s := withCmd c
    s.cmd? c.id = some c ∧ c.snap.length = 4096 ∧ Memory.wf (s.team c.team).scr = true :=
  ⟨rfl, List.length_replicate .., by decide +kernel⟩

/-! ### The system -/

theorem witness_SpecialRegisters :
    (Executes s0 p .any [dst 252 true] [] t0 ∧ Alone s0 p t0 ∧ Uncaptured s0 t0) ∧
    (Instr.srd p 0x046 252).wf = true ∧ (Instr.swr p 0x040 4).wf = true ∧ (0x040 : Nat) ≠ 0x080 ∧ (Instr.swr p 0x080 4).wf = true ∧
    s0.gate t0 p .any [] [srcP 1 4 noPerm] = none ∧ (Instr.clock p true 252).wf = true ∧ (Instr.perfq p true 252 14).wf = true ∧
    s0.gate t0 p .any [dst 252 true] [] = none ∧ t0.perf.length = 5 ∧
    (s0.team t0.team).state = .resident ∧ 0 < (s0.team t0.team).groups.length ∧ (s0.group t0.team 0).perf.length = 7 :=
  ⟨⟨executes_of (by decide +kernel), alone_of (by decide +kernel), by unfold Uncaptured; decide +kernel⟩, by decide +kernel⟩

/-- A guard on bit 0 of the clause's predicate, which is zero; and operands of each kind. -/
abbrev pGuard : Pre := { p with ge := true }
def tagsOf (g h : Tag) : State := at_ [⟨2, 5#32, g⟩, ⟨3, 5#32, h⟩]
theorem witness_ChecksAndGuards :
    (permuted pGuard = false ∧ Listed s0 t0 ∧ t0.id ∈ s0.issue ∧ s0.guard t0 pGuard = .ok false ∧ (Instr.fadd pGuard .rne 1 2 3 0).wf = true) ∧
    (let s := s0.editTeam 1 fun x => { x with groups := x.groups.map fun g => { g with role := { kind := 1, nr := 40 } } }
     let t := s.thread placedTid
     Issues s p t ∧ t.depth = 0 ∧ (s.roleOf t).kind = 1) ∧
    ((s0.roleOf t0).kind = 4 ∧ Issues s0 p t0 ∧ ¬((254 : Nat) = 255 ∨ 254 < 40)) ∧
    (let s := tagsOf .n32 .foreign; let t := s.thread placedTid
     Issues s p t ∧ 1 < s.nrOf t ∧ s.writePending t 1 = false ∧ (s.readReg t 2).2 = .n32 ∧ (s.readReg t 3).2 = .foreign) ∧
    (let s := tagsOf .f32 .foreign; let t := s.thread placedTid
     Issues s p t ∧ (s.readReg t 2).2 = .f32 ∧ (s.readReg t 3).2 = .foreign) ∧
    (Alone s0 p t0 ∧ (Instr.eret p).wf = true ∧ t0.depth = 0) :=
  ⟨⟨by decide, listed_of (by decide +kernel), by decide +kernel⟩, ⟨issues_of (by decide +kernel), by decide +kernel⟩,
    ⟨by decide +kernel, issues_of (by decide +kernel), by decide⟩, ⟨issues_of (by decide +kernel), by decide +kernel⟩,
    ⟨issues_of (by decide +kernel), by decide +kernel⟩, alone_of (by decide +kernel), by decide +kernel⟩

/-- Frames from physical address 0x20000 on, by a page that bypasses the L1; the placed thread at a depth, in a run state. -/
def framed (d : Nat) (r : Run) : State :=
  let s := at_ [⟨4, 7#32, .n32⟩]
  ({ s with
     tlb := { cluster := 0, ctx := 0, level := 3, vpn := 0, leaf := 0x240F, used := 0 } :: s.tlb
     threads := s.threads.map fun t => { t with depth := d, run := r, traps := List.replicate d trap0 } } : State).editCtx 0
    fun c => { c with trapfrm := 1#64, emuvec := 0x40#64, trapvec := 0x80#64 }
/-- The translations of `framed`. -/
def frameTlb : List TlbEntry :=
  [{ cluster := 0, ctx := 0, level := 3, vpn := 0, leaf := 0x240F, used := 0 }, { cluster := 0, ctx := 0, level := 3, vpn := 1, leaf := 0x100F, used := 0 }]
/-- They take each byte of the thread's two frames to its place, 64 to each of 256 blocks. -/
theorem frame_hits : ∀ i < 256, ∀ j < 64,
    (frameTlb.find? fun e => e.cluster == 0 && e.ctx == 0 && e.vpn == (64 * i + j) / 2 ^ pageBits e.level).any (fun e =>
      let x := leafXlat e.level e.leaf (64 * i + j)
      x.pa == 0x20000 + (64 * i + j) && x.apt == 0 && x.cache == 1 && x.w) = true := by decide +kernel
theorem open_of {s : State} {t : Thread} {d : Nat} (n : Nat)
    (h : n < 2 ∧ t.id.core / 4 = 0 ∧ (s.grid (s.team t.team).grid).ctx = 0 ∧
      (s.ctx 0).trapfrm.toNat / 2 ^ 30 % 2 ^ 25 * 2 ^ 30 + ((t.id.core * 64 + t.id.slot) * 2 + (d - 1)) * 8192 = n * 8192 ∧ s.tlb = frameTlb ∧
      (∀ k < 64, s.lineBad (0x20000 / 128 + n * 64 + k) = false) ∧ s.upd = [] ∧ s.l2.det = [] ∧ s.l1 = [] ∧ s.rev = [] ∧ Memory.wf s.mem = true ∧
      t.id.lane < 32) : FrameOpen s t d (0x20000 + n * 8192) := by
  obtain ⟨m, z, y, x, w, a, c, e, f, r, g, l⟩ := h
  refine ⟨fun k hk => ?_, by omega, c, e, f, fun k hk => ?_, g, l⟩
  · have q := frame_hits (n * 128 + k / 64) (by omega) (k % 64) (by omega)
    rw [show 64 * (n * 128 + k / 64) + k % 64 = n * 8192 + k by omega] at q
    obtain ⟨u, hu, h3⟩ := (Option.any_eq_true ..).mp q
    simp only [Bool.and_eq_true, beq_iff_eq] at h3
    rw [z, y, x]
    exact ⟨by omega, u, by rw [State.tlb?, w]; exact hu, by rw [h3.1.1.1]; omega, h3.1.1.2, h3.1.2, fun _ => h3.2, by simp [r]⟩
  · rw [show (0x20000 + n * 8192 + k) / 128 = 0x20000 / 128 + n * 64 + k / 128 by omega]
    exact a _ (by omega)
theorem witness_Exceptions :
    (Executes s0 p96 .any [] [] t0 ∧ (Instr.trap p96 65535 255).wf = true) ∧ Executes s0 p .any [] [srcP 1 4 noPerm] t0 ∧ (Instr.trap p 0 4).wf = true :=
  ⟨⟨executes_of (by decide +kernel), by decide⟩, executes_of (by decide +kernel), by decide⟩
/-- A trap at each vector, at level U and in a handler, and a service that a handler forwards. -/
theorem witness_Exceptions_entry (d c : Nat) (h : d = 0 ∧ c = 0x42 ∨ d = 1 ∧ c = 0x30 ∨ d = 1 ∧ c = 0x0D) :
    let r := { trap0 with cause := c }
    let s := framed d (.parked r)
    let t := s.thread placedTid
    Listed s t ∧ FrameOpen s t (t.depth + 1) (0x20000 + d * 8192) ∧ t.run = .parked r ∧ (s.team t.team).state = .resident ∧
    (s.team t.team).leaving = false ∧ t.depth < 2 ∧ ¬(r.cause = 0x0D ∧ r.detail = 0x8001) ∧ s.lowWritesPending t = false ∧
    (s.ctx 0).trapfrm.getLsbD 0 = true ∧ (s.grid (s.team t.team).grid).ctx = 0 ∧ s.flagMask t.id (t.depth + 1) = 0 ∧
    (s.ctx 0).emuvec.toNat / 32 % 2 ^ 50 * 32 = 0x40 ∧ (s.ctx 0).trapvec.toNat / 32 % 2 ^ 50 * 32 = 0x80 := by
  rcases h with ⟨rfl, rfl⟩ | ⟨rfl, rfl⟩ | ⟨rfl, rfl⟩
  · exact ⟨listed_of (by decide +kernel), open_of 0 (by decide +kernel), by decide +kernel⟩
  · exact ⟨listed_of (by decide +kernel), open_of 1 (by decide +kernel), by decide +kernel⟩
  · exact ⟨listed_of (by decide +kernel), open_of 1 (by decide +kernel), by decide +kernel⟩
/-- The return of a handler from a trap of its own lane, and from a logged access, with NEXT and without. -/
theorem witness_Exceptions_return (logged : Option Nat) (next : Bool) (h : logged = none ∨ logged = some 3) :
    let u := framed 1 .ready
    let s := { u with threads := u.threads.map (fun t => { t with traps := [{ trap0 with logged := logged }] })
                      mem := if next then memWrite u.mem (0x20000 + 4096 + 128 * 15 + 3) [1#8] else u.mem }
    let t := s.thread placedTid
    Alone s p t ∧ FrameOpen s t t.depth 0x20000 ∧ t.traps = [{ trap0 with logged := logged }] ∧ t.depth = 1 ∧ (Instr.eret p).wf = true ∧
    s.gate t p .levelE [] [] = none ∧ s.handlerQuiet t = true ∧ trap0.cause ≠ 0x16 ∧
    (number s.mem (owAt t 0x20000 15) 4).testBit 24 = next := by
  rcases h with rfl | rfl <;> cases next <;> exact ⟨alone_of (by decide +kernel), open_of 0 (by decide +kernel), by decide +kernel⟩
theorem witness_HandlerAccesses :
    let s := (framed 1 .ready).editCore 0 fun c => { c with partword := some 0x101020 }
    let t := s.thread placedTid
    Alone s p t ∧ FrameOpen s t t.depth 0x20000 ∧ t.depth = 1 ∧ (s.team t.team).state = .resident ∧ s.gate t p .levelE [dst 254 false] [] = none ∧
    s.gate t p .levelE [] [srcR 2 4 noPerm] = none ∧ s.gate t p .levelE [dst 254 false] [srcR 2 4 noPerm] = none ∧
    (Instr.owrd p 254 15).wf = true ∧ (Instr.owwr p 15 4).wf = true ∧
    (Instr.xrd p 254 (.imm 255)).wf = true ∧ (Instr.xwr p none 4 (.imm 16)).wf = true ∧ (Instr.xwr p (some .f16) 4 (.imm 15)).wf = true ∧
    16 < s.nrOf t ∧ s.writePending t 16 = false ∧
    (Instr.xflg p true 254 4).wf = true ∧ (Instr.xmrd p 254 15 4).wf = true ∧ s.mqBusy t.id.core t.team 15 s.fresh = false ∧
    (Instr.xmwr p .s32 true 15 4 4).wf = true ∧ s.gate t p .levelE [] [srcR 1 4 noPerm, srcR 2 4 noPerm] = none ∧
    s.mwaits t.team (.xmwr 15 7 7#32 .s32 true) = false ∧ s.engineFull t .mat 0 = false ∧ s.mcheck t.team (.xmwr 15 7 7#32 .s32 true) = none ∧
    s.srcVal t p (srcR 1 4 noPerm) = 7 :=
  ⟨alone_of (by decide +kernel), open_of 0 (by decide +kernel), by decide +kernel⟩

/-! ### Completions, rejected items, reports, the board -/

/-- A load of the placed thread that is complete, with flag 3. -/
def opDone : LongOp :=
  { id := 9, tid := placedTid, depth := 0, flag := some 3, writes := [⟨254, 0x80000000#32, .s32⟩], astat := stNX, src := .done, acc := none, dead := false }
/-- The placed thread, changed. -/
def alter (f : Thread → Thread) : State := { s0 with threads := s0.threads.map f }
theorem witness_CompletionsAndHeaders :
    (let s := { s0 with ops := [opDone] }
     Listed s t0 ∧ s.ops.find? (fun x => x.id == 9) = some opDone ∧ (s.team t0.team).image = none ∧ t0.run ≠ .exited) ∧
    (let s := alter fun t => { t with win := [⟨255, 7#32, 0xFF#32, .n32, 0⟩], clause := none }
     let t := s.thread placedTid
     Listed s t ∧ t.win = [⟨255, 7#32, 0xFF#32, .n32, 0⟩] ∧ t.clause = none ∧ (s.team t.team).image = none ∧ s.fabric.performing = [] ∧ t.depth = 0) ∧
    (let s := (framed 1 .ready).editThread placedTid fun t => { t with win := [⟨15, 7#32, 0xFF#32, .n32, 0⟩], clause := none }
     let t := s.thread placedTid
     Listed s t ∧ FrameOpen s t 1 0x20000 ∧ t.win = [⟨15, 7#32, 0xFF#32, .n32, 0⟩] ∧ t.clause = none ∧ (s.team t.team).image = none ∧
     s.fabric.performing = [] ∧ t.run ≠ .exited ∧ 0 < t.depth) ∧
    (let s := { alter fun t => { t with clause := none } with ops := [opDone] }
     let t := s.thread placedTid
     Listed s t ∧ NoneLogged s t ∧ (∀ o ∈ s.ops, ∀ a b, o.src ≠ .fabric a b) ∧ s.issue = [t.id] ∧ t.clause = none ∧ t.run = .ready ∧ t.win = [] ∧
     (∀ e ∈ s.log, e.forward = false) ∧ s.flagMask t.id t.depth &&& 8 ≠ 0 ∧ s.flagMask t.id t.depth &&& 4 = 0) :=
  ⟨⟨listed_of (by decide +kernel), by decide +kernel⟩, ⟨listed_of (by decide +kernel), by decide +kernel⟩,
    ⟨listed_of (by decide +kernel), open_of 0 (by decide +kernel), by decide +kernel⟩,
    listed_of (by decide +kernel), by unfold NoneLogged; decide +kernel, fun o h a b => by
      have : o = opDone := by simpa using h
      subst this; exact nofun, by decide +kernel⟩
/-- A header that waits for the load of another node, under flag 11. -/
theorem witness_CompletionsAndHeaders_far :
    let s := { alter fun t => { t with clause := none } with ops := [{ opDone with src := .fabric 1 1, flag := some 11 }] }
    let t := s.thread placedTid
    Listed s t ∧ NoneLogged s t ∧ s.issue = [t.id] ∧ t.run = .ready ∧ s.flagMask t.id t.depth &&& 2048 ≠ 0 ∧ (2048 : Nat).testBit 11 = true :=
  ⟨listed_of (by decide +kernel), by unfold NoneLogged; decide +kernel, by decide +kernel⟩

/-- A store of the placed thread to 0x10000, and the report it joined. -/
def key0 : ReportKey := { cluster := 0, ctx := 0, page := 1, cause := 0x10 }
def acc0 : Acc :=
  { sp := .g, elems := [(0, 0x10000)], elem := 4, kind := .store, ty := .n32, ord := .none, sc := .th, hint := .none, d := 0, data := leBytes 4 7, team := 1
    pc := 0x10000, words := [], len := .l64, clause := none }
def lane0 : LogLane := { tid := placedTid, depth := 0, flag := some 3, acc := acc0 }
def entry0 : LogEntry :=
  { id := 9, core := 0, ctx := 0, team := 1, slot := 0, pc := 0x10000, cause := 0x10, target := 0, lanes := [lane0], key := key0, forward := false, behind := false }
theorem witness_CompletionsAndHeaders_logged :
    let s := { alter fun t => { t with clause := none } with log := [entry0] }
    Listed s (s.thread placedTid) ∧ (∀ e ∈ s.log, e.forward = false) ∧ lane0 ∈ entry0.lanes ∧ lane0.flag = some 3 ∧ (8 : Nat).testBit 3 = true :=
  ⟨listed_of (by decide +kernel), by decide +kernel, by decide, rfl, by decide⟩

/-- A raw item with an opcode and a cause; guarded or not. -/
def raw (op cause : Nat) (ge : Bool) : RawItem := { len := .l64, op := op, ge := ge, gn := false, gb := 0, cause := cause }
theorem running_of {s : State} {g : Nat} (x : Grid) (h : s.grids.find? (fun y => y.id == g) = some x ∧ x.status = none) : Running s g := ⟨x, h⟩
theorem witness_RejectedItems :
    (Listed s0 t0 ∧ t0.id ∈ s0.issue ∧ (raw 0x0FF 4 false).cause = 4 ∧
      ((raw 0x0FF 1 true).op / 256 ≠ 2 ∧ s0.guard t0 (rawPre (raw 0x0FF 1 true) s0.ir.2) = .ok false) ∧
      ((raw 0x1FF 2 false).op / 256 = 1 ∧ s0.guard t0 (rawPre (raw 0x1FF 2 false) s0.ir.2) = .ok true ∧ s0.accessesOut t0 = false) ∧
      (raw 0x2FF 1 false).op / 256 = 2 ∧ s0.converged t0 1 = true) ∧
    (let s := { s0 with ops := [{ opDone with src := .port 1 1 }] }
     Listed s t0 ∧ s.accessesOut t0 = true) ∧
    (let s := inRun (.mgmt trap0)
     let t := s.thread placedTid
     Listed s t ∧ Running s (s.team t.team).grid ∧ (emulated 0x30 ∧ ¬emulated trap0.cause) ∧ t.run = .mgmt trap0 ∧ trap0.logged = none ∧
     (s.team t.team).image = none ∧ s.l1 = [] ∧ s.upd = []) :=
  ⟨⟨listed_of (by decide +kernel), by decide +kernel⟩, ⟨listed_of (by decide +kernel), by decide +kernel⟩,
    listed_of (by decide +kernel), running_of (placedGrid 1) (by decide +kernel), by unfold emulated; decide, by decide +kernel⟩
/-- An item of class 10 waits for lane 1 of its subgroup, which has not come to it. -/
theorem witness_RejectedItems_converge :
    let u := lanes [[], []]
    let s := { u with threads := u.threads.map fun t => if t.id.lane = 1 then { t with pc := t.pc + 32 } else t, issue := [placedTid] }
    let t := s.thread placedTid
    Listed s t ∧ t.id ∈ s.issue ∧ s.stands t 2 = false := ⟨listed_of (by decide +kernel), by decide +kernel⟩
/-- Of width 64, where the other home group stands there too and is not in the active set. -/
theorem witness_RejectedItems_held :
    let s := { s0 with
      threads := s0.threads ++ s0.threads.map (fun t => { t with id := { t.id with slot := 1 } })
      teams := s0.teams.map fun x => { x with slots := [0, 1], groups := x.groups ++ x.groups }
      grids := s0.grids.map fun g => { g with width := 3 } }
    let t := s.thread placedTid
    Listed s t ∧ t.id ∈ s.issue ∧ s.stands t 64 = true ∧ s.awake t 64 = false := ⟨listed_of (by decide +kernel), by decide +kernel⟩
theorem witness_RejectedItems_service :
    let r : TrapRec := { trap0 with cause := 0x0D, detail := 0x8001 }
    let s := { inRun (.parked r) with tlb := [tlb0] }
    let t := s.thread placedTid
    Listed s t ∧ Through s (t.id.core / 4) (s.grid (s.team t.team).grid).ctx 0x10008 0x10008 true ∧ HomeFree s 0x10008 8 ∧
    t.run = .parked r ∧ (32#64 : DWord).toNat % 32 = 0 ∧ Memory.wf s.mem = true :=
  ⟨listed_of (by decide +kernel), through_of tlb0 (by decide +kernel), homeFree_of (by decide +kernel), by decide +kernel⟩

theorem witness_FaultReports :
    (let s := { inRun (.faulted trap0) with reports := [{ key := key0, cmds := [], tids := [placedTid], grids := [] }] }
     let t := s.thread placedTid
     Listed s t ∧ Running s (s.team t.team).grid ∧ t.run = .faulted trap0 ∧ (∀ e ∈ s.log, e.key ≠ key0) ∧
     (key0.cause ≠ 0x14 ∧ key0.cause ≠ 0x15 ∧ key0.cause ≠ 0x16) ∧ (∀ x ∈ s.threads, x.run ≠ .logWait) ∧ s.l1 = [] ∧ s.upd = [] ∧ t.id.lane < 32) ∧
    (let s := { inRun .logWait with reports := [{ key := key0, cmds := [], tids := [], grids := [] }], log := [{ entry0 with lanes := [{ lane0 with acc := { acc0 with elems := [(0, 0x10008)] } }] }], tlb := [tlb0] }
     let t := s.thread placedTid
     Listed s t ∧ Through s (t.id.core / 4) (s.grid (s.team t.team).grid).ctx 0x10008 0x10008 true ∧ HomeFree s 0x10008 4 ∧
     t.run = .logWait ∧ acc0.data.length = 4 ∧ acc0.mis = false ∧ (s.team t.team).image = none ∧ Memory.wf s.mem = true) ∧
    (∀ stage < 3, let c := cmdOf .gath (.gather (gsRec 4)) (.faulted 0x10 0x10000 stage)
      c.aw = none ∧ Running (withCmd c) ((withCmd c).team c.team).grid ∧ (withCmd c).l1 = [] ∧ (withCmd c).upd = [] ∧ (withCmd c).reports = []) :=
  ⟨⟨listed_of (by decide +kernel), running_of (placedGrid 1) (by decide +kernel), by decide +kernel⟩,
    ⟨listed_of (by decide +kernel), through_of tlb0 (by decide +kernel), homeFree_of (by decide +kernel), by decide +kernel⟩,
    fun _ _ => ⟨rfl, show Running s0 (s0.team 1).grid from running_of (placedGrid 1) (by decide +kernel), rfl, rfl, rfl⟩⟩

/-- A running board on which bring-up has done some steps, with modules and links as they are after reset. -/
def upTo (n : Nat) : State :=
  let s := State.reset
  { s with board := { s.board with held := false, tripped := false, modules := [16, 32] }, sys := { s.sys with bootstat := BitVec.ofNat 64 n } }
theorem witness_ResetAndBringUp :
    (let b := { State.reset.board with rails := [1, 2, 3, 4, 5] }; b.rails = [1, 2, 3, 4, 5]) ∧
    (let b := { State.reset.board with rails := [] }; b.rails ≠ [1, 2, 3, 4, 5]) ∧ State.reset.l2.writes = [] ∧
    (∀ n < 10, let s := upTo n
      s.board.held = false ∧ s.board.tripped = false ∧ bits s.sys.bootstat 32 8 = 0 ∧ bits s.sys.bootstat 0 4 = n ∧ s.board.meas.length = 8 ∧
      s.board.d2dTrains < 2 ^ 28 ∧ s.board.fpTrains < 2 ^ 48 ∧ s.board.modules ≠ []) := by decide +kernel
/-- Panels 0 and 7 reach each other through panel 3 alone; with no link of panel 7 they do not. -/
theorem witness_ResetAndBringUp_links :
    reached (2 ^ d2dLink 0 3 + 2 ^ d2dLink 3 7) 0 7 ∧ d2dLink 0 1 = 0 ∧ d2dLink 6 7 = 27 ∧ ¬reached 0 0 7 := by
  refine ⟨.inr ⟨3, by decide, by decide, by decide, ?_, ?_⟩, by decide, by decide, ?_⟩
  · unfold linked; decide
  · unfold linked; decide
  · rintro (h | ⟨c, -, -, -, h, -⟩) <;> simp [linked] at h
theorem witness_PowerAndSideband :
    (let s := upTo 10
     s.board.held = false ∧ s.board.tripped = false ∧ s.board.volts.length = 8 ∧ 2 ≤ bits s.sys.bootstat 0 4 ∧
     bits s.sys.pwrcap 0 16 < 65536 ∧ bits s.sys.clkstep 0 4 < 8 ∧ s.board.hottest < 1600 ∧ s.time.ns / 1000000 ≤ s.tickStart ∧
     bits s.sys.thermstat 24 8 < 8) ∧
    (let s := { upTo 10 with time := { (upTo 10).time with ns := 1000000 } }
     s.tickStart < s.time.ns / 1000000 ∧ s.board.thermMs < s.time.ns / 1000000) := by decide +kernel

/-! ### The fabric -/

/-- Every memory link in service, one fabric port, node 5; the inbound table at 0x60000 permits every kind of access to addresses below
0x40000, the routes at 0x70000 lead to node 6 by port 0, context 0's table at 0x40000 maps each address to itself by one page of level 1,
and the launch access list at 0x68000 permits node 6 in context 0. -/
def onFabric (regs : List RegCell) : State :=
  let s := at_ regs
  { s with
    sys := { s.sys with
      mlstat := 0xFFFFFFFFFFFFFFFF#64, fpstat := 1#64, nodeid := 5#64, fpintab := 0x60001#64, fprtab := 0x70001#64, ctxtab := 0x40001#64
      lacl := 0x68001#64, parttab := 0x69001#64, bootstat := 10#64 }
    mem := [(0x40000, 0x01#8), (0x40001, 0x50#8), (0x50000, 0x0F#8), (0x50001, 0x04#8),
      (0x6000A, 0x04#8), (0x60010, 0xFF#8), (0x60011, 0xFF#8), (0x60012, 0x0F#8), (0x68000, 6#8), (0x68007, 0x80#8), (0x69000, 1#8), (0x70030, 1#8)] }
/-- A packet from node 6 with its own tag. -/
def from6 (typ cls len aux addr : Nat) (data : List Byte) : Packet :=
  let k : Packet := { dst := 5, src := 6, typ := typ, cls := cls, len := len, hot := false, rsv := false, tag := 77, addr := addr, ctx := 0,
                      bmask := 2 ^ 32 - 1, aux := aux, etag := 0, data := data }
  { k with etag := etagOf k }
theorem arrives_of {s : State} {n : Nat} {k : Packet}
    (h : (k.ok && s.sys.fpstat.toNat.testBit n && decide (k.dst = bits s.sys.nodeid 0 16) && decide (bits s.sys.nodeid 0 16 ≠ 0xFFFF) && !malformed k &&
      (!k.hot || !s.sys.hotcfg.toNat.testBit 0)) = true) : Arrives s n k := by
  simp only [Bool.and_eq_true, Bool.or_eq_true, Bool.not_eq_true', decide_eq_true_eq] at h
  exact ⟨h.1.1.1.1.1, h.1.1.1.1.2, h.1.1.1.2, h.1.1.2, h.1.2, h.2⟩
abbrev sF : State := onFabric []
def kRead : Packet := from6 0x01 0 0 8 0x10000 []
def kWrite : Packet := { from6 0x03 0 1 0 0x10020 (List.replicate 32 9#8) with bmask := 3, etag := etagOf { from6 0x03 0 1 0 0x10020 (List.replicate 32 9#8) with bmask := 3 } }
def kAtom : Packet := from6 0x05 0 1 (8 * 9) 0x10008 (leBytes 8 5 ++ zeros 24)
def kCredit : Packet := from6 0x08 0 0 256 0x10010 []
/-- Bytes that lie in good lines where no memory link retrains. -/
theorem plain_of {s : State} {a n : Nat} (h : s.upd = [] ∧ s.l2.det = [] ∧ s.board.mlRetry = [] ∧ Memory.wf s.mem = true ∧
    ∀ i < n / 128 + 2, s.lineBad (a / 128 + i) = false) : Plain s a n := by
  obtain ⟨h1, h2, h3, h4, h5⟩ := h
  refine ⟨h1, h2, fun i hi => ?_, fun i _ => by simp [State.homeWaits, State.linkBusy, h3], h4⟩
  have := h5 ((a + i) / 128 - a / 128) (by omega)
  rwa [show a / 128 + ((a + i) / 128 - a / 128) = (a + i) / 128 by omega] at this
theorem first_of {s : State} {k : Packet} (h : s.fabric.performing = [] ∧ s.fabric.dups = []) : First s k := ⟨by simp [h.1], by simp [h.2]⟩
theorem witness_FabricRequests (k : Packet) (h : k = kRead ∨ k = kWrite ∨ k = kAtom ∨ k = kCredit) :
    Arrives sF 0 k ∧ Arrives sF 0 { k with etag := k.etag + 1 } ∧ First sF k ∧ Plain sF k.addr 256 ∧ Unrecorded sF ∧
    (let d : DupRec := { src := 6, tag := 77, resp := kRead, til := 1 }
     let s := { sF with fabric := { sF.fabric with dups := [d] } }
     Arrives s 0 k ∧ s.fabric.dups.find? (fun x => x.src == k.src && x.tag == k.tag && decide (s.time.ns < x.til)) = some d ∧
     ∀ q ∈ s.fabric.performing, ¬(q.pkt.src = k.src ∧ q.pkt.tag = k.tag)) ∧
    (let s := { sF with sys := { sF.sys with fpintab := 0#64 } }
     Arrives s 0 k ∧ First s k ∧ ∀ b < 4, s.permits k b = false) ∧
    k.etag = etagOf k ∧ k.addr < 0xFFFFF00000000 ∧ (∀ b < 4, sF.permits k b = true) ∧ (k = kCredit → k.addr % 16 = 0) ∧
    AtOp.ofCode? (kAtom.aux % 8) = some .add ∧ leNat (kAtom.data.take 8) = 5 ∧ kAtom.addr % 128 + 8 ≤ 128 ∧
    { k with etag := k.etag + 1 }.etag ≠ etagOf { k with etag := k.etag + 1 } := by
  rcases h with rfl | rfl | rfl | rfl <;> exact ⟨arrives_of (by decide +kernel), arrives_of (by decide +kernel), first_of (by decide +kernel),
    plain_of (by decide +kernel), by unfold Unrecorded; decide +kernel, ⟨arrives_of (by decide +kernel), by decide +kernel⟩,
    ⟨arrives_of (by decide +kernel), first_of (by decide +kernel), by decide +kernel⟩, by decide +kernel⟩

/-- A lossy word at 0x4000: TARGET 512, the region of two blocks at 0x5000, the masks at 0x7000. -/
def entryL (expiry : Nat) : LossyEntry := { loc := .scr 1 0x4000, region := 0x5000, size := 512, maskAt := 0x3000, expiry := expiry, ctx := 0, grid := 1 }
def lossy (expiry : Nat) : State :=
  let s := sF.editTeam 1 fun t => { t with scr := [(0x4001, 2#8), (0x4011, 0x50#8)] }
  { s with fabric := { s.fabric with lossy := [entryL expiry] } }
def kLossy (gen : Nat) : Packet := from6 0x03 1 8 (gen * 2 ^ 16) 0x5100 (List.replicate 256 9#8)
theorem crcBit_lt {c b : Nat} (h : c < 2 ^ 64) : crcBit c b < 2 ^ 64 := by
  unfold crcBit
  split
  · exact Nat.xor_lt_two_pow (by omega) (by decide)
  · omega
theorem crcBits_lt (x : Nat) : ∀ (n c : Nat), c < 2 ^ 64 → crcBits x n c < 2 ^ 64
  | 0, _, h => h
  | n + 1, c, h => crcBit_lt (crcBits_lt x n c h)
theorem crcBytes_lt : ∀ (l : List Byte) (c : Nat), c < 2 ^ 64 → crcBytes c l < 2 ^ 64
  | [], _, h => h
  | b :: l, c, h => crcBytes_lt l _ (crcBits_lt b.toNat 8 c h)
/-- A tag has 64 bits. -/
theorem etagOf_lt (k : Packet) : etagOf k < 2 ^ 64 :=
  Nat.xor_lt_two_pow (crcBytes_lt _ _ (crcBits_lt _ _ _ (crcBits_lt _ _ _ (crcBits_lt _ _ _ (crcBits_lt _ _ _ (by decide)))))) (by decide)
/-- A packet of the form keeps it with its own tag. -/
theorem ok_tag (k : Packet) (h : k.ok = true) : Packet.ok { k with etag := etagOf k } = true := by
  simp only [Packet.ok, Bool.and_eq_true, decide_eq_true_eq] at h ⊢
  exact ⟨⟨h.1.1, etagOf_lt k⟩, h.2⟩
/-- The packet before its tag. -/
def bare (gen : Nat) : Packet :=
  { dst := 5, src := 6, typ := 0x03, cls := 1, len := 8, hot := false, rsv := false, tag := 77, addr := 0x5100, ctx := 0, bmask := 2 ^ 32 - 1
    aux := gen * 2 ^ 16, etag := 0, data := List.replicate 256 9#8 }
theorem kLossy_eq (g : Nat) : kLossy g = { bare g with etag := etagOf (bare g) } := rfl
theorem tag_eq (k : Packet) : etagOf { k with etag := etagOf k } = etagOf k := rfl
theorem kLossy_tag (g : Nat) : (kLossy g).etag = etagOf (kLossy g) := by rw [kLossy_eq, tag_eq]
theorem lossy_arrives (g : Nat) (h : g < 2) (s : State) (a : s.sys.fpstat.toNat.testBit 0 = true) (b : bits s.sys.nodeid 0 16 = 5) :
    Arrives s 0 (kLossy g) := by
  refine ⟨by rw [kLossy_eq]; exact ok_tag _ (by rcases (show g = 0 ∨ g = 1 by omega) with rfl | rfl <;> decide +kernel), a, by rw [b]; rfl, by rw [b]; decide, ?_,
    .inl rfl⟩
  rcases (show g = 0 ∨ g = 1 by omega) with rfl | rfl <;> decide +kernel
theorem word_of {s : State} {e : LossyEntry} {team o R M : Nat}
    (h : e.loc = .scr team o ∧ (s.team team).state = .resident ∧ Memory.wf (s.team team).scr = true ∧ (s.team team).scrBad = [] ∧
      R = number (s.team team).scr (o + 16) 8 ∧
      ((o : Int) + (if e.maskAt < 2 ^ 31 then (e.maskAt : Int) else (e.maskAt : Int) - 2 ^ 32)) = (M : Int) ∧ e.maskAt < 2 ^ 32 ∧ e.size % 256 = 0 ∧
      (R + e.size ≤ o ∨ o + 32 ≤ R) ∧ (M + 2 * bitmapBytes e.size ≤ o ∨ o + 32 ≤ M) ∧ (M + 2 * bitmapBytes e.size ≤ R ∨ R + e.size ≤ M)) :
    LossyWord s e team o R M := by
  obtain ⟨h1, h2, h3, h4, h5, h6, h7, h8, h9, ha, hb⟩ := h
  exact ⟨h1, h2, h3, h4, h5, h6, h7, h8, h9, ha, hb⟩
theorem witness_LossyBlocks :
    (∀ x < 2, let s := lossy x
      LossyWord s (entryL x) 1 0x4000 0x5000 0x7000 ∧ Unrecorded s ∧ s.fabric.lossy.find? (fun y => y.region == (entryL x).region) = some (entryL x) ∧
      (x = 0 → x ≤ s.time.ns) ∧ (x = 1 → s.time.ns < x) ∧ number (s.team 1).scr 0x4004 4 < number (s.team 1).scr 0x4000 4) ∧
    (∀ g < 2, let s := lossy 0
      Arrives s 0 (kLossy g) ∧ (kLossy g).etag = etagOf (kLossy g) ∧ s.permits (kLossy g) 3 = true ∧
      s.fabric.lossy.find? (fun y => decide (y.region ≤ (kLossy g).addr) && decide ((kLossy g).addr < y.region + y.size)) = some (entryL 0) ∧
      ((kLossy g).addr - 0x5000) / 256 = 1 ∧ (kLossy g).aux / 2 ^ 16 % 256 = g ∧ number (s.team 1).scr 0x4008 4 = 0 ∧
      maskBitAt s 1 0x7000 512 1 1 = false) := by
  refine ⟨fun x hx => ?_, fun g hg => ?_⟩
  · rcases (show x = 0 ∨ x = 1 by omega) with rfl | rfl <;>
      exact ⟨word_of (by decide +kernel), by unfold Unrecorded; decide +kernel, by decide +kernel⟩
  · rcases (show g = 0 ∨ g = 1 by omega) with rfl | rfl <;>
      exact ⟨lossy_arrives _ (by decide) _ (by decide +kernel) (by decide +kernel), kLossy_tag _, by decide +kernel⟩

/-- A request to node 6 that is out, sent some times. -/
def req0 (typ aux sends : Nat) (why : ReqFor) : Req :=
  { dst := 6, tag := 77, pkt := { from6 typ 0 (if typ = 3 then 1 else 0) aux 0x10000 (if typ = 3 then zeros 32 else []) with dst := 6, src := 5 }, sentAt := 0
    sends := sends, why := why }
def asking (r : Req) : State := { sF with fabric := { sF.fabric with reqs := [r] } }
def kAck (status : Nat) : Packet := from6 0x04 0 0 status 0 []
def kData : Packet := from6 0x02 0 1 0 0 (List.replicate 32 9#8)
def kNack : Packet := from6 0x07 0 0 0 0 []
theorem asked_of {s : State} {n : Nat} {k : Packet} {r : Req} (a : Arrives s n k)
    (h : s.fabric.reqs = [r] ∧ r.dst = k.src ∧ r.pkt.tag = k.tag ∧ 0 < r.sends ∧ r.pkt.cls = k.cls ∧
      (k.typ = 0x02 ∧ r.pkt.typ = 0x01 ∨ k.typ = 0x04 ∧ (r.pkt.typ = 0x03 ∨ r.pkt.typ = 0x08) ∨ k.typ = 0x06 ∧ r.pkt.typ = 0x05 ∨ k.typ = 0x07)) :
    Asked s n k r := by
  obtain ⟨h1, h2, h3, h4, h5, h6⟩ := h
  exact ⟨a, h1, h2, h3, h4, h5, h6⟩
theorem witness_FabricResponses :
    (∀ st < 2, let r := req0 0x03 0 1 (.store 1 0)
      let s := asking r
      Asked s 0 (kAck st) r ∧ Unrecorded s ∧ HasGroup s 1 0 ∧ (kAck st).etag = etagOf (kAck st) ∧ Machine.counted r.pkt = true ∧ s.l1 = [] ∧
      (s.team 1).state ≠ .evicted) ∧
    (let r := req0 0x01 1 1 (.op 9)
     let o := { opDone with src := .fabric 6 77, acc := some { acc0 with kind := .load true } }
     let s := { asking r with ops := [o] }
     Asked s 0 kData r ∧ Unrecorded s ∧ (∃ leaf, (s.walk (s.ctxOf (s.thread o.tid)) 0x10000).2 = .leaf 1 leaf ∧ leaf.toNat / 2 ^ 10 % 4 ≠ 0) ∧
     kData.etag = etagOf kData ∧ kData.len = r.pkt.aux ∧ s.ops.find? (fun x => x.id == o.id) = some o) ∧
    (∀ n < 5, 0 < n → let r := req0 0x01 1 n (.op 9)
      Asked (asking r) 0 kNack r ∧ ((asking r).firstHop r.pkt).isSome = true) ∧
    (let k := from6 0x11 2 0 1 0 []
     Arrives sF 0 k ∧ k.typ = 0x11) ∧
    (let s := { asking (req0 0x03 0 5 (.store 1 0)) with time := { ns := 20000, cyc := 0, frac := 0 } }
     s.fabric.reqs = [req0 0x03 0 5 (.store 1 0)] ∧ 0 + 20000 ≤ s.time.ns ∧ (77 : Nat) < 2 ^ 24 ∧ bits s.sys.nodeid 0 16 ≠ 0xFFFF) := by
  refine ⟨fun st h => ?_, ?_, fun n h h0 => ?_, ⟨arrives_of (by decide +kernel), rfl⟩, by decide +kernel⟩
  · rcases (show st = 0 ∨ st = 1 by omega) with rfl | rfl <;>
      exact ⟨asked_of (arrives_of (by decide +kernel)) (by decide +kernel), by unfold Unrecorded; decide +kernel, by unfold HasGroup; decide +kernel,
        by decide +kernel⟩
  · exact ⟨asked_of (arrives_of (by decide +kernel)) (by decide +kernel), by unfold Unrecorded; decide +kernel,
      ⟨0x40F#64, by decide +kernel⟩, by decide +kernel⟩
  · rcases (show n = 1 ∨ n = 2 ∨ n = 3 ∨ n = 4 by omega) with rfl | rfl | rfl | rfl <;>
      exact ⟨asked_of (arrives_of (by decide +kernel)) (by decide +kernel), by decide +kernel⟩

/-- A bolt with links trained on ports 1 and 3, a route to node 6 by port 3, these cables, and these packets held; it is node 8. -/
def bolt (l : List BoltPkt) (cables : List (Nat × Nat)) : Bolt :=
  { id := 4, node := 8, mem := [], dups := [], cables := cables, seq := 9, held := l, routes := [(6, [3])], trained := 0b1010, sent := [], discards := 0 }
def heldPkt (seq dst cls addr : Nat) : BoltPkt :=
  { seq := seq, ingress := 0, vc := 0, pkt := { kRead with dst := dst, cls := cls, addr := addr }, since := 0, via := none }
/-- A packet that waits on port 1, for node 6. -/
def k6 : Packet := { kRead with dst := 6 }
theorem witness_LinksAndBolts :
    (sF.sys.mlstat.toNat.testBit 63 = true ∧ (let s := { sF with board := { sF.board with mlRetry := [(63, 16)], capacity := 16 } }
      (63, 16) ∈ s.board.mlRetry ∧ 0 < s.board.capacity)) ∧
    (sF.sys.fpstat.toNat.testBit 0 = true ∧ (sF.port 0).queue = [] ∧ (sF.port 0).credits.length = 4 ∧ vcOf kRead ≠ 2) ∧
    (let s := { sF with sys := { sF.sys with fpstat := 3#64 }, fabric := { sF.fabric with ports := [{ sF.port 1 with queue := [(vcOf k6, k6)] }] } }
     (s.port 1).queue = [(vcOf k6, k6)] ∧ (s.routeMask 6).testBit 0 = true ∧ s.sys.fpstat.toNat.testBit 0 = true) ∧
    (let x := heldPkt 0 6 0 0x1000
     let b := bolt [x] [(0, 3)]
     let s := { sF with fabric := { sF.fabric with bolts := [b] } }
     s.fabric.bolts = [b] ∧ s.time.ns < x.since + 10000 ∧ x.pkt.dst ≠ b.node ∧ x.via = none ∧ b.trained.testBit 3 = true ∧ (6, [3]) ∈ b.routes ∧
     3 ∈ [3] ∧ b.trained.testBit 0 = false ∧ b.sent = []) ∧
    (bolt [heldPkt 0 0xFFFF 2 1] []).trained.testBit (1 % 64) = true ∧ (bolt [heldPkt 0 0xFFFF 2 2] []).trained.testBit (2 % 64) = false ∧
    (heldPkt 0 6 0 0x1000).pkt.addr / 128 = (heldPkt 1 6 0 0x1010).pkt.addr / 128 ∧ (heldPkt 0 6 0 0x1000).seq < (heldPkt 1 6 0 0x1010).seq := by
  decide +kernel
/-- Requests for a bolt's own banks. -/
theorem witness_LinksAndBolts_own (k : Packet)
    (h : k = { from6 0x01 0 0 1 0 [] with dst := 8, etag := etagOf { from6 0x01 0 0 1 0 [] with dst := 8 } } ∨
      k = { from6 0x03 0 2 0 0 (zeros 64) with dst := 8, etag := etagOf { from6 0x03 0 2 0 0 (zeros 64) with dst := 8 } }) :
    let b := bolt [{ heldPkt 0 8 0 0 with pkt := k }] []
    k.dst = b.node ∧ k.cls = 0 ∧ k.etag = etagOf k ∧ b.dups = [] ∧
    (k.typ = 0x01 ∨ k.typ = 0x03 ∧ 1 < k.len ∧ Memory.wf b.mem = true ∧ k.data.length = 32 * k.len) := by
  rcases h with rfl | rfl <;> decide +kernel

/-! ### Scheduling -/

/-- Two placed threads at headers, the second in lane 1 at a PC; their group in the active set. -/
def two (pc : Nat) : State :=
  let s := at_ []
  let t := (s.thread placedTid)
  ({ s with
     issue := []
     threads := [{ t with clause := none }, { t with clause := none, id := { t.id with lane := 1 }, pc := pc, lastIssue := 0 }] } : State).editCore 0
    fun c => { c with active := [(0, 0)] }
theorem two_of {s : State} {core : Nat} {t u : Thread}
    (h : s.threads = [t, u] ∧ t.id ≠ u.id ∧ (∀ x ∈ [t, u], x.id.core = core ∧ x.id.lane < 32 ∧ x.run = .ready ∧ x.clause = none ∧
      (s.team x.team).state = .resident ∧ (s.team x.team).leaving = false ∧ (x.id.slot, 0) ∈ (s.core core).active ∧ x.depth = 0 ∧
      (s.grid (s.team x.team).grid).determ = false) ∧ (s.core core).moves = [] ∧ s.log = [] ∧ s.issue = []) : TwoThreads s core t u := by
  obtain ⟨a, b, c, d, e, f⟩ := h
  have st : ∀ x ∈ [t, u], Stands s core x := fun x hx => by
    obtain ⟨h1, h2, h3, h4, h5, h6, h7, h8, -⟩ := c x hx
    exact ⟨h1, h2, h3, h4, h5, h6, ⟨0, h7⟩, h8⟩
  have pl : ∀ x ∈ [t, u], (s.grid (s.team x.team).grid).determ = false := fun x hx => (c x hx).2.2.2.2.2.2.2.2
  exact ⟨a, b, st t (by simp), st u (by simp), d, e, f, pl t (by simp), pl u (by simp)⟩
theorem entries_of {s : State} {core : Nat} {t u : Thread} {e f : Entry} (a : TwoThreads s core t u)
    (h : s.entries = [e, f] ∧ (e.core = core ∧ f.core = core) ∧ (e.members = [t.id] ∧ f.members = [u.id]) ∧ e.id ≠ f.id ∧
      (e.set, e.way) ≠ (f.set, f.way)) : TwoEntries s core t u e f := by
  obtain ⟨h1, h2, h3, h4, h5⟩ := h
  exact ⟨a, h1, h2, h3, h4, h5⟩
def ent (way lane : Nat) (aged : Nat) : Entry :=
  { id := 70 + way, core := 0, set := 0, way := way, ctx := 0, pc := 0x10000 + 4 * way, members := [{ placedTid with lane := lane }], since := 0, aged := aged }
/-- The same with an entry of its own for each, the first aged a, the second b; slot 0 has issued r times from the first. -/
def entered (a b : Nat) (r : Option Nat) : State :=
  ({ two 0x10004 with entries := [ent 0 0 a, ent 1 1 b] } : State).editCore 0 fun c => { c with slot0 := { entry := r.map fun _ => 70, run := r.getD 0 } }
theorem witness_IssueScheduling :
    (∀ pc, pc = 0x10000 ∨ pc = 0x10004 → let s := two pc
      TwoThreads s 0 (s.thread placedTid) (s.thread { placedTid with lane := 1 }) ∧ s.entries = []) ∧
    (∀ x, x ∈ [(0, 5, (none : Option Nat)), (5, 0, none), (0, 5, some 63), (0, 5, some 64)] →
      let s := entered x.1 x.2.1 x.2.2
      TwoEntries s 0 (s.thread placedTid) (s.thread { placedTid with lane := 1 }) (ent 0 0 x.1) (ent 1 1 x.2.1) ∧ ((s.core 0).slotOf 1).entry = none ∧
      ((s.core 0).slotOf 0).entry = (x.2.2.map fun _ => (ent 0 0 x.1).id) ∧ effOf s (ent 0 0 x.1) (s.thread placedTid) = x.1 ∧
      effOf s (ent 1 1 x.2.1) (s.thread { placedTid with lane := 1 }) = x.2.1) ∧
    (let s := entered 0 0 none
     let s' := { s with threads := s.threads.map fun t => { t with lastIssue := if t.id.lane = 0 then 4000 else 0, readySince := 0 }, time := { ns := 0, cyc := 4096, frac := 0 } }
     let t := s'.thread placedTid
     let u := s'.thread { placedTid with lane := 1 }
     TwoEntries s' 0 t u (ent 0 0 0) (ent 1 1 0) ∧ s'.time.cyc < max t.lastIssue t.readySince + 4096 ∧ max u.lastIssue u.readySince + 4096 ≤ s'.time.cyc ∧
     t.id.slot = u.id.slot ∧ t.pc ≠ u.pc ∧ max u.lastIssue u.readySince < t.lastIssue) := by
  refine ⟨fun pc h => ?_, fun x h => ?_, entries_of (two_of (by decide +kernel)) (by decide +kernel), by decide +kernel⟩
  · rcases h with rfl | rfl <;> exact ⟨two_of (by decide +kernel), by decide +kernel⟩
  · simp only [List.mem_cons, List.not_mem_nil, or_false] at h
    rcases h with rfl | rfl | rfl | rfl <;> exact ⟨entries_of (two_of (by decide +kernel)) (by decide +kernel), by decide +kernel⟩

/-- Five groups of 32 KiB, four of them active: slot 0 of a team of a priority, its thread in a run state, slots 1 to 4 of another
team; the fifth is ready in the slow file. -/
def five (prio : Nat) (r : Run) : State :=
  let s := at_ []
  let t := s.thread placedTid
  let g := Group.fresh { kind := 4, nr := 255 }
  let tm := s.team 1
  ({ s with
     threads := { t with run := r } :: (List.range 4).map fun k => { t with id := { t.id with slot := k + 1 }, team := 2 }
     teams := [{ tm with prio := prio }, { tm with id := 2, prio := 5, slots := [1, 2, 3, 4], groups := [g, g, g, g] }]
     time := { ns := 0, cyc := 65536, frac := 0 } } : State).editCore 0
    fun c => { c with active := [(0, 0), (1, 0), (2, 0), (3, 0)], slow := [(4, 0, 0)] }
theorem witness_ActiveSet :
    (let s := (five 0 .ready).editCore 0 fun c => { c with active := [(0, 0), (1, 0), (2, 0)] }
     (s.core 0).slow = [(4, 0, 0)] ∧ s.groupReady 0 4 = true ∧ ((s.core 0).active.map (·.1)).Nodup ∧ (s.core 0).active.length < 16 ∧
     ((s.core 0).active.map fun a => s.slotKib 0 a.1).sum + s.slotKib 0 4 ≤ 128 ∧ (∀ a ∈ (s.core 0).active, s.groupStopped 0 a.1 = false)) ∧
    (∀ r, r = .ready ∨ r = .blocked .bar 8 none → let s := five 0 r
     (s.core 0).slow = [(4, 0, 0)] ∧ s.groupReady 0 4 = true ∧ ((s.core 0).active.map (·.1)).Nodup ∧
     128 < ((s.core 0).active.map fun a => s.slotKib 0 a.1).sum + s.slotKib 0 4 ∧
     (s.core 0).moves = [] ∧ (r ≠ .ready → ∀ b ∈ (s.core 0).active, s.groupStopped 0 b.1 = true ↔ b = (0, 0)) ∧
     (r = .ready → ∀ b ∈ (s.core 0).active, s.groupStopped 0 b.1 = false)) ∧
    (let s := five 0 .ready
     s.coreDeterm 0 = false ∧ s.entries = [] ∧ (s.core 0).lastQuantum + 65536 ≤ s.time.cyc ∧
     (∀ b ∈ (s.core 0).active, b ≠ (0, 0) → s.slotPrio 0 0 < s.slotPrio 0 b.1) ∧ s.slotPrio 0 0 ≤ min 127 (s.slotPrio 0 4 + 0) ∧
     (s.core 0).active.length ≤ 16 ∧ ((s.core 0).active.map fun b => s.slotKib 0 b.1).sum + s.slotKib 0 4 ≤ 128 + s.slotKib 0 0) ∧
    (∀ into : Bool, let s := (five 0 .ready).editCore 0 fun c => { c with moves := [{ slot := 5, into := into, til := 65536 }] }
      (s.core 0).moves = [{ slot := 5, into := into, til := 65536 }] ∧ 65536 ≤ s.time.cyc ∧
      ∀ t ∈ s.threads, t.id.core = 0 → t.id.slot = 5 → t.clause = none) :=
  ⟨by decide +kernel, fun r h => by rcases h with rfl | rfl <;> decide +kernel, by decide +kernel⟩

/-! ### Placement, eviction, launches, capture -/

/-- A grid of one team with nothing placed, in cluster 0. -/
def pendingGrid : Grid := { placedGrid 1 with partword := 0x101020, nextTeam := 0, args := 0x100000002#64 }
def toPlace : State := { sF with grids := [pendingGrid], teams := [], threads := [] }
def bobbin0 : Bobbin :=
  { index := 0, ctx := 0, entry := 0x10000, grid := 1, opened := 0, timer := 0, nr := 16, prio := 0, idem := false, privWords := 0, scratch := 16384, featmask := 0
    partword := 0x101020, kids := [7#64] }
theorem witness_Placement :
    (let s := toPlace
     (∀ j, j / 128 = 0 → j < 0 → pendingGrid.clusters.testBit (j / 4) = false) ∧ s.grids = [pendingGrid] ∧ s.teams = [] ∧ s.threads = [] ∧
     pendingGrid.status = none ∧ pendingGrid.privWords = 0 ∧ pendingGrid.nextTeam = 0 ∧ 0 < pendingGrid.teams ∧
     pendingGrid.clusters.testBit (0 / 4) = true ∧ (s.panel 0).lastPlaced = none ∧
     s.sys.savepool.toNat.testBit 0 = false ∧ (footprint pendingGrid.roles pendingGrid.scratch).fits pendingGrid.partword = true) ∧
    (∀ o < 2, let s := { sF with bobbins := [(0, { bobbin0 with opened := o })] }
      (s.grid 1).determ = false ∧ (s.grid 1).capture = false ∧ (o = 0 → o + 0 ≤ s.time.cyc) ∧ (o = 1 → s.time.cyc < o + 0)) :=
  ⟨⟨fun j _ h => absurd h (by omega), by decide +kernel⟩, by decide +kernel⟩

/-- A team of 16 KiB whose one thread waits for its operand log, with a save area; and one as large that has woken. -/
def teamA (st : TeamState) : Team :=
  { placedTeam 1 1 with state := st, groups := [Group.fresh { kind := 4, nr := 127 }], save := some (0x100000, 0x200000), partword := 0x3E0101, scratch := 16384
                        idem := true, woken := if st = .evicted then some 0 else none }
def teamB : Team := { teamA .evicted with id := 2, slots := [1], prio := 3 }
def press (save : Bool) : State :=
  let s := sF
  { s with teams := [{ teamA .resident with save := if save then some (0x100000, 0x200000) else none }, teamB], log := [entry0]
           threads := s.threads.map fun t => { t with run := .logWait } }
theorem layout_of {s : State} {tm : Team}
    (h : tm.slots.length = tm.groups.length ∧ tm.slots.Nodup ∧ (∀ k ∈ tm.slots, k < 64) ∧ tm.mregs = List.replicate 16 MReg.reset ∧
      tm.tacks = List.replicate 16 Tack.reset ∧ (∀ g ∈ tm.groups, g.errs.length = 6) ∧ tm.scr = [] ∧ (s.threads.map fun t => t.id).Nodup ∧
      ∀ t ∈ s.threads, t.team = tm.id → t.id.core = tm.core ∧ t.id.slot ∈ tm.slots ∧ t.id.lane < 32 ∧ regsRise 0 t.regs = true ∧ ∀ c ∈ t.regs, c.n < 255) :
    Layout s tm := by
  obtain ⟨a, b, c, d, e, f, g, h, i⟩ := h
  exact ⟨a, ⟨b, c⟩, d, e, f, by rw [g]; rfl, by rw [g]; exact nofun, h, i⟩
theorem pressed_of {s : State} {n : Nat} {tm w : Team} {st : TeamState}
    (h : s.teams = [tm, w] ∧ tm.id ≠ w.id ∧ tm.core = n ∧ w.core = n ∧ tm.state = .resident ∧ w.state = .evicted ∧ w.woken.isSome = true ∧
      tm.prio ≤ w.prio ∧ s.returns w = false ∧ (s.editTeam tm.id fun x => { x with state := st }).returns w = true) : Pressed s n tm w st := by
  obtain ⟨a, b, c, d, e, f, g, h, i, j⟩ := h
  exact ⟨a, b, ⟨c, d⟩, e, f, g, h, i, j⟩
def teamL : Team := { teamA .resident with leaving := true }
theorem witness_Evictions :
    (let s := press true
     Layout s (teamA .resident) ∧ Pressed s 0 (teamA .resident) teamB .evicted ∧ Memory.wf s.mem = true ∧ s.l1 = [] ∧ (teamA .resident).leaving = false ∧
     s.evictable (teamA .resident) = true) ∧
    (let s := { press true with teams := [teamL, teamB] }
     Layout s teamL ∧ Memory.wf s.mem = true ∧ s.l1 = [] ∧ teamL.core = 0 ∧ teamL.state = .resident ∧ teamL.leaving = true ∧ (∀ x ∈ [teamB], x.id ≠ teamL.id) ∧
     ({ s with cmds := [cmdOf .gath (.gather []) .queued] }).teamQuiet teamL = false ∧
     s.teamQuiet teamL = true ∧ s.evictEnds teamL = false ∧ teamL.save = some (0x100000, 0x200000) ∧
     (let u : State := { s with threads := s.threads.map fun t => { t with run := .ready } }
      u.teamQuiet teamL = true ∧ u.evictEnds teamL = true)) ∧
    (let s := { press true with teams := [teamA .evicted] }
     Layout s (teamA .evicted) ∧ (teamA .evicted).woken.isSome = true ∧ s.returns (teamA .evicted) = true) ∧
    (let tm := { teamA .resident with save := none }
     let s := press false
     Layout s tm ∧ Pressed s 0 tm teamB .gone ∧ tm.idem = true ∧ tm.sfx = false ∧ (s.grid tm.grid).status = none ∧ s.evictable tm = false ∧
     2 < s.fresh + 1 ∧ 1 < s.fresh) :=
  ⟨⟨layout_of (by decide +kernel), pressed_of (by decide +kernel), by decide +kernel⟩, ⟨layout_of (by decide +kernel), by decide +kernel⟩,
    ⟨layout_of (by decide +kernel), by decide +kernel⟩, layout_of (by decide +kernel), pressed_of (by decide +kernel), by decide +kernel⟩

/-- A launch record: one team of one group, a PARTWORD, features it needs, job 1. -/
def record (teams part feat : Nat) : List Byte :=
  leBytes 8 0x10000 ++ leBytes 4 teams ++ [1#8] ++ zeros 19 ++ leBytes 8 part ++ leBytes 4 16384 ++ zeros 8 ++ leBytes 4 feat ++ leBytes 4 1 ++ zeros 68
def withRecord (r : List Byte) : State := let s := onFabric [⟨2, 0x20000#32, .raw⟩]; { s with mem := memWrite s.mem 0x20000 r }
theorem record_at_of {s : State} {ctx va lvl : Nat} {leaf : DWord} {r : List Byte}
    (h : va % 128 = 0 ∧ va < 2 ^ 55 ∧ (s.walk ctx va).2 = .leaf lvl leaf ∧ (leafXlat lvl leaf va).apt = 0 ∧
      s.lineBad ((leafXlat lvl leaf va).pa / 128) = false ∧ r = memRead s.mem (leafXlat lvl leaf va).pa 128 ∧ s.upd = [] ∧ s.l2.det = [] ∧
      s.records = [] ∧ ∀ x ∈ s.grids, x.id < s.fresh) : RecordAt s ctx va r := by
  obtain ⟨a, b, c, d, e, f, g, h, i, j⟩ := h
  exact ⟨⟨a, b⟩, ⟨lvl, leaf, c, d, e, f⟩, g, h, i, j⟩
theorem record_at (r : List Byte) (h : r = record 1 0x101020 0 ∨ r = record 0 0x101020 0 ∨ r = record 1 0x3E0101 0 ∨ r = record 1 0x101020 (2 ^ 31)) :
    RecordAt (withRecord r) 0 0x20000 r := by
  rcases h with rfl | rfl | rfl | rfl <;> exact record_at_of (lvl := 1) (leaf := 0x40F#64) (by decide +kernel)
theorem witness_Launches :
    (Judged (withRecord (record 1 0x101020 0)) 0 (record 1 0x101020 0) 0 ∧ Judged (withRecord (record 0 0x101020 0)) 0 (record 0 0x101020 0) 7 ∧
      Judged (withRecord (record 1 0x3E0101 0)) 0 (record 1 0x3E0101 0) 9 ∧ Judged (withRecord (record 1 0x101020 (2 ^ 31))) 0 (record 1 0x101020 (2 ^ 31)) 8 ∧
      Judged { withRecord (record 1 0x101020 0) with stops := [{ ctx := 0, sets := [[1]], jobs := [1], began := 0, head := false }] } 0 (record 1 0x101020 0) 10) ∧
    (let s := withRecord (record 1 0x101020 0)
     let t := s.thread placedTid
     Alone s p t ∧ (Instr.launch p 254 2).wf = true ∧ s.gate t p .any [dst 254 false] [srcP 1 2 noPerm] = none ∧ s.srcVal t p (srcP 1 2 noPerm) = 0x20000 ∧
     s.releaseOpen t = false) ∧
    (let s := { withRecord (record 1 0x101020 0) with log := [{ entry0 with lanes := [{ lane0 with acc := { acc0 with ord := .rel, sc := .sy } }] }] }
     let t := s.thread placedTid
     Alone s p t ∧ s.gate t p .any [dst 254 false] [srcP 1 2 noPerm] = none ∧ s.releaseOpen t = true) ∧
    (let k := from6 0x10 2 1 0 0 (leBytes 8 0x20000 ++ zeros 24)
     let s := withRecord (record 1 0x101020 0)
     Arrives s 0 k ∧ Arrives { s with sys := { s.sys with lacl := 0#64 } } 0 k ∧ Arrives { s with sys := { s.sys with bootstat := 9#64 } } 0 k ∧
     bits s.sys.bootstat 0 4 = 10 ∧ bits s.sys.bootstat 32 8 = 0 ∧ s.laclOk k.src k.ctx = true ∧ fieldOf k.data 0 8 = 0x20000 ∧
     ({ s with sys := { s.sys with lacl := 0#64 } }).laclOk k.src k.ctx = false ∧ bits (9#64) 0 4 ≠ 10) ∧
    Arrives sF 0 (from6 0x12 2 1 0 0 (zeros 32)) := by
  have feats : ∀ k, k < 32 → (fieldOf (record 1 0x101020 0) 52 4).testBit k = false := by decide +kernel
  have feats9 : ∀ k, k < 32 → (fieldOf (record 1 0x3E0101 0) 52 4).testBit k = false := by decide +kernel
  refine ⟨⟨.accepted (by decide +kernel) (fun k a b => absurd (feats k a) (by simp [b])) (by decide +kernel) (fun x h => by exact absurd h List.not_mem_nil)
      (by decide +kernel),
    .invalid (by decide +kernel), .tooBig (by decide +kernel) (fun k a b => absurd (feats9 k a) (by simp [b])) (by decide +kernel),
    .features 31 (by decide +kernel) (by decide) (by decide +kernel) (by decide +kernel),
    .stopping { ctx := 0, sets := [[1]], jobs := [1], began := 0, head := false } (by decide +kernel) (fun k a b => absurd (feats k a) (by simp [b]))
      (by decide +kernel) (List.mem_cons_self ..) rfl (by decide +kernel)⟩,
    ⟨alone_of (by decide +kernel), by decide +kernel⟩, ⟨alone_of (by decide +kernel), by decide +kernel⟩,
    ⟨arrives_of (by decide +kernel), arrives_of (by decide +kernel), arrives_of (by decide +kernel), by decide +kernel⟩, arrives_of (by decide +kernel)⟩

/-- A region of 1 MiB at 0x80000, and the placed grid captured or replayed with what stands there. -/
def capturing (cfg : Nat) (determ : Bool) (m : Memory) : State :=
  let s := sF
  { s with sys := { s.sys with capcfg := BitVec.ofNat 64 (2 ^ 52 + 0x80000 + cfg) }, grids := s.grids.map fun g => { g with capture := !determ, determ := determ }
           mem := m.foldl (fun l c => memWrite l c.1 [c.2]) s.mem }
/-- A mark of core 0 with immediate 5. -/
def capMark : CapRec := { pos := 0, kind := 7, unit := 0, detail := 5, value := 0, data := 0 }
/-- A write that arrived for 0x10000, one flit. -/
def capWrite : CapRec := { pos := 0, kind := 1, unit := 0, detail := 3 * 2 ^ 24 + 1, value := 0x10000, data := 0x80020 }
theorem witness_CaptureAndReplay :
    (let s := capturing 1 false []
     let t := s.thread placedTid
     Alone s p96 t ∧ (Instr.capmark p96 (-1)).wf = true ∧ (s.grid (s.team t.team).grid).capture = true ∧ s.sys.capcfg.toNat.testBit 0 = true ∧
     s.sys.capcfg.toNat.testBit 1 = false ∧ s.sys.capcfg.toNat.testBit 2 = false ∧ bits s.sys.capcfg 12 40 * 4096 + s.capture.pos = 0x80000 ∧
     s.capture.pos + 32 ≤ bits s.sys.capcfg 52 12 * 2 ^ 20 ∧ Plain s 0x80000 32) ∧
    (let s := capturing 2 true [(0x80008, 7#8), (0x8000C, 5#8)]
     let t := s.thread placedTid
     Alone s p96 t ∧ (s.grid (s.team t.team).grid).determ = true ∧ s.sys.capcfg.toNat.testBit 1 = true ∧
     s.capNext (fun r => r.kind == 7 && r.unit == t.id.core) = some capMark ∧ Running s (s.team t.team).grid ∧ s.l1 = [] ∧ s.upd = []) ∧
    (let s := capturing 2 true [(0x80008, 1#8), (0x8000C, 1#8), (0x8000F, 3#8), (0x80012, 1#8), (0x80018, 0x20#8), (0x8001A, 8#8)]
     Plain s capWrite.value 32 ∧ (∃ g ∈ s.grids, s.grid g.id = g ∧ g.status = none ∧ g.determ = true) ∧ s.sys.capcfg.toNat.testBit 1 = true ∧
     s.injectable = some capWrite ∧ capWrite.value < 0xFFFFF00000000 ∧ capWrite.detail / 2 ^ 24 = 3 ∧ capWrite.detail % 16 = 1 ∧ s.fabric.lossy = []) :=
  ⟨⟨alone_of (by decide +kernel), by decide, by decide +kernel, by decide +kernel, by decide +kernel, by decide +kernel, by decide +kernel,
      by decide +kernel, plain_of (by decide +kernel)⟩,
    ⟨alone_of (by decide +kernel), by decide +kernel, by decide +kernel, by decide +kernel, running_of { placedGrid 1 with determ := true } (by decide +kernel),
      rfl, rfl⟩,
    plain_of (by decide +kernel), by decide +kernel⟩

/-- The only grid, ended with a status and without teams, its completion word at an address. -/
def ended (st : Option Nat) (done : Nat) : State :=
  let s := sF
  { s with grids := [{ placedGrid 1 with status := st, done := done, cookie := 7, job := 1 }], teams := [], threads := [] }
def gOver (st : Option Nat) (done : Nat) : Grid := { placedGrid 1 with status := st, done := done, cookie := 7, job := 1 }
def repOver : Report := { key := key0, cmds := [], tids := [], grids := [1] }
theorem word_due {s : State} {g : Grid} {st : Nat}
    (h : s.grids = [g] ∧ g.status = some st ∧ g.finished = false ∧ s.fabric.reqs = [] ∧ s.teams = [] ∧ (∀ c ∈ s.cores, ∀ x ∈ c.ctxAck, x.1 ≠ g.ctx) ∧
      s.cmds = []) : WordDue s g st := by
  obtain ⟨a, b, c, d, e, f, i⟩ := h
  exact ⟨a, b, c, d, by simp [e], f, i⟩
theorem word_at {s : State} (h : (s.upd = [] ∧ s.l2.det = [] ∧ s.board.mlRetry = [] ∧ Memory.wf s.mem = true ∧
    ∀ i < 8 / 128 + 2, s.lineBad (0x10008 / 128 + i) = false) ∧ (s.walk 0 0x10008).2 = .leaf 1 0x40F#64) : WordAt s (gOver (some 3) 0x10008) 0x10008 :=
  ⟨by decide, by decide, plain_of h.1, by decide, 1, 0x40F#64, h.2, by decide +kernel⟩
theorem witness_GridEnds :
    (let s := ended none 0
     s.grids = [gOver none 0] ∧ (gOver none 0).teams ≤ (gOver none 0).nextTeam ∧ s.teams = [] ∧ s.bobbins = [] ∧ s.cmds = [] ∧ s.l1 = [] ∧ s.upd = []) ∧
    (WordDue (ended (some 3) 0) (gOver (some 3) 0) 3 ∧ (ended (some 3) 0).reports = []) ∧
    (WordDue (ended (some 3) 0x10008) (gOver (some 3) 0x10008) 3 ∧ WordAt (ended (some 3) 0x10008) (gOver (some 3) 0x10008) 0x10008) ∧
    (let s := { ended (some 3) 0x10008 with sys := { sF.sys with ctxtab := 0#64 } }
     WordDue s (gOver (some 3) 0x10008) 3 ∧ (s.walk 0 0x10008).2 = .fault 0x10) ∧
    (let s := { ended (some 3) 0x10008 with reports := [repOver] }
     WordDue s (gOver (some 3) 0x10008) 3 ∧ WordAt s (gOver (some 3) 0x10008) 0x10008 ∧ s.reports = [repOver] ∧ s.log = []) ∧
    (let g := gOver none 0
     let h := { gOver none 0 with id := 3, job := 2, edges := [1] }
     g.ctx = h.ctx ∧ g.job ≠ h.job ∧ g.edges = [] ∧ h.edges = [g.job]) ∧
    (let x : Stop := { ctx := 0, sets := [[1]], jobs := [1], began := 0, head := true }
     let s : State := { sF with grids := [gOver none 0], stops := [x] }
     s.stops = [x] ∧ s.grids = [gOver none 0] ∧ (gOver none 0).status = none ∧ s.l1 = [] ∧ s.upd = [] ∧ s.cleanSet 0 [1] = false ∧
     (let u : State := { s with threads := s.threads.map fun t => { t with run := .blocked .bar 8 none } }
      u.cleanSet 0 [1] = true ∧ ∃ t ∈ u.teams, t.grid = 1 ∧ t.state = .resident ∧ t.save = none)) :=
  ⟨by decide +kernel, ⟨word_due (by decide +kernel), rfl⟩, ⟨word_due (by decide +kernel), word_at (by decide +kernel)⟩,
    ⟨word_due (by decide +kernel), by decide +kernel⟩, ⟨word_due (by decide +kernel), word_at (by decide +kernel), rfl, rfl⟩, by decide +kernel⟩

/-! ### Memory, registers, the machine -/

theorem witness_MemoryAndRegisters :
    (let l := { line0 with dirty := 3, data := 0x0201 }
     let s := { sF with l1 := [l] }
     Plain s 0x10000 128 ∧ s.line? 0 0 0x200 = some l ∧ s.lineBusy l = false ∧ s.lineFilling l = false ∧ l.dirty ≠ 0 ∧ l.dirty < 2 ^ 128 ∧ l.bad = false ∧
     l.apt = 0 ∧ l.pa = 0x10000) ∧
    (let l := { line0 with dirty := 3, data := 0x0201 }
     let c := { cmdOf .gath (.gather []) .running with ranges := [(0x10000, 0x10080)] }
     ({ sF with l1 := [l], cmds := [c] }).lineBusy l = true) ∧
    (let u : UpdLine := { core := 0, ctx := 0, line := 0x200, pa := 0x10000, comp := false, op := .add, ty := .s32, mask := 15, data := 7, prio := 1, used := 0 }
     let s := { sF with upd := [u] }
     s.upd = [u] ∧ s.lineBad (u.pa / 128) = false ∧ Memory.wf s.mem = true ∧ u.ty ∈ [Tag.s32, .n32, .s64, .n64, .f32]) ∧
    (repeats sF 0x9000 0 ∧ sF.board.mlRetry = [] ∧ sF.l2.miss = [] ∧ sF.l2.lines = [] ∧ Memory.wf sF.ddr = true) ∧
    (CleanL1 sF ∧ (∃ va, va < 2 ^ 55 ∧ sF.tlb? 0 0 va = none) ∧ sF.l1 = [] ∧ sF.tlb.length < 4096 ∧ (sF.walk 0 0x20000).2 = .leaf 1 0x40F#64) ∧
    (let i : Inval := { id := 5, mode := 1, size := 0, ctx := 0, vpn := 0, move := none }
     let r := req0 0x03 0 1 (.cmd 9)
     let s := { asking r with invs := [i], cmds := [cmdOf .gath (.gather []) .running] }
     commandOut s i ∧ ¬commandOut { s with cmds := [] } i) ∧
    (let s := { sF with fabric := { sF.fabric with hot := [{ port := 1, index := 2, page := 3, src := 6, count := 7 }] } }
     s.hotEntry 1 2 = some { port := 1, index := 2, page := 3, src := 6, count := 7 }) :=
  ⟨⟨plain_of (by decide +kernel), by decide +kernel⟩, by decide +kernel, by decide +kernel, ⟨by unfold repeats; decide +kernel, by decide +kernel⟩,
    ⟨by unfold CleanL1; decide +kernel, ⟨0x20000, by decide +kernel⟩, by decide +kernel⟩,
    ⟨⟨_, List.mem_cons_self .., _, List.mem_cons_self .., by decide +kernel⟩, fun ⟨_, _, _, h, _⟩ => absurd h List.not_mem_nil⟩, by decide +kernel⟩

/-- What a fetch of a state gives, if it is bytes. -/
def fetchedBytes (s : State) : Option (List Byte) := match (s.tick.fetch (s.tick.thread placedTid)).2 with | .ok bs => some bs | .error _ => none
theorem fetches_of {s : State} {bs : List Byte} (h : (s.thread placedTid).pc % 4 = 0 ∧ fetchedBytes s = some bs) : Fetches s placedTid bs := by
  obtain ⟨a, b⟩ := h
  refine ⟨a, ?_⟩
  unfold fetchedBytes at b
  cases h : (s.tick.fetch (s.tick.thread placedTid)).2 with
  | ok l => rw [h] at b; simpa using b
  | error e => rw [h] at b; simp at b
/-- The words of MOVI.S32 v8, −2, of a header of one instruction, and of OP 0x007. -/
def placed (w : Nat) : State := State.reset.withFetchWord 64 w
theorem goes_of {s : State} (h : s.board.held = false ∧ s.board.tripped = false ∧ s.agenda = []) : Goes s := ⟨h.1, h.2.1, h.2.2⟩
theorem witness_StepRuns :
    (let s := placed 0x800FE000008000F0
     let bs := leBytes 8 0x800FE000008000F0 ++ zeros 24
     Goes s ∧ s.issue = [placedTid] ∧ Fetches s placedTid bs ∧ decodeItem bs = .ok (.movi p .s32 8 (-2), zeros 24) ∧
     (∃ c, (s.thread placedTid).clause = some c) ∧ (∀ j ∈ s.issue, (s.team (s.thread j).team).disabled.testBit (opAt bs) = false)) ∧
    (let s := placed 0x0000001000000003
     let bs := leBytes 8 0x0000001000000003 ++ zeros 24
     Goes s ∧ Fetches s placedTid bs ∧ (s.thread placedTid).clause = none ∧
     decodeItem bs = .ok (.clauseStart { wait := 0, seta := 0, setb := 0, pred := 0, count := 1, yield := true }, zeros 24)) ∧
    (let s := placed 0x000000000000001C
     let bs := leBytes 8 0x000000000000001C ++ zeros 24
     Goes s ∧ Fetches s placedTid bs ∧ (∃ e r, decodeItem bs = .error (e, r) ∧ r.cause ≠ 4) ∧ isTransfer bs = false) ∧
    (let s := { placed 0 with agenda := [.coldReset] }
     s.board.held = false ∧ s.board.tripped = false ∧ s.agenda = [.coldReset] ∧ Instr.coldReset.wf = true) := by
  refine ⟨⟨goes_of (by decide +kernel), by decide +kernel, fetches_of (by decide +kernel), by decide +kernel, ⟨_, rfl⟩, by decide +kernel⟩,
    ⟨goes_of (by decide +kernel), fetches_of (by decide +kernel), by decide +kernel⟩,
    ⟨goes_of (by decide +kernel), fetches_of (by decide +kernel), ⟨_, _, rfl, by decide +kernel⟩, by decide +kernel⟩, by decide +kernel⟩
theorem witness_FormKept : ∃ s', (placed 0x800FE000008000F0).ok = true ∧ step (placed 0x800FE000008000F0) = .next s' := by
  have h : (match step (placed 0x800FE000008000F0) with | .next _ => true | _ => false) = true := by decide +kernel
  cases e : step (placed 0x800FE000008000F0) with
  | next s => exact ⟨s, by decide +kernel, rfl⟩
  | fault f => rw [e] at h; cases h
  | refused r => rw [e] at h; cases h
theorem witness_RoundTrip : ∃ w, (Instr.movi p .s32 8 (-2)).wf = true ∧ encode (.movi p .s32 8 (-2)) = some w := ⟨_, by decide, rfl⟩

/-! ### Decoding -/

/-- A decode record: one batch of two frames of 130 by 2, Y alone in N8 to state 3, its word at 0x7000. -/
def decRec : List Byte :=
  zeros 8 ++ leBytes 4 1 ++ leBytes 4 0 ++ leBytes 4 2 ++ [2#8, 1#8, 0#8, 0#8, 0#8, 0#8, 0#8, 0#8] ++ leBytes 2 130 ++ leBytes 2 2 ++ [3#8] ++ zeros 7 ++ zeros 24 ++
    leBytes 8 0x7000 ++ zeros 56
/-- State 3: 130 by 2 by 2 elements N8 at 0x4000; the record at 0x10000, a queued record, and a page that bypasses the L1. -/
def sDec : State :=
  let s := onFabric [⟨2, 0x10000#32, .raw⟩]
  let s1 := s.editTeam 1 fun t => { t with
    scr := [(1536, 0x52#8), (1537, 3#8), (1538, 10#8), (1545, 0x40#8), (1568, 8#8), (1569, 130#8), (1576, 1#8), (1577, 2#8), (1584, 1#8), (1585, 2#8),
      (1664, 1#8), (1672, 2#8), (1680, 4#8), (1688, 8#8), (1696, 16#8), (1704, 32#8), (1712, 64#8), (1720, 128#8), (1729, 1#8), (1737, 2#8)] }
  { s1 with mem := memWrite s1.mem 0x10000 decRec, tlb := [tlb0] }
abbrev tDec : Thread := sDec.thread placedTid
def decStates (s : State) : List (List Byte) := [s.tsBytes 1 3, [], []]
def cDec : Cmd := { cmdOf .dec (.decode decRec (decStates sDec) 0x10000 0) .queued with aw := some { scr := true, addr := 0x7000 } }
def u1 : DecodedUnit :=
  { frame := 0, row := 0, col := 1, tile := 0, error := false, header := false, refs := [], lost := false, outside := false, planes := [], side := [] }
theorem witness_Decoding :
    let s1 := (sDec.recordG p tDec 0x10000 16 128).1
    Alone sDec p tDec ∧ (Instr.decode p none 2).wf = true ∧ sDec.gate tDec p .engine [] [srcP 1 2 noPerm] = none ∧
    sDec.srcVal tDec p (srcP 1 2 noPerm) = 0x10000 ∧ sDec.recordG p tDec 0x10000 16 128 = (s1, .ok decRec) ∧ decOk decRec = true ∧
    (∀ k < 3, (recField decRec 21 1).testBit k = true → sDec.decStateOk (sDec.team tDec.team) decRec k (tsOf ((decStates sDec).getD k [])) = true) ∧
    recField decRec 64 8 < (sDec.team tDec.team).scratch ∧ s1.awLossy (.scr tDec.team (recField decRec 64 8)) = false ∧ Engines s1 tDec ∧
    s1.engineFull tDec .dec 0 = false ∧ (sDec.decQueue 0).length < 32 ∧ WordFine s1 tDec (some { scr := true, addr := 0x7000 }) :=
  ⟨alone_of (by decide +kernel), by decide, by decide +kernel, by decide +kernel, Prod.ext rfl (by decide +kernel), by decide +kernel, by decide +kernel,
    by decide +kernel, by decide +kernel,
    engines_of (by decide +kernel), by decide +kernel,
    by decide +kernel, fun x h => by cases h; decide +kernel⟩
theorem witness_Decoding_queue :
    let s := { sDec with cmds := [cDec] }
    Executes s p .engine [dst 252 true] [srcP 1 2 noPerm] tDec ∧ (Instr.decq p 252 2).wf = true ∧
    (s.decQueue 0).find? (fun x => x.ctx == (s.grid (s.team tDec.team).grid).ctx && (match x.kind with | .decode _ _ y _ => y == 0x10000 | _ => false)) = some cDec ∧
    (s.decQueue 0).length ≤ 32 ∧ cDec.status < 4 := ⟨executes_of (by decide +kernel), by decide, by decide +kernel, by decide +kernel, by decide +kernel⟩
/-- An access of an engine succeeded. -/
def okay : EngRes → Bool
  | .ok _ => true
  | _ => false
/-- The command before any unit, and after the first unit of its first frame, in which an error was found. -/
def cDec1 : Cmd := { cDec with prog := 1, snap := [{ n := 0, v := 3, scale := 0 }] }
/-- A unit in error, one behind an error in its tile, and one predicted from a damaged unit. -/
def damagedUnits : List (Cmd × DecodedUnit × Nat) :=
  [(cDec, { u1 with error := true }, 1), (cDec1, u1, 1), (cDec1, { u1 with frame := 1, tile := 1, refs := [(0, 0, 0)] }, 4)]
theorem witness_Decoding_unit : ∀ x ∈ damagedUnits,
    let c := x.1
    let u := x.2.1
    let s := { sDec with cmds := [c] }
    let q0 := s.decRead c decRec
    let q2 := q0.1.decPlanesGo c decRec (decStates sDec) u true [0, 1, 2]
    let q3 := q2.1.engWrites c [(0x10000 + 88, leBytes 4 (c.errcnt + 1)), (0x10000 + 92, leBytes 4 c.frames)]
    s.decNext 0 u = some (c, decRec, decStates sDec, 0x10000, x.2.2) ∧ s.replays (s.team c.team).grid = false ∧
    (u.error = true ∨ u.lost = true ∨ (c.prog = 0 ∧ u.outside = true) ∨
      (∃ y ∈ c.snap, y.n / 3 = x.2.2 / 3 ∧ y.scale = u.tile ∧ y.v.testBit 1 = true) ∨
      ∃ f ∈ u.refs, ∃ y ∈ c.snap, y.n = decIndex decRec f.1 f.2.1 f.2.2 ∧ y.v.testBit 0 = true) ∧
    decCols decRec * decRows decRec = 3 ∧ recField decRec 16 4 = 2 ∧ (c.snap.filter fun y => y.n / 3 == x.2.2 / 3).length + 1 < 3 ∧ c.snap.length + 1 < 3 * 2 ∧
    okay q0.2 = true ∧ okay q2.2 = true ∧ okay q3.2 = true ∧ q3.1.cmd? c.id = some c ∧
    fld s.sys.budcfg 0 1 = 0 ∧ q3.1.sys = s.sys ∧ (q3.1.chargesOf c.ctx (q3.1.jobOf c)).length = 4 ∧
    (q3.1.grid (q3.1.team c.team).grid).capture = false ∧ q3.1.cmdOpen c.id = false ∧ q3.1.creditDue c.id = false ∧
    ((q3.1.decOwe c decRec (decStates sDec) u).cmd? c.id).isSome = true := by
  intro x h
  simp only [damagedUnits, List.mem_cons, List.not_mem_nil, or_false] at h
  rcases h with rfl | rfl | rfl <;> exact ⟨by decide +kernel, by decide +kernel, by decide +kernel, by decide +kernel⟩

end Sys2Proof.Tests
end

section
namespace Sys2Proof.Machine

open Sys2Proof.Claim

theorem bitsAt_one (x k : Nat) : (bitsAt x k 1 == 1) = x.testBit k := by
  rw [Bool.eq_iff_iff, beq_iff_eq, bitsAt, Nat.testBit_eq_decide_div_mod_eq, pow_one, decide_eq_true_iff]

theorem bitsAt_one_eq_zero (x k : Nat) : bitsAt x k 1 = 0 ↔ x.testBit k = false := by
  rw [← bitsAt_one, beq_eq_false_iff_ne, bitsAt]; omega

theorem fld_eq_bits (x : DWord) (lo n : Nat) : fld x lo n = bits x lo n := rfl

theorem bits_lt (x : DWord) (lo n : Nat) : bits x lo n < 2 ^ n := Nat.mod_lt _ (Nat.two_pow_pos n)

theorem testBit_bits (x : DWord) (lo n i : Nat) : (bits x lo n).testBit i = (decide (i < n) && x.toNat.testBit (lo + i)) := by
  rw [bits, Nat.testBit_mod_two_pow, Nat.testBit_div_two_pow, Nat.add_comm]

/-- A number around one of its fields: what lies above it, the field, and what lies below. -/
theorem split_field (x lo n : Nat) : x = 2 ^ lo * (2 ^ n * (x / 2 ^ (lo + n)) + bitsAt x lo n) + x % 2 ^ lo := by
  rw [bitsAt, pow_add, ← Nat.div_div_eq_div_mul, Nat.div_add_mod, Nat.div_add_mod]

theorem setFld_toNat (x : DWord) (lo n v : Nat) (h : lo + n ≤ 64) :
    (setFld x lo n v).toNat = 2 ^ lo * (2 ^ n * (x.toNat / 2 ^ (lo + n)) + v % 2 ^ n) + x.toNat % 2 ^ lo := by
  have hx := split_field x.toNat lo n
  have hq : x.toNat / 2 ^ (lo + n) < 2 ^ (64 - (lo + n)) := by
    rw [Nat.div_lt_iff_lt_mul (Nat.two_pow_pos _), ← pow_add, Nat.sub_add_cancel h]; exact x.isLt
  have hv : v % 2 ^ n < 2 ^ n := Nat.mod_lt _ (Nat.two_pow_pos n)
  have hr : x.toNat % 2 ^ lo < 2 ^ lo := Nat.mod_lt _ (Nat.two_pow_pos lo)
  have hb : 2 ^ lo * (2 ^ n * (x.toNat / 2 ^ (lo + n)) + v % 2 ^ n) + x.toNat % 2 ^ lo < 2 ^ 64 := calc
    _ < 2 ^ lo * (2 ^ n * (x.toNat / 2 ^ (lo + n)) + v % 2 ^ n) + 2 ^ lo := by omega
    _ = 2 ^ lo * (2 ^ n * (x.toNat / 2 ^ (lo + n)) + v % 2 ^ n + 1) := by rw [Nat.mul_succ]
    _ ≤ 2 ^ lo * (2 ^ n * (x.toNat / 2 ^ (lo + n) + 1)) := Nat.mul_le_mul_left _ (by rw [Nat.mul_succ]; omega)
    _ ≤ 2 ^ lo * (2 ^ n * 2 ^ (64 - (lo + n))) := Nat.mul_le_mul_left _ (Nat.mul_le_mul_left _ hq)
    _ = 2 ^ 64 := by rw [← pow_add, ← pow_add]; congr 1; omega
  have hnew : x.toNat - bitsAt x.toNat lo n * 2 ^ lo + v % 2 ^ n * 2 ^ lo =
      2 ^ lo * (2 ^ n * (x.toNat / 2 ^ (lo + n)) + v % 2 ^ n) + x.toNat % 2 ^ lo := by
    rw [Nat.mul_add] at hx ⊢; rw [Nat.mul_comm (bitsAt _ _ _), Nat.mul_comm (v % _)]; omega
  rw [setFld, BitVec.toNat_ofNat, hnew, Nat.mod_eq_of_lt hb]

theorem testBit_setFld (x : DWord) (lo n v i : Nat) (h : lo + n ≤ 64) :
    (setFld x lo n v).toNat.testBit i = if lo ≤ i ∧ i < lo + n then v.testBit (i - lo) else x.toNat.testBit i := by
  have hr : x.toNat % 2 ^ lo < 2 ^ lo := Nat.mod_lt _ (Nat.two_pow_pos lo)
  have hv : v % 2 ^ n < 2 ^ n := Nat.mod_lt _ (Nat.two_pow_pos n)
  rw [setFld_toNat x lo n v h, Nat.testBit_two_pow_mul_add _ hr]
  by_cases h1 : i < lo
  · simp [h1, Nat.testBit_mod_two_pow]
  · rw [if_neg h1, Nat.testBit_two_pow_mul_add _ hv]
    by_cases h2 : i - lo < n
    · rw [if_pos h2, if_pos (by omega), Nat.testBit_mod_two_pow]; simp [h2]
    · rw [if_neg h2, if_neg (by omega), Nat.testBit_div_two_pow]; congr 1; omega

@[simp] theorem bits_setFld_same (x : DWord) (lo n v : Nat) (h : lo + n ≤ 64) : bits (setFld x lo n v) lo n = v % 2 ^ n := by
  refine Nat.eq_of_testBit_eq fun i => ?_
  rw [testBit_bits, testBit_setFld x lo n v _ h, Nat.testBit_mod_two_pow]
  by_cases hi : i < n <;> simp [hi]

/-- Fields that do not meet do not change one another. -/
@[simp] theorem bits_setFld_ne (x : DWord) (lo n v k m : Nat) (h : lo + n ≤ 64) (hd : k + m ≤ lo ∨ lo + n ≤ k) :
    bits (setFld x lo n v) k m = bits x k m := by
  refine Nat.eq_of_testBit_eq fun i => ?_
  rw [testBit_bits, testBit_bits, testBit_setFld x lo n v _ h]
  by_cases hi : i < m
  · rw [if_neg (by omega)]
  · simp [hi]

/-- Bits of a mask built bit by bit. -/
theorem testBit_sum_range (f : Nat → Bool) : ∀ n k,
    ((List.range n).map fun i => if f i then 2 ^ i else 0).sum < 2 ^ n ∧
    (((List.range n).map fun i => if f i then 2 ^ i else 0).sum).testBit k = (decide (k < n) && f k)
  | 0, k => by simp
  | n + 1, k => by
    obtain ⟨hlt, hbit⟩ := testBit_sum_range f n k
    rw [List.range_succ, List.map_append, List.sum_append]
    generalize ((List.range n).map fun i => if f i then 2 ^ i else 0).sum = x at hlt hbit ⊢
    have hs : x + ([n].map fun i => if f i then 2 ^ i else 0).sum = 2 ^ n * (if f n then 1 else 0) + x := by
      cases h : f n <;> simp [h, Nat.add_comm]
    rw [hs]
    constructor
    · rw [pow_succ]; split <;> omega
    · rw [Nat.testBit_two_pow_mul_add _ hlt]
      rcases Nat.lt_trichotomy k n with h | rfl | h
      · simp [h, hbit, Nat.lt_succ_of_lt h]
      · cases f k <;> simp
      · have h' : ¬k < n := by omega
        have h'' : ¬k < n + 1 := by omega
        have : k - n ≠ 0 := by omega
        cases f n <;> simp [h', h'', Nat.testBit_lt_two_pow (Nat.one_lt_two_pow this)]

end Sys2Proof.Machine
end

section
/-! O58. -/
namespace Sys2Proof.Machine
open Sys2Proof.Claim

/-- At reset every register of the S view reads zero but those the tables of 01, 02 and 03 give a value. -/
theorem viewS_reset (n c : Nat) : State.reset.viewS n c =
    if n = 0x030 then 0xFFFF else if n = 0x025 then 10 * 2 ^ 16 + 3300 else if n = 0x042 then 20 else if n = 0x045 then 1000000
    else if n = 0x046 then 0x3F else if n = 0x050 then 2000 else 0 := by
  unfold State.viewS
  split
  case h_34 => simp_all
  all_goals rfl

/-- Settles O58: each field of the reset state is read off. -/
theorem resetState : Obligations.ResetState := by
  refine ⟨by decide, by simp [Emptied, State.reset, Fabric.reset], rfl, rfl, rfl, fun c => ?_, fun n c h1 h2 h3 h4 h5 h6 => ?_⟩
  · simp [viewS_reset]
  · rw [viewS_reset]; simp [h1, h2, h3, h4, h5, h6]

end Sys2Proof.Machine
end

section
namespace Sys2Proof.Machine
open Sys2Proof.Claim

/-! ### Resets and rails -/

theorem emptied_restarted (s : State) (warm : Bool) : Emptied (s.restarted warm) := by
  simp [Emptied, State.restarted, State.reset, Fabric.reset]
theorem sameBoard_restarted (s : State) (warm : Bool) : SameBoard s.board (s.restarted warm).board := by
  simp [SameBoard, State.restarted]
@[simp] theorem restarted_sys (s : State) (warm : Bool) : (s.restarted warm).sys = SysRegs.reset := rfl

@[simp] theorem heldReset_pwrseq (s : State) (rails : List Nat) (bad : Bool) :
    bits (s.heldReset rails bad).sys.thermstat 33 1 = if bad then 1 else 0 := by
  cases bad <;> simp [State.heldReset]
theorem emptied_heldReset (s : State) (rails : List Nat) (bad : Bool) : Emptied (s.heldReset rails bad) := emptied_restarted s false
theorem sameBoard_heldReset (s : State) (rails : List Nat) (bad : Bool) : SameBoard s.board (s.heldReset rails bad).board :=
  sameBoard_restarted s false

theorem exec_coldReset_up (s : State) (h : s.board.rails = [1, 2, 3, 4, 5]) : exec .coldReset s = .next (s.restarted false) := by
  simp [exec, execColdReset, railOrder, h]
theorem exec_coldReset_held (s : State) (h : s.board.rails ≠ [1, 2, 3, 4, 5]) :
    exec .coldReset s = .next (s.heldReset s.board.rails (bits s.sys.thermstat 33 1 == 1)) := by
  simp [exec, execColdReset, railOrder, h, fld_eq_bits]
theorem exec_warmReset_running (s : State) (h : s.board.held = false) (h' : s.board.tripped = false) :
    exec .warmReset s = .next ((s.restarted true).setPhase 1) := by
  simp [exec, execWarmReset, h, h']
theorem exec_railsGood_inOrder (s : State) (h : s.board.rails ≠ [1, 2, 3, 4, 5]) :
    exec (.railsGood [1, 2, 3, 4, 5]) s =
      .next (({ s with board := { s.board with rails := [1, 2, 3, 4, 5] } } : State).restarted false) := by
  simp [exec, execRailsGood, railOrder, h]
theorem exec_railsGood_outOfOrder (s : State) (order : List Nat) (h : s.board.rails ≠ [1, 2, 3, 4, 5]) (ho : order ≠ [1, 2, 3, 4, 5]) :
    exec (.railsGood order) s = .next (s.heldReset order true) := by
  simp [exec, execRailsGood, railOrder, h, ho]

/-- Bit 33 of THERMSTAT is a bit, so that a test for 1 gives it back. -/
theorem pwrseq_eq_ite (x : DWord) : (if (bits x 33 1 == 1) = true then 1 else 0) = bits x 33 1 := by
  have := bits_lt x 33 1
  split <;> simp_all; omega

theorem ddrLeft_of_noWrites (s : State) (h : s.l2.writes = []) : s.ddrLeft = s.ddr := by simp [State.ddrLeft, h]
theorem ddrBadLeft_of_noWrites (s : State) (h : s.l2.writes = []) : s.ddrBadLeft = s.l2.ddrBad := by simp [State.ddrBadLeft, h]

theorem coldReset_restarts (s : State) (h : s.board.rails = [1, 2, 3, 4, 5]) :
    ∃ s', exec .coldReset s = .next s' ∧ Emptied s' ∧ SlicesEmpty s' [] ∧ s'.sys = SysRegs.reset ∧ s'.time = { ns := 0, cyc := 0, frac := 0 } ∧
      SameBoard s.board s'.board ∧ s'.board.held = false ∧ s'.board.tripped = false :=
  ⟨_, exec_coldReset_up s h, emptied_restarted s false, rfl, rfl, rfl, sameBoard_restarted s false, rfl, rfl⟩

theorem coldReset_staysHeld (s : State) (h : s.board.rails ≠ [1, 2, 3, 4, 5]) :
    ∃ s', exec .coldReset s = .next s' ∧ Emptied s' ∧ s'.board.held = true ∧ s'.board.rails = s.board.rails ∧
      bits s'.sys.thermstat 33 1 = bits s.sys.thermstat 33 1 :=
  ⟨_, exec_coldReset_held s h, emptied_heldReset _ _ _, rfl, rfl, by rw [heldReset_pwrseq, pwrseq_eq_ite]⟩

theorem warmReset_restarts (s : State) (h : s.board.held = false) (h' : s.board.tripped = false) :
    ∃ s', exec .warmReset s = .next s' ∧ Emptied s' ∧ s'.sys = { SysRegs.reset with bootstat := s'.sys.bootstat } ∧
      s'.sys.bootstat = 1#64 ∧ SameBoard s.board s'.board ∧ s'.board.held = false ∧ SlicesEmpty s' s'.l2.ddrBad ∧
      (s.l2.writes = [] → s'.l2.ddrBad = s.l2.ddrBad ∧ ∀ x, memGet s'.mem x = memGet s.ddr x) := by
  refine ⟨_, exec_warmReset_running s h h', emptied_restarted s true, rfl, show setFld 0#64 0 4 1 = 1#64 by decide, sameBoard_restarted s true, rfl, rfl, fun hw => ⟨?_, fun x => ?_⟩⟩
  · exact ddrBadLeft_of_noWrites s hw
  · exact congrArg (memGet · x) (ddrLeft_of_noWrites s hw)

theorem railsGood_inOrder_or_held (s : State) (order : List Nat) (h : s.board.rails ≠ [1, 2, 3, 4, 5]) :
    ∃ s', exec (.railsGood order) s = .next s' ∧ Emptied s' ∧ s'.board.rails = order ∧ SameBoard s.board s'.board ∧
      (order = [1, 2, 3, 4, 5] → s'.board.held = false ∧ s'.sys = SysRegs.reset) ∧
      (order ≠ [1, 2, 3, 4, 5] → s'.board.held = true ∧ bits s'.sys.thermstat 33 1 = 1) := by
  by_cases ho : order = [1, 2, 3, 4, 5]
  · subst ho
    exact ⟨_, exec_railsGood_inOrder s h, emptied_restarted _ false, rfl, sameBoard_restarted _ false, fun _ => ⟨rfl, rfl⟩,
      fun hn => absurd rfl hn⟩
  · exact ⟨_, exec_railsGood_outOfOrder s order h ho, emptied_heldReset _ _ _, rfl, sameBoard_heldReset _ _ _, fun e => absurd e ho,
      fun _ => ⟨rfl, heldReset_pwrseq s order true⟩⟩

theorem railsDown_holds (s : State) (order : List Nat) :
    ∃ s', exec (.railsDown order) s = .next s' ∧ Emptied s' ∧ s'.board.rails = [] ∧ s'.board.held = true ∧
      bits s'.sys.thermstat 33 1 = (if order = [5, 4, 3, 2, 1] then 0 else 1) := by
  refine ⟨_, rfl, emptied_heldReset _ _ _, rfl, rfl, ?_⟩
  rw [heldReset_pwrseq, show railOrder.reverse = [5, 4, 3, 2, 1] from rfl]
  by_cases h : order = [5, 4, 3, 2, 1] <;> simp [h]

/-! ### The steps of bring-up -/

@[simp] theorem setPhase_mem (s : State) (n : Nat) : (s.setPhase n).mem = s.mem := rfl
@[simp] theorem setPhase_board (s : State) (n : Nat) : (s.setPhase n).board = s.board := rfl
@[simp] theorem setPhase_l2 (s : State) (n : Nat) : (s.setPhase n).l2 = s.l2 := rfl
@[simp] theorem setPhase_phase (s : State) (n : Nat) (h : n ≤ 10) : bits (s.setPhase n).sys.bootstat 0 4 = n := by
  simp only [State.setPhase]
  rw [bits_setFld_same _ _ _ _ (by omega), Nat.mod_eq_of_lt (by omega)]
@[simp] theorem setPhase_fields (s : State) (n lo k : Nat) (h : 4 ≤ lo) :
    bits (s.setPhase n).sys.bootstat lo k = bits s.sys.bootstat lo k := by
  simp only [State.setPhase]
  exact bits_setFld_ne _ _ _ _ _ _ (by omega) (by omega)

/-- Bring-up that has stopped at a step with a detail (01/R30). -/
def Failed (s' : State) (n k d : Nat) : Prop :=
  bits s'.sys.bootstat 0 4 = n ∧ bits s'.sys.bootstat 32 8 = k ∧ bits s'.sys.bootstat 16 16 = d

theorem failed_failStep (s : State) (n k d : Nat) (hn : bits s.sys.bootstat 0 4 = n) (hk : k < 256) (hd : d < 65536) :
    Failed (s.failStep k d) n k d := by
  simp [Failed, State.failStep, hn, Nat.mod_eq_of_lt hk, Nat.mod_eq_of_lt hd]

theorem exec_bringUp_step (s : State) (hh : s.board.held = false) (ht : s.board.tripped = false) (hf : bits s.sys.bootstat 32 8 = 0)
    (hn : bits s.sys.bootstat 0 4 + 1 ≤ 10) :
    exec .bringUp s = .next ((s.setPhase (bits s.sys.bootstat 0 4 + 1)).bringStep (bits s.sys.bootstat 0 4 + 1)) := by
  simp [exec, execBringUp, Board.stopped, hh, ht, fld_eq_bits, hf, Nat.not_lt.2 hn]

/-- A step has begun where its own action leaves PHASE, the failure field and memory as the step found them. -/
theorem began_of_setPhase {s s' : State} {n : Nat} (hf : bits s.sys.bootstat 32 8 = 0) (hn : n ≤ 10)
    (h0 : bits s'.sys.bootstat 0 4 = bits (s.setPhase n).sys.bootstat 0 4)
    (h32 : bits s'.sys.bootstat 32 8 = bits (s.setPhase n).sys.bootstat 32 8) (hm : s'.mem = s.mem) : Began s s' n :=
  ⟨by rw [h0, setPhase_phase s n hn], by rw [h32, setPhase_fields s n 32 8 (by omega), hf], hm⟩

/-! ### Firmware and measurement -/

theorem extend_meas_same (b : Board) (n : Nat) (x : List Byte) (h : n < b.meas.length) :
    (b.extend n x).meas.getD n [] = extends' (b.meas.getD n []) x := by
  simp [Board.extend, extends', List.getD_eq_getElem?_getD, h]
theorem extend_meas_ne (b : Board) (n k : Nat) (x : List Byte) (h : k ≠ n) : (b.extend n x).meas.getD k [] = b.meas.getD k [] := by
  simp only [Board.extend, List.getD_eq_getElem?_getD, List.getElem?_mapIdx]
  cases b.meas[k]? <;> simp [h]
@[simp] theorem extend_meas_length (b : Board) (n : Nat) (x : List Byte) : (b.extend n x).meas.length = b.meas.length := by
  simp [Board.extend]

theorem accepts_iff (b : Board) (f : FlashSlot) :
    b.accepts f = true ↔ ∃ x, f.fw = some x ∧ Config.shake256 x.key 32 = b.keyDigest ∧ Config.slhVerify x.key x.image x.sig = true ∧
      b.minVersion ≤ x.version := by
  unfold Board.accepts
  cases f.fw with
  | none => simp
  | some x => simp [and_assoc]

end Sys2Proof.Machine
end

section
namespace Sys2Proof.Machine
open Sys2Proof.Claim

/-! ### Steps 2, 3, 4, 7, 8 and 9 -/

section Steps
variable (s : State)

theorem began_setPhase (n : Nat) (hf : bits s.sys.bootstat 32 8 = 0) (hn : n ≤ 10) : Began s (s.setPhase n) n :=
  began_of_setPhase hf hn rfl rfl rfl

theorem bringStep_fuses (hf : bits s.sys.bootstat 32 8 = 0) (hm : s.board.meas.length = 8) :
    let s' := (s.setPhase 2).bringStep 2
    Began s s' 2 ∧ s'.board.meas.getD 0 [] = extends' (s.board.meas.getD 0 []) (Config.shake256 s.board.fuses 64) :=
  ⟨began_of_setPhase hf (by omega) rfl rfl rfl, extend_meas_same _ 0 _ (by simp [hm])⟩

/-- The firmware of a slot taken: it is measured, and SLOT says which. -/
theorem bringStep_takes (slot : Nat) (f : FlashSlot) (hs : slot < 2) (hf : bits s.sys.bootstat 32 8 = 0) (hm : s.board.meas.length = 8)
    (h : (s.setPhase 3).bringStep 3 =
      { s.setPhase 3 with
        board := s.board.extend 1 (Config.shake256 ((f.fw.map (·.image)).getD []) 64)
        sys := { (s.setPhase 3).sys with bootstat := setFld (s.setPhase 3).sys.bootstat 8 8 slot } }) :
    let s' := (s.setPhase 3).bringStep 3
    Began s s' 3 ∧ s'.board.meas.getD 1 [] = extends' (s.board.meas.getD 1 []) (Config.shake256 ((f.fw.map (·.image)).getD []) 64) ∧
      bits s'.sys.bootstat 8 8 = slot := by
  intro s'
  have hs' : s' = _ := h
  rw [hs']
  exact ⟨began_of_setPhase hf (by omega) (by simp) (by simp) rfl, extend_meas_same _ 1 _ (by simp [hm]),
    by simp [Nat.mod_eq_of_lt (show slot < 256 by omega)]⟩

theorem bringStep_slotA (ha : s.board.accepts s.board.slotA = true) (hf : bits s.sys.bootstat 32 8 = 0) (hm : s.board.meas.length = 8) :
    let s' := (s.setPhase 3).bringStep 3
    Began s s' 3 ∧ s'.board.meas.getD 1 [] = extends' (s.board.meas.getD 1 []) (Config.shake256 ((s.board.slotA.fw.map (·.image)).getD []) 64) ∧
      bits s'.sys.bootstat 8 8 = 0 :=
  bringStep_takes s 0 s.board.slotA (by omega) hf hm (by simp [State.bringStep, ha])

theorem bringStep_slotB (ha : s.board.accepts s.board.slotA = false) (hb : s.board.accepts s.board.slotB = true)
    (hf : bits s.sys.bootstat 32 8 = 0) (hm : s.board.meas.length = 8) :
    let s' := (s.setPhase 3).bringStep 3
    Began s s' 3 ∧ s'.board.meas.getD 1 [] = extends' (s.board.meas.getD 1 []) (Config.shake256 ((s.board.slotB.fw.map (·.image)).getD []) 64) ∧
      bits s'.sys.bootstat 8 8 = 1 :=
  bringStep_takes s 1 s.board.slotB (by omega) hf hm (by simp [State.bringStep, ha, hb])

theorem bringStep_noFirmware (ha : s.board.accepts s.board.slotA = false) (hb : s.board.accepts s.board.slotB = false) :
    Failed ((s.setPhase 3).bringStep 3) 3 3 0 := by
  rw [show (s.setPhase 3).bringStep 3 = (s.setPhase 3).failStep 3 0 by simp [State.bringStep, ha, hb]]
  exact failed_failStep _ 3 3 0 (setPhase_phase s 3 (by omega)) (by omega) (by omega)

theorem bringStep_cacheGood (h : s.board.cacheBad = none) (hf : bits s.sys.bootstat 32 8 = 0) :
    Began s ((s.setPhase 4).bringStep 4) 4 := by
  rw [show (s.setPhase 4).bringStep 4 = s.setPhase 4 by simp [State.bringStep, h]]
  exact began_setPhase s 4 hf (by omega)

theorem bringStep_cacheBad (q : Nat) (h : s.board.cacheBad = some q) (hq : q < 8) : Failed ((s.setPhase 4).bringStep 4) 4 4 q := by
  rw [show (s.setPhase 4).bringStep 4 = (s.setPhase 4).failStep 4 q by simp [State.bringStep, h]]
  exact failed_failStep _ 4 4 q (setPhase_phase s 4 (by omega)) (by omega) (by omega)

theorem bringStep_slices (hf : bits s.sys.bootstat 32 8 = 0) :
    Began s ((s.setPhase 7).bringStep 7) 7 ∧ SlicesEmpty ((s.setPhase 7).bringStep 7) s.l2.ddrBad :=
  ⟨began_of_setPhase hf (by omega) rfl rfl rfl, rfl⟩

/-- Step 8 in its place with the ports that trained in FPSTAT. -/
def State.withPorts (s : State) (mask : Nat) : State :=
  { s.setPhase 8 with sys := { (s.setPhase 8).sys with fpstat := BitVec.ofNat 64 mask } }

theorem bringStep_ports (hf : bits s.sys.bootstat 32 8 = 0) (hp : s.board.fpTrains < 2 ^ 48) :
    let s' := (s.setPhase 8).bringStep 8
    s'.sys.fpstat.toNat = s.board.fpTrains ∧ (s.board.fpTrains ≠ 0 → Began s s' 8) ∧ (s.board.fpTrains = 0 → Failed s' 8 8 0) := by
  have hmod : s.board.fpTrains % 2 ^ 48 = s.board.fpTrains := Nat.mod_eq_of_lt hp
  have hnat : (BitVec.ofNat 64 s.board.fpTrains).toNat = s.board.fpTrains := Nat.mod_eq_of_lt (by omega)
  have hstep : (s.setPhase 8).bringStep 8 =
      if s.board.fpTrains = 0 then (s.withPorts s.board.fpTrains).failStep 8 0 else s.withPorts s.board.fpTrains := by
    simp only [State.bringStep, State.withPorts, setPhase_board, hmod]
  rw [hstep]
  by_cases h0 : s.board.fpTrains = 0
  · rw [if_pos h0]
    exact ⟨hnat, fun h => absurd h0 h, fun _ => failed_failStep _ 8 8 0 (setPhase_phase s 8 (by omega)) (by omega) (by omega)⟩
  · rw [if_neg h0]
    exact ⟨hnat, fun _ => began_of_setPhase hf (by omega) rfl rfl rfl, fun h => absurd h h0⟩

theorem bringStep_runtime (hf : bits s.sys.bootstat 32 8 = 0) (hm : s.board.meas.length = 8) :
    let s' := (s.setPhase 9).bringStep 9
    Began s s' 9 ∧ s'.board.meas.getD 2 [] = extends' (s.board.meas.getD 2 []) (Config.shake256 s.board.runtime 64) ∧
      s'.board.meas.getD 3 [] = extends' (s.board.meas.getD 3 []) (Config.shake256 s.board.runtimeConf 64) := by
  refine ⟨began_of_setPhase hf (by omega) rfl rfl rfl, ?_, ?_⟩
  · exact (extend_meas_ne _ 3 2 _ (by omega)).trans (extend_meas_same _ 2 _ (by simp [hm]))
  · exact (extend_meas_same _ 3 _ (by simp [hm])).trans (by rw [extend_meas_ne _ 2 3 _ (by omega)]; rfl)

end Steps

/-! ### Step 5: the die-to-die links -/

theorem d2dPairs_find_link : ∀ a < 8, ∀ b < 8, a ≠ b → (d2dPairs.findIdx fun x => x == (min a b, max a b)) = d2dLink (min a b) (max a b) := by
  decide
theorem d2dPairs_at_link : ∀ a < 8, ∀ b < 8, a < b → d2dPairs[d2dLink a b]? = some (a, b) ∧ d2dLink a b < 28 := by decide
theorem d2dPairs_at : ∀ n < 28, ∃ a < 8, ∃ b < 8, a < b ∧ d2dLink a b = n := by decide

theorem d2dUp_iff_linked (mask a b : Nat) (ha : a < 8) (hb : b < 8) (h : a ≠ b) : d2dUp mask a b = true ↔ linked mask a b := by
  rw [d2dUp, d2dPairs_find_link a ha b hb h, bitsAt_one, linked]

theorem reached_iff (mask a b : Nat) (ha : a < 8) (hb : b < 8) (h : a ≠ b) :
    reached mask a b ↔ d2dUp mask a b = true ∨ (detour mask a b).isSome = true := by
  rw [reached, d2dUp_iff_linked mask a b ha hb h, detour, List.find?_isSome]
  refine or_congr_right (exists_congr fun c => ?_)
  simp only [List.mem_range, Bool.and_eq_true, bne_iff_ne, ne_eq]
  constructor
  · rintro ⟨hc, ha', hb', h1, h2⟩
    exact ⟨hc, ⟨⟨ha', hb'⟩, (d2dUp_iff_linked mask a c ha hc (Ne.symm ha')).2 h1⟩, (d2dUp_iff_linked mask b c hb hc (Ne.symm hb')).2 h2⟩
  · rintro ⟨hc, ⟨⟨ha', hb'⟩, h1⟩, h2⟩
    exact ⟨hc, ha', hb', (d2dUp_iff_linked mask a c ha hc (Ne.symm ha')).1 h1, (d2dUp_iff_linked mask b c hb hc (Ne.symm hb')).1 h2⟩

/-- Link n is neither trained nor has a detour (01/R8). -/
def linkFails (mask n : Nat) : Bool := (d2dPairs[n]?).any fun x => !d2dUp mask x.1 x.2 && (detour mask x.1 x.2).isNone

theorem d2dFails_eq_find (mask : Nat) : d2dFails mask = (List.range 28).find? (linkFails mask) := by
  rw [d2dFails]
  congr 1
  funext n
  rw [linkFails]
  cases d2dPairs[n]? <;> rfl

theorem linkFails_link (mask a b : Nat) (hab : a < b) (hb : b < 8) : linkFails mask (d2dLink a b) = true ↔ ¬reached mask a b := by
  rw [linkFails, (d2dPairs_at_link a (by omega) b hb hab).1, reached_iff mask a b (by omega) hb (by omega)]
  simp

theorem d2dFails_none (mask : Nat) (h : ∀ a b, a < b → b < 8 → reached mask a b) : d2dFails mask = none := by
  rw [d2dFails_eq_find, List.find?_range_eq_none]
  intro n hn
  obtain ⟨a, -, b, hb, hab, rfl⟩ := d2dPairs_at n hn
  rw [Bool.not_eq_true', ← Bool.not_eq_true, linkFails_link mask a b hab hb, not_not]
  exact h a b hab hb

theorem d2dFails_first (mask a b : Nat) (hab : a < b) (hb : b < 8) (h : ¬reached mask a b)
    (hfirst : ∀ v w, v < w → w < 8 → d2dLink v w < d2dLink a b → reached mask v w) : d2dFails mask = some (d2dLink a b) := by
  have hlt := (d2dPairs_at_link a (by omega) b hb hab).2
  rw [d2dFails_eq_find, List.find?_range_eq_some]
  refine ⟨(linkFails_link mask a b hab hb).2 h, List.mem_range.2 hlt, fun j hj => ?_⟩
  obtain ⟨v, -, w, hw, hvw, rfl⟩ := d2dPairs_at j (hj.trans hlt)
  rw [Bool.not_eq_true', ← Bool.not_eq_true, linkFails_link mask v w hvw hw, not_not]
  exact hfirst v w hvw hw hj

/-- Step 5 in its place with the links that trained in D2DSTAT. -/
def State.withD2d (s : State) (mask : Nat) : State :=
  { s.setPhase 5 with sys := { (s.setPhase 5).sys with d2dstat := BitVec.ofNat 64 mask } }

theorem bringStep_d2d_reached (s : State) (hd : s.board.d2dTrains < 2 ^ 28) (h : d2dFails s.board.d2dTrains = none) :
    (s.setPhase 5).bringStep 5 = s.withD2d s.board.d2dTrains := by
  simp only [State.bringStep, State.withD2d, setPhase_board, Nat.mod_eq_of_lt hd, h]
theorem bringStep_d2d_fails (s : State) (k : Nat) (hd : s.board.d2dTrains < 2 ^ 28) (h : d2dFails s.board.d2dTrains = some k) :
    (s.setPhase 5).bringStep 5 = (s.withD2d s.board.d2dTrains).failStep 5 k := by
  simp only [State.bringStep, State.withD2d, setPhase_board, Nat.mod_eq_of_lt hd, h]

theorem bringStep_d2d (s : State) (hf : bits s.sys.bootstat 32 8 = 0) (hd : s.board.d2dTrains < 2 ^ 28) :
    let s' := (s.setPhase 5).bringStep 5
    let mask := s.board.d2dTrains
    s'.sys.d2dstat.toNat = mask ∧ ((∀ x y, x < y → y < 8 → reached mask x y) → Began s s' 5) ∧
      (∀ x y, x < y → y < 8 → ¬reached mask x y →
        (∀ v w, v < w → w < 8 → d2dLink v w < d2dLink x y → reached mask v w) → Failed s' 5 5 (d2dLink x y)) := by
  intro s' mask
  have hnat : (BitVec.ofNat 64 mask).toNat = mask := Nat.mod_eq_of_lt (show mask < 2 ^ 64 by omega)
  refine ⟨?_, fun h => ?_, fun x y hxy hy h hfirst => ?_⟩
  · cases h : d2dFails mask with
    | none => rw [show s' = _ from bringStep_d2d_reached s hd h]; exact hnat
    | some k => rw [show s' = _ from bringStep_d2d_fails s k hd h]; exact hnat
  · rw [show s' = _ from bringStep_d2d_reached s hd (d2dFails_none mask h)]
    exact began_of_setPhase hf (by omega) rfl rfl rfl
  · rw [show s' = _ from bringStep_d2d_fails s _ hd (d2dFails_first mask x y hxy hy h hfirst)]
    have := (d2dPairs_at_link x (by omega) y hy hxy).2
    exact failed_failStep _ 5 5 _ (setPhase_phase s 5 (by omega)) (by omega) (by omega)

end Sys2Proof.Machine
end

section
namespace Sys2Proof.Machine
open Sys2Proof.Claim

/-! ### Step 6: the memory links -/

/-- A memory link is present and trained. -/
def Board.linkUp (b : Board) (k : Nat) : Bool := b.mlTrains.testBit k && !b.mlAbsent.testBit k

/-- MLSTAT as step 6 leaves it. -/
def Board.linkMask (b : Board) : Nat := ((List.range 64).map fun k => if b.linkUp k then 2 ^ k else 0).sum

theorem linkUp_eq (b : Board) (k : Nat) : (bitsAt b.mlAbsent k 1 == 0 && bitsAt b.mlTrains k 1 == 1) = b.linkUp k := by
  rw [Board.linkUp, bitsAt_one, Bool.and_comm, ← bitsAt_one b.mlAbsent]
  have : bitsAt b.mlAbsent k 1 < 2 := Nat.mod_lt _ (by omega)
  congr 1
  interval_cases bitsAt b.mlAbsent k 1 <;> rfl

theorem linkMask_testBit (b : Board) (k : Nat) : (BitVec.ofNat 64 b.linkMask).toNat.testBit k = (decide (k < 64) && b.linkUp k) := by
  obtain ⟨hlt, hbit⟩ := testBit_sum_range b.linkUp 64 k
  exact (congrArg (Nat.testBit · k) (Nat.mod_eq_of_lt hlt)).trans hbit

/-- Step 6 in its place with the links that trained in MLSTAT. -/
def State.withLinks (s : State) : State :=
  { s.setPhase 6 with sys := { (s.setPhase 6).sys with mlstat := BitVec.ofNat 64 s.board.linkMask } }

theorem bringStep_links_fails (s : State) (k : Nat) (h : (List.range 64).find? (fun k => !s.board.linkUp k) = some k) :
    (s.setPhase 6).bringStep 6 = s.withLinks.failStep 6 k := by
  simp only [State.bringStep, setPhase_board, linkUp_eq, Config.links, h]; rfl
theorem bringStep_links_up (s : State) (h : (List.range 64).find? (fun k => !s.board.linkUp k) = none) :
    (s.setPhase 6).bringStep 6 =
      { s.withLinks with
        board := { s.board with capacity := (capacityOf s.board.modules).1 }
        sys := { s.withLinks.sys with
          bootstat := setFld s.withLinks.sys.bootstat 40 1 (if (capacityOf s.board.modules).2 then 1 else 0) } } := by
  simp only [State.bringStep, setPhase_board, linkUp_eq, Config.links, h]; rfl

theorem foldl_min_le : ∀ (l : List Nat) (x : Nat), l.foldl min x ≤ x ∧ ∀ y ∈ l, l.foldl min x ≤ y
  | [], x => by simp
  | y :: l, x => by
    obtain ⟨h1, h2⟩ := foldl_min_le l (min x y)
    refine ⟨h1.trans (min_le_left _ _), fun z hz => ?_⟩
    rcases List.mem_cons.1 hz with rfl | hz
    · exact h1.trans (min_le_right _ _)
    · exact h2 z hz
theorem foldl_min_mem : ∀ (l : List Nat) (x : Nat), l.foldl min x ∈ x :: l
  | [], x => by simp
  | y :: l, x => by
    have h := foldl_min_mem l (min x y)
    rw [List.foldl_cons]
    rcases List.mem_cons.1 h with h | h
    · rw [h]; rcases min_choice x y with e | e <;> simp [e]
    · simp [h]

/-- The capacity is the least of the modules', and MIXED says that some module has another (01/R11). -/
theorem capacityOf_spec (l : List Nat) (h : l ≠ []) :
    (capacityOf l).1 ∈ l ∧ (∀ m ∈ l, (capacityOf l).1 ≤ m) ∧ ((capacityOf l).2 = true ↔ ∃ m ∈ l, m ≠ (capacityOf l).1) := by
  cases l with
  | nil => exact absurd rfl h
  | cons x r =>
    obtain ⟨hx, hr⟩ := foldl_min_le r x
    have hmem := foldl_min_mem r x
    refine ⟨hmem, fun m hm => ?_, ?_⟩
    · rcases List.mem_cons.1 hm with rfl | hm
      · exact hx
      · exact hr m hm
    · simp only [capacityOf, List.any_eq_true, bne_iff_ne, ne_eq]
      constructor
      · rintro ⟨y, hy, hne⟩
        by_cases e : x = r.foldl min x
        · exact ⟨y, List.mem_cons_of_mem _ hy, fun h => hne (h.trans e.symm)⟩
        · exact ⟨x, List.mem_cons_self .., e⟩
      · rintro ⟨m, hm, hne⟩
        by_contra hall
        push Not at hall
        have hc : r.foldl min x = x := by
          rcases List.mem_cons.1 hmem with e | e
          · exact e
          · exact hall _ e
        rcases List.mem_cons.1 hm with rfl | hm
        · exact hne hc.symm
        · exact hne ((hall m hm).trans hc.symm)

theorem bringStep_links (s : State) (hf : bits s.sys.bootstat 32 8 = 0) :
    let s' := (s.setPhase 6).bringStep 6
    let b := s.board
    (∀ k, k < 64 → s'.sys.mlstat.toNat.testBit k = (b.mlTrains.testBit k && !b.mlAbsent.testBit k)) ∧
      ((∀ k, k < 64 → b.mlTrains.testBit k = true ∧ b.mlAbsent.testBit k = false) → b.modules ≠ [] →
        Began s s' 6 ∧ s'.board.capacity ∈ b.modules ∧ (∀ m ∈ b.modules, s'.board.capacity ≤ m) ∧
        (bits s'.sys.bootstat 40 1 = 1 ↔ ∃ m ∈ b.modules, m ≠ s'.board.capacity)) ∧
      (∀ k, k < 64 → (b.mlTrains.testBit k = false ∨ b.mlAbsent.testBit k = true) →
        (∀ j, j < k → b.mlTrains.testBit j = true ∧ b.mlAbsent.testBit j = false) → Failed s' 6 6 k) := by
  intro s' b
  have hup : ∀ k, b.linkUp k = true ↔ b.mlTrains.testBit k = true ∧ b.mlAbsent.testBit k = false := fun k => by simp [Board.linkUp]
  refine ⟨fun k hk => ?_, fun hall hne => ?_, fun k hk hbad hfirst => ?_⟩
  · have : (BitVec.ofNat 64 b.linkMask).toNat.testBit k = (b.mlTrains.testBit k && !b.mlAbsent.testBit k) := by
      rw [linkMask_testBit]; simp [hk, Board.linkUp]
    cases h : (List.range 64).find? fun k => !b.linkUp k with
    | none => rw [show s' = _ from bringStep_links_up s h]; exact this
    | some j => rw [show s' = _ from bringStep_links_fails s j h]; exact this
  · have hnone : ((List.range 64).find? fun k => !b.linkUp k) = none := by
      rw [List.find?_range_eq_none]
      intro k hk
      simp [(hup k).2 (hall k hk)]
    obtain ⟨hmem, hle, hmix⟩ := capacityOf_spec b.modules hne
    rw [show s' = _ from bringStep_links_up s hnone]
    refine ⟨began_of_setPhase hf (by omega) (bits_setFld_ne _ _ _ _ _ _ (by omega) (by omega))
      (bits_setFld_ne _ _ _ _ _ _ (by omega) (by omega)) rfl, hmem, hle, ?_⟩
    rw [← hmix, bits_setFld_same _ _ _ _ (by omega)]
    cases (capacityOf s.board.modules).2 <;> simp
  · have hsome : ((List.range 64).find? fun k => !b.linkUp k) = some k := by
      rw [List.find?_range_eq_some]
      refine ⟨?_, List.mem_range.2 hk, fun j hj => by simp [(hup j).2 (hfirst j hj)]⟩
      rcases hbad with h | h <;> simp [Board.linkUp, h]
    rw [show s' = _ from bringStep_links_fails s k hsome]
    exact failed_failStep _ 6 6 k (setPhase_phase s 6 (by omega)) (by omega) (by omega)

/-- Settles O42: each kind of reset by its own lemma, and bring-up by a lemma for each of its steps. -/
theorem resetAndBringUp : Obligations.ResetAndBringUp := by
  intro s order
  refine ⟨coldReset_restarts s, coldReset_staysHeld s, warmReset_restarts s, railsGood_inOrder_or_held s order, railsDown_holds s order, ?_⟩
  intro b n fine image measured failed hh ht hf hn hm
  have hexec : exec .bringUp s = .next ((s.setPhase n).bringStep n) := exec_bringUp_step s hh ht hf hn
  clear_value n
  refine ⟨_, hexec, ?first, ?fuses, ?firmware, ?cache, ?d2d, ?links, ?slices, ?ports, ?runtime⟩
  case first => rintro (rfl | rfl) <;> exact began_setPhase s _ hf (by omega)
  all_goals rintro rfl
  case fuses => exact bringStep_fuses s hf hm
  case firmware =>
    refine ⟨fun ha => bringStep_slotA s ((accepts_iff b _).2 ha) hf hm, fun ha hb => ?_, fun ha hb => ?_⟩
    · exact bringStep_slotB s (Bool.eq_false_iff.2 (mt (accepts_iff b _).1 ha)) ((accepts_iff b _).2 hb) hf hm
    · exact bringStep_noFirmware s (Bool.eq_false_iff.2 (mt (accepts_iff b _).1 ha)) (Bool.eq_false_iff.2 (mt (accepts_iff b _).1 hb))
  case cache => exact ⟨fun hc => bringStep_cacheGood s hc hf, fun q hc hq => bringStep_cacheBad s q hc hq⟩
  case d2d => exact bringStep_d2d s hf
  case links => exact bringStep_links s hf
  case slices => exact bringStep_slices s hf
  case ports => exact bringStep_ports s hf
  case runtime => exact bringStep_runtime s hf hm

end Sys2Proof.Machine
end

section
namespace Sys2Proof.Machine
open Sys2Proof.Claim

/-! ### Power (01/R24) -/

@[simp] theorem setStep_step (s : State) (n c : Nat) : bits (s.setStep n c).sys.clkstep 0 4 = n % 16 := by simp [State.setStep]
@[simp] theorem setStep_cause (s : State) (n c : Nat) : bits (s.setStep n c).sys.clkstep 4 4 = c % 16 := by simp [State.setStep]
@[simp] theorem setStep_thermstat (s : State) (n c : Nat) : (s.setStep n c).sys.thermstat = s.sys.thermstat := by simp only [State.setStep]
@[simp] theorem setStep_floor (s : State) (n c : Nat) : bits (s.setStep n c).sys.clkstep 8 56 = bits s.sys.clkstep 8 56 := by
  simp [State.setStep]

/-- What a power reading is noted as, whatever STEP does. -/
def State.metered (s : State) (w : Nat) (history : List Nat) : State :=
  { s with board := { s.board with watts := w, power := history }, tickStart := s.msNow }

/-- The average over WINDOW of a history that holds a reading. -/
theorem powerAvg_eq (s : State) (l : List Nat) (h : l ≠ []) :
    s.powerAvg l = (l.take (max 1 (min 1000 (bits s.sys.pwrcap 16 16)))).sum / (l.take (max 1 (min 1000 (bits s.sys.pwrcap 16 16)))).length := by
  have hl : 1 ≤ (l.take (max 1 (min 1000 (bits s.sys.pwrcap 16 16)))).length := by
    have := List.length_pos_iff.2 h
    rw [List.length_take]; omega
  simp only [State.powerAvg, State.powerWindow, fld_eq_bits, Nat.max_eq_right hl]

section Tick
variable {s : State} {now : Nat} (hst : s.board.stopped = false) (hms : s.tickStart < s.msNow)
include hst hms

theorem exec_powerCapTick_over (h : bits s.sys.pwrcap 0 16 < s.powerAvg ((now :: s.board.power).take 1000)) :
    exec (.powerCapTick now) s =
      let s1 := s.metered (s.powerAvg ((now :: s.board.power).take 1000)) ((now :: s.board.power).take 1000)
      .next (if bits s.sys.clkstep 0 4 < 8 then s1.setStep (bits s.sys.clkstep 0 4 + 1) 1 else s1) :=
  (if_neg (by simp [hst, hms])).trans (if_pos h)

theorem exec_powerCapTick_low (h : ¬bits s.sys.pwrcap 0 16 < s.powerAvg ((now :: s.board.power).take 1000))
    (hl : 100 * s.powerAvg ((now :: s.board.power).take 1000) < 95 * bits s.sys.pwrcap 0 16 ∧ s.board.hottest < 1600 ∧
      s.stepFloor < s.stepNow) :
    exec (.powerCapTick now) s =
      .next ((s.metered (s.powerAvg ((now :: s.board.power).take 1000)) ((now :: s.board.power).take 1000)).setStep (s.stepNow - 1)
        (s.lowCause (s.stepNow - 1))) :=
  (if_neg (by simp [hst, hms])).trans ((if_neg h).trans (if_pos hl))

theorem exec_powerCapTick_between (h : ¬bits s.sys.pwrcap 0 16 < s.powerAvg ((now :: s.board.power).take 1000))
    (hl : ¬(100 * s.powerAvg ((now :: s.board.power).take 1000) < 95 * bits s.sys.pwrcap 0 16 ∧ s.board.hottest < 1600 ∧
      s.stepFloor < s.stepNow)) :
    exec (.powerCapTick now) s =
      .next (s.metered (s.powerAvg ((now :: s.board.power).take 1000)) ((now :: s.board.power).take 1000)) :=
  (if_neg (by simp [hst, hms])).trans ((if_neg h).trans (if_neg hl))

end Tick

theorem exec_powerCapTick_again (s : State) (now : Nat) (h : s.msNow ≤ s.tickStart) : exec (.powerCapTick now) s = .next s := by
  simp [exec, execPowerCapTick, h]
theorem exec_powerCapTick_stopped (s : State) (now : Nat) (h : s.board.stopped = true) : exec (.powerCapTick now) s = .next s := by
  simp [exec, execPowerCapTick, h]

/-- The rule of R24 for one tick, on the average of WINDOW ms. -/
theorem powerCapTick_spec (s : State) (hst : s.board.stopped = false) (now w : Nat) (hms : s.tickStart < s.msNow)
    (hw : w = s.powerAvg ((now :: s.board.power).take 1000)) :
    let step := bits s.sys.clkstep 0 4
    let floor := min 8 (bits s.sys.clkstep 8 4)
    let cap := bits s.sys.pwrcap 0 16
    let same := fun (s' : State) => bits s'.sys.clkstep 0 4 = step ∧ bits s'.sys.clkstep 4 4 = bits s.sys.clkstep 4 4
    ∃ s', exec (.powerCapTick now) s = .next s' ∧ bits s'.sys.clkstep 8 56 = bits s.sys.clkstep 8 56 ∧
      s' = { s with sys := { s.sys with clkstep := s'.sys.clkstep }
                    board := { s.board with watts := w, power := (now :: s.board.power).take 1000 }, tickStart := s.msNow } ∧
      (cap < w → step < 8 → bits s'.sys.clkstep 0 4 = step + 1 ∧ bits s'.sys.clkstep 4 4 = 1) ∧
      (cap < w → 8 ≤ step → same s') ∧
      (100 * w < 95 * cap → s.board.hottest < 1600 → floor < step → bits s'.sys.clkstep 0 4 = step - 1 ∧
        (step = 1 → bits s'.sys.clkstep 4 4 = 0)) ∧
      (w ≤ cap → (95 * cap ≤ 100 * w ∨ 1600 ≤ s.board.hottest ∨ step ≤ floor) → same s') := by
  intro step floor cap same
  have hstep : step < 16 := bits_lt s.sys.clkstep 0 4
  subst hw
  by_cases hover : cap < s.powerAvg ((now :: s.board.power).take 1000)
  · refine ⟨_, exec_powerCapTick_over hst hms hover, ?_⟩
    by_cases h8 : step < 8
    · rw [if_pos h8]
      refine ⟨setStep_floor .., rfl, fun _ _ => ⟨?_, setStep_cause ..⟩, ?_, ?_, ?_⟩
      · rw [setStep_step]; exact Nat.mod_eq_of_lt (by omega)
      all_goals intros; omega
    · rw [if_neg h8]
      refine ⟨rfl, rfl, ?_, fun _ _ => ⟨rfl, rfl⟩, ?_, ?_⟩ <;> intros <;> omega
  · by_cases hlow : 100 * s.powerAvg ((now :: s.board.power).take 1000) < 95 * cap ∧ s.board.hottest < 1600 ∧ floor < step
    · refine ⟨_, exec_powerCapTick_low hst hms hover hlow, setStep_floor .., rfl, ?_, ?_, fun _ _ _ => ⟨?_, fun h1 => ?_⟩, ?_⟩
      · intros; omega
      · intros; omega
      · rw [setStep_step]; exact Nat.mod_eq_of_lt (show step - 1 < 16 by omega)
      · rw [setStep_cause, show s.stepNow = 1 from h1]; rfl
      · intros; omega
    · refine ⟨_, exec_powerCapTick_between hst hms hover hlow, rfl, rfl, ?_, ?_, ?_, fun _ _ => ⟨rfl, rfl⟩⟩ <;> intros <;> omega

/-! ### Temperature (01/R25) -/

section Note
variable (s : State) (temp panel : Nat)

@[simp] theorem noteTemp_temp (h : temp < 65536) : bits (s.noteTemp temp panel).sys.thermstat 0 16 = temp := by
  simp only [State.noteTemp]; simp [Nat.mod_eq_of_lt h]
@[simp] theorem noteTemp_panel (h : panel < 256) : bits (s.noteTemp temp panel).sys.thermstat 24 8 = panel := by
  simp only [State.noteTemp]; simp [Nat.mod_eq_of_lt h]
theorem noteTemp_hot : bits (s.noteTemp temp panel).sys.thermstat 32 1 = if 1600 ≤ temp then 1 else bits s.sys.thermstat 32 1 := by
  have := bits_lt s.sys.thermstat 32 1
  simp only [State.noteTemp, fld_eq_bits]
  rw [bits_setFld_same _ _ _ _ (by omega)]
  split <;> omega
@[simp] theorem noteTemp_above : bits (s.noteTemp temp panel).sys.thermstat 33 31 = bits s.sys.thermstat 33 31 := by
  simp only [State.noteTemp]
  rw [bits_setFld_ne _ _ _ _ _ _ (by omega) (by omega), bits_setFld_ne _ _ _ _ _ _ (by omega) (by omega),
    bits_setFld_ne _ _ _ _ _ _ (by omega) (by omega)]
/-- Of the registers a reading changes THERMSTAT alone; its new value stays opaque, for the kernel's sake. -/
theorem noteTemp_registers : ∃ x b, s.noteTemp temp panel = { s with board := b, sys := { s.sys with thermstat := x } } := ⟨_, _, rfl⟩
@[simp] theorem noteTemp_clkstep : (s.noteTemp temp panel).sys.clkstep = s.sys.clkstep := by
  obtain ⟨x, b, h⟩ := noteTemp_registers s temp panel
  rw [h]

/-- A reading that raised STEP, or would have: the ms of it is noted. -/
def State.noteHot : State :=
  { s.noteTemp temp panel with board := { (s.noteTemp temp panel).board with thermMs := s.msNow } }

@[simp] theorem noteHot_thermstat : (s.noteHot temp panel).sys.thermstat = (s.noteTemp temp panel).sys.thermstat := by
  simp only [State.noteHot]
@[simp] theorem noteHot_clkstep : (s.noteHot temp panel).sys.clkstep = s.sys.clkstep := by
  simp only [State.noteHot, noteTemp_clkstep]

variable (hst : s.board.stopped = false)
include hst

theorem exec_thermalTick_noted (h : temp < 1840) (h' : temp < 1600 ∨ s.msNow ≤ s.board.thermMs) :
    exec (.thermalThrottleTick temp panel) s = .next (s.noteTemp temp panel) := by
  simp [exec, execThermalThrottleTick, hst, Nat.not_le.2 h, h']
theorem exec_thermalTick_throttles (h : temp < 1840) (h' : ¬(temp < 1600 ∨ s.msNow ≤ s.board.thermMs)) :
    exec (.thermalThrottleTick temp panel) s =
      .next (if bits s.sys.clkstep 0 4 < 8 then (s.noteHot temp panel).setStep (bits s.sys.clkstep 0 4 + 1) 2
        else s.noteHot temp panel) := by
  simp only [exec, execThermalThrottleTick, hst, Bool.false_eq_true, if_false, if_neg (Nat.not_le.2 h),
    if_neg h', State.stepNow, fld_eq_bits]
  rfl
theorem exec_thermalTick_trips (h : 1840 ≤ temp) : exec (.thermalThrottleTick temp panel) s = .next (s.trip temp panel) := by
  simp [exec, execThermalThrottleTick, hst, h]
theorem exec_thermalTrip_trips (h : 1840 ≤ temp) : exec (.thermalTrip temp panel) s = .next (s.trip temp panel) := by
  simp [exec, execThermalTrip, hst, Nat.not_lt.2 h]
omit hst in
theorem exec_thermalTrip_below (h : temp < 1840) : exec (.thermalTrip temp panel) s = .next s := by
  simp [exec, execThermalTrip, h]

theorem thermalTick_spec (hT : temp < 1840) (hP : panel < 8) :
    let step := bits s.sys.clkstep 0 4
    let same := fun (s' : State) => bits s'.sys.clkstep 0 4 = step ∧ bits s'.sys.clkstep 4 4 = bits s.sys.clkstep 4 4
    ∃ s', exec (.thermalThrottleTick temp panel) s = .next s' ∧ bits s'.sys.thermstat 0 16 = temp ∧ bits s'.sys.thermstat 24 8 = panel ∧
      (1600 ≤ temp → bits s'.sys.thermstat 32 1 = 1) ∧ (temp < 1600 → bits s'.sys.thermstat 32 1 = bits s.sys.thermstat 32 1) ∧
      bits s'.sys.thermstat 33 31 = bits s.sys.thermstat 33 31 ∧ bits s'.sys.clkstep 8 56 = bits s.sys.clkstep 8 56 ∧
      (1600 ≤ temp ∧ step < 8 ∧ s.board.thermMs < s.msNow →
        bits s'.sys.clkstep 0 4 = step + 1 ∧ bits s'.sys.clkstep 4 4 = 2 ∧ s'.board.thermMs = s.msNow) ∧
      (temp < 1600 ∨ 8 ≤ step ∨ s.msNow ≤ s.board.thermMs → same s') := by
  intro step same
  have hnote : bits (s.noteTemp temp panel).sys.thermstat 0 16 = temp ∧ bits (s.noteTemp temp panel).sys.thermstat 24 8 = panel ∧
      (1600 ≤ temp → bits (s.noteTemp temp panel).sys.thermstat 32 1 = 1) ∧
      (temp < 1600 → bits (s.noteTemp temp panel).sys.thermstat 32 1 = bits s.sys.thermstat 32 1) ∧
      bits (s.noteTemp temp panel).sys.thermstat 33 31 = bits s.sys.thermstat 33 31 :=
    ⟨noteTemp_temp s temp panel (by omega), noteTemp_panel s temp panel (by omega), fun h => by rw [noteTemp_hot, if_pos h],
      fun h => by rw [noteTemp_hot, if_neg (by omega)], noteTemp_above s temp panel⟩
  obtain ⟨h1, h2, h3, h4, h5⟩ := hnote
  have hsame : ∀ s' : State, s'.sys.clkstep = s.sys.clkstep → same s' :=
    fun s' h => ⟨congrArg (bits · 0 4) h, congrArg (bits · 4 4) h⟩
  by_cases hq : temp < 1600 ∨ s.msNow ≤ s.board.thermMs
  · exact ⟨_, exec_thermalTick_noted s temp panel hst hT hq, h1, h2, h3, h4, h5, by rw [noteTemp_clkstep], by omega,
      fun _ => hsame _ (noteTemp_clkstep s temp panel)⟩
  · refine ⟨_, exec_thermalTick_throttles s temp panel hst hT hq, ?_⟩
    by_cases h8 : step < 8
    · rw [if_pos h8]
      rw [setStep_thermstat, noteHot_thermstat, setStep_floor, noteHot_clkstep, setStep_step, setStep_cause]
      exact ⟨h1, h2, h3, h4, h5, rfl, fun _ => ⟨Nat.mod_eq_of_lt (by omega), rfl, rfl⟩, by omega⟩
    · rw [if_neg h8, noteHot_thermstat]
      exact ⟨h1, h2, h3, h4, h5, by rw [noteHot_clkstep], by omega, fun _ => hsame _ (noteHot_clkstep s temp panel)⟩

theorem thermalTrip_halts (hT : 1840 ≤ temp) (hB : temp < 65536) :
    ∃ s', exec (.thermalTrip temp panel) s = .next s' ∧ exec (.thermalThrottleTick temp panel) s = .next s' ∧ s'.board.tripped = true ∧
      bits s'.sys.thermstat 0 16 = temp ∧ ∀ n : Nat, exec (.powerCapTick n) s' = .next s' :=
  ⟨_, exec_thermalTrip_trips s temp panel hst hT, exec_thermalTick_trips s temp panel hst hT, rfl, noteTemp_temp s temp panel hB,
    fun n => exec_powerCapTick_stopped _ n (Bool.or_true _)⟩

end Note

/-! ### Voltage (01/R22) -/

theorem bump_getD (l : List Nat) (n k : Nat) (f : Nat → Nat) (h : n < l.length) :
    (bump l n f).getD k 0 = if k = n then f (l.getD n 0) else l.getD k 0 := by
  simp only [bump, List.getD_eq_getElem?_getD, List.getElem?_mapIdx]
  by_cases hk : k = n
  · subst hk; simp [h]
  · simp only [if_neg hk]; cases l[k]? <;> rfl

theorem adaptiveVoltage_follows (s : State) (k mv : Nat) (hk : k < 8) (hv : s.board.volts.length = 8) :
    ∃ s', exec (.adaptiveVoltageRequest k mv) s = .next s' ∧ s' = { s with board := { s.board with volts := s'.board.volts } } ∧
      ∀ j, j < 8 → s'.board.volts.getD j 0 = if j = k ∧ 650 ≤ mv ∧ mv ≤ 850 then mv else s.board.volts.getD j 0 := by
  by_cases h : 650 ≤ mv ∧ mv ≤ 850
  · refine ⟨{ s with board := { s.board with volts := bump s.board.volts k fun _ => mv } },
      by simp [exec, execAdaptiveVoltageRequest, h], rfl, fun j _ => ?_⟩
    simp only [bump_getD _ _ _ _ (hv ▸ hk), h, and_true, and_self]
  · exact ⟨s, by simp only [exec, execAdaptiveVoltageRequest, if_neg h], rfl, fun j _ => by rw [if_neg fun e => h e.2]⟩

/-! ### The side-band and attestation (01/R27, 03/R70, R72) -/

theorem sensors_length (s : State) : s.sensors.length = 160 := by simp [State.sensors]
theorem sensors_le (s : State) : ∀ x ∈ s.sensors, x ≤ s.board.hottest := by
  simp only [State.sensors, List.mem_map]
  rintro x ⟨k, -, rfl⟩
  split
  · exact le_rfl
  · exact min_le_left _ _
/-- One sensor of the panel that THERMSTAT names reads the hottest value. -/
theorem sensors_hottest (s : State) (h : bits s.sys.thermstat 24 8 < 8) :
    ∃ k, k < 20 ∧ s.sensors.getD (20 * bits s.sys.thermstat 24 8 + k) 0 = s.board.hottest := by
  have hk : (s.freeWord 3000).toNat % 20 < 20 := Nat.mod_lt _ (by omega)
  refine ⟨_, hk, ?_⟩
  have hlt : 20 * bits s.sys.thermstat 24 8 + (s.freeWord 3000).toNat % 20 < 160 := by omega
  simp [State.sensors, fld_eq_bits, List.getD_eq_getElem?_getD, hlt]

section Sideband
variable {s : State} (hb : s.sideband = true)
include hb

theorem exec_pldmMonitor_unsupported (t c : Nat) (h2 : t ≠ 2) (h5 : t ≠ 5) :
    exec (.pldmMonitorRequest t c) s = .next (s.reply .unsupported) := by
  simp [exec, execPldmMonitorRequest, hb, h2, h5]
theorem exec_pldmMonitor_readings (c : Nat) :
    exec (.pldmMonitorRequest 2 c) s = .next (s.reply (.monitor s.sensors s.board.watts (bits s.sys.clkstep 0 4) s.sys.d2dstat.toNat
      s.sys.mlstat.toNat s.sys.fpstat.toNat)) := by
  simp [exec, execPldmMonitorRequest, hb, State.stepNow, fld_eq_bits]
theorem exec_pldmUpdate_refused (slot : Nat) (fw : Firmware) (raise : Nat) (h : s.board.accepts { fw := some fw } = false) :
    exec (.pldmFirmwareUpdate slot fw raise) s = .next (s.reply (.refused slot)) := by
  simp [exec, execPldmFirmwareUpdate, hb, h]
theorem pldmUpdate_writes (slot : Nat) (fw : Firmware) (raise : Nat) (h : s.board.accepts { fw := some fw } = true) :
    ∃ s', exec (.pldmFirmwareUpdate slot fw raise) s = .next s' ∧ s'.board.replies = s.board.replies ++ [.updated slot] ∧
      (slot = 0 → s'.board.slotA = { fw := some fw } ∧ s'.board.slotB = s.board.slotB) ∧
      (slot = 1 → s'.board.slotB = { fw := some fw } ∧ s'.board.slotA = s.board.slotA) ∧ s.board.minVersion ≤ s'.board.minVersion := by
  refine ⟨_, (if_neg (by simp [hb])).trans (if_neg (by simp [h])), ?_⟩
  by_cases h0 : slot = 0
  · simp only [State.reply, if_pos h0]
    refine ⟨trivial, fun _ => ⟨trivial, trivial⟩, by omega, ?_⟩
    split <;> omega
  · simp only [State.reply, if_neg h0]
    refine ⟨trivial, by omega, fun _ => ⟨trivial, trivial⟩, ?_⟩
    split <;> omega
theorem exec_attestationQuote_signed (nonce : List Byte) (h : nonce.length = 32) :
    ∃ sig, exec (.attestationQuote nonce) s =
      .next (s.reply (.quote (leBytes 4 1 ++ nonce ++ s.board.meas.flatten ++
        Config.identityKey s.board.secret (s.board.meas.headD []) ++ sig))) := by
  have hn : (nonce ++ zeros 32).take 32 = nonce := by rw [← h, List.take_left]
  refine ⟨Config.slhSign (Config.identitySecret s.board.secret (s.board.meas.headD [])) (leBytes 4 1 ++ nonce ++ s.board.meas.flatten ++
    Config.identityKey s.board.secret (s.board.meas.headD [])), ?_⟩
  simp only [exec, execAttestationQuote, hb, hn, Bool.not_true, Bool.false_eq_true, if_false]

end Sideband

/-- Settles O43: a lemma for each unit, and the average over WINDOW of R24 as the model computes it. -/
theorem powerAndSideband : Obligations.PowerAndSideband := by
  intro s hh ht step cause floor cap same ms
  have hst : s.board.stopped = false := by simp [Board.stopped, hh, ht]
  refine ⟨fun now hms => ?power, fun now hms => exec_powerCapTick_again s now hms, fun t k hT hP => ?thermal,
    fun k mv hk hv => adaptiveVoltage_follows s k mv hk hv, fun hphase => ?sideband⟩
  case power => exact powerCapTick_spec s hst now _ hms (powerAvg_eq s _ (by simp)).symm
  case thermal =>
    exact ⟨fun h => thermalTick_spec s t k hst h hP, fun h => thermalTrip_halts s t k hst h hT, exec_thermalTrip_below s t k⟩
  case sideband =>
    have hb : s.sideband = true := by simp [State.sideband, hst, fld_eq_bits, hphase]
    intro gives
    refine ⟨fun t c h2 h5 => exec_pldmMonitor_unsupported hb t c h2 h5,
      fun c => ⟨s.sensors, sensors_length s, sensors_le s, sensors_hottest s, exec_pldmMonitor_readings hb c⟩,
      fun slot fw raise _ => ?_, fun nonce hn => ?_⟩
    · have hacc : s.board.accepts { fw := some fw } = true ↔ Config.shake256 fw.key 32 = s.board.keyDigest ∧
          Config.slhVerify fw.key fw.image fw.sig = true ∧ s.board.minVersion ≤ fw.version := by simp [accepts_iff]
      exact ⟨fun hbad => exec_pldmUpdate_refused hb slot fw raise (Bool.eq_false_iff.2 (mt hacc.1 hbad)),
        fun hgood => pldmUpdate_writes hb slot fw raise (hacc.2 hgood)⟩
    · obtain ⟨sig, hq⟩ := exec_attestationQuote_signed hb nonce hn
      exact ⟨_, sig, hq, rfl⟩

end Sys2Proof.Machine
end

section
namespace Sys2Proof.Machine
open Sys2Proof.Claim

/-! ### Launch requests (03/R58 to R61): the lanes that an instruction acts for -/

/-- The order of lanes lists the 32 lanes of a group, and no other number. -/
theorem laneOrder_eq_nil (l : List Tid) (h : ∀ i ∈ l, 32 ≤ i.lane) : laneOrder l = [] := by
  rw [laneOrder, List.flatMap_eq_nil_iff]
  intro k hk
  rw [List.filter_eq_nil_iff]
  intro i hi
  have := h i hi
  have := List.mem_range.1 hk
  simp only [beq_iff_eq]
  omega

/-- An instruction whose lanes act in turn does nothing for a thread whose lane is no lane of a group. -/
theorem foldLanes_of_lanes_ge (s : State) (p : Pre) (g : State → Thread → State × Lane) (hp : permuted p = false)
    (h : ∀ i ∈ s.issue, 32 ≤ i.lane) : s.foldLanes p g = s.settle s.issue := by
  rw [State.foldLanes, State.foldOnly, State.actors, if_neg (by simp [hp]), if_neg (by simp [hp]), laneOrder_eq_nil _ h, List.foldl_nil]

/-- A thread in the first lane number past a group's 32. -/
def strayThread : Thread := { placedThread 1 0 0 with id := { core := 0, slot := 0, lane := 32 } }

/-- The stray thread alone issues, with a fence of its own in flight. -/
def strayState : State :=
  { State.reset with
    grids := [placedGrid 1], teams := [placedTeam 1 1], threads := [strayThread], issue := [strayThread.id]
    ops := [{ id := 0, tid := strayThread.id, depth := 0, flag := none, writes := [], astat := 0#6, src := .fence, acc := none, dead := false }] }

theorem strayThread_alone : Alone strayState plainPre strayThread where
  listed := by decide +kernel
  issued := by decide +kernel
  form := by decide +kernel
  passes := by decide +kernel
  alone := by decide +kernel
  ready := by decide +kernel
  stands := fun h => absurd h (by decide)

theorem strayThread_run : ((strayState.settle strayState.issue).thread strayThread.id).run = .ready := by decide +kernel

/-- Refutes O52: nothing in its hypotheses bounds a thread's lane, and an instruction whose lanes act in turn acts for lanes 0 to 31
only; so a LAUNCH of a thread in lane 32 that waits for a fence is not held. A thread that a team starts has a lane below 32: the clause fails
for want of a bound on the lane, not for what a LAUNCH does in a lane of a group. -/
theorem not_launches : ¬ Obligations.Launches := by
  intro h
  obtain ⟨-, waits, -⟩ := h strayState [] 0
  obtain ⟨s', hs, hheld, -, -⟩ := waits plainPre 254 2 strayThread strayThread_alone (by decide +kernel) (by decide +kernel)
    (by decide +kernel)
  have hexec : exec (.launch plainPre 254 2) strayState = .next (strayState.settle strayState.issue) :=
    congrArg Host.Outcome.next (foldLanes_of_lanes_ge strayState plainPre _ rfl (by decide +kernel))
  rw [hexec] at hs
  obtain rfl := Host.Outcome.next.inj hs
  rw [strayThread_run] at hheld
  exact absurd hheld (by decide)

end Sys2Proof.Machine
end

section
namespace Sys2Proof.Machine
open Sys2Proof.Claim

/-! ### Lists keyed by a name -/

section Keyed
variable {α : Type} {β : Type} [BEq β] [LawfulBEq β] (key : α → β)

theorem find?_putBy_same (x : α) : ∀ l : List α, (putBy (fun y => key y == key x) x l).find? (fun y => key y == key x) = some x
  | [] => by simp [putBy]
  | y :: l => by
    rw [putBy]
    split
    · simp
    · rename_i h; rw [List.find?_cons_of_neg (by exact h), find?_putBy_same x l]

theorem find?_putBy_ne (x : α) (b : β) (hb : key x ≠ b) :
    ∀ l : List α, (putBy (fun y => key y == key x) x l).find? (fun y => key y == b) = l.find? fun y => key y == b
  | [] => by simp [putBy, hb]
  | y :: l => by
    rw [putBy]
    split
    · rename_i h
      rw [List.find?_cons_of_neg (by simpa using hb), List.find?_cons_of_neg (by simpa [eq_of_beq h] using hb)]
    · rw [List.find?_cons, List.find?_cons, find?_putBy_ne x b hb l]

theorem find?_foldl_putBy_ne (b : β) : ∀ (d l : List α), (∀ y ∈ d, key y ≠ b) →
    (d.foldl (fun l x => putBy (fun y => key y == key x) x l) l).find? (fun y => key y == b) = l.find? fun y => key y == b
  | [], _, _ => rfl
  | x :: d, l, h => by
    rw [List.foldl_cons, find?_foldl_putBy_ne b d _ fun y hy => h y (List.mem_cons_of_mem _ hy),
      find?_putBy_ne key x b (h x List.mem_cons_self)]

/-- Of a row of writes the last one to a name is the one found there. -/
theorem find?_foldl_putBy_last (a c l : List α) (x : α) (h : ∀ y ∈ c, key y ≠ key x) :
    ((a ++ x :: c).foldl (fun l x => putBy (fun y => key y == key x) x l) l).find? (fun y => key y == key x) = some x := by
  rw [List.foldl_append, List.foldl_cons, find?_foldl_putBy_ne key _ c _ h, find?_putBy_same]

end Keyed

/-! ### Ports (02/R41, R42; 01/R16) -/

theorem port_num (s : State) (n : Nat) : (s.port n).num = n := by
  rw [State.port]
  cases h : s.fabric.ports.find? fun x => x.num == n with
  | none => rfl
  | some x => exact eq_of_beq (List.find?_some h :)

theorem port_editPort_same (s : State) (n : Nat) (f : Port → Port) (h : (f (s.port n)).num = n) : (s.editPort n f).port n = f (s.port n) := by
  have := find?_putBy_same Port.num (f (s.port n)) s.fabric.ports
  rw [h] at this
  rw [State.port, State.editPort, this, Option.getD_some]


/-- What leaves a port and what stays are what was queued. -/
theorem mem_pumpGo (x : Nat × Packet) : ∀ (credits stopped : List Nat) (q : List (Nat × Packet)), x ∈ q →
    x.2 ∈ (pumpGo credits stopped q).2.1 ∨ x ∈ (pumpGo credits stopped q).2.2
  | credits, stopped, (vc, k) :: q, h => by
    rw [pumpGo]
    split <;> rcases List.mem_cons.1 h with rfl | h
    · simp
    · have := mem_pumpGo x credits (vc :: stopped) q h; simp only [List.mem_cons]; tauto
    · simp
    · have := mem_pumpGo x (bump credits vc (· - (1 + k.len))) stopped q h; simp only [List.mem_cons]; tauto

/-- A packet sent on a port: it is listed as sent, and has entered the bolt at the port's cable. -/
def State.sendOn (p : Nat) (s : State) (k : Packet) : State :=
  { s with fabric := { s.fabric with sent := s.fabric.sent ++ [(p, k)], bolts := s.intoBolts p k } }

theorem pump_eq (s : State) (p : Nat) :
    s.pump p = (pumpGo (s.port p).credits [] (s.port p).queue).2.1.foldl (State.sendOn p) (s.editPort p fun x =>
      { x with credits := (pumpGo (s.port p).credits [] (s.port p).queue).1, queue := (pumpGo (s.port p).credits [] (s.port p).queue).2.2 }) := rfl

/-- Sending changes what is sent and the bolts, nothing else. -/
theorem foldl_sendOn (p : Nat) : ∀ (l : List Packet) (s : State), ∃ bolts, l.foldl (State.sendOn p) s =
    { s with fabric := { s.fabric with sent := s.fabric.sent ++ l.map (p, ·), bolts := bolts } }
  | [], s => ⟨s.fabric.bolts, by simp⟩
  | k :: l, s => by
    obtain ⟨b, h⟩ := foldl_sendOn p l (s.sendOn p k)
    refine ⟨b, ?_⟩
    rw [List.foldl_cons, h]
    simp [State.sendOn]

/-- What a port that sends changes: its own credits and queue, what is sent, and the bolts. -/
theorem pump_fabric (s : State) (p : Nat) : ∃ bolts, s.pump p =
    let r := pumpGo (s.port p).credits [] (s.port p).queue
    let s1 := s.editPort p fun x => { x with credits := r.1, queue := r.2.2 }
    { s1 with fabric := { s1.fabric with sent := s.fabric.sent ++ r.2.1.map (p, ·), bolts := bolts } } := by
  rw [pump_eq]
  exact foldl_sendOn p _ _

theorem pump_eq_fabric (s : State) (p : Nat) : s.pump p = { s with fabric := (s.pump p).fabric } := by
  obtain ⟨b, h⟩ := pump_fabric s p
  rw [h]; rfl
theorem enqueue_eq_fabric (s : State) (p : Nat) (k : Packet) : s.enqueue p k = { s with fabric := (s.enqueue p k).fabric } := by
  rw [State.enqueue, pump_eq_fabric]; rfl
@[simp] theorem enqueue_sys (s : State) (p : Nat) (k : Packet) : (s.enqueue p k).sys = s.sys := by rw [enqueue_eq_fabric]

/-- A packet put on a port is sent, or stays in its queue. -/
theorem leaves_enqueue (s : State) (p : Nat) (k : Packet) : Leaves (s.enqueue p k) k := by
  let s1 := s.editPort p fun x => { x with queue := x.queue ++ [(vcOf k, k)] }
  have hq : (s1.port p).queue = (s.port p).queue ++ [(vcOf k, k)] := congrArg Port.queue (port_editPort_same s p _ (port_num s p))
  obtain ⟨b, hb⟩ := pump_fabric s1 p
  rw [State.enqueue, show (s.editPort p fun x => { x with queue := x.queue ++ [(vcOf k, k)] }) = s1 from rfl, hb]
  refine ⟨p, vcOf k, ?_⟩
  rcases mem_pumpGo (vcOf k, k) (s1.port p).credits [] (s1.port p).queue (by simp [hq]) with h | h
  · exact Or.inl (List.mem_append_right _ (List.mem_map_of_mem h))
  · refine Or.inr ?_
    have hp := congrArg Port.queue (port_editPort_same s1 p (fun x =>
      { x with credits := (pumpGo (s1.port p).credits [] (s1.port p).queue).1, queue := (pumpGo (s1.port p).credits [] (s1.port p).queue).2.2 })
      (port_num s1 p))
    exact hp.symm ▸ h

end Sys2Proof.Machine
end

section
namespace Sys2Proof.Machine
open Sys2Proof.Claim

/-! ### Ports going down, and credits that come back (01/R16; 02/R41, R42) -/

theorem testBit_clearBit (x : DWord) (n j : Nat) (hn : n < 64) :
    (setFld x n 1 0).toNat.testBit j = (x.toNat.testBit j && j != n) := by
  rw [testBit_setFld x n 1 0 j (by omega)]
  by_cases h : j = n
  · subst h; simp
  · rw [if_neg (by omega)]; simp [h]

theorem fabricFlitRetry_counts (s : State) (n : Nat) (h : s.sys.fpstat.toNat.testBit n = true) :
    ∃ s', exec (.fabricFlitRetry n) s = .next s' ∧ s' = { s with sys := { s.sys with fperr := s'.sys.fperr } } ∧
      bits s'.sys.fperr 32 16 = min 0xFFFF (bits s.sys.fperr 32 16 + 1) := by
  have hup : s.portUp n = true := by rw [State.portUp, bitsAt_one, h]
  refine ⟨s.fperr fpLINKRETRY, congrArg Host.Outcome.next (if_pos hup), rfl, ?_⟩
  rw [State.fperr, fpLINKRETRY, bits_setFld_same _ _ _ _ (by omega)]
  exact Nat.mod_eq_of_lt (by rw [satAdd]; omega)

/-- What a port that goes down does with a queued packet: a LOSSY one is lost, another is queued where it may go. -/
def State.requeue (s : State) (x : Nat × Packet) : State :=
  if x.1 = 2 then s else match s.firstHop x.2 with
    | none => s
    | some p => s.enqueue p x.2

/-- The port out of FPSTAT, its queue empty. -/
def State.portCut (s : State) (n : Nat) : State :=
  ({ s with sys := { s.sys with fpstat := setFld s.sys.fpstat n 1 0 } } : State).editPort n fun p => { p with queue := [] }

theorem exec_fabricPortDown (s : State) (n : Nat) :
    exec (.fabricPortDown n) s = .next ((s.port n).queue.foldl State.requeue (s.portCut n)) := rfl

theorem requeue_lossy (s : State) (x : Nat × Packet) (h : x.1 = 2) : s.requeue x = s := if_pos h
theorem requeue_hop (s : State) (x : Nat × Packet) (p : Nat) (h : x.1 ≠ 2) (hp : s.firstHop x.2 = some p) :
    s.requeue x = s.enqueue p x.2 := by rw [State.requeue, if_neg h, hp]
@[simp] theorem requeue_sys (s : State) (x : Nat × Packet) : (s.requeue x).sys = s.sys := by
  rw [State.requeue]
  split
  · rfl
  · split <;> simp
theorem foldl_requeue_sys : ∀ (l : List (Nat × Packet)) (s : State), (l.foldl State.requeue s).sys = s.sys
  | [], _ => rfl
  | x :: l, s => by rw [List.foldl_cons, foldl_requeue_sys l, requeue_sys]
theorem foldl_requeue_lossy : ∀ (l : List (Nat × Packet)) (s : State), (∀ x ∈ l, x.1 = 2) → l.foldl State.requeue s = s
  | [], _, _ => rfl
  | x :: l, s, h => by
    rw [List.foldl_cons, requeue_lossy s x (h x List.mem_cons_self), foldl_requeue_lossy l s fun y hy => h y (List.mem_cons_of_mem _ hy)]

theorem portCut_fpstat (s : State) (n j : Nat) (hn : n < 64) :
    (s.portCut n).sys.fpstat.toNat.testBit j = (s.sys.fpstat.toNat.testBit j && j != n) := testBit_clearBit _ _ _ hn
theorem portCut_queue (s : State) (n : Nat) : ((s.portCut n).port n).queue = [] :=
  congrArg Port.queue (port_editPort_same { s with sys := { s.sys with fpstat := setFld s.sys.fpstat n 1 0 } } n
    (fun p => { p with queue := [] }) (port_num _ n))
theorem portCut_sent (s : State) (n : Nat) : (s.portCut n).fabric.sent = s.fabric.sent := rfl
theorem portCut_routeMask (s : State) (n dst : Nat) : (s.portCut n).routeMask dst = s.routeMask dst := rfl

theorem leastCost_isSome (cost : Nat → Nat) : ∀ l : List Nat, l ≠ [] → (leastCost cost l).isSome = true
  | [], h => absurd rfl h
  | p :: l, _ => by
    rw [leastCost]
    split
    · rfl
    · split <;> rfl

theorem mem_candidates (s : State) (dst q : Nat) :
    q ∈ s.candidates dst ↔ q < 48 ∧ (s.routeMask dst).testBit q = true ∧ s.sys.fpstat.toNat.testBit q = true := by
  simp [State.candidates, bitsAt_one, Nat.testBit_and, Config.ports]

/-- A packet that a trained port of its route table can take has a first hop. -/
theorem firstHop_isSome (s : State) (k : Packet) (q : Nat) (h : q ∈ s.candidates k.dst) : (s.firstHop k).isSome = true := by
  rw [State.firstHop]
  split
  · rfl
  · exact leastCost_isSome _ _ (List.ne_nil_of_mem h)

theorem fabricPortDown_spec (s : State) (n : Nat) (hn : n < 48) : ∃ s', exec (.fabricPortDown n) s = .next s' ∧
    (∀ j, j < 64 → s'.sys.fpstat.toNat.testBit j = (s.sys.fpstat.toNat.testBit j && j != n)) ∧
    ((∀ x ∈ (s.port n).queue, x.1 = 2) → (s'.port n).queue = [] ∧ s'.fabric.sent = s.fabric.sent) ∧
    (∀ k, (s.port n).queue = [(vcOf k, k)] → vcOf k ≠ 2 →
      (∃ q, q < 48 ∧ q ≠ n ∧ (s.routeMask k.dst).testBit q = true ∧ s.sys.fpstat.toNat.testBit q = true) → Leaves s' k) := by
  refine ⟨_, exec_fabricPortDown s n, fun j _ => ?_, fun h => ?_, fun k hq hvc hport => ?_⟩
  · rw [foldl_requeue_sys, portCut_fpstat s n j (by omega)]
  · rw [foldl_requeue_lossy _ _ h]
    exact ⟨portCut_queue s n, portCut_sent s n⟩
  · obtain ⟨q, hlt, hne, hroute, hup⟩ := hport
    have hcand : q ∈ (s.portCut n).candidates k.dst :=
      (mem_candidates _ _ _).2 ⟨hlt, portCut_routeMask s n k.dst ▸ hroute, by rw [portCut_fpstat s n q (by omega), hup]; simpa using hne⟩
    obtain ⟨p, hp⟩ := Option.isSome_iff_exists.1 (firstHop_isSome _ k q hcand)
    rw [hq, List.foldl_cons, List.foldl_nil, requeue_hop _ _ p hvc hp]
    exact leaves_enqueue _ p k

/-- A port with credits added and depths noted. -/
def Port.released (p : Port) (flit : Nat) : Port :=
  { p with credits := p.credits.mapIdx fun i c => c + nth ((List.range 4).map fun vc => bitsAt flit (224 + 8 * vc) 8) i
           depths := (flitDepths flit).foldl (fun l d => putBy (fun x => x.1 == d.1) d l) p.depths }

theorem released_credits (p : Port) (flit vc : Nat) (hlen : p.credits.length = 4) (h : vc < 4) :
    (p.released flit).credits.getD vc 0 = p.credits.getD vc 0 + flit / 2 ^ (224 + 8 * vc) % 256 := by
  simp [Port.released, nth, List.getD_eq_getElem?_getD, hlen, h, bitsAt]

/-- The depth that a flit reports last for a node is the one noted. -/
theorem released_depths (p : Port) (flit i : Nat) (hi : i < 7) (hnode : bitsAt flit (208 - 24 * i) 16 ≠ 0xFFFF)
    (hlast : ∀ j, i < j → j < 7 → bitsAt flit (208 - 24 * j) 16 ≠ bitsAt flit (208 - 24 * i) 16) :
    (p.released flit).depths.find? (fun x => x.1 == bitsAt flit (208 - 24 * i) 16) =
      some (bitsAt flit (208 - 24 * i) 16, bitsAt flit (200 - 24 * i) 8) := by
  let entry := fun k => (bitsAt flit (208 - 24 * k) 16, bitsAt flit (200 - 24 * k) 8)
  have hr : List.range 7 = List.range i ++ i :: List.range' (i + 1) (6 - i) := by
    have h : List.range' 0 i ++ List.range' (0 + i) (6 - i + 1) = List.range' 0 (i + (6 - i + 1)) := List.range'_append_1
    rw [List.range'_succ, Nat.zero_add, show i + (6 - i + 1) = 7 by omega] at h
    rw [List.range_eq_range', List.range_eq_range', h]
  have hsplit : flitDepths flit = ((List.range i).map entry).filter (fun d => d.1 != 0xFFFF) ++
      entry i :: ((List.range' (i + 1) (6 - i)).map entry).filter fun d => d.1 != 0xFFFF := by
    rw [flitDepths, hr, List.map_append, List.map_cons, List.filter_append, List.filter_cons_of_pos (by simpa using hnode)]
  rw [Port.released, hsplit]
  refine find?_foldl_putBy_last Prod.fst _ _ _ (entry i) fun y hy => ?_
  obtain ⟨hy, -⟩ := List.mem_filter.1 hy
  obtain ⟨j, hj, rfl⟩ := List.mem_map.1 hy
  have := List.mem_range'_1.1 hj
  exact hlast j (by omega) (by omega)

theorem pump_port_of_empty (s : State) (n : Nat) (h : (s.port n).queue = []) : (s.pump n).port n = s.port n := by
  rw [pump_eq, h, pumpGo, List.foldl_nil, port_editPort_same s n _ (port_num s n), ← h]

theorem exec_bufferReleaseFlit (s : State) (n flit : Nat) :
    exec (.bufferReleaseFlit n flit) s = .next ((s.editPort n (·.released flit)).pump n) := rfl

theorem bufferReleaseFlit_spec (s : State) (n flit : Nat) (hq : (s.port n).queue = []) (hc : (s.port n).credits.length = 4) :
    let credit := fun (vc : Nat) => flit / 2 ^ (224 + 8 * vc) % 256
    let node := fun (i : Nat) => flit / 2 ^ (208 - 24 * i) % 65536
    let depth := fun (i : Nat) => flit / 2 ^ (200 - 24 * i) % 256
    ∃ s', exec (.bufferReleaseFlit n flit) s = .next s' ∧ s' = { s with fabric := s'.fabric } ∧
      (∀ vc, vc < 4 → (s'.port n).credits.getD vc 0 = (s.port n).credits.getD vc 0 + credit vc) ∧
      ∀ i, i < 7 → node i ≠ 0xFFFF → (∀ j, i < j → j < 7 → node j ≠ node i) →
        (s'.port n).depths.find? (fun x => x.1 == node i) = some (node i, depth i) := by
  intro credit node depth
  have hport : ((s.editPort n (·.released flit)).pump n).port n = (s.port n).released flit := by
    have h1 := port_editPort_same s n (·.released flit) (port_num s n)
    rw [pump_port_of_empty _ n (by rw [h1]; exact hq), h1]
  refine ⟨_, exec_bufferReleaseFlit s n flit, ?_, fun vc h => ?_, fun i hi hn hlast => ?_⟩
  · rw [pump_eq_fabric]; rfl
  · rw [hport]; exact released_credits _ _ _ hc h
  · rw [hport]; exact released_depths _ _ _ hi hn hlast

end Sys2Proof.Machine
end

section
namespace Sys2Proof.Machine
open Sys2Proof.Claim

/-! ### Bolts (02/R33 to R35) -/

theorem memGet_memWrite : ∀ (l : List Byte) (m : Memory) (a y : Nat), Memory.wf m = true →
    memGet (memWrite m a l) y = if a ≤ y ∧ y < a + l.length then l.getD (y - a) 0#8 else memGet m y
  | [], m, a, y, _ => by rw [if_neg (by simp only [List.length_nil]; omega)]; rfl
  | v :: l, m, a, y, h => by
    rw [memWrite, memGet_memWrite l _ (a + 1) y (memSet_wf m a v h), List.length_cons]
    by_cases ha : y = a
    · subst ha
      rw [if_neg (by omega), if_pos (by omega), Nat.sub_self, List.getD_cons_zero]
      exact memGet_memSet_eq m 0 y v h
    · rw [memGet_memSet_ne m a y v ha]
      by_cases hy : a + 1 ≤ y ∧ y < a + 1 + l.length
      · rw [if_pos hy, if_pos (by omega), show y - a = y - (a + 1) + 1 by omega, List.getD_cons_succ]
      · rw [if_neg hy, if_neg (by omega)]

/-- A write whose mask says every byte writes every byte. -/
theorem bankWrite_of_all (pa mask : Nat) : ∀ (l : List Byte) (m : Memory) (i : Nat),
    (∀ j, i ≤ j → j < i + l.length → mask.testBit j = true) → bankWrite m pa mask i l = memWrite m (pa + i) l
  | [], _, _, _ => rfl
  | v :: l, m, i, h => by
    rw [List.length_cons] at h
    have hbit : bitsAt mask i 1 = 1 := by rw [← beq_iff_eq, bitsAt_one]; exact h i le_rfl (by omega)
    rw [bankWrite, if_pos hbit, bankWrite_of_all pa mask l _ (i + 1) fun j h1 h2 => h j (by omega) (by omega)]
    rfl

/-- The state whose one bolt is the given one. -/
def State.oneBolt (s : State) (b : Bolt) : State := { s with fabric := { s.fabric with bolts := [b] } }

section OneBolt
variable {s : State} {b : Bolt} (hb : s.fabric.bolts = [b]) (pos egress : Nat)
include hb

theorem find?_bolt : s.fabric.bolts.find? (fun x => x.id == b.id) = some b := by simp [hb]
theorem editBolt_one (f : Bolt → Bolt) : s.editBolt b.id f = s.oneBolt (f b) := by simp [State.editBolt, State.oneBolt, hb, editBy]

theorem exec_boltForward_late {p : BoltPkt} (hp : b.held[pos]? = some p) (h : p.since + 10000 ≤ s.time.ns) :
    exec (.boltForward b.id pos egress) s = .next s := by
  simp only [exec, execBoltForward, find?_bolt hb, hp, if_pos h]
theorem exec_boltForward_byPort {p : BoltPkt} (hp : b.held[pos]? = some p) (h : ¬p.since + 10000 ≤ s.time.ns) (hport : byPort p.pkt = true) :
    exec (.boltForward b.id pos egress) s = .next (if bitsAt b.trained (p.pkt.addr % 64) 1 = 0 then s.oneBolt (b.discard pos)
      else if b.inOrder p (p.pkt.addr % 64) then s.boltLeave b.id pos (p.pkt.addr % 64) p else s) := by
  simp only [exec, execBoltForward, find?_bolt hb, hp, if_neg h, if_pos hport, editBolt_one hb]
theorem exec_boltForward_own {p : BoltPkt} (hp : b.held[pos]? = some p) (h : ¬p.since + 10000 ≤ s.time.ns) (hport : byPort p.pkt = false)
    (hd : p.pkt.dst = b.node) :
    exec (.boltForward b.id pos egress) s = .next (if b.held.any fun q => decide (q.seq < p.seq) && p.sameLine q then s
      else s.oneBolt (b.consume s.time.ns pos p)) := by
  simp only [exec, execBoltForward, find?_bolt hb, hp, if_neg h, hport, Bool.false_eq_true, if_false, if_pos hd, editBolt_one hb]
theorem exec_boltForward_routed {p : BoltPkt} (hp : b.held[pos]? = some p) (h : ¬p.since + 10000 ≤ s.time.ns) (hport : byPort p.pkt = false)
    (hd : p.pkt.dst ≠ b.node) :
    exec (.boltForward b.id pos egress) s = .next (if b.mayLeave p egress then s.boltLeave b.id pos egress p else s) := by
  simp only [exec, execBoltForward, find?_bolt hb, hp, if_neg h, hport, Bool.false_eq_true, if_false, if_neg hd]

theorem exec_boltDiscard {p : BoltPkt} (hp : b.held[pos]? = some p) :
    exec (.boltDiscard b.id pos) s = .next (if p.since + 10000 ≤ s.time.ns then s.oneBolt (b.discard pos) else s) := by
  simp only [exec, execBoltDiscard, find?_bolt hb, hp, editBolt_one hb]

/-- No cable of this device at the egress port: the packet is gone from the bolt. -/
theorem boltLeave_away (p : BoltPkt) (h : ∀ c ∈ b.cables, c.2 ≠ egress) :
    s.boltLeave b.id pos egress p = s.oneBolt (b.leave pos egress p) := by
  have hc : (b.cables.find? fun c => c.2 == egress && decide (c.1 < Config.ports)) = none := by
    simp only [List.find?_eq_none, Bool.and_eq_true, beq_iff_eq, not_and]
    exact fun c hc e => absurd e (h c hc)
  simp only [State.boltLeave, find?_bolt hb, Option.bind_some, hc, editBolt_one hb]
/-- The egress port's cable goes to a port of this device: the device receives the packet. -/
theorem boltLeave_here (p : BoltPkt) (n : Nat) (hn : n < 48) (h : b.cables = [(n, egress)]) :
    s.boltLeave b.id pos egress p = (s.oneBolt (b.leave pos egress p)).due (arrivalStep n p.pkt) := by
  have hc : (b.cables.find? fun c => c.2 == egress && decide (c.1 < Config.ports)) = some (n, egress) := by simp [h, hn, Config.ports]
  simp only [State.boltLeave, find?_bolt hb, Option.bind_some, hc, editBolt_one hb]

end OneBolt

theorem byPort_iff (k : Packet) : byPort k = true ↔ k.cls = 2 ∧ k.dst = 0xFFFF := by simp [byPort]
theorem byPort_eq_false_iff (k : Packet) : byPort k = false ↔ ¬(k.cls = 2 ∧ k.dst = 0xFFFF) := by rw [← byPort_iff, Bool.not_eq_true]

/-- A bolt that holds a packet, and it alone, and has sent none. -/
structure Holds (b : Bolt) (p : BoltPkt) : Prop where
  held : b.held = [p]
  sent : b.sent = []

/-- The bolt with its held packet gone. -/
def Bolt.emptied (b : Bolt) (sent : List (Nat × BoltPkt)) (discards : Nat) : Bolt := { b with held := [], sent := sent, discards := discards }

section Holds
variable {b : Bolt} {p : BoltPkt} (h : Holds b p)
include h

theorem Holds.at : b.held[0]? = some p := by rw [h.held]; rfl
theorem Holds.none_earlier (f : BoltPkt → Bool) : (b.held.any fun q => decide (q.seq < p.seq) && f q) = false := by simp [h.held]
theorem Holds.inOrder (e : Nat) : b.inOrder p e = true := by simp [Bolt.inOrder, h.held, h.sent]
theorem Holds.discard : b.discard 0 = b.emptied [] (b.discards + 1) := by simp [Bolt.discard, Bolt.without, Bolt.emptied, h.held, h.sent]
theorem Holds.leave (e : Nat) : b.leave 0 e p = b.emptied [(e, p)] b.discards := by
  simp [Bolt.leave, Bolt.without, Bolt.emptied, h.held, h.sent, editBy]
theorem Holds.mayLeave (e : Nat) (ht : b.trained.testBit e = true) (hv : p.via = none ∨ p.via = some e)
    (hr : ∃ x ∈ b.routes, x.1 = p.pkt.dst ∧ e ∈ x.2) : b.mayLeave p e = true := by
  obtain ⟨x, hx, hd, he⟩ := hr
  have hroute : (b.routes.any fun r => r.1 == p.pkt.dst && r.2.contains e) = true := List.any_eq_true.2 ⟨x, hx, by simp [hd, he]⟩
  have hvia : (p.via.isNone || p.via == some e) = true := by rcases hv with hv | hv <;> simp [hv]
  simp only [Bolt.mayLeave, bitsAt_one, ht, hroute, h.none_earlier, hvia, h.inOrder, Bool.not_false, Bool.and_true]

end Holds

theorem mayLeave_blocked (b : Bolt) (p : BoltPkt) (e : Nat) (h : b.trained.testBit e = false ∨ ∃ e', p.via = some e' ∧ e' ≠ e) :
    b.mayLeave p e = false := by
  rcases h with ht | ⟨e', hv, hne⟩
  · simp [Bolt.mayLeave, bitsAt_one, ht]
  · simp [Bolt.mayLeave, hv, hne]

theorem mayLeave_behind (b : Bolt) (p q : BoltPkt) (e : Nat) (hq : q ∈ b.held) (hs : q.seq < p.seq) (hl : p.sameLine q = true) :
    b.mayLeave p e = false := by
  have : (b.held.any fun q => decide (q.seq < p.seq) && p.sameLine q) = true := List.any_eq_true.2 ⟨q, hq, by simp [hs, hl]⟩
  simp [Bolt.mayLeave, this]

/-! #### Requests for a bolt's own banks -/

theorem serve_read (b : Bolt) (k : Packet) (h : k.typ = 0x01) : ∃ r, b.serve k = (b.mem, r) ∧ r.dst = k.src ∧ r.tag = k.tag ∧ r.aux = 0 ∧
    r.typ = 0x02 ∧ r.data = memRead b.mem k.addr (32 * k.aux) := by
  rw [Bolt.serve, h]
  exact ⟨_, rfl, rfl, rfl, rfl, rfl, rfl⟩
theorem serve_write (b : Bolt) (k : Packet) (h : k.typ = 0x03) : ∃ r, b.serve k = (bankWrite b.mem k.addr (writeMask k) 0 k.data, r) ∧
    r.dst = k.src ∧ r.tag = k.tag ∧ r.aux = 0 ∧ r.typ = 0x04 := by
  rw [Bolt.serve, h]
  exact ⟨_, rfl, rfl, rfl, rfl, rfl⟩

theorem consume_request (b : Bolt) (now : Nat) (p : BoltPkt) (h : Holds b p) (hc : p.pkt.cls = 0) (ht : p.pkt.typ = 0x01 ∨ p.pkt.typ = 0x03)
    (he : p.pkt.etag = etagOf p.pkt) (hd : b.dups = []) :
    ∃ x, (b.consume now 0 p).held = [x] ∧ x.pkt = (b.serve p.pkt).2 ∧ (b.consume now 0 p).mem = (b.serve p.pkt).1 := by
  have hresp : ¬(p.pkt.cls = 1 ∨ isResponse p.pkt.typ = true) := by rcases ht with ht | ht <;> simp [hc, ht, isResponse]
  have hdup : (b.dups.find? fun d => d.src == p.pkt.src && d.tag == p.pkt.tag && decide (now < d.til)) = none := by rw [hd]; rfl
  simp only [Bolt.consume, if_neg hresp, hdup, he, ne_eq, not_true_eq_false, if_false, Bolt.enter, Bolt.without, h.held]
  exact ⟨_, rfl, rfl, trivial⟩

/-- A write of more than one flit has no byte mask. -/
theorem memGet_bankWrite (m : Memory) (k : Packet) (y : Nat) (hm : Memory.wf m = true) (hl : 1 < k.len) (hd : k.data.length = 32 * k.len) :
    memGet (bankWrite m k.addr (writeMask k) 0 k.data) y =
      if k.addr ≤ y ∧ y < k.addr + 32 * k.len then k.data.getD (y - k.addr) 0#8 else memGet m y := by
  have hmask : ∀ j, 0 ≤ j → j < 0 + k.data.length → (writeMask k).testBit j = true := fun j _ hj => by
    rw [writeMask, if_neg (by omega), Nat.testBit_two_pow_sub_one]
    simp only [decide_eq_true_eq]; omega
  rw [bankWrite_of_all _ _ _ _ _ hmask, memGet_memWrite _ _ _ _ hm, hd, Nat.add_zero]

end Sys2Proof.Machine
end

section
namespace Sys2Proof.Machine
open Sys2Proof.Claim

/-! ### What one bolt does with what it holds (02/R33 to R35) -/

/-- A bolt alone in the fabric whose only packet has been held for less than 10 µs. -/
structure HoldsFresh (s : State) (b : Bolt) (p : BoltPkt) : Prop extends Holds b p where
  alone : s.fabric.bolts = [b]
  fresh : ¬p.since + 10000 ≤ s.time.ns

section Fresh
variable {s : State} {b : Bolt} {p : BoltPkt} (h : HoldsFresh s b p) (egress : Nat)
include h

section Routed
variable (hplain : byPort p.pkt = false) (hd : p.pkt.dst ≠ b.node)
include hplain hd

theorem boltForward_leaves (ht : b.trained.testBit egress = true) (hv : p.via = none ∨ p.via = some egress)
    (hr : ∃ x ∈ b.routes, x.1 = p.pkt.dst ∧ egress ∈ x.2) :
    exec (.boltForward b.id 0 egress) s = .next (s.boltLeave b.id 0 egress p) := by
  rw [exec_boltForward_routed h.alone 0 egress h.at h.fresh hplain hd, h.mayLeave egress ht hv hr, if_pos rfl]

theorem boltForward_stays (hblock : b.trained.testBit egress = false ∨ ∃ e, p.via = some e ∧ e ≠ egress) :
    exec (.boltForward b.id 0 egress) s = .next s := by
  rw [exec_boltForward_routed h.alone 0 egress h.at h.fresh hplain hd, mayLeave_blocked b p egress hblock, if_neg Bool.false_ne_true]

end Routed

theorem boltForward_port (hport : byPort p.pkt = true) (hc : ∀ c ∈ b.cables, c.2 ≠ p.pkt.addr % 64) :
    exec (.boltForward b.id 0 egress) s = .next (if b.trained.testBit (p.pkt.addr % 64) = true
      then s.oneBolt (b.emptied [(p.pkt.addr % 64, p)] b.discards) else s.oneBolt (b.emptied [] (b.discards + 1))) := by
  rw [exec_boltForward_byPort h.alone 0 egress h.at h.fresh hport, h.inOrder, if_pos rfl, boltLeave_away h.alone 0 _ p hc, h.leave, h.discard]
  cases ht : b.trained.testBit (p.pkt.addr % 64) with
  | false => rw [if_pos ((bitsAt_one_eq_zero ..).2 ht), if_neg Bool.false_ne_true]
  | true => rw [if_neg (by simp [bitsAt_one_eq_zero, ht]), if_pos rfl]

theorem boltForward_serves (hd : p.pkt.dst = b.node) (hc : p.pkt.cls = 0) (he : p.pkt.etag = etagOf p.pkt)
    (hdup : b.dups = []) (ht : p.pkt.typ = 0x01 ∨ p.pkt.typ = 0x03 ∧ 1 < p.pkt.len ∧ Memory.wf b.mem = true) :
    ∃ s' c x, exec (.boltForward b.id 0 egress) s = .next s' ∧ s'.fabric.bolts = [c] ∧ c.held = [x] ∧ x.pkt.dst = p.pkt.src ∧
      x.pkt.tag = p.pkt.tag ∧ x.pkt.aux = 0 ∧
      (p.pkt.typ = 0x01 → x.pkt.typ = 0x02 ∧ x.pkt.data = memRead b.mem p.pkt.addr (32 * p.pkt.aux) ∧ c.mem = b.mem) ∧
      (p.pkt.typ = 0x03 → p.pkt.data.length = 32 * p.pkt.len → x.pkt.typ = 0x04 ∧ ∀ y, memGet c.mem y =
        if p.pkt.addr ≤ y ∧ y < p.pkt.addr + 32 * p.pkt.len then p.pkt.data.getD (y - p.pkt.addr) 0#8 else memGet b.mem y) := by
  have hplain : byPort p.pkt = false := by simp [byPort, hc]
  obtain ⟨x, hheld, hpkt, hmem⟩ := consume_request b s.time.ns p h.toHolds hc (ht.imp_right And.left) he hdup
  refine ⟨s.oneBolt (b.consume s.time.ns 0 p), b.consume s.time.ns 0 p, x, ?_, rfl, hheld, ?_⟩
  · rw [exec_boltForward_own h.alone 0 egress h.at h.fresh hplain hd, h.none_earlier, if_neg Bool.false_ne_true]
  rw [hpkt, hmem]
  rcases ht with hread | ⟨hwrite, hlen, hwf⟩
  · obtain ⟨r, hr, hdst, htag, haux, htyp, hdata⟩ := serve_read b p.pkt hread
    rw [hr]
    exact ⟨hdst, htag, haux, fun _ => ⟨htyp, hdata, rfl⟩, by omega⟩
  · obtain ⟨r, hr, hdst, htag, haux, htyp⟩ := serve_write b p.pkt hwrite
    rw [hr]
    exact ⟨hdst, htag, haux, by omega, fun _ hl => ⟨htyp, fun y => memGet_bankWrite b.mem p.pkt y hwf hlen hl⟩⟩

theorem boltDiscard_early : exec (.boltDiscard b.id 0) s = .next s := by rw [exec_boltDiscard h.alone 0 h.at, if_neg h.fresh]

end Fresh

/-- A packet waits while an earlier one of its line is held. -/
theorem boltForward_behind {s : State} {b : Bolt} {p q : BoltPkt} (egress : Nat) (hb : s.fabric.bolts = [b]) (hheld : b.held = [q, p])
    (hseq : q.seq < p.seq) (hline : p.sameLine q = true) (hplain : byPort p.pkt = false) :
    exec (.boltForward b.id 1 egress) s = .next s := by
  have hp : b.held[1]? = some p := by rw [hheld]; rfl
  by_cases hlate : p.since + 10000 ≤ s.time.ns
  · exact exec_boltForward_late hb 1 egress hp hlate
  by_cases hd : p.pkt.dst = b.node
  · have hany : (b.held.any fun q => decide (q.seq < p.seq) && p.sameLine q) = true := by simp [hheld, hseq, hline]
    rw [exec_boltForward_own hb 1 egress hp hlate hplain hd, hany, if_pos rfl]
  · rw [exec_boltForward_routed hb 1 egress hp hlate hplain hd, mayLeave_behind b p q egress (by simp [hheld]) hseq hline,
      if_neg Bool.false_ne_true]

/-! ### A memory link's retries (01/R12) -/

theorem memoryLinkFlitRetry_counts (s : State) (n : Nat) (h : s.sys.mlstat.toNat.testBit n = true) :
    ∃ s', exec (.memoryLinkFlitRetry n) s = .next s' ∧ s' = { s with board := { s.board with mlRetry := s'.board.mlRetry } } ∧
      ((s'.board.mlRetry.find? fun x => x.1 == n).map (·.2)).getD 0 =
        min 16 (((s.board.mlRetry.find? fun x => x.1 == n).map (·.2)).getD 0 + 1) := by
  have hup : ¬bitsAt s.sys.mlstat.toNat n 1 = 0 := by simp [bitsAt_one_eq_zero, h]
  refine ⟨_, if_neg hup, rfl, ?_⟩
  have hfind := find?_putBy_same Prod.fst (n, min 16 (((s.board.mlRetry.find? fun x => x.1 == n).map (·.2)).getD 0 + 1)) s.board.mlRetry
  exact congrArg (fun o => (o.map Prod.snd).getD 0) hfind

end Sys2Proof.Machine
end

section
namespace Sys2Proof.Machine
open Sys2Proof.Claim

/-! ### Accesses at the home leave the memory links as they are (01/R12)

The board and MLSTAT, of which a line's link is read, are carried as one value, so that each operation says with one equation that
it leaves them alone. -/

/-- What the memory links' state is read of. -/
def State.links (s : State) : Board × DWord := (s.board, s.sys.mlstat)

theorem links_board {s s' : State} (h : s'.links = s.links) : s'.board = s.board := congrArg Prod.fst h
theorem links_mlstat {s s' : State} (h : s'.links = s.links) : s'.sys.mlstat = s.sys.mlstat := congrArg Prod.snd h

section Updates
variable (s : State)

@[simp] theorem links_with_mem (m : Memory) : ({ s with mem := m } : State).links = s.links := rfl
@[simp] theorem links_with_mem_l2 (m : Memory) (l2 : L2) : ({ s with mem := m, l2 := l2 } : State).links = s.links := rfl
@[simp] theorem links_with_upd_l2 (u : List UpdLine) (l2 : L2) : ({ s with upd := u, l2 := l2 } : State).links = s.links := rfl
@[simp] theorem links_with_l2 (l2 : L2) : ({ s with l2 := l2 } : State).links = s.links := rfl
@[simp] theorem links_with_threads (t : List Thread) : ({ s with threads := t } : State).links = s.links := rfl
@[simp] theorem links_with_fresh (n : Nat) : ({ s with fresh := n } : State).links = s.links := rfl
@[simp] theorem links_with_fabric (f : Fabric) : ({ s with fabric := f } : State).links = s.links := rfl
@[simp] theorem links_with_capture (c : Capture) : ({ s with capture := c } : State).links = s.links := rfl
@[simp] theorem links_with_capcfg (x : DWord) : ({ s with sys := { s.sys with capcfg := x } } : State).links = s.links := rfl

@[simp] theorem due_links (i : Instr) : (s.due i).links = s.links := rfl
@[simp] theorem editThread_links (t : Tid) (f : Thread → Thread) : (s.editThread t f).links = s.links := rfl
@[simp] theorem editTeam_links (i : Nat) (f : Team → Team) : (s.editTeam i f).links = s.links := rfl
@[simp] theorem latchWaits_links : s.latchWaits.links = s.links := links_with_threads ..
@[simp] theorem closeGens_links (loc : WordLoc) (gen adv : Nat) : (s.closeGens loc gen adv).links = s.links := links_with_threads ..
@[simp] theorem dropLossy_links (loc : WordLoc) : (s.dropLossy loc).links = s.links := rfl
@[simp] theorem dropPerforming_links (id : Nat) : (s.dropPerforming id).links = s.links := rfl
@[simp] theorem performLater_links (id port : Nat) (k : Packet) (w : List Tid) (d : List Byte) :
    (s.performLater id port k w d).links = s.links := rfl
@[simp] theorem enqueue_links (p : Nat) (k : Packet) : (s.enqueue p k).links = s.links := by rw [enqueue_eq_fabric, links_with_fabric]

@[simp] theorem noteLine_links (line : Nat) (comp written : Bool) : (s.noteLine line comp written).links = s.links := by
  rw [State.noteLine]; split <;> exact links_with_l2 ..

end Updates

/-- A fold of steps that each leave the links alone. -/
theorem foldl_links {α : Type} (f : State → α → State) (h : ∀ s x, (f s x).links = s.links) :
    ∀ (l : List α) (s : State), (l.foldl f s).links = s.links
  | [], _ => rfl
  | x :: l, s => by rw [List.foldl_cons, foldl_links f h l, h]

theorem foldl_links_fst {α β : Type} (f : State × β → α → State × β) (h : ∀ r x, (f r x).1.links = r.1.links) :
    ∀ (l : List α) (r : State × β), (l.foldl f r).1.links = r.1.links
  | [], _ => rfl
  | x :: l, r => by rw [List.foldl_cons, foldl_links_fst f h l, h]
theorem ite_links {c : Prop} [Decidable c] {a b s : State} (ha : a.links = s.links) (hb : b.links = s.links) :
    (if c then a else b).links = s.links := by split <;> assumption

/-! #### The home slice -/

@[simp] theorem applyUpd_links (s : State) (u : UpdLine) : (s.applyUpd u).links = s.links := by
  simp only [State.applyUpd]
  split <;> simp
@[simp] theorem applyUpds_links : ∀ (l : List UpdLine) (s : State), (s.applyUpds l).links = s.links
  | [], _ => rfl
  | u :: l, s => by rw [State.applyUpds, applyUpds_links l, applyUpd_links]
@[simp] theorem applyDet_links : ∀ (l : List DetEntry) (s : State), (s.applyDet l).links = s.links
  | [], _ => rfl
  | d :: l, s => by
    simp only [State.applyDet]
    split <;> rw [applyDet_links l] <;> simp
@[simp] theorem flushDet_links (s : State) (line : Nat) : (s.flushDet line).links = s.links := by simp [State.flushDet]
@[simp] theorem recall_links (s : State) (line : Nat) : (s.recall line).links = s.links := by simp [State.recall]

@[simp] theorem homeRead_links (s : State) (pa n : Nat) (c : Bool) : (s.homeRead pa n c).1.links = s.links := by simp [State.homeRead]
@[simp] theorem homeLoad_links (s : State) (pa n : Nat) (c : Bool) : (s.homeLoad pa n c).1.links = s.links :=
  foldl_links _ (fun s l => by simp) _ s
@[simp] theorem homeWriteLine_links (s : State) (ctx line data mask : Nat) (c : Bool) :
    (s.homeWriteLine ctx line data mask c).1.links = s.links := by
  simp only [State.homeWriteLine]
  split <;> simp
@[simp] theorem homeWrite_links (s : State) (ctx pa : Nat) (l : List Byte) (c : Bool) : (s.homeWrite ctx pa l c).1.links = s.links :=
  homeWriteLine_links ..
@[simp] theorem homeStore_links (ctx : Nat) : ∀ (l : List Byte) (s : State) (pa : Nat), (s.homeStore ctx pa l).links = s.links
  | [], _, _ => rfl
  | b :: l, s, pa => by rw [State.homeStore, homeStore_links ctx l, homeWrite_links]
@[simp] theorem homeAtom_links (s : State) (ctx pa : Nat) (op : AtOp) (ty : Tag) (b c : Nat) (comp : Bool) :
    (s.homeAtom ctx pa op ty b c comp).1.links = s.links := by
  simp only [State.homeAtom]
  split <;> simp
@[simp] theorem homeMasked_links (s : State) (ctx pa : Nat) (l : List Byte) (mask : Nat) : (s.homeMasked ctx pa l mask).1.links = s.links := by
  refine foldl_links_fst _ (fun r j => ?_) _ (s, true)
  simp only
  split
  · rfl
  · exact homeWriteLine_links ..

/-! #### Scratchpads, the window and arrival words -/

@[simp] theorem scrPut_links (s : State) (team off : Nat) (l : List Byte) : (s.scrPut team off l).links = s.links := by
  simp only [State.scrPut]
  split <;> simp
@[simp] theorem scrPutGood_links (team : Nat) : ∀ (l : List Byte) (s : State) (off : Nat), (s.scrPutGood team off l).links = s.links
  | [], _, _ => rfl
  | b :: l, s, off => by
    rw [State.scrPutGood, scrPutGood_links team l]
    split <;> simp
@[simp] theorem scrWrite_links (s : State) (team off : Nat) (l : List Byte) : (s.scrWrite team off l).links = s.links := by
  rw [State.scrWrite]
  split <;> simp
@[simp] theorem imageWrite_links (s : State) (b : Nat) (tm : Team) (t : Tid) (w : WinWrite) : (s.imageWrite b tm t w).links = s.links := by
  simp only [State.imageWrite, links_with_mem]
@[simp] theorem ownerWrite_links (s : State) (t : Tid) (w : WinWrite) : (s.ownerWrite t w).links = s.links := by
  simp only [State.ownerWrite]
  split
  · rw [editThread_links, foldl_links _ fun s x => imageWrite_links s ..]
  · split <;> simp
@[simp] theorem winPutWord_links (s : State) (off : Nat) (l : List Byte) (mask id w : Nat) : (s.winPutWord off l mask id w).links = s.links := by
  simp only [State.winPutWord]
  split
  · rfl
  · exact foldl_links _ (fun s x => scrWrite_links ..) _ s
  · split <;> simp
@[simp] theorem winPut_links (s : State) (off : Nat) (l : List Byte) (mask id : Nat) : (s.winPut off l mask id).links = s.links := by
  refine foldl_links _ (fun s j => ?_) _ s
  simp only
  split
  · simp
  · exact foldl_links _ (fun s w => winPutWord_links ..) _ s
@[simp] theorem wordPut_links (s : State) (loc : WordLoc) (off : Nat) (l : List Byte) : (s.wordPut loc off l).links = s.links := by
  cases loc <;> simp [State.wordPut]
@[simp] theorem credit_links (s : State) (loc : WordLoc) (b : Nat) : (s.credit loc b).1.links = s.links := by
  rw [State.credit]
  exact ite_links (by simp) (by simp)

/-! #### Capture, answers, and the accesses of packets -/

@[simp] theorem capRecord_links (s : State) (g k u d v : Nat) (l : List Byte) : (s.capRecord g k u d v l).links = s.links := by
  simp only [State.capRecord]
  split
  · rfl
  · split <;> simp
@[simp] theorem capArrival_links (s : State) (port : Nat) (k : Packet) (a : Nat) : (s.capArrival port k a).links = s.links := capRecord_links ..
@[simp] theorem answer_links (s : State) (port : Nat) (k r : Packet) : (s.answer port k r).links = s.links := by
  simp [State.answer, State.sendResponse]
@[simp] theorem answerRead_links (s : State) (port : Nat) (k : Packet) (st : Nat) (l : List Byte) :
    (s.answerRead port k st l).links = s.links := answer_links ..
@[simp] theorem answerAck_links (s : State) (port : Nat) (k : Packet) (st : Nat) : (s.answerAck port k st).links = s.links := answer_links ..
@[simp] theorem answerOld_links (s : State) (port : Nat) (k : Packet) (st old : Nat) : (s.answerOld port k st old).links = s.links :=
  answer_links ..

@[simp] theorem doRead_links (s : State) (port : Nat) (k : Packet) : (s.doRead port k).links = s.links := by
  rw [State.doRead]
  refine ite_links (answerRead_links ..) (ite_links ?window ?memory)
  case window => exact ite_links (answerRead_links ..) (ite_links (answerRead_links ..) (ite_links (answerRead_links ..) (by simp)))
  case memory => simp only; split <;> simp
@[simp] theorem doWrite_links (s : State) (port : Nat) (k : Packet) : (s.doWrite port k).links = s.links := by
  have hput : ({ s.capArrival port k with fresh := s.fresh + 1 }.winPut (winOff k.addr) k.data (writeMask k) s.fresh).links = s.links := by
    rw [winPut_links, links_with_fresh, capArrival_links]
  have hmasked : ((s.capArrival port k).homeMasked k.ctx k.addr k.data (writeMask k)).1.links = s.links := by
    rw [homeMasked_links, capArrival_links]
  rw [State.doWrite]
  refine ite_links (answerAck_links ..) (ite_links (ite_links (answerAck_links ..) ?window) ?memory)
  case window => exact ite_links ((performLater_links ..).trans hput) ((answerAck_links ..).trans hput)
  case memory => exact (answerAck_links ..).trans hmasked
@[simp] theorem doAtomic_links (s : State) (port : Nat) (k : Packet) : (s.doAtomic port k).links = s.links := by
  rw [State.doAtomic]
  refine ite_links (answerOld_links ..) ?_
  simp only
  split <;> simp
@[simp] theorem doCredit_links (s : State) (port : Nat) (k : Packet) : (s.doCredit port k).links = s.links := by
  rw [State.doCredit]
  split
  · exact answerAck_links ..
  · exact ite_links (answerAck_links ..) (by simp)
@[simp] theorem perform_links (s : State) (port : Nat) (k : Packet) : (s.perform port k).links = s.links := by
  rw [State.perform]
  split <;> simp
@[simp] theorem progress_links (s : State) (p : Performing) : (s.progress p).links = s.links := by
  rw [State.progress]
  refine ite_links rfl (ite_links (by simp) (ite_links ?read ?write))
  case read => exact ite_links (by simp) (links_with_fabric ..)
  case write => simp
@[simp] theorem progressAll_links (s : State) : s.progressAll.links = s.links := foldl_links _ (fun s p => progress_links s p) _ s

/-! ### A link that retrains, or fails -/

/-- The link retrained or, out of MLSTAT, failed; its run of retries is over. -/
def State.retrained (s : State) (n : Nat) (ok : Bool) : State :=
  let s1 : State := { s with board := { s.board with mlRetry := dropBy (fun x => x.1 == n) s.board.mlRetry } }
  if ok then s1 else { s1 with sys := { s1.sys with mlstat := setFld s1.sys.mlstat n 1 0 } }

theorem retrained_board (s : State) (n : Nat) (ok : Bool) :
    (s.retrained n ok).board = { s.board with mlRetry := dropBy (fun x => x.1 == n) s.board.mlRetry } := by
  rw [State.retrained]; cases ok <;> rfl
theorem retrained_mlstat (s : State) (n j : Nat) (ok : Bool) (hn : n < 64) :
    (s.retrained n ok).sys.mlstat.toNat.testBit j = (s.sys.mlstat.toNat.testBit j && (ok || j != n)) := by
  cases ok with
  | true => simp [State.retrained]
  | false => exact (testBit_clearBit s.sys.mlstat n j hn).trans (by simp)

theorem exec_memoryLinkRetrain (s : State) (n : Nat) (ok : Bool) (h : (n, 16) ∈ s.board.mlRetry) :
    exec (.memoryLinkRetrain n ok) s = .next (s.retrained n ok).progressAll :=
  if_pos (List.any_eq_true.2 ⟨(n, 16), h, by simp⟩)

/-- Every line of a link that has failed is uncorrectable. -/
theorem lineBad_of_failed (s : State) (n line : Nat) (hcap : 0 < s.board.capacity) (h : s.sys.mlstat.toNat.testBit n = false)
    (hl : linkOf (128 * line) = n) : s.lineBad line = true := by
  have hlost : s.linkLost line = true := by simp [State.linkLost, hcap, hl, (bitsAt_one_eq_zero _ n).2 h]
  rw [State.lineBad, hlost, Bool.or_true]

theorem memoryLinkRetrain_spec (s : State) (n : Nat) (hn : n < 64) (h : (n, 16) ∈ s.board.mlRetry) (ok : Bool) :
    ∃ s', exec (.memoryLinkRetrain n ok) s = .next s' ∧ (∀ x ∈ s'.board.mlRetry, x.1 ≠ n) ∧
      (∀ j, j < 64 → s'.sys.mlstat.toNat.testBit j = (s.sys.mlstat.toNat.testBit j && (ok || j != n))) ∧
      (ok = false → 0 < s.board.capacity → ∀ line, linkOf (128 * line) = n → s'.lineBad line = true) := by
  have hboard : (s.retrained n ok).progressAll.board = { s.board with mlRetry := dropBy (fun x => x.1 == n) s.board.mlRetry } :=
    (links_board (progressAll_links _)).trans (retrained_board s n ok)
  have hbits : ∀ j, (s.retrained n ok).progressAll.sys.mlstat.toNat.testBit j = (s.sys.mlstat.toNat.testBit j && (ok || j != n)) :=
    fun j => by rw [links_mlstat (progressAll_links _), retrained_mlstat s n j ok hn]
  refine ⟨_, exec_memoryLinkRetrain s n ok h, fun x hx => ?_, fun j _ => hbits j, fun hok hcap line hl => ?_⟩
  · rw [hboard, dropBy, List.mem_filter] at hx
    simpa using hx.2
  · exact lineBad_of_failed _ n line (by rw [hboard]; exact hcap) (by rw [hbits, hok]; simp) hl

end Sys2Proof.Machine
end

section
namespace Sys2Proof.Machine
open Sys2Proof.Claim

/-! ### The links (01/R12, R16; 02/R34, R35, R41, R42) -/

/-- Settles O47: a lemma for each unit; `progressAll_links` says that what a retrained link lets go on leaves the links alone. -/
theorem linksAndBolts : Obligations.LinksAndBolts := by
  intro s n
  refine ⟨fun hn => ⟨fun hup => memoryLinkFlitRetry_counts s n hup, fun h ok => memoryLinkRetrain_spec s n hn h ok⟩,
    fun hn => ⟨fun hup => fabricFlitRetry_counts s n hup, fabricPortDown_spec s n hn,
      fun flit _ hq hc => bufferReleaseFlit_spec s n flit hq hc⟩,
    fun b p egress hb => ⟨fun hheld hsent => ?held, ?behind⟩⟩
  case held =>
    have h : Holds b p := ⟨hheld, hsent⟩
    refine ⟨fun htime => ?fresh, fun hlate => ⟨exec_boltForward_late hb 0 egress h.at hlate, ?late⟩⟩
    case fresh =>
      have hf : HoldsFresh s b p := ⟨h, hb, by omega⟩
      refine ⟨fun hp hd ht hv hr => ?leaves, fun hp hd hblock => boltForward_stays hf egress ((byPort_eq_false_iff _).2 hp) hd hblock,
        fun hc hdst hcab => boltForward_port hf egress ((byPort_iff _).2 ⟨hc, hdst⟩) hcab,
        fun _ hd hc he hdup ht => boltForward_serves hf egress hd hc he hdup ht, boltDiscard_early hf⟩
      rw [boltForward_leaves hf egress ((byPort_eq_false_iff _).2 hp) hd ht hv hr]
      refine ⟨fun hc => ?_, fun hlt hc => ?_⟩
      · rw [boltLeave_away hb 0 egress p hc, h.leave]; rfl
      · rw [boltLeave_here hb 0 egress p n hlt hc, h.leave]; rfl
    case late => rw [exec_boltDiscard hb 0 h.at, if_pos hlate, h.discard]; rfl
  case behind =>
    intro q hheld hseq hin hvc hdst haddr hplain
    have hline : p.sameLine q = true := by simp [BoltPkt.sameLine, BoltPkt.sameFlow, hin, hvc, hdst, haddr]
    exact boltForward_behind egress hb hheld hseq hline ((byPort_eq_false_iff _).2 hplain)

end Sys2Proof.Machine
end

section
namespace Sys2Proof.Machine
open Sys2Proof.Claim

/-! ### Bytes, little-endian numbers and lines -/

/-- The byte that a list of bytes from an address on has at an address. -/
def bytesAt (pa : Nat) (l : List Byte) (x : Nat) : Option Byte := if pa ≤ x then l[x - pa]? else none

theorem bytesAt_nil (pa x : Nat) : bytesAt pa [] x = none := by simp [bytesAt]
theorem bytesAt_outside (pa : Nat) (l : List Byte) (x : Nat) (h : x < pa ∨ pa + l.length ≤ x) : bytesAt pa l x = none := by
  rw [bytesAt]
  split
  · exact List.getElem?_eq_none (by omega)
  · rfl
theorem bytesAt_inside (pa : Nat) (l : List Byte) (i : Nat) (h : i < l.length) : bytesAt pa l (pa + i) = some (l.getD i 0#8) := by
  rw [bytesAt, if_pos (Nat.le_add_right pa i), Nat.add_sub_cancel_left, List.getD_eq_getElem?_getD, List.getElem?_eq_getElem h, Option.getD_some]
theorem bytesAt_cons (pa : Nat) (b : Byte) (l : List Byte) (x : Nat) :
    bytesAt pa (b :: l) x = (bytesAt (pa + 1) l x).or (bytesAt pa [b] x) := by
  rcases Nat.lt_trichotomy x pa with h | rfl | h
  · simp [bytesAt, Nat.not_le.2 h, Nat.not_le.2 (Nat.lt_succ_of_lt h)]
  · simp [bytesAt]
  · obtain ⟨k, rfl⟩ := Nat.exists_eq_add_of_lt h
    simp [bytesAt, show pa + k + 1 - pa = k + 1 by omega, show pa + k + 1 - (pa + 1) = k by omega, show pa ≤ pa + k + 1 by omega]

/-- A byte after a write: the one written there, else the old one. -/
theorem memGet_memWrite_bytesAt (m : Memory) (a : Nat) (l : List Byte) (x : Nat) (h : Memory.wf m = true) :
    memGet (memWrite m a l) x = (bytesAt a l x).getD (memGet m x) := by
  rw [memGet_memWrite l m a x h]
  by_cases hx : a ≤ x ∧ x < a + l.length
  · obtain ⟨k, rfl⟩ := Nat.exists_eq_add_of_le hx.1
    rw [if_pos hx, bytesAt_inside a l k (by omega), Nat.add_sub_cancel_left, Option.getD_some]
  · rw [if_neg hx, bytesAt_outside a l x (by omega), Option.getD_none]

@[simp] theorem memRead_length (m : Memory) : ∀ (n a : Nat), (memRead m a n).length = n
  | 0, _ => rfl
  | n + 1, a => by rw [memRead, List.length_cons, memRead_length m n]
theorem memRead_getElem? (m : Memory) : ∀ (n a i : Nat), i < n → (memRead m a n)[i]? = some (memGet m (a + i))
  | n + 1, a, 0, _ => by simp [memRead]
  | n + 1, a, i + 1, h => by
    rw [memRead, List.getElem?_cons_succ, memRead_getElem? m n (a + 1) i (by omega)]
    congr 2; omega
theorem memRead_congr {m m' : Memory} : ∀ (n a : Nat), (∀ i, i < n → memGet m' (a + i) = memGet m (a + i)) → memRead m' a n = memRead m a n
  | 0, _, _ => rfl
  | n + 1, a, h => by
    have h0 : memGet m' a = memGet m a := h 0 (by omega)
    have hrest : memRead m' (a + 1) n = memRead m (a + 1) n := memRead_congr n (a + 1) fun i hi => by
      have := h (i + 1) (by omega)
      rwa [show a + (i + 1) = a + 1 + i by omega] at this
    rw [memRead, memRead, h0, hrest]

theorem leNat_memRead (m : Memory) : ∀ (n a : Nat), leNat (memRead m a n) = number m a n
  | 0, _ => rfl
  | n + 1, a => by rw [memRead, leNat, number, leNat_memRead m n]
theorem number_congr {m m' : Memory} (n a : Nat) (h : ∀ i, i < n → memGet m' (a + i) = memGet m (a + i)) : number m' a n = number m a n := by
  rw [← leNat_memRead, ← leNat_memRead, memRead_congr n a h]

theorem leNat_lt : ∀ l : List Byte, leNat l < 2 ^ (8 * l.length)
  | [] => by simp [leNat]
  | b :: l => by
    have := leNat_lt l
    have := b.isLt
    rw [leNat, List.length_cons, Nat.mul_succ, pow_add]; omega
theorem number_lt (m : Memory) (a n : Nat) : number m a n < 2 ^ (8 * n) := by
  have := leNat_lt (memRead m a n)
  rwa [leNat_memRead, memRead_length] at this

@[simp] theorem leBytes_length : ∀ (n x : Nat), (leBytes n x).length = n
  | 0, _ => rfl
  | n + 1, x => by rw [leBytes, List.length_cons, leBytes_length n]
theorem leNat_leBytes : ∀ (n x : Nat), leNat (leBytes n x) = x % 2 ^ (8 * n)
  | 0, x => by simp [leBytes, leNat, Nat.mod_one]
  | n + 1, x => by
    rw [leBytes, leNat, leNat_leBytes n, BitVec.toNat_ofNat, Nat.mul_succ, Nat.add_comm (8 * n), pow_add, Nat.mod_mul]
    rfl

/-- A number read where its bytes stand. -/
theorem number_of_bytes {m : Memory} : ∀ (l : List Byte) (a : Nat), (∀ i, i < l.length → memGet m (a + i) = l.getD i 0#8) →
    number m a l.length = leNat l
  | [], _, _ => rfl
  | b :: l, a, h => by
    have h0 : memGet m a = b := h 0 (by simp)
    rw [List.length_cons, number, leNat, h0, number_of_bytes l (a + 1) fun i hi => ?_]
    · have := h (i + 1) (by rw [List.length_cons]; omega)
      rwa [List.getD_cons_succ, show a + (i + 1) = a + 1 + i by omega] at this

/-! #### A line as a number -/

theorem testBit_lineSet (d i : Nat) (b : Byte) (t : Nat) :
    (lineSet d i b).testBit t = if 8 * i ≤ t ∧ t < 8 * i + 8 then b.toNat.testBit (t - 8 * i) else d.testBit t := by
  have hd := split_field d (8 * i) 8
  have hr : d % 2 ^ (8 * i) < 2 ^ (8 * i) := Nat.mod_lt _ (Nat.two_pow_pos _)
  have hnew : lineSet d i b = 2 ^ (8 * i) * (2 ^ 8 * (d / 2 ^ (8 * i + 8)) + b.toNat) + d % 2 ^ (8 * i) := by
    rw [Nat.mul_add] at hd ⊢
    rw [lineSet, Nat.mul_comm (bitsAt _ _ _), Nat.mul_comm b.toNat]; omega
  rw [hnew, Nat.testBit_two_pow_mul_add _ hr]
  by_cases h1 : t < 8 * i
  · simp [h1, Nat.testBit_mod_two_pow]
  · rw [if_neg h1, Nat.testBit_two_pow_mul_add _ b.isLt]
    by_cases h2 : t - 8 * i < 8
    · rw [if_pos h2, if_pos (by omega)]
    · rw [if_neg h2, if_neg (by omega), Nat.testBit_div_two_pow]; congr 1; omega

theorem getLsbD_lineGet (d i k : Nat) (hk : k < 8) : (lineGet d i).getLsbD k = d.testBit (8 * i + k) := by
  simp only [lineGet, bitsAt, BitVec.getLsbD_ofNat, Nat.testBit_mod_two_pow, Nat.testBit_div_two_pow, hk, decide_true, Bool.true_and]
  rw [Nat.add_comm k]
theorem lineGet_eq_of_testBit {d d' i j : Nat} (h : ∀ k, k < 8 → d.testBit (8 * i + k) = d'.testBit (8 * j + k)) : lineGet d i = lineGet d' j :=
  BitVec.eq_of_getLsbD_eq fun k hk => by rw [getLsbD_lineGet d i k hk, getLsbD_lineGet d' j k hk, h k hk]

theorem lineGet_lineSet (d i : Nat) (b : Byte) (j : Nat) : lineGet (lineSet d i b) j = if j = i then b else lineGet d j := by
  by_cases h : j = i
  · subst h
    rw [if_pos rfl]
    refine BitVec.eq_of_getLsbD_eq fun k hk => ?_
    rw [getLsbD_lineGet _ _ k hk, testBit_lineSet, if_pos (by omega), Nat.add_sub_cancel_left, BitVec.getLsbD]
  · rw [if_neg h]
    exact lineGet_eq_of_testBit fun k hk => by rw [testBit_lineSet, if_neg (by omega)]

theorem lineGet_lineMerge (old new mask : Nat) : ∀ n j, lineGet (lineMerge old new mask n) j =
    if j < n ∧ mask.testBit j = true then lineGet new j else lineGet old j
  | 0, j => by simp [lineMerge]
  | n + 1, j => by
    have ih := lineGet_lineMerge old new mask n
    have hbit : (bitsAt mask n 1 = 1) ↔ mask.testBit n = true := by rw [← beq_iff_eq, bitsAt_one]
    simp only [lineMerge, hbit]
    by_cases hj : j = n
    · subst hj
      by_cases hb : mask.testBit j = true <;> simp [hb, lineGet_lineSet, ih]
    · simp only [show j < n + 1 ↔ j < n by omega]
      split
      · rw [lineGet_lineSet, if_neg hj, ih]
      · rw [ih]

@[simp] theorem lineRead_length (d : Nat) : ∀ (n i : Nat), (lineRead d i n).length = n
  | 0, _ => rfl
  | n + 1, i => by rw [lineRead, List.length_cons, lineRead_length d n]
theorem lineRead_getElem? (d : Nat) : ∀ (n i k : Nat), k < n → (lineRead d i n)[k]? = some (lineGet d (i + k))
  | n + 1, i, 0, _ => by simp [lineRead]
  | n + 1, i, k + 1, h => by
    rw [lineRead, List.getElem?_cons_succ, lineRead_getElem? d n (i + 1) k (by omega)]
    congr 2; omega

theorem lineGet_leNat : ∀ (l : List Byte) (i : Nat), lineGet (leNat l) i = l.getD i 0#8
  | [], i => by simp [leNat, lineGet, bitsAt]
  | b :: l, 0 => by
    refine BitVec.eq_of_toNat_eq ?_
    have := b.isLt
    simp only [lineGet, bitsAt, leNat, List.getD_cons_zero, BitVec.toNat_ofNat]
    omega
  | b :: l, i + 1 => by
    have hb := b.isLt
    rw [List.getD_cons_succ, ← lineGet_leNat l i, leNat, Nat.add_comm]
    refine lineGet_eq_of_testBit fun k _ => ?_
    rw [show (256 : Nat) = 2 ^ 8 from rfl, Nat.testBit_two_pow_mul_add _ hb, if_neg (by omega)]
    congr 1; omega

theorem lineGet_shift (d i j : Nat) : lineGet (d * 2 ^ (8 * i)) (i + j) = lineGet d j :=
  lineGet_eq_of_testBit fun k _ => by rw [Nat.mul_comm, Nat.testBit_two_pow_mul]; simp [show 8 * (i + j) + k - 8 * i = 8 * j + k by omega]; omega

theorem testBit_maskBits (lo n t : Nat) : (maskBits lo n).testBit t = (decide (lo ≤ t) && decide (t - lo < n)) := by
  rw [maskBits, Nat.mul_comm, Nat.testBit_two_pow_mul, Nat.testBit_two_pow_sub_one]

/-- A line as a number, byte by byte. -/
theorem lineGet_lineOf (m : Memory) (line t : Nat) (ht : t < 128) :
    lineGet (lineOf (memRead m (128 * line) 128)) t = memGet m (128 * line + t) := by
  rw [lineOf, lineGet_leNat, List.getD_eq_getElem?_getD, memRead_getElem? m 128 _ t ht, Option.getD_some]

/-- The bytes of a mask put in a line. -/
def lineBytes (line data mask x : Nat) : Option Byte :=
  if x / 128 = line ∧ mask.testBit (x % 128) = true then some (lineGet data (x % 128)) else none

theorem memGet_lineWrite (m : Memory) (line data mask x : Nat) (hm : Memory.wf m = true) :
    memGet (memWrite m (128 * line) (lineRead (lineMerge (lineOf (memRead m (128 * line) 128)) data mask 128) 0 128)) x =
      (lineBytes line data mask x).getD (memGet m x) := by
  rw [memGet_memWrite_bytesAt _ _ _ _ hm, lineBytes]
  by_cases hx : x / 128 = line
  · obtain ⟨t, ht, rfl⟩ : ∃ t, t < 128 ∧ x = 128 * line + t := ⟨x % 128, by omega, by omega⟩
    rw [show (128 * line + t) % 128 = t by omega, bytesAt, if_pos (by omega), Nat.add_sub_cancel_left, lineRead_getElem? _ _ _ _ ht,
      Option.getD_some, Nat.zero_add, lineGet_lineMerge, lineGet_lineOf m line t ht]
    by_cases hb : mask.testBit t = true <;> simp [hb, ht, hx]
  · rw [if_neg (fun h => hx h.1), bytesAt_outside _ _ _ (by rw [lineRead_length]; omega)]

/-- The bytes of a line's write that come from a list. -/
theorem lineBytes_list (pa : Nat) (l : List Byte) (x : Nat) (hfit : pa % 128 + l.length ≤ 128) :
    lineBytes (pa / 128) (leNat l * 2 ^ (8 * (pa % 128))) (maskBits (pa % 128) l.length) x = bytesAt pa l x := by
  simp only [lineBytes, testBit_maskBits, Bool.and_eq_true, decide_eq_true_eq]
  by_cases hx : pa ≤ x ∧ x < pa + l.length
  · obtain ⟨k, rfl⟩ := Nat.exists_eq_add_of_le hx.1
    rw [if_pos (by omega), bytesAt_inside pa l k (by omega), show (pa + k) % 128 = pa % 128 + k by omega, lineGet_shift, lineGet_leNat]
  · rw [if_neg (by omega), bytesAt_outside pa l x (by omega)]

/-- The bytes of a mask from a list that stands at an address. -/
def maskedBytes (pa : Nat) (l : List Byte) (mask x : Nat) : Option Byte :=
  if pa ≤ x ∧ mask.testBit (x - pa) = true then some (l.getD (x - pa) 0#8) else none

/-- What a masked write puts in one of its lines. -/
theorem lineBytes_masked (pa : Nat) (l : List Byte) (mask j x : Nat) :
    lineBytes (pa / 128 + j) (bitsAt (leNat l * 2 ^ (8 * (pa % 128))) (1024 * j) 1024) (bitsAt (mask * 2 ^ (pa % 128)) (128 * j) 128) x =
      if x / 128 = pa / 128 + j then maskedBytes pa l mask x else none := by
  by_cases hx : x / 128 = pa / 128 + j
  · rw [lineBytes, if_pos hx, maskedBytes]
    have hbit : (bitsAt (mask * 2 ^ (pa % 128)) (128 * j) 128).testBit (x % 128) = (decide (pa ≤ x) && mask.testBit (x - pa)) := by
      rw [bitsAt, Nat.testBit_mod_two_pow, Nat.testBit_div_two_pow, Nat.mul_comm, Nat.testBit_two_pow_mul, decide_eq_true (by omega), Bool.true_and]
      by_cases hle : pa ≤ x
      · rw [decide_eq_true (by omega), decide_eq_true hle]; congr 2; omega
      · rw [decide_eq_false (by omega), decide_eq_false hle, Bool.false_and, Bool.false_and]
    simp only [hbit, hx, true_and, Bool.and_eq_true, decide_eq_true_eq]
    split
    · rename_i h
      rw [← lineGet_leNat, ← lineGet_shift (leNat l) (pa % 128), show pa % 128 + (x - pa) = 128 * j + x % 128 by omega]
      refine congrArg some (lineGet_eq_of_testBit fun k hk => ?_)
      rw [bitsAt, Nat.testBit_mod_two_pow, Nat.testBit_div_two_pow, decide_eq_true (by omega), Bool.true_and]
      congr 1; omega
    · rfl
  · rw [lineBytes, if_neg fun h => hx h.1, if_neg hx]

end Sys2Proof.Machine
end

section
namespace Sys2Proof.Machine
open Sys2Proof.Claim

/-! ### What an access at the home does where nothing is held back (05/R120, R121) -/

/-- No contribution to memory is held in an update line or a determinism buffer, and memory has its form. -/
structure Quiet (s : State) : Prop where
  upd : s.upd = []
  det : s.l2.det = []
  form : Memory.wf s.mem = true

/-- The state without what an access at the home of a quiet state may change: memory, the slices' books, and waiting threads. -/
def State.offHome (s : State) : State := { s with mem := [], l2 := L2.reset, threads := [] }

/-- An access at the home has put these bytes in memory and changed no other; no line has become bad. -/
structure HomeWrote (s s' : State) (w : Nat → Option Byte) : Prop where
  rest : s'.offHome = s.offHome
  quiet : Quiet s'
  good : ∀ line, s.lineBad line = false → s'.lineBad line = false
  bytes : ∀ x, memGet s'.mem x = (w x).getD (memGet s.mem x)

/-- No bytes. -/
def noBytes : Nat → Option Byte := fun _ => none

namespace HomeWrote
variable {s s' s'' : State} {w w' : Nat → Option Byte}

theorem trans (h : HomeWrote s s' w) (h' : HomeWrote s' s'' w') : HomeWrote s s'' fun x => (w' x).or (w x) where
  rest := h'.rest.trans h.rest
  quiet := h'.quiet
  good line hl := h'.good line (h.good line hl)
  bytes x := by rw [h'.bytes, h.bytes]; cases w' x <;> rfl
theorem congr (h : HomeWrote s s' w) (hw : ∀ x, w x = w' x) : HomeWrote s s' w' := ⟨h.rest, h.quiet, h.good, fun x => hw x ▸ h.bytes x⟩
/-- After an access that writes nothing. -/
theorem after (h : HomeWrote s s' noBytes) (h' : HomeWrote s' s'' w) : HomeWrote s s'' w := (h.trans h').congr fun x => by simp [noBytes]
/-- Before an access that writes nothing. -/
theorem before (h : HomeWrote s s' w) (h' : HomeWrote s' s'' noBytes) : HomeWrote s s'' w := (h.trans h').congr fun x => by simp [noBytes]

theorem sys (h : HomeWrote s s' w) : s'.sys = s.sys := (congrArg State.sys h.rest :)
theorem time (h : HomeWrote s s' w) : s'.time = s.time := (congrArg State.time h.rest :)
theorem fabric (h : HomeWrote s s' w) : s'.fabric = s.fabric := (congrArg State.fabric h.rest :)
theorem read (h : HomeWrote s s' noBytes) (x : Nat) : memGet s'.mem x = memGet s.mem x := h.bytes x
theorem memRead (h : HomeWrote s s' noBytes) (a n : Nat) : memRead s'.mem a n = Machine.memRead s.mem a n :=
  memRead_congr n a fun _ _ => h.read _

end HomeWrote

/-- A line that a run of bytes reaches holds one of them. -/
theorem exists_byte_of_line (pa n line : Nat) (hn : 0 < n) (hlow : pa / 128 ≤ line) (hhigh : 128 * line < pa + n) :
    ∃ i, i < n ∧ (pa + i) / 128 = line := by
  by_cases h : line = pa / 128
  · exact ⟨0, hn, by omega⟩
  · exact ⟨128 * line - pa, by omega, by omega⟩

section
variable {s : State} (hq : Quiet s)
include hq

theorem Quiet.same : HomeWrote s s noBytes := ⟨rfl, hq, fun _ h => h, fun _ => rfl⟩

/-- With nothing held back a recall clears the line's holders and no more. -/
theorem recall_quiet (line : Nat) :
    s.recall line = { s with l2 := { s.l2 with holders := dropBy (fun h => h.1 == line) s.l2.holders } } := by
  obtain ⟨hupd, hdet, -⟩ := hq
  simp only [State.recall, hupd, List.filter_nil, dropBy, List.length_nil, State.shuffled, State.applyUpds, State.flushDet, hdet, detSort,
    State.applyDet]
theorem recall_wrote (line : Nat) : HomeWrote s (s.recall line) noBytes := by
  rw [recall_quiet hq]
  exact ⟨rfl, ⟨hq.upd, hq.det, hq.form⟩, fun _ h => h, fun _ => rfl⟩
theorem noteLine_wrote (line : Nat) (comp written : Bool) : HomeWrote s (s.noteLine line comp written) noBytes := by
  rw [State.noteLine]
  split <;> exact ⟨rfl, ⟨hq.upd, hq.det, hq.form⟩, fun _ h => h, fun _ => rfl⟩
theorem latchWaits_wrote : HomeWrote s s.latchWaits noBytes := ⟨rfl, ⟨hq.upd, hq.det, hq.form⟩, fun _ h => h, fun _ => rfl⟩
theorem closeGens_wrote (loc : WordLoc) (gen adv : Nat) : HomeWrote s (s.closeGens loc gen adv) noBytes :=
  ⟨rfl, ⟨hq.upd, hq.det, hq.form⟩, fun _ h => h, fun _ => rfl⟩

/-- A read of a good line gives the bytes of memory. -/
theorem homeRead_quiet (pa n : Nat) (comp : Bool) (hgood : s.lineBad (pa / 128) = false) :
    ∃ s', s.homeRead pa n comp = (s', some (memRead s.mem pa n)) ∧ HomeWrote s s' noBytes := by
  have h := (recall_wrote hq (pa / 128)).after (noteLine_wrote (recall_wrote hq (pa / 128)).quiet (pa / 128) comp false)
  refine ⟨_, ?_, h⟩
  simp only [State.homeRead, h.good _ hgood, Bool.false_eq_true, if_false, h.memRead]

omit hq in
/-- The bytes of a run of good lines noted at their homes. -/
theorem foldl_note_wrote (comp : Bool) : ∀ (l : List Nat) {s : State}, Quiet s →
    HomeWrote s (l.foldl (fun s line => (s.recall line).noteLine line comp false) s) noBytes
  | [], _, hq => hq.same
  | line :: l, s, hq => by
    have h := (recall_wrote hq line).after (noteLine_wrote (recall_wrote hq line).quiet line comp false)
    exact h.after (foldl_note_wrote comp l h.quiet)

theorem homeLoad_quiet (pa n : Nat) (hn : 0 < n) (hgood : ∀ i, i < n → s.lineBad ((pa + i) / 128) = false) :
    ∃ s', s.homeLoad pa n = (s', some (memRead s.mem pa n)) ∧ HomeWrote s s' noBytes := by
  have h := foldl_note_wrote false ((List.range ((pa + n + 127) / 128 - pa / 128)).map (· + pa / 128)) hq
  refine ⟨_, ?_, h⟩
  have hlines : ∀ line ∈ (List.range ((pa + n + 127) / 128 - pa / 128)).map (· + pa / 128), s.lineBad line = false := by
    intro line hl
    obtain ⟨j, hj, rfl⟩ := List.mem_map.1 hl
    have := List.mem_range.1 hj
    obtain ⟨i, hi, heq⟩ := exists_byte_of_line pa n (pa / 128 + j) hn (by omega) (by omega)
    rw [Nat.add_comm, ← heq]
    exact hgood i hi
  have hno := List.any_eq_false.2 fun line hl => Bool.not_eq_true _ ▸ h.good line (hlines line hl)
  simp only [State.homeLoad, hno, Bool.false_eq_true, if_false, h.memRead]

/-! #### Writes at the home -/

omit hq in
/-- A state with another memory, where a line is good from then on. -/
def State.remade (s : State) (line : Nat) (m : Memory) : State :=
  { s with mem := m, l2 := { s.l2 with bad := s.l2.bad.filter fun x => x != line } }

theorem remade_wrote (line : Nat) (m : Memory) (w : Nat → Option Byte) (hm : Memory.wf m = true)
    (hw : ∀ x, memGet m x = (w x).getD (memGet s.mem x)) : HomeWrote s (s.remade line m) w where
  rest := rfl
  quiet := ⟨hq.upd, hq.det, hm⟩
  good l hl := by
    simp only [State.lineBad, Bool.or_eq_false_iff, List.contains_eq_mem, decide_eq_false_iff_not, State.remade, List.mem_filter] at hl ⊢
    exact ⟨fun h => hl.1 h.1, hl.2⟩
  bytes := hw

/-- A memory with the bytes of a mask put in a line. -/
def lineWritten (m : Memory) (line data mask : Nat) : Memory :=
  memWrite m (128 * line) (lineRead (lineMerge (lineOf (memRead m (128 * line) 128)) data mask 128) 0 128)

omit hq in
theorem homeWriteLine_good (ctx line data mask : Nat) (comp : Bool) (h : (s.recall line).lineBad line = false) :
    s.homeWriteLine ctx line data mask comp =
      ((((s.recall line).remade line (lineWritten (s.recall line).mem line data mask)).noteLine line comp true).latchWaits, true) := by
  simp only [State.homeWriteLine, h, Bool.false_and, Bool.false_eq_true, if_false, State.remade, lineWritten]

/-- A write to a good line is performed, and puts there the bytes of its mask. -/
theorem homeWriteLine_quiet (ctx line data mask : Nat) (comp : Bool) (hgood : s.lineBad line = false) :
    ∃ s', s.homeWriteLine ctx line data mask comp = (s', true) ∧ HomeWrote s s' (lineBytes line data mask) := by
  have h1 := recall_wrote hq line
  have h2 := remade_wrote h1.quiet line (lineWritten (s.recall line).mem line data mask) (lineBytes line data mask)
    (memWrite_wf _ _ _ h1.quiet.form) fun x => memGet_lineWrite _ line data mask x h1.quiet.form
  have h3 := noteLine_wrote h2.quiet line comp true
  exact ⟨_, homeWriteLine_good ctx line data mask comp (h1.good _ hgood), h1.after ((h2.before h3).before (latchWaits_wrote h3.quiet))⟩

/-- A write of bytes that lie in one good line. -/
theorem homeWrite_quiet (ctx pa : Nat) (l : List Byte) (comp : Bool) (hfit : pa % 128 + l.length ≤ 128) (hgood : s.lineBad (pa / 128) = false) :
    ∃ s', s.homeWrite ctx pa l comp = (s', true) ∧ HomeWrote s s' (bytesAt pa l) := by
  obtain ⟨s', heq, h⟩ := homeWriteLine_quiet hq ctx (pa / 128) (leNat l * 2 ^ (8 * (pa % 128))) (maskBits (pa % 128) l.length) comp hgood
  exact ⟨s', heq, h.congr fun x => lineBytes_list pa l x hfit⟩

omit hq in
/-- Bytes stored one by one in good lines. -/
theorem homeStore_quiet (ctx : Nat) : ∀ (l : List Byte) {s : State} (pa : Nat), Quiet s →
    (∀ i, i < l.length → s.lineBad ((pa + i) / 128) = false) → HomeWrote s (s.homeStore ctx pa l) (bytesAt pa l)
  | [], s, pa, hq, _ => hq.same.congr fun x => (bytesAt_nil pa x).symm
  | b :: l, s, pa, hq, hgood => by
    obtain ⟨s1, heq, h1⟩ := homeWrite_quiet hq ctx pa [b] false (by simp only [List.length_singleton]; omega) (hgood 0 (by simp))
    have h2 := homeStore_quiet ctx l (pa + 1) h1.quiet fun i hi => h1.good _ (by
      have := hgood (i + 1) (by rw [List.length_cons]; omega)
      rwa [show pa + (i + 1) = pa + 1 + i by omega] at this)
    rw [State.homeStore, heq]
    exact (h1.trans h2).congr fun x => (bytesAt_cons pa b l x).symm

/-- One line's share of a masked write. -/
def State.maskedLine (ctx pa : Nat) (l : List Byte) (mask : Nat) (r : State × Bool) (j : Nat) : State × Bool :=
  let mj := bitsAt (mask * 2 ^ (pa % 128)) (128 * j) 128
  if mj = 0 then r
  else
    let q := r.1.homeWriteLine ctx (pa / 128 + j) (bitsAt (leNat l * 2 ^ (8 * (pa % 128))) (1024 * j) 1024) mj false
    (q.1, r.2 && q.2)

omit hq in
theorem homeMasked_eq (ctx pa : Nat) (l : List Byte) (mask : Nat) :
    s.homeMasked ctx pa l mask = (List.range ((pa % 128 + l.length + 127) / 128)).foldl (State.maskedLine ctx pa l mask) (s, true) := rfl

theorem maskedLine_quiet (ctx pa : Nat) (l : List Byte) (mask j : Nat) (hgood : s.lineBad (pa / 128 + j) = false) :
    ∃ s', State.maskedLine ctx pa l mask (s, true) j = (s', true) ∧
      HomeWrote s s' fun x => if x / 128 = pa / 128 + j then maskedBytes pa l mask x else none := by
  by_cases h0 : bitsAt (mask * 2 ^ (pa % 128)) (128 * j) 128 = 0
  · refine ⟨s, if_pos h0, hq.same.congr fun x => ?_⟩
    rw [← lineBytes_masked, h0, lineBytes, if_neg (by simp), noBytes]
  · obtain ⟨s', heq, h⟩ := homeWriteLine_quiet hq ctx (pa / 128 + j) (bitsAt (leNat l * 2 ^ (8 * (pa % 128))) (1024 * j) 1024)
      (bitsAt (mask * 2 ^ (pa % 128)) (128 * j) 128) false hgood
    exact ⟨s', by rw [State.maskedLine, if_neg h0, heq]; rfl, h.congr fun x => lineBytes_masked pa l mask j x⟩

theorem foldl_maskedLine_quiet (ctx pa : Nat) (l : List Byte) (mask : Nat) : ∀ n, (∀ j, j < n → s.lineBad (pa / 128 + j) = false) →
    ∃ s', (List.range n).foldl (State.maskedLine ctx pa l mask) (s, true) = (s', true) ∧
      HomeWrote s s' fun x => if x / 128 < pa / 128 + n then maskedBytes pa l mask x else none
  | 0, _ => ⟨s, rfl, hq.same.congr fun x => by
      split
      · rw [maskedBytes, if_neg (by omega), noBytes]
      · rfl⟩
  | n + 1, hgood => by
    obtain ⟨s1, heq1, h1⟩ := foldl_maskedLine_quiet ctx pa l mask n fun j hj => hgood j (by omega)
    obtain ⟨s2, heq2, h2⟩ := maskedLine_quiet h1.quiet ctx pa l mask n (h1.good _ (hgood n (by omega)))
    refine ⟨s2, by rw [List.range_succ, List.foldl_append, heq1, List.foldl_cons, heq2, List.foldl_nil], (h1.trans h2).congr fun x => ?_⟩
    by_cases hx : x / 128 = pa / 128 + n
    · rw [if_pos hx, if_neg (by omega), if_pos (by omega), Option.or_none]
    · rw [if_neg hx, Option.none_or]
      exact if_congr (by omega) rfl rfl

/-- A masked write of bytes that lie in good lines: it is performed, and puts the bytes of its mask there. -/
theorem homeMasked_quiet (ctx pa : Nat) (l : List Byte) (mask : Nat) (hl : 0 < l.length) (hmask : mask < 2 ^ l.length)
    (hgood : ∀ i, i < l.length → s.lineBad ((pa + i) / 128) = false) :
    ∃ s', s.homeMasked ctx pa l mask = (s', true) ∧ HomeWrote s s' (maskedBytes pa l mask) := by
  obtain ⟨s', heq, h⟩ := foldl_maskedLine_quiet hq ctx pa l mask ((pa % 128 + l.length + 127) / 128) fun j hj => by
    obtain ⟨i, hi, hline⟩ := exists_byte_of_line pa l.length (pa / 128 + j) hl (by omega) (by omega)
    exact hline ▸ hgood i hi
  refine ⟨s', (homeMasked_eq ctx pa l mask).trans heq, h.congr fun x => ?_⟩
  split
  · rfl
  · rw [maskedBytes, if_neg]
    rintro ⟨hle, hbit⟩
    have := Nat.ge_two_pow_of_testBit hbit
    have := (Nat.pow_lt_pow_iff_right (by omega)).1 (this.trans_lt hmask)
    omega

end

end Sys2Proof.Machine
end

section
namespace Sys2Proof.Machine
open Sys2Proof.Claim

/-! ### Packets taken in, and their answers (02/R33, R38, R44 to R46) -/

theorem receive_of_arrives {s : State} {port : Nat} {k : Packet} (h : Arrives s port k) {mine : Bool} (hm : mine = true) (f : State → State) :
    s.receive port k mine f = .next (f (s.release port k)) := by
  have hup : s.portUp port = true := by rw [State.portUp, bitsAt_one, h.up]
  have hacc : s.accepts k = true := by simp [State.accepts, State.node, fld_eq_bits, h.mine, h.named]
  simp only [State.receive, hup, hacc, h.formed, hm, Bool.not_true, Bool.false_eq_true, if_false, if_true]

/-- A packet that is not sampled for hotness. -/
def Cold (s : State) (k : Packet) : Prop := k.hot = false ∨ s.sys.hotcfg.toNat.testBit 0 = false

theorem hotSample_cold {s : State} {k : Packet} (h : Cold s k) (port : Nat) : s.hotSample port k = s := by
  rw [State.hotSample, if_pos]
  rcases h with h | h
  · simp [h]
  · simp [(bitsAt_one_eq_zero _ 0).2 h, fld]

/-! #### The inbound table (02/R55) -/

theorem permitGo_congr {s s' : State} (hmem : s'.mem = s.mem) (hsys : s'.sys = s.sys) (k : Packet) (bit : Nat) :
    ∀ n i, s'.permitGo k bit i n = s.permitGo k bit i n
  | 0, _ => rfl
  | n + 1, i => by
    have hphys : s'.physNat = s.physNat := by funext pa n; rw [State.physNat, State.physNat, hmem]
    rw [State.permitGo, State.permitGo, hphys, hsys, permitGo_congr hmem hsys k bit n]
theorem permits_congr {s s' : State} (hmem : s'.mem = s.mem) (hsys : s'.sys = s.sys) (k : Packet) (bit : Nat) :
    s'.permits k bit = s.permits k bit := by rw [State.permits, State.permits, permitGo_congr hmem hsys, hsys]
@[simp] theorem release_sys (s : State) (port : Nat) (k : Packet) : (s.release port k).sys = s.sys := rfl
@[simp] theorem release_mem (s : State) (port : Nat) (k : Packet) : (s.release port k).mem = s.mem := rfl
@[simp] theorem release_permits (s : State) (port : Nat) (k k' : Packet) (bit : Nat) : (s.release port k).permits k' bit = s.permits k' bit :=
  permits_congr (release_mem ..) (release_sys ..) k' bit

/-! #### Answers -/

theorem sendResponse_eq_fabric (s : State) (port : Nat) (b : Bool) (k : Packet) :
    s.sendResponse port b k = { s with fabric := (s.sendResponse port b k).fabric } := by
  cases b <;> exact enqueue_eq_fabric _ _ _
@[simp] theorem sendResponse_sys (s : State) (port : Nat) (b : Bool) (k : Packet) : (s.sendResponse port b k).sys = s.sys := by
  rw [sendResponse_eq_fabric]
@[simp] theorem sendResponse_mem (s : State) (port : Nat) (b : Bool) (k : Packet) : (s.sendResponse port b k).mem = s.mem := by
  rw [sendResponse_eq_fabric]
theorem leaves_sendResponse (s : State) (port : Nat) (b : Bool) (k : Packet) : Leaves (s.sendResponse port b k) k := by
  cases b <;> exact leaves_enqueue _ _ _
theorem pump_dups (s : State) (p : Nat) : (s.pump p).fabric.dups = s.fabric.dups := by
  obtain ⟨b, h⟩ := pump_fabric s p
  rw [h]; rfl
theorem sendResponse_dups (s : State) (port : Nat) (b : Bool) (k : Packet) : (s.sendResponse port b k).fabric.dups = s.fabric.dups := by
  cases b <;> exact pump_dups _ _

theorem etagOf_sealPkt (k : Packet) : (sealPkt k).etag = etagOf (sealPkt k) := rfl

/-- What a response that has been sent says. -/
theorem answers_of_leaves {s s' : State} {k : Packet} {typ status len : Nat} {data : List Byte}
    (h : Leaves s' (s.responseTo k typ status len data)) : Answers s' k typ status data :=
  ⟨_, h, rfl, rfl, rfl, rfl, rfl, rfl, etagOf_sealPkt _⟩

theorem answer_eq_fabric (s : State) (port : Nat) (k r : Packet) : s.answer port k r = { s with fabric := (s.answer port k r).fabric } := by
  rw [State.answer, sendResponse_eq_fabric]

theorem mem_putBy {α : Type} (p : α → Bool) (x : α) : ∀ l : List α, x ∈ putBy p x l
  | [] => List.mem_cons_self
  | y :: l => by
    rw [putBy]
    split
    · exact List.mem_cons_self
    · exact List.mem_cons_of_mem _ (mem_putBy p x l)

/-- A request that has been performed is answered and recorded. -/
theorem answer_spec (s0 : State) {s : State} (port : Nat) (k : Packet) (typ status len : Nat) (data : List Byte) (ht : s.time = s0.time) :
    Answers (s.answer port k (s.responseTo k typ status len data)) k typ status data ∧
      Recorded s0 (s.answer port k (s.responseTo k typ status len data)) k := by
  have hl : Leaves (s.answer port k (s.responseTo k typ status len data)) (s.responseTo k typ status len data) := leaves_sendResponse _ _ _ _
  refine ⟨answers_of_leaves hl, { src := k.src, tag := k.tag, resp := s.responseTo k typ status len data, til := s.time.ns + 100000 }, ?_, rfl,
    rfl, by rw [ht], hl⟩
  rw [State.answer, sendResponse_dups]
  exact mem_putBy _ _ _

/-! #### A request met again, spoiled, or new (02/R45, R46, R52) -/

theorem none_recorded {s : State} {k : Packet} (h : First s k) (now : Nat) :
    s.fabric.dups.find? (fun d => d.src == k.src && d.tag == k.tag && decide (now < d.til)) = none := by
  simp only [List.find?_eq_none, Bool.and_eq_true, beq_iff_eq, not_and]
  exact fun d hd hkey => absurd hkey (h.dups d hd)

theorem noneBegun {s : State} {k : Packet} (h : ∀ p ∈ s.fabric.performing, ¬(p.pkt.src = k.src ∧ p.pkt.tag = k.tag)) :
    (s.fabric.performing.any fun p => p.pkt.src == k.src && p.pkt.tag == k.tag) = false := by
  simpa [List.any_eq_false] using h

section
variable {s : State} {k : Packet} (hc : Cold s k) (port : Nat) (spoil : State → State)
include hc

theorem sampled_cold : (if k.typ = 0x08 then s else s.hotSample port k) = s := by rw [hotSample_cold hc, ite_self]

theorem reliable_again {d : DupRec} (hnot : ∀ p ∈ s.fabric.performing, ¬(p.pkt.src = k.src ∧ p.pkt.tag = k.tag))
    (hd : s.fabric.dups.find? (fun x => x.src == k.src && x.tag == k.tag && decide (s.time.ns < x.til)) = some d) :
    s.reliable port k spoil = s.sendResponse port false d.resp := by
  simp only [State.reliable, sampled_cold hc, noneBegun hnot, Bool.false_eq_true, if_false, hd]
theorem reliable_spoiled (hf : First s k) (he : k.etag ≠ etagOf k) :
    s.reliable port k spoil = ((spoil s).fperr fpTAGFAIL).sendResponse port false (s.responseTo k 0x07 0 0 []) := by
  simp only [State.reliable, sampled_cold hc, noneBegun hf.performing, Bool.false_eq_true, if_false, none_recorded hf, if_pos he]
theorem reliable_new (hf : First s k) (he : k.etag = etagOf k) (hw : s.pktWaits k = false) : s.reliable port k spoil = s.perform port k := by
  simp only [State.reliable, sampled_cold hc, noneBegun hf.performing, Bool.false_eq_true, if_false, none_recorded hf, if_neg (not_not.2 he), hw]

end

/-- The step of a RELIABLE request that a packet is. -/
def requestStep (port : Nat) (k : Packet) : Option Instr :=
  if k.typ = 0x01 then some (.readReceive port k)
  else if k.typ = 0x03 ∧ k.cls = 0 then some (.writeReceive port k)
  else if k.typ = 0x05 then some (.atomicReceive port k)
  else if k.typ = 0x08 then some (.creditReceive port k)
  else none

section
variable {s : State} {port : Nat} {k : Packet} (h : Arrives s port k)
include h

theorem exec_readReceive (ht : k.typ = 0x01) : exec (.readReceive port k) s = .next ((s.release port k).reliable port k id) :=
  receive_of_arrives h (mine := k.typ == 0x01) (by simp [ht]) fun s => s.reliable port k id
theorem exec_writeReceive (ht : k.typ = 0x03) (hcls : k.cls = 0) :
    exec (.writeReceive port k) s = .next ((s.release port k).reliable port k fun s => s.landed k) :=
  receive_of_arrives h (mine := k.typ == 0x03 && k.cls == 0) (by simp [ht, hcls]) fun s => s.reliable port k fun s => s.landed k
theorem exec_atomicReceive (ht : k.typ = 0x05) : exec (.atomicReceive port k) s = .next ((s.release port k).reliable port k id) :=
  receive_of_arrives h (mine := k.typ == 0x05) (by simp [ht]) fun s => s.reliable port k id
theorem exec_creditReceive (ht : k.typ = 0x08) : exec (.creditReceive port k) s = .next ((s.release port k).reliable port k id) :=
  receive_of_arrives h (mine := k.typ == 0x08) (by simp [ht]) fun s => s.reliable port k id

/-- A request as its step takes it in; only a WRITE may leave bytes of a block whose tag fails (02/R52). -/
theorem exec_request {i : Instr} (hi : requestStep port k = some i) :
    ∃ spoil, exec i s = .next ((s.release port k).reliable port k spoil) ∧ (k.typ ≠ 0x03 → spoil = id) := by
  rw [requestStep] at hi
  split at hi
  · next ht => cases hi; exact ⟨_, exec_readReceive h ht, fun _ => rfl⟩
  split at hi
  · next ht => cases hi; exact ⟨_, exec_writeReceive h ht.1 ht.2, fun hn => absurd ht.1 hn⟩
  split at hi
  · next ht => cases hi; exact ⟨_, exec_atomicReceive h ht, fun _ => rfl⟩
  split at hi
  · next ht => cases hi; exact ⟨_, exec_creditReceive h ht, fun _ => rfl⟩
  · cases hi

end

@[simp] theorem fperr_mem (s : State) (lo : Nat) : (s.fperr lo).mem = s.mem := rfl
@[simp] theorem fperr_counts (s : State) (lo : Nat) (h : lo + 16 ≤ 64) : bits (s.fperr lo).sys.fperr lo 16 = min 0xFFFF (bits s.sys.fperr lo 16 + 1) := by
  rw [State.fperr, bits_setFld_same _ _ _ _ h, fld_eq_bits]
  exact Nat.mod_eq_of_lt (by rw [satAdd]; omega)

/-- A request met again within 100 µs is answered from its record alone. -/
theorem request_again {s : State} {port : Nat} {k : Packet} (h : Arrives s port k) {i : Instr} (hi : requestStep port k = some i) (d : DupRec)
    (hnot : ∀ p ∈ s.fabric.performing, ¬(p.pkt.src = k.src ∧ p.pkt.tag = k.tag))
    (hd : s.fabric.dups.find? (fun x => x.src == k.src && x.tag == k.tag && decide (s.time.ns < x.til)) = some d) :
    ∃ s', exec i s = .next s' ∧ Leaves s' d.resp ∧ s' = { s with fabric := s'.fabric } := by
  obtain ⟨spoil, hexec, -⟩ := exec_request h hi
  have hc : Cold (s.release port k) k := h.cold
  rw [reliable_again hc port spoil hnot hd] at hexec
  exact ⟨_, hexec, leaves_sendResponse _ _ _ _, by rw [sendResponse_eq_fabric]; rfl⟩

/-- A READ, an ATOMIC or a CREDIT whose tag fails is answered NACK, and changes no memory. -/
theorem request_spoiled {s : State} {port : Nat} {k : Packet} (h : Arrives s port k) {i : Instr} (hi : requestStep port k = some i)
    (hf : First s k) (he : k.etag ≠ etagOf k) (ht : k.typ ≠ 0x03) :
    ∃ s', exec i s = .next s' ∧ Answers s' k 0x07 0 [] ∧ bits s'.sys.fperr 48 16 = min 0xFFFF (bits s.sys.fperr 48 16 + 1) ∧
      (∀ x, memGet s'.mem x = memGet s.mem x) := by
  obtain ⟨spoil, hexec, hid⟩ := exec_request h hi
  have hc : Cold (s.release port k) k := h.cold
  rw [reliable_spoiled hc port spoil ⟨hf.performing, hf.dups⟩ he, hid ht] at hexec
  refine ⟨_, hexec, answers_of_leaves (leaves_sendResponse _ _ _ _), ?_, fun x => ?_⟩
  · rw [sendResponse_sys, id, fpTAGFAIL, fperr_counts _ 48 (by omega), release_sys]
  · rw [sendResponse_mem, fperr_mem, id, release_mem]

end Sys2Proof.Machine
end

section
namespace Sys2Proof.Machine
open Sys2Proof.Claim

/-! ### Credits to arrival words (10/R229, R230) -/

/-- What a credit of b bytes brings a word's COUNT to, and how far its generation advances, by its fields. -/
def creditSum (f : Nat → Nat) (b : Nat) : Nat := min (f 1 + b) 4294967295
def creditAdv (f : Nat → Nat) (b : Nat) : Nat := if f 0 = 0 then 0 else creditSum f b / f 0
/-- COUNT, GEN and FLAGS after a credit. -/
def creditCount (f : Nat → Nat) (b : Nat) : Nat := if f 0 = 0 then creditSum f b else creditSum f b % f 0
def creditGen (f : Nat → Nat) (b : Nat) : Nat := (f 2 + creditAdv f b) % 4294967296
def creditFlags (f : Nat → Nat) (b : Nat) : Nat :=
  if (decide (4294967295 < f 1 + b) || decide (2 ≤ creditAdv f b)) = true ∧ bitsAt (f 3) 2 1 = 0 then f 3 + 4 else f 3
/-- The twelve bytes that a credit writes from offset 4 of a word. -/
def creditBytes (f : Nat → Nat) (b : Nat) : List Byte := leBytes 4 (creditCount f b) ++ leBytes 4 (creditGen f b) ++ leBytes 4 (creditFlags f b)

/-- The state with a credit's bytes written, and the waiters on a generation that it closes released. -/
def State.credited (s : State) (loc : WordLoc) (b : Nat) : State :=
  (s.closeGens loc (s.awField loc 2) (creditAdv (s.awField loc) b)).wordPut loc 4 (creditBytes (s.awField loc) b)

/-- Where a generation closes, the word's region also leaves the table. -/
theorem credit_eq (s : State) (loc : WordLoc) (b : Nat) :
    (s.credit loc b).1 = if 0 < creditAdv (s.awField loc) b then (s.credited loc b).dropLossy loc else s.credited loc b := rfl
theorem credit_mem (s : State) (loc : WordLoc) (b : Nat) : (s.credit loc b).1.mem = (s.credited loc b).mem := by
  rw [credit_eq, apply_ite State.mem, State.dropLossy, ite_self]
theorem credit_time (s : State) (loc : WordLoc) (b : Nat) : (s.credit loc b).1.time = (s.credited loc b).time := by
  rw [credit_eq, apply_ite State.time, State.dropLossy, ite_self]

@[simp] theorem creditBytes_length (f : Nat → Nat) (b : Nat) : (creditBytes f b).length = 12 := by simp [creditBytes]

theorem creditCount_lt (f : Nat → Nat) (b : Nat) : creditCount f b < 2 ^ 32 := by
  have : creditSum f b < 2 ^ 32 := by rw [creditSum]; omega
  rw [creditCount]
  split
  · exact this
  · exact (Nat.mod_le _ _).trans_lt this
theorem creditGen_lt (f : Nat → Nat) (b : Nat) : creditGen f b < 2 ^ 32 := Nat.mod_lt _ (by omega)

/-- The fields that a credit leaves: TARGET as it was, COUNT and GEN advanced. -/
theorem advanced_of_credit {f g : Nat → Nat} {b : Nat} (h0 : g 0 = f 0) (h1 : g 1 = creditCount f b) (h2 : g 2 = creditGen f b)
    (hgen : f 2 < 2 ^ 32) : Advanced f g b := by
  refine ⟨h0, h1, h2.trans ?_⟩
  rw [creditGen, creditAdv]
  split
  · exact Nat.mod_eq_of_lt hgen
  · rfl

/-- COUNT and GEN read where a credit's bytes stand. -/
theorem number_creditBytes {m : Memory} {a : Nat} {f : Nat → Nat} {b : Nat}
    (h : ∀ i, i < 12 → memGet m (a + 4 + i) = (creditBytes f b).getD i 0#8) :
    number m (a + 4) 4 = creditCount f b ∧ number m (a + 8) 4 = creditGen f b := by
  have hcount := number_of_bytes (m := m) (leBytes 4 (creditCount f b)) (a + 4) fun i hi => by
    rw [leBytes_length] at hi
    rw [h i (by omega), creditBytes, List.append_assoc, List.getD_append _ _ _ _ (by rw [leBytes_length]; exact hi)]
  have hgen := number_of_bytes (m := m) (leBytes 4 (creditGen f b)) (a + 8) fun i hi => by
    rw [leBytes_length] at hi
    rw [show a + 8 + i = a + 4 + (4 + i) by omega, h (4 + i) (by omega), creditBytes, List.append_assoc,
      List.getD_append_right _ _ _ _ (by rw [leBytes_length]; omega), leBytes_length, Nat.add_sub_cancel_left,
      List.getD_append _ _ _ _ (by rw [leBytes_length]; exact hi)]
  rw [leBytes_length, leNat_leBytes] at hcount hgen
  exact ⟨hcount.trans (Nat.mod_eq_of_lt (creditCount_lt f b)), hgen.trans (Nat.mod_eq_of_lt (creditGen_lt f b))⟩

/-! #### A word in memory -/

theorem awField_mem (s : State) (pa k : Nat) : s.awField (.mem pa) k = number s.mem (pa + 4 * k) 4 := leNat_memRead _ _ _

theorem wordPut_mem_quiet {s : State} (hq : Quiet s) (pa off : Nat) (l : List Byte)
    (hgood : ∀ i, i < l.length → s.lineBad ((pa + off + i) / 128) = false) : HomeWrote s (s.wordPut (.mem pa) off l) (bytesAt (pa + off) l) := by
  have h1 := recall_wrote hq (pa / 128)
  exact h1.after (homeStore_quiet 0 l (pa + off) h1.quiet fun i hi => h1.good _ (hgood i hi))

/-- A credit to a word of memory in good lines: its fields advance, and no byte outside the word changes. -/
theorem credit_mem_quiet {s : State} (hq : Quiet s) (pa b : Nat) (hgood : ∀ i, i < 16 → s.lineBad ((pa + i) / 128) = false) :
    (s.credit (.mem pa) b).1.time = s.time ∧
    Advanced (fun i => number s.mem (pa + 4 * i) 4) (fun i => number (s.credit (.mem pa) b).1.mem (pa + 4 * i) 4) b ∧
    ∀ x, x < pa ∨ pa + 16 ≤ x → memGet (s.credit (.mem pa) b).1.mem x = memGet s.mem x := by
  have hf : s.awField (.mem pa) = fun i => number s.mem (pa + 4 * i) 4 := funext fun k => awField_mem s pa k
  have h1 := closeGens_wrote hq (.mem pa) (s.awField (.mem pa) 2) (creditAdv (s.awField (.mem pa)) b)
  have h2 : HomeWrote s (s.credited (.mem pa) b) (bytesAt (pa + 4) (creditBytes (s.awField (.mem pa)) b)) :=
    h1.after (wordPut_mem_quiet h1.quiet pa 4 (creditBytes (s.awField (.mem pa)) b) fun i hi => h1.good _ (by
      rw [creditBytes_length] at hi
      rw [Nat.add_assoc]; exact hgood (4 + i) (by omega)))
  rw [hf] at h2
  rw [credit_mem, credit_time]
  have hbytes : ∀ i, i < 12 → memGet (s.credited (.mem pa) b).mem (pa + 4 + i) =
      (creditBytes (fun i => number s.mem (pa + 4 * i) 4) b).getD i 0#8 := fun i hi => by
    rw [h2.bytes, bytesAt_inside _ _ _ (by rw [creditBytes_length]; exact hi), Option.getD_some]
  have hout : ∀ x, x < pa + 4 ∨ pa + 16 ≤ x → memGet (s.credited (.mem pa) b).mem x = memGet s.mem x := fun x hx => by
    rw [h2.bytes, bytesAt_outside _ _ _ (by rw [creditBytes_length]; omega), Option.getD_none]
  obtain ⟨hcount, hgen⟩ := number_creditBytes hbytes
  exact ⟨h2.time, advanced_of_credit (number_congr 4 (pa + 4 * 0) fun i hi => hout _ (by omega)) hcount hgen (number_lt _ _ 4),
    fun x hx => hout x (by omega)⟩

end Sys2Proof.Machine
end

section
namespace Sys2Proof.Machine
open Sys2Proof.Claim

/-! ### Values of atomic actions (17/R373) -/

theorem zeroBits_f32_le (neg : Bool) : zeroBits f32 neg ≤ 2 ^ 31 := by cases neg <;> decide
theorem infBits_f32_lt (neg : Bool) : infBits f32 neg < 2 ^ 32 := by cases neg <;> decide
theorem overflowBits_f32_lt (rnd : Rnd) (neg : Bool) : overflowBits f32 rnd neg < 2 ^ 32 := by cases rnd <;> cases neg <;> decide

theorem finite_or_overflow_f32_lt (rnd : Rnd) (neg : Bool) (x : Nat) (st st' : Status) :
    (if f32.infBits ≤ x then (overflowBits f32 rnd neg, st) else (x + zeroBits f32 neg, st')).1 < 2 ^ 32 := by
  have hz := zeroBits_f32_le neg
  have hinf : f32.infBits < 2 ^ 31 := by decide
  split
  · exact overflowBits_f32_lt rnd neg
  · simp only; omega

/-- A result rounded to binary32 is a pattern of 32 bits. -/
theorem fround_f32_lt (rnd : Rnd) (r16 : Nat) (neg : Bool) (num den : Nat) (e : Int) : (fround f32 rnd r16 neg num den e).1 < 2 ^ 32 := by
  rw [fround]
  split
  · exact (zeroBits_f32_le neg).trans_lt (by omega)
  · refine lt_of_eq_of_lt (apply_ite Prod.fst _ _ _) ?_
    split
    · exact overflowBits_f32_lt rnd neg
    · exact finite_or_overflow_f32_lt ..
theorem froundInt_f32_lt (rnd : Rnd) (r16 : Nat) (z : Bool) (x e : Int) : (froundInt f32 rnd r16 z x e).1 < 2 ^ 32 := by
  rw [froundInt]
  split
  · exact (zeroBits_f32_le z).trans_lt (by omega)
  · exact fround_f32_lt ..
theorem faddVal_f32_lt (rnd : Rnd) (r16 : Nat) (a b : FVal) : (faddVal f32 rnd r16 a b).1 < 2 ^ 32 := by
  have hnan : f32.nan < 2 ^ 32 := by decide
  rw [faddVal.eq_def]
  split
  · exact hnan
  · exact hnan
  · split
    · exact infBits_f32_lt _
    · exact hnan
  · exact infBits_f32_lt _
  · exact infBits_f32_lt _
  · exact froundInt_f32_lt ..
theorem fminmaxBits_f32_lt (max : Bool) (x y : Nat) (hx : x < 2 ^ 32) (hy : y < 2 ^ 32) : (fminmaxBits f32 max x y).1 < 2 ^ 32 := by
  have hnan : f32.nan < 2 ^ 32 := by decide
  have hone : ∀ (c : Bool), (if c then y else x) < 2 ^ 32 := fun c => by cases c <;> assumption
  simp only [fminmaxBits]
  split
  · exact hnan
  split
  · exact hy
  split
  · exact hx
  split
  · exact hone _
  · exact hone _

/-- The value of an integer of an atomic type, as its type reads it. -/
theorem toInt_eq_element (ty : Tag) (hty : Tag.isAtom ty = true) (hf : ty ≠ .f32) (x : Nat) (hx : x < 2 ^ atWidth ty) :
    toInt (tagSigned ty) (atWidth ty) x = element ty 0 x := by
  cases ty <;> simp_all [Tag.isAtom, toInt, element, atWidth, tagSigned, Tag.is64, Tag.width, highest, Nat.mod_eq_of_lt] <;> omega

theorem atWidth_eq (ty : Tag) : atWidth ty = 8 * (if ty.is64 then 8 else 4) := by rw [atWidth]; split <;> rfl

/-- The value that an atomic action leaves is the one the spec combines, and fits its element. -/
theorem atomNew_eq_combined (op : AtOp) (ty : Tag) (hty : Tag.isAtom ty = true) (old b c : Nat) (ho : old < 2 ^ atWidth ty)
    (hb : b < 2 ^ atWidth ty) (hc : c < 2 ^ atWidth ty) :
    atomNew op ty old b c = combined op ty old b c ∧ atomNew op ty old b c < 2 ^ atWidth ty := by
  have hw : (if ty.is64 then 2 ^ 64 else 2 ^ 32) = 2 ^ atWidth ty := by rw [atWidth]; split <;> rfl
  have hfloat : ty = .f32 → ∀ {x}, x < 2 ^ 32 → x < 2 ^ atWidth ty := by rintro rfl; exact id
  have hreads : ty ≠ .f32 → ∀ x, x < 2 ^ atWidth ty → toInt (tagSigned ty) (atWidth ty) x = element ty 0 x := toInt_eq_element ty hty
  have hfits : ∀ {x y}, x < 2 ^ atWidth ty → x = y → x % 2 ^ atWidth ty = y ∧ x % 2 ^ atWidth ty < 2 ^ atWidth ty :=
    fun hx h => ⟨(Nat.mod_eq_of_lt hx).trans h, Nat.mod_lt _ (Nat.two_pow_pos _)⟩
  cases op with
  | and => exact hfits (Nat.and_lt_two_pow _ hb) rfl
  | or => exact hfits (Nat.or_lt_two_pow ho hb) rfl
  | xor => exact hfits (Nat.xor_lt_two_pow ho hb) rfl
  | exch => exact hfits hb rfl
  | cas =>
    simp only [atomNew, combined, Nat.mod_eq_of_lt ho, Nat.mod_eq_of_lt hb, Nat.mod_eq_of_lt hc, true_and]
    split <;> assumption
  | add =>
    simp only [atomNew, combined, hw, true_and]
    split
    · next hf => exact hfloat hf (faddVal_f32_lt ..)
    · exact Nat.mod_lt _ (Nat.two_pow_pos _)
  | min =>
    by_cases hf : ty = .f32
    · simp only [atomNew, combined, if_pos hf, true_and]
      exact hfloat hf (fminmaxBits_f32_lt _ _ _ (by subst hf; exact ho) (by subst hf; exact hb))
    · simp only [atomNew, combined, if_neg hf, hreads hf _ ho, hreads hf _ hb, Nat.mod_eq_of_lt ho, Nat.mod_eq_of_lt hb, true_and]
      split <;> assumption
  | max =>
    by_cases hf : ty = .f32
    · simp only [atomNew, combined, if_pos hf, true_and]
      exact hfloat hf (fminmaxBits_f32_lt _ _ _ (by subst hf; exact ho) (by subst hf; exact hb))
    · simp only [atomNew, combined, if_neg hf, hreads hf _ ho, hreads hf _ hb, Nat.mod_eq_of_lt ho, Nat.mod_eq_of_lt hb, true_and]
      split <;> assumption

end Sys2Proof.Machine
end

section
namespace Sys2Proof.Machine
open Sys2Proof.Claim

/-! ### READ, WRITE, ATOMIC and CREDIT performed (02/R38, R47, R55; 17/R375) -/

theorem quiet_of_plain {s : State} {pa n : Nat} (h : Plain s pa n) : Quiet s := ⟨h.upd, h.det, h.form⟩
theorem quiet_release {s : State} (h : Quiet s) (port : Nat) (k : Packet) : Quiet (s.release port k) := ⟨h.upd, h.det, h.form⟩
theorem first_release {s : State} {k : Packet} (h : First s k) (port : Nat) : First (s.release port k) k := ⟨h.performing, h.dups⟩

theorem inWindow_eq_false {pa : Nat} (h : pa < 0xFFFFF00000000) : inWindow pa = false := by
  rw [inWindow, Config.windowPA]; exact decide_eq_false (Nat.not_le.2 h)

/-! #### Requests that need not wait (01/R12) -/

/-- The lines of n bytes from an address on. -/
def linesOf (pa n : Nat) : List Nat := (List.range ((pa % 128 + n + 127) / 128)).map (· + pa / 128)

theorem pktLines_read {k : Packet} (h : k.typ = 0x01) : pktLines k = linesOf k.addr (32 * k.aux) := by simp only [pktLines, linesOf, h]
theorem pktLines_write {k : Packet} (h : k.typ = 0x03) : pktLines k = linesOf k.addr (32 * k.len) := by simp only [pktLines, linesOf, h]
theorem pktLines_atomic {k : Packet} (h : k.typ = 0x05) : pktLines k = linesOf k.addr 1 := by simp only [pktLines, linesOf, h]
theorem pktLines_credit {k : Packet} (h : k.typ = 0x08) : pktLines k = linesOf k.addr 1 := by simp only [pktLines, linesOf, h]

theorem pktWaits_of_ready {s : State} {k : Packet} {n : Nat} (hk : pktLines k = linesOf k.addr n) (hn : 0 < n)
    (hready : ∀ i, i < n → s.homeWaits ((k.addr + i) / 128) = false) : s.pktWaits k = false := by
  have hno : (pktLines k).any s.homeWaits = false := by
    rw [List.any_eq_false, hk]
    intro line hl
    obtain ⟨j, hj, rfl⟩ := List.mem_map.1 hl
    have := List.mem_range.1 hj
    obtain ⟨i, hi, heq⟩ := exists_byte_of_line k.addr n (j + k.addr / 128) hn (by omega) (by omega)
    rw [← heq, hready i hi]
    exact Bool.false_ne_true
  rw [State.pktWaits, hno, Bool.and_false]
theorem pktWaits_of_denied {s : State} {k : Packet} (h : s.permitted k = false) : s.pktWaits k = false := by
  rw [State.pktWaits, h, Bool.and_false, Bool.false_and]

theorem permitted_read {s : State} {k : Packet} (h : k.typ = 0x01) : s.permitted k = s.permits k 0 := by simp only [State.permitted, h]
theorem permitted_write {s : State} {k : Packet} (h : k.typ = 0x03) : s.permitted k = s.permits k 1 := by simp only [State.permitted, h]
theorem permitted_atomic {s : State} {k : Packet} (h : k.typ = 0x05) : s.permitted k = s.permits k 2 := by simp only [State.permitted, h]

theorem perform_read {s : State} {port : Nat} {k : Packet} (h : k.typ = 0x01) : s.perform port k = s.doRead port k := by
  simp only [State.perform, h]
theorem perform_write {s : State} {port : Nat} {k : Packet} (h : k.typ = 0x03) : s.perform port k = s.doWrite port k := by
  simp only [State.perform, h]
theorem perform_atomic {s : State} {port : Nat} {k : Packet} (h : k.typ = 0x05) : s.perform port k = s.doAtomic port k := by
  simp only [State.perform, h]
theorem perform_credit {s : State} {port : Nat} {k : Packet} (h : k.typ = 0x08) : s.perform port k = s.doCredit port k := by
  simp only [State.perform, h]

/-! #### What each of them does -/

section
variable {s : State} {port : Nat} {k : Packet}

theorem answerRead_ok (l : List Byte) : s.answerRead port k 0 l = s.answer port k (s.responseTo k 0x02 0 k.aux l) := rfl
theorem doRead_denied (h : s.permits k 0 = false) : s.doRead port k = s.answer port k (s.responseTo k 0x02 1 1 (List.replicate 32 0#8)) := by
  rw [State.doRead, if_pos (by simp [h])]; rfl
theorem doRead_permitted (h : s.permits k 0 = true) (hw : inWindow k.addr = false) {s1 : State} {l : List Byte}
    (hl : s.homeLoad k.addr (32 * k.aux) = (s1, some l)) : s.doRead port k = s1.answer port k (s1.responseTo k 0x02 0 k.aux l) := by
  simp only [State.doRead, h, hw, hl, Bool.not_true, Bool.false_eq_true, if_false, answerRead_ok]

theorem grid_capture_unrecorded (h : Unrecorded s) (gid : Nat) : (s.grid gid).capture = false := by
  rw [State.grid]
  cases hg : s.grids.find? fun x => x.id == gid with
  | none => rfl
  | some g => exact h g (List.mem_of_find?_eq_some hg)
theorem capRecord_unrecorded (h : Unrecorded s) (gid kind unit detail value : Nat) (data : List Byte) :
    s.capRecord gid kind unit detail value data = s := by
  simp only [State.capRecord, grid_capture_unrecorded h, Bool.not_false, Bool.true_or, if_true]
theorem capArrival_unrecorded (h : Unrecorded s) (a : Nat) : s.capArrival port k a = s := capRecord_unrecorded h ..

theorem doWrite_denied (h : s.permits k 1 = false) : s.doWrite port k = s.answer port k (s.responseTo k 0x04 1 0 []) := by
  rw [State.doWrite, if_pos (by simp [h])]; rfl
theorem doWrite_permitted (h : s.permits k 1 = true) (hw : inWindow k.addr = false) (hu : Unrecorded s) {s1 : State}
    (hl : s.homeMasked k.ctx k.addr k.data (writeMask k) = (s1, true)) : s.doWrite port k = s1.answer port k (s1.responseTo k 0x04 0 0 []) := by
  simp only [State.doWrite, h, hw, capArrival_unrecorded hu, hl, Bool.not_true, Bool.false_eq_true, if_false, if_true, State.answerAck]

theorem doAtomic_denied (h : s.permits k 2 = false) : s.doAtomic port k = s.answer port k (s.responseTo k 0x06 1 1 (List.replicate 32 0#8)) := by
  rw [State.doAtomic, if_pos (by simp [h])]; rfl
theorem doAtomic_permitted (h : s.permits k 2 = true) (hw : inWindow k.addr = false) (hu : Unrecorded s) {op : AtOp}
    (hop : AtOp.ofCode? (k.aux % 8) = some op) {s1 : State} {old : Nat}
    (hl : s.homeAtom k.ctx k.addr op (Tag.ofCode (k.aux / 8 % 16)) (leNat (k.data.take 8)) (leNat ((k.data.drop 8).take 8)) = (s1, some old)) :
    s.doAtomic port k = s1.answer port k (s1.responseTo k 0x06 0 1 (leBytes 32 old)) := by
  have hop' : AtOp.ofCode? (bitsAt k.aux 0 3) = some op := by rw [bitsAt, pow_zero, Nat.div_one]; exact hop
  have hl' : s.homeAtom k.ctx k.addr op (Tag.ofCode (bitsAt k.aux 3 4)) (recField k.data 0 8) (recField k.data 8 8) = (s1, some old) := hl
  simp only [State.doAtomic, h, hw, capArrival_unrecorded hu, hop', Option.getD_some, hl', Bool.not_true, Bool.false_or, Bool.false_eq_true,
    if_false, State.answerOld]

theorem doCredit_memory (hw : inWindow k.addr = false) (hgood : s.lineBad (k.addr / 128) = false) (hu : Unrecorded s) :
    s.doCredit port k = ((s.credit (.mem k.addr) k.aux).1).answer port k (((s.credit (.mem k.addr) k.aux).1).responseTo k 0x04 0 0 []) := by
  simp only [State.doCredit, State.creditLoc, hw, State.wordLost, hgood, capArrival_unrecorded hu, Bool.false_eq_true, if_false, State.answerAck]

end

end Sys2Proof.Machine
end

section
namespace Sys2Proof.Machine
open Sys2Proof.Claim

@[simp] theorem answer_mem (s : State) (port : Nat) (k r : Packet) : (s.answer port k r).mem = s.mem := by rw [answer_eq_fabric]

/-- A request that is answered with nothing done. -/
theorem answered_idle {s : State} {port : Nat} {k : Packet} {typ status len : Nat} {data : List Byte} {i : Instr}
    (h : exec i s = .next ((s.release port k).answer port k ((s.release port k).responseTo k typ status len data))) :
    ∃ s', exec i s = .next s' ∧ Answers s' k typ status data ∧ Recorded s s' k ∧ s' = { s with fabric := s'.fabric } := by
  obtain ⟨ha, hr⟩ := answer_spec s (s := s.release port k) port k typ status len data rfl
  exact ⟨_, h, ha, hr, by rw [answer_eq_fabric]; rfl⟩

/-- A request that is answered after what it does at its home. -/
theorem answered_after {s s1 : State} {port : Nat} {k : Packet} {typ status len : Nat} {data : List Byte} {i : Instr}
    (h : exec i s = .next (s1.answer port k (s1.responseTo k typ status len data))) (ht : s1.time = s.time) :
    ∃ s', exec i s = .next s' ∧ Answers s' k typ status data ∧ Recorded s s' k ∧ s'.mem = s1.mem := by
  obtain ⟨ha, hr⟩ := answer_spec s port k typ status len data ht
  exact ⟨_, h, ha, hr, answer_mem ..⟩

theorem unrecorded_release {s : State} (h : Unrecorded s) (port : Nat) (k : Packet) : Unrecorded (s.release port k) := h

/-- An atomic action on an element of a good line: the old value is given, and the element is replaced. -/
theorem homeAtom_quiet {s : State} (hq : Quiet s) (ctx pa : Nat) (op : AtOp) (ty : Tag) (b c : Nat) {n : Nat} (hn : atWidth ty = 8 * n)
    (hfit : pa % 128 + n ≤ 128) (hgood : s.lineBad (pa / 128) = false) :
    ∃ s', s.homeAtom ctx pa op ty b c = (s', some (number s.mem pa n)) ∧
      HomeWrote s s' (bytesAt pa (leBytes n (atomNew op ty (number s.mem pa n) b c))) := by
  have hwidth : atWidth ty / 8 = n := by omega
  obtain ⟨s1, hread, h1⟩ := homeRead_quiet hq pa n false hgood
  obtain ⟨s2, hput, h2⟩ := homeWrite_quiet h1.quiet ctx pa (leBytes n (atomNew op ty (number s.mem pa n) b c)) false
    (by rw [leBytes_length]; exact hfit) (h1.good _ hgood)
  exact ⟨s2, by simp only [State.homeAtom, hwidth, hread, leNat_memRead, hput], h1.after h2⟩

/-- A packet that arrives for the first time with its own tag, for an address outside the window aperture. -/
structure Fresh (s : State) (port : Nat) (k : Packet) : Prop extends Arrives s port k where
  first : First s k
  sealed : k.etag = etagOf k
  memory : inWindow k.addr = false

section
variable {s : State} {port : Nat} {k : Packet} (h : Fresh s port k)
include h

theorem reliable_fresh (spoil : State → State) (hw : (s.release port k).pktWaits k = false) :
    (s.release port k).reliable port k spoil = (s.release port k).perform port k :=
  reliable_new (show Cold (s.release port k) k from h.cold) port spoil (first_release h.first port) h.sealed hw

/-! #### READ -/

theorem aux_pos_of_read (ht : k.typ = 0x01) : 0 < k.aux := by
  have := h.formed
  simp only [malformed, auxAllowed, ht, Bool.or_eq_false_iff, Bool.not_eq_false', Bool.and_eq_true, decide_eq_true_eq] at this
  omega

theorem read_permitted (ht : k.typ = 0x01) (hp : s.permits k 0 = true) (hpl : Plain s k.addr (32 * k.aux)) :
    ∃ s', exec (.readReceive port k) s = .next s' ∧ Answers s' k 0x02 0 (memRead s.mem k.addr (32 * k.aux)) ∧ Recorded s s' k ∧
      (∀ x, memGet s'.mem x = memGet s.mem x) := by
  have hn : 0 < 32 * k.aux := by have := aux_pos_of_read h ht; omega
  obtain ⟨s1, hload, hw⟩ := homeLoad_quiet (quiet_release (quiet_of_plain hpl) port k) k.addr (32 * k.aux) hn hpl.good
  have hexec := exec_readReceive h.toArrives ht
  rw [reliable_fresh h id (pktWaits_of_ready (pktLines_read ht) hn hpl.ready), perform_read ht,
    doRead_permitted (by rw [release_permits, hp]) h.memory hload] at hexec
  obtain ⟨s', hs, ha, hr, hm⟩ := answered_after hexec (hw.time.trans rfl)
  exact ⟨s', hs, ha, hr, fun x => by rw [hm]; exact hw.read x⟩

theorem read_denied (ht : k.typ = 0x01) (hp : s.permits k 0 = false) :
    ∃ s', exec (.readReceive port k) s = .next s' ∧ Answers s' k 0x02 1 (List.replicate 32 0#8) ∧ Recorded s s' k ∧
      s' = { s with fabric := s'.fabric } := by
  have hp' : (s.release port k).permits k 0 = false := by rw [release_permits, hp]
  have hexec := exec_readReceive h.toArrives ht
  rw [reliable_fresh h id (pktWaits_of_denied ((permitted_read ht).trans hp')), perform_read ht, doRead_denied hp'] at hexec
  exact answered_idle hexec

/-! #### WRITE -/

theorem write_length (ht : k.typ = 0x03) : 0 < k.len ∧ k.data.length = 32 * k.len ∧ k.bmask < 2 ^ 32 := by
  have hform := h.formed
  have hok := h.fields
  simp only [malformed, shapeListed, ht, Bool.or_eq_false_iff, Bool.not_eq_false', Bool.and_eq_true, decide_eq_true_eq] at hform
  simp only [Packet.ok, Bool.and_eq_true, decide_eq_true_eq] at hok
  exact ⟨by omega, hok.2, by omega⟩

/-- The bytes that a WRITE writes: of one flit those of BMASK, else all. -/
theorem testBit_writeMask (ht : k.typ = 0x03) (i : Nat) :
    (writeMask k).testBit i = true ↔ i < 32 * k.len ∧ (k.len = 1 → k.bmask.testBit i = true) := by
  obtain ⟨hpos, -, hmask⟩ := write_length h ht
  rw [writeMask]
  split
  · next h1 =>
    refine ⟨fun hb => ⟨?_, fun _ => hb⟩, fun hb => hb.2 h1⟩
    have := (Nat.pow_lt_pow_iff_right (by omega)).1 ((Nat.ge_two_pow_of_testBit hb).trans_lt hmask)
    omega
  · next h1 => simp [Nat.testBit_two_pow_sub_one, h1]

theorem writeMask_lt (ht : k.typ = 0x03) : writeMask k < 2 ^ k.data.length := by
  obtain ⟨hpos, hlen, hmask⟩ := write_length h ht
  rw [writeMask, hlen]
  split
  · next h1 => rw [h1]; exact hmask
  · exact Nat.sub_lt (Nat.two_pow_pos _) (by omega)

theorem write_permitted (ht : k.typ = 0x03) (hcls : k.cls = 0) (hp : s.permits k 1 = true) (hpl : Plain s k.addr (32 * k.len)) (hu : Unrecorded s) :
    let written := fun (x : Nat) => k.addr ≤ x ∧ x < k.addr + 32 * k.len ∧ (k.len = 1 → k.bmask.testBit (x - k.addr) = true)
    ∃ s', exec (.writeReceive port k) s = .next s' ∧ Answers s' k 0x04 0 [] ∧ Recorded s s' k ∧
      (∀ x, written x → memGet s'.mem x = k.data.getD (x - k.addr) 0#8) ∧ (∀ x, ¬written x → memGet s'.mem x = memGet s.mem x) := by
  intro written
  obtain ⟨hpos, hlen, -⟩ := write_length h ht
  obtain ⟨s1, hput, hw⟩ := homeMasked_quiet (quiet_release (quiet_of_plain hpl) port k) k.ctx k.addr k.data (writeMask k) (by omega)
    (writeMask_lt h ht) (by rw [hlen]; exact hpl.good)
  have hexec := exec_writeReceive h.toArrives ht hcls
  rw [reliable_fresh h _ (pktWaits_of_ready (pktLines_write ht) (by omega) hpl.ready), perform_write ht,
    doWrite_permitted (by rw [release_permits, hp]) h.memory (unrecorded_release hu port k) hput] at hexec
  obtain ⟨s', hs, ha, hr, hm⟩ := answered_after hexec (hw.time.trans rfl)
  have hmask : ∀ x, written x ↔ k.addr ≤ x ∧ (writeMask k).testBit (x - k.addr) = true := fun x => by
    rw [testBit_writeMask h ht]
    exact ⟨fun hx => ⟨hx.1, by omega, hx.2.2⟩, fun hx => ⟨hx.1, by omega, hx.2.2⟩⟩
  refine ⟨s', hs, ha, hr, fun x hx => ?_, fun x hx => ?_⟩
  · rw [hm, hw.bytes, maskedBytes, if_pos ((hmask x).1 hx), Option.getD_some]
  · rw [hm, hw.bytes, maskedBytes, if_neg (mt (hmask x).2 hx), Option.getD_none, release_mem]

theorem write_denied (ht : k.typ = 0x03) (hcls : k.cls = 0) (hp : s.permits k 1 = false) :
    ∃ s', exec (.writeReceive port k) s = .next s' ∧ Answers s' k 0x04 1 [] ∧ Recorded s s' k ∧ s' = { s with fabric := s'.fabric } := by
  have hp' : (s.release port k).permits k 1 = false := by rw [release_permits, hp]
  have hexec := exec_writeReceive h.toArrives ht hcls
  rw [reliable_fresh h _ (pktWaits_of_denied ((permitted_write ht).trans hp')), perform_write ht, doWrite_denied hp'] at hexec
  exact answered_idle hexec

/-! #### ATOMIC -/

theorem isAtom_of_atomic (ht : k.typ = 0x05) : Tag.isAtom (Tag.ofCode (k.aux / 8 % 16)) = true := by
  have hform := h.formed
  have haux : atomicAuxOk k.aux = true := by
    simp only [malformed, auxAllowed, ht, Bool.or_eq_false_iff, Bool.not_eq_false'] at hform
    tauto
  rw [atomicAuxOk] at haux
  split at haux
  · cases haux
  · simp only [Bool.and_eq_true] at haux
    exact haux.1.2

theorem atomic_permitted (ht : k.typ = 0x05) {op : AtOp} (hop : AtOp.ofCode? (k.aux % 8) = some op) (hp : s.permits k 2 = true)
    (hpl : Plain s k.addr (if (Tag.ofCode (k.aux / 8 % 16)).is64 then 8 else 4)) (hu : Unrecorded s)
    (hfit : k.addr % 128 + (if (Tag.ofCode (k.aux / 8 % 16)).is64 then 8 else 4) ≤ 128) :
    let ty := Tag.ofCode (k.aux / 8 % 16)
    let n := if ty.is64 then 8 else 4
    let b := leNat (k.data.take 8)
    let c := leNat ((k.data.drop 8).take 8)
    b < 2 ^ (8 * n) → c < 2 ^ (8 * n) →
    let old := number s.mem k.addr n
    ∃ s', exec (.atomicReceive port k) s = .next s' ∧ Answers s' k 0x06 0 (leBytes 32 old) ∧ Recorded s s' k ∧
      number s'.mem k.addr n = combined op ty old b c ∧
      (∀ x, (x < k.addr ∨ k.addr + n ≤ x) → memGet s'.mem x = memGet s.mem x) := by
  intro ty n b c hb hc old
  have hn : atWidth ty = 8 * n := atWidth_eq ty
  have hgood : s.lineBad (k.addr / 128) = false := hpl.good 0 (by split <;> omega)
  obtain ⟨s1, hatom, hw⟩ := homeAtom_quiet (quiet_release (quiet_of_plain hpl) port k) k.ctx k.addr op ty b c hn hfit hgood
  have hexec := exec_atomicReceive h.toArrives ht
  rw [reliable_fresh h id (pktWaits_of_ready (pktLines_atomic ht) (by omega) fun i hi => hpl.ready i (by split <;> omega)), perform_atomic ht,
    doAtomic_permitted (by rw [release_permits, hp]) h.memory (unrecorded_release hu port k) hop hatom] at hexec
  obtain ⟨s', hs, ha, hr, hm⟩ := answered_after hexec (hw.time.trans rfl)
  rw [release_mem] at hw ha
  obtain ⟨hnew, hlt⟩ := atomNew_eq_combined op ty (isAtom_of_atomic h ht) old b c (hn ▸ number_lt _ _ _) (hn ▸ hb) (hn ▸ hc)
  refine ⟨s', hs, ha, hr, ?_, fun x hx => ?_⟩
  · have hbytes := number_of_bytes (m := s'.mem) (leBytes n (atomNew op ty old b c)) k.addr fun i hi => by
      rw [hm, hw.bytes, bytesAt_inside _ _ _ hi, Option.getD_some]
    rw [leBytes_length, leNat_leBytes, ← hn, Nat.mod_eq_of_lt hlt] at hbytes
    exact hbytes.trans hnew
  · rw [hm, hw.bytes, bytesAt_outside _ _ _ (by rw [leBytes_length]; exact hx), Option.getD_none, release_mem]

theorem atomic_denied (ht : k.typ = 0x05) (hp : s.permits k 2 = false) :
    ∃ s', exec (.atomicReceive port k) s = .next s' ∧ Answers s' k 0x06 1 (List.replicate 32 0#8) ∧ Recorded s s' k ∧
      s' = { s with fabric := s'.fabric } := by
  have hp' : (s.release port k).permits k 2 = false := by rw [release_permits, hp]
  have hexec := exec_atomicReceive h.toArrives ht
  rw [reliable_fresh h id (pktWaits_of_denied ((permitted_atomic ht).trans hp')), perform_atomic ht, doAtomic_denied hp'] at hexec
  exact answered_idle hexec

/-! #### CREDIT -/

theorem credit_performed (ht : k.typ = 0x08) (hpl : Plain s k.addr 16) (hu : Unrecorded s) :
    ∃ s', exec (.creditReceive port k) s = .next s' ∧ Answers s' k 0x04 0 [] ∧ Recorded s s' k ∧
      Advanced (fun i => number s.mem (k.addr + 4 * i) 4) (fun i => number s'.mem (k.addr + 4 * i) 4) k.aux ∧
      (∀ x, (x < k.addr ∨ k.addr + 16 ≤ x) → memGet s'.mem x = memGet s.mem x) := by
  have hgood : (s.release port k).lineBad (k.addr / 128) = false := hpl.good 0 (by omega)
  obtain ⟨htime, hadv, hout⟩ := credit_mem_quiet (quiet_release (quiet_of_plain hpl) port k) k.addr k.aux hpl.good
  have hexec := exec_creditReceive h.toArrives ht
  rw [reliable_fresh h id (pktWaits_of_ready (pktLines_credit ht) (by omega) fun i hi => hpl.ready i (by omega)), perform_credit ht,
    doCredit_memory h.memory hgood (unrecorded_release hu port k)] at hexec
  obtain ⟨s', hs, ha, hr, hm⟩ := answered_after hexec (htime.trans rfl)
  rw [release_mem] at hadv
  exact ⟨s', hs, ha, hr, by rw [hm]; exact hadv, fun x hx => by rw [hm]; exact hout x hx⟩

end

/-- Settles O44: what is met again and what is spoiled by the one lemma of a RELIABLE request, and each of the four by a lemma of what it
does at its home where the table permits it, and where it does not. -/
theorem fabricRequests : Obligations.FabricRequests := by
  intro s port k harr
  refine ⟨fun i hi => ⟨fun d hnot hd => request_again harr hi d hnot hd, fun hf he ht => request_spoiled harr hi hf he ht⟩, ?_⟩
  intro hf he haddr
  have h : Fresh s port k := ⟨harr, hf, he, inWindow_eq_false haddr⟩
  exact ⟨fun ht => ⟨read_permitted h ht, read_denied h ht⟩, fun ht hcls => ⟨write_permitted h ht hcls, write_denied h ht hcls⟩,
    fun ht => ⟨fun op hop hp hpl hu hfit => atomic_permitted h ht hop hp hpl hu hfit, atomic_denied h ht⟩,
    fun ht hpl hu _ => credit_performed h ht hpl hu⟩

end Sys2Proof.Machine
end

section
namespace Sys2Proof.Machine
open Sys2Proof.Claim

/-! ### A lossy word of a scratchpad, its masks and its region (10/R227, R231) -/

theorem team_editTeam_listed {s : State} {i : Nat} (h : (s.teams.find? fun x => x.id == i).isSome = true) (f : Team → Team)
    (hid : ∀ t, (f t).id = t.id) : (s.editTeam i f).team i = f (s.team i) := by
  obtain ⟨t, ht⟩ := Option.isSome_iff_exists.1 h
  have hkey : ∀ x : Team, (if x.id == i then f x else x).id = x.id := fun x => by split <;> simp [hid]
  have hfound : t.id == i := List.find?_some (p := fun x : Team => x.id == i) ht
  rw [State.team, State.team, State.editTeam, editBy, find_map_id Team.id _ hkey, ht, Option.map_some, Option.getD_some, Option.getD_some,
    if_pos hfound]
theorem listed_of_resident {s : State} {i : Nat} (h : (s.team i).state = .resident) : (s.teams.find? fun x => x.id == i).isSome = true := by
  by_contra hn
  rw [State.team, Option.not_isSome_iff_eq_none.1 hn] at h
  cases h

/-- The state without scratchpads, threads and the fabric's tables. -/
def State.offScr (s : State) : State := { s with teams := [], threads := [], fabric := Fabric.reset }

/-- A write in the scratchpad of a resident team whose lines are good. -/
theorem scrWrite_resident {s : State} {team : Nat} (hr : (s.team team).state = .resident) (hb : (s.team team).scrBad = []) (off : Nat) (l : List Byte) :
    (s.scrWrite team off l).team team = { s.team team with scr := memWrite (s.team team).scr off l } ∧
      (s.scrWrite team off l).offScr = s.offScr := by
  have hlost : (s.team team).scrLost off l.length = false := by rw [Team.scrLost, hb]; rfl
  have hput : s.scrPut team off l = s.editTeam team fun x => { x with scr := memWrite x.scr off l } := by simp only [State.scrPut, hr]
  rw [State.scrWrite, hlost, if_neg Bool.false_ne_true, hput]
  exact ⟨team_editTeam_listed (listed_of_resident hr) (fun x => { x with scr := memWrite x.scr off l }) fun _ => rfl, rfl⟩

theorem scrRead_resident {s : State} {team : Nat} (hr : (s.team team).state = .resident) (off n : Nat) :
    s.scrRead team off n = memRead (s.team team).scr off n := by simp only [State.scrRead, hr]

/-- A lossy word in a state: its fields, the bits of its masks and the bytes of its blocks; z is the rest of the state. -/
structure LossyView (z s : State) (e : LossyEntry) (team o R M : Nat) (f : Nat → Nat) (b : Nat → Nat → Bool) (d : Nat → Nat → Byte) : Prop where
  word : LossyWord s e team o R M
  rest : s.offScr = z
  fields : ∀ k, k < 8 → number (s.team team).scr (o + 4 * k) 4 = f k
  bits : ∀ map, map < 2 → ∀ j, j < e.size / 256 → maskBitAt s team M e.size map j = b map j
  blocks : ∀ j, j < e.size / 256 → ∀ i, i < 256 → memGet (s.team team).scr (R + 256 * j + i) = d j i

theorem view_self {s : State} {e : LossyEntry} {team o R M : Nat} (h : LossyWord s e team o R M) :
    LossyView s.offScr s e team o R M (fun k => number (s.team team).scr (o + 4 * k) 4) (maskBitAt s team M e.size)
      fun j i => memGet (s.team team).scr (R + 256 * j + i) :=
  ⟨h, rfl, fun _ _ => rfl, fun _ _ _ _ => rfl, fun _ _ _ _ => rfl⟩

/-- The bit of a mask at a byte of a scratchpad. -/
def bitOf (m : Memory) (M size map j : Nat) : Bool := (memGet m (M + map * bitmapBytes size + j / 8)).toNat.testBit (j % 8)
theorem maskBitAt_eq (s : State) (team M size map j : Nat) : maskBitAt s team M size map j = bitOf (s.team team).scr M size map j := rfl

/-- A block's bit lies in its bitmap. -/
theorem bitByte_lt (size j : Nat) (hj : j < size / 256) : j / 8 < bitmapBytes size := by rw [bitmapBytes]; omega

/-- A block's bit lies in the mask area. -/
theorem maskByte_lt {size map j : Nat} (hm : map < 2) (hj : j < size / 256) : map * bitmapBytes size + j / 8 < 2 * bitmapBytes size := by
  have := bitByte_lt size j hj
  have : map * bitmapBytes size ≤ 1 * bitmapBytes size := Nat.mul_le_mul_right _ (by omega)
  omega

section
variable {z s : State} {e : LossyEntry} {team o R M : Nat} {f : Nat → Nat} {b : Nat → Nat → Bool} {d : Nat → Nat → Byte}

/-- What a write in the scratchpad that leaves the region's address alone makes of a lossy word. -/
theorem LossyView.write (h : LossyView z s e team o R M f b d) (off : Nat) (l : List Byte) (hoff : off + l.length ≤ o + 16 ∨ o + 24 ≤ off)
    {f' : Nat → Nat} {b' : Nat → Nat → Bool} {d' : Nat → Nat → Byte}
    (hf : ∀ k, k < 8 → number (memWrite (s.team team).scr off l) (o + 4 * k) 4 = f' k)
    (hb : ∀ map, map < 2 → ∀ j, j < e.size / 256 → bitOf (memWrite (s.team team).scr off l) M e.size map j = b' map j)
    (hd : ∀ j, j < e.size / 256 → ∀ i, i < 256 → memGet (memWrite (s.team team).scr off l) (R + 256 * j + i) = d' j i) :
    LossyView z (s.scrWrite team off l) e team o R M f' b' d' := by
  obtain ⟨hteam, hrest⟩ := scrWrite_resident h.word.resident h.word.intact off l
  have hscr : ((s.scrWrite team off l).team team).scr = memWrite (s.team team).scr off l := by rw [hteam]
  refine ⟨⟨h.word.loc, ?_, ?_, ?_, ?_, h.word.mask, h.word.range, h.word.blocks, h.word.apart1, h.word.apart2, h.word.apart3⟩,
    hrest.trans h.rest, fun k hk => ?_, fun map hm j hj => ?_, fun j hj i hi => ?_⟩
  · rw [hteam]; exact h.word.resident
  · rw [hscr]; exact memWrite_wf _ _ _ h.word.form
  · rw [hteam]; exact h.word.intact
  · rw [hscr, h.word.region]
    exact (number_congr 8 (o + 16) fun i hi => memGet_memWrite_ne _ _ _ _ (by omega)).symm
  · rw [hscr]; exact hf k hk
  · rw [maskBitAt_eq, hscr]; exact hb map hm j hj
  · rw [hscr]; exact hd j hj i hi

/-- The same word with equal fields, bits and bytes. -/
theorem LossyView.congr (h : LossyView z s e team o R M f b d) {f' : Nat → Nat} {b' : Nat → Nat → Bool} {d' : Nat → Nat → Byte}
    (hf : ∀ k, k < 8 → f k = f' k) (hb : ∀ map, map < 2 → ∀ j, j < e.size / 256 → b map j = b' map j)
    (hd : ∀ j, j < e.size / 256 → ∀ i, i < 256 → d j i = d' j i) : LossyView z s e team o R M f' b' d' :=
  ⟨h.word, h.rest, fun k hk => (h.fields k hk).trans (hf k hk), fun map hm j hj => (h.bits map hm j hj).trans (hb map hm j hj),
    fun j hj i hi => (h.blocks j hj i hi).trans (hd j hj i hi)⟩

section
variable (h : LossyView z s e team o R M f b d)
include h

theorem LossyView.wordAt (off n : Nat) : s.wordAt e.loc off n = number (s.team team).scr (o + off) n := by
  rw [h.word.loc, State.wordAt, scrRead_resident h.word.resident, leNat_memRead]
theorem LossyView.awField {k : Nat} (hk : k < 8) : s.awField e.loc k = f k := (h.wordAt (4 * k) 4).trans (h.fields k hk)

theorem LossyView.maskLoc : e.maskLoc = .scr team M := by
  have hoff : ((o : Int) + maskOff e.maskAt).toNat = M := by
    have hmask := h.word.mask
    have hrange := h.word.range
    simp only [maskOff, toInt, Bool.true_and, Nat.mod_eq_of_lt hrange, decide_eq_true_eq]
    split at hmask <;> split <;> omega
  rw [LossyEntry.maskLoc, h.word.loc, locShift, hoff]

theorem LossyView.maskBit (map j : Nat) : s.maskBit e map j = maskBitAt s team M e.size map j := by
  rw [State.maskBit, h.maskLoc, State.wordAt, scrRead_resident h.word.resident, leNat_memRead, bitsAt_one, maskBitAt_eq, bitOf,
    LossyEntry.bitByte, number, number, Nat.mul_zero, Nat.add_zero, Nat.add_assoc]

/-- The bytes of the word are in no mask, and the bytes of a mask in no block. -/
theorem LossyView.bit_unchanged (off : Nat) (l : List Byte)
    (hout : ∀ map, map < 2 → ∀ j, j < e.size / 256 → M + map * bitmapBytes e.size + j / 8 < off ∨ off + l.length ≤ M + map * bitmapBytes e.size + j / 8) :
    ∀ map, map < 2 → ∀ j, j < e.size / 256 → bitOf (memWrite (s.team team).scr off l) M e.size map j = b map j := fun map hm j hj => by
  rw [bitOf, memGet_memWrite_ne _ _ _ _ (hout map hm j hj)]
  exact h.bits map hm j hj

/-- A block of the region written. -/
theorem LossyView.regionPut {j : Nat} (hj : j < e.size / 256) (l : List Byte) (hl : l.length = 256) :
    LossyView z (s.regionPut e j l) e team o R M f b (Function.update d j fun i => l.getD i 0#8) := by
  have hput : s.regionPut e j l = s.scrWrite team (R + 256 * j) l := by
    have hreg := h.wordAt 16 8
    rw [← h.word.region] at hreg
    rw [State.regionPut, h.word.loc]
    simp only
    rw [← h.word.loc, hreg]
  have h1 := h.word.apart1
  have h3 := h.word.apart3
  rw [hput]
  refine h.write _ l (by omega) (fun k hk => ?_) (h.bit_unchanged _ l fun map hm i hi => ?_) fun i hi t ht => ?_
  · rw [number_congr 4 _ fun i hi => memGet_memWrite_ne _ _ _ _ (by omega)]
    exact h.fields k hk
  · have := maskByte_lt hm hi
    omega
  · rw [memGet_memWrite _ _ _ _ h.word.form]
    by_cases hij : i = j
    · subst hij
      rw [if_pos (by omega), Function.update_self, Nat.add_sub_cancel_left]
    · rw [if_neg (by omega), Function.update_of_ne hij]
      exact h.blocks i hi t ht

end

end

end Sys2Proof.Machine
end

section
namespace Sys2Proof.Machine
open Sys2Proof.Claim

/-! ### What the steps of a lossy word do to it (02/R51; 10/R229, R231, R232) -/

/-- A bit set in a mask. -/
def bitSet (b : Nat → Nat → Bool) (map j : Nat) : Nat → Nat → Bool := fun p i => if p = map ∧ i = j then true else b p i

theorem testBit_setBit (x : Byte) (j k : Nat) (hk : k < 8) :
    (BitVec.ofNat 8 (x.toNat ||| 2 ^ j)).toNat.testBit k = if k = j then true else x.toNat.testBit k := by
  rw [BitVec.toNat_ofNat, Nat.testBit_mod_two_pow, decide_eq_true hk, Bool.true_and, Nat.testBit_or, Nat.testBit_two_pow]
  by_cases h : k = j
  · simp [h]
  · simp [h, Ne.symm h]

theorem advanced_congr {f f' g g' : Nat → Nat} {b : Nat} (h : Advanced f f' b) (hf : ∀ k, k < 3 → f k = g k) (hf' : ∀ k, k < 3 → f' k = g' k) :
    Advanced g g' b := by
  simp only [Advanced] at h ⊢
  rw [← hf 0 (by omega), ← hf 1 (by omega), ← hf 2 (by omega), ← hf' 0 (by omega), ← hf' 1 (by omega), ← hf' 2 (by omega)]
  exact h

theorem creditBytes_congr {f g : Nat → Nat} (h : ∀ k, k < 4 → f k = g k) (b : Nat) : creditBytes f b = creditBytes g b := by
  unfold creditBytes creditCount creditGen creditFlags creditAdv creditSum
  rw [h 0 (by omega), h 1 (by omega), h 2 (by omega), h 3 (by omega)]

section
variable {z s : State} {e : LossyEntry} {team o R M : Nat} {f : Nat → Nat} {b : Nat → Nat → Bool} {d : Nat → Nat → Byte}
  (h : LossyView z s e team o R M f b d)
include h

theorem LossyView.field_unchanged (off : Nat) (l : List Byte) {k : Nat} (hk : k < 8)
    (hout : o + 4 * k + 4 ≤ off ∨ off + l.length ≤ o + 4 * k) : number (memWrite (s.team team).scr off l) (o + 4 * k) 4 = f k := by
  rw [number_congr 4 _ fun i hi => memGet_memWrite_ne _ _ _ _ (by omega)]
  exact h.fields k hk
theorem LossyView.block_unchanged (off : Nat) (l : List Byte) (hout : off + l.length ≤ R ∨ R + e.size ≤ off) :
    ∀ j, j < e.size / 256 → ∀ i, i < 256 → memGet (memWrite (s.team team).scr off l) (R + 256 * j + i) = d j i := fun j hj i hi => by
  rw [memGet_memWrite_ne _ _ _ _ (by omega)]
  exact h.blocks j hj i hi

theorem LossyView.setMaskBit {map j : Nat} (hm : map < 2) (hj : j < e.size / 256) :
    LossyView z (s.setMaskBit e map j) e team o R M f (bitSet b map j) d := by
  let x := memGet (s.team team).scr (M + map * bitmapBytes e.size + j / 8)
  have hput : s.setMaskBit e map j = s.scrWrite team (M + map * bitmapBytes e.size + j / 8) [BitVec.ofNat 8 (x.toNat ||| 2 ^ (j % 8))] := by
    rw [State.setMaskBit, h.maskLoc]
    simp only [State.wordPut, State.wordAt, scrRead_resident h.word.resident, leNat_memRead, LossyEntry.bitByte, number, leBytes, Nat.mul_zero,
      Nat.add_zero, ← Nat.add_assoc, x]
  have h2 := h.word.apart2
  have h3 := h.word.apart3
  have hbyte := bitByte_lt e.size j hj
  have hmask := maskByte_lt hm hj
  rw [hput]
  refine h.write _ _ (by simp only [List.length_singleton]; omega)
    (fun k hk => h.field_unchanged _ _ hk (by simp only [List.length_singleton]; omega)) (fun p hp i hi => ?_)
    (h.block_unchanged _ _ (by simp only [List.length_singleton]; omega))
  have hbyte' := bitByte_lt e.size i hi
  rw [bitOf, memGet_memWrite _ _ _ _ h.word.form, List.length_singleton, bitSet]
  by_cases hpm : p = map ∧ i / 8 = j / 8
  · obtain ⟨rfl, hij⟩ := hpm
    rw [hij, if_pos (by omega), Nat.sub_self, List.getD_cons_zero, testBit_setBit _ _ _ (by omega)]
    refine ite_congr (by simp only [true_and, eq_iff_iff]; omega) (fun _ => rfl) fun _ => ?_
    rw [← h.bits p hp i hi, maskBitAt_eq, bitOf, hij]
  · have hne : p * bitmapBytes e.size + i / 8 ≠ map * bitmapBytes e.size + j / 8 := fun heq => hpm (by
      interval_cases p <;> interval_cases map <;> omega)
    rw [if_neg (by omega), if_neg (fun hc => hpm ⟨hc.1, by rw [hc.2]⟩)]
    exact h.bits p hp i hi

theorem LossyView.addLost (n : Nat) : LossyView z (s.addLost e n) e team o R M (Function.update f 7 ((f 7 + n) % 2 ^ 32)) b d := by
  have hput : s.addLost e n = s.scrWrite team (o + 28) (leBytes 4 ((f 7 + n) % 2 ^ 32)) := by
    rw [State.addLost, h.awField (by omega), h.word.loc, State.wordPut]
  have h1 := h.word.apart1
  have h2 := h.word.apart2
  rw [hput]
  refine h.write _ _ (by omega) (fun k hk => ?_) (h.bit_unchanged _ _ fun map hm j hj => ?_)
    (h.block_unchanged _ _ (by rw [leBytes_length]; omega))
  · by_cases h7 : k = 7
    · subst h7
      have hbytes := number_of_bytes (m := memWrite (s.team team).scr (o + 28) (leBytes 4 ((f 7 + n) % 2 ^ 32))) (leBytes 4 ((f 7 + n) % 2 ^ 32))
        (o + 28) fun i hi => by
          rw [memGet_memWrite _ _ _ _ h.word.form, if_pos (by omega), Nat.add_sub_cancel_left]
      rw [leBytes_length, leNat_leBytes] at hbytes
      rw [Function.update_self]
      exact hbytes.trans (Nat.mod_mod _ _)
    · rw [Function.update_of_ne h7]
      exact h.field_unchanged _ _ hk (by omega)
  · have := maskByte_lt hm hj
    rw [leBytes_length]
    omega

/-- A counter of FPERR that rises is none of the word. -/
theorem LossyView.fperr (lo : Nat) : LossyView (z.fperr lo) (s.fperr lo) e team o R M f b d :=
  ⟨⟨h.word.loc, h.word.resident, h.word.form, h.word.intact, h.word.region, h.word.mask, h.word.range, h.word.blocks, h.word.apart1,
    h.word.apart2, h.word.apart3⟩, by rw [← h.rest]; rfl, h.fields, h.bits, h.blocks⟩
theorem LossyView.closeGens (loc : WordLoc) (gen adv : Nat) : LossyView z (s.closeGens loc gen adv) e team o R M f b d :=
  ⟨⟨h.word.loc, h.word.resident, h.word.form, h.word.intact, h.word.region, h.word.mask, h.word.range, h.word.blocks, h.word.apart1,
    h.word.apart2, h.word.apart3⟩, h.rest, h.fields, h.bits, h.blocks⟩
theorem LossyView.dropLossy (loc : WordLoc) : LossyView z (s.dropLossy loc) e team o R M f b d :=
  ⟨⟨h.word.loc, h.word.resident, h.word.form, h.word.intact, h.word.region, h.word.mask, h.word.range, h.word.blocks, h.word.apart1,
    h.word.apart2, h.word.apart3⟩, h.rest, h.fields, h.bits, h.blocks⟩

/-- A credit advances TARGET's COUNT and GEN, and leaves LOST, the masks and the blocks. -/
theorem LossyView.credit (n : Nat) : ∃ f', LossyView z (s.credit e.loc n).1 e team o R M f' b d ∧ Advanced f f' n ∧ f' 7 = f 7 := by
  let s1 := s.closeGens e.loc (s.awField e.loc 2) (creditAdv (s.awField e.loc) n)
  have h1 : LossyView z s1 e team o R M f b d := h.closeGens _ _ _
  let m := memWrite (s1.team team).scr (o + 4) (creditBytes f n)
  have hput : s.credited e.loc n = s1.scrWrite team (o + 4) (creditBytes f n) := by
    rw [State.credited, creditBytes_congr (fun k hk => h.awField (by omega)) n, h.word.loc, State.wordPut, ← h.word.loc]
  have ha1 := h.word.apart1
  have ha2 := h.word.apart2
  have hview : LossyView z (s.credited e.loc n) e team o R M (fun k => number m (o + 4 * k) 4) b d := by
    rw [hput]
    refine h1.write _ _ (by rw [creditBytes_length]; omega) (fun _ _ => rfl) (h1.bit_unchanged _ _ fun map hm j hj => ?_)
      (h1.block_unchanged _ _ (by rw [creditBytes_length]; omega))
    have := maskByte_lt hm hj
    rw [creditBytes_length]
    omega
  obtain ⟨hcount, hgen⟩ := number_creditBytes (m := m) (a := o) (f := f) (b := n) fun i hi => by
    rw [memGet_memWrite _ _ _ _ h1.word.form, creditBytes_length, if_pos (by omega), Nat.add_sub_cancel_left]
  have hsame : ∀ k, k < 8 → k = 0 ∨ 4 ≤ k → number m (o + 4 * k) 4 = f k := fun k hk hout =>
    h1.field_unchanged _ _ hk (by rw [creditBytes_length]; omega)
  refine ⟨fun k => number m (o + 4 * k) 4, ?_, advanced_of_credit (hsame 0 (by omega) (by omega)) hcount hgen ?_, hsame 7 (by omega) (by omega)⟩
  · rw [credit_eq]
    split
    · exact hview.dropLossy _
    · exact hview
  · rw [← h.fields 2 (by omega)]
    exact number_lt _ _ 4

end

end Sys2Proof.Machine
end

section
namespace Sys2Proof.Machine
open Sys2Proof.Claim

/-! ### LOSSY_WRITE_RECEIVE and LOSSY_DEADLINE (02/R51, R52; 10/R231, R232) -/

theorem unrecorded_of_grids {s s' : State} (h : Unrecorded s) (hg : s'.grids = s.grids) : Unrecorded s' := by rw [Unrecorded, hg]; exact h
theorem offScr_grids (s : State) : s.offScr.grids = s.grids := rfl
theorem fperr_grids (s : State) (lo : Nat) : (s.fperr lo).grids = s.grids := rfl

/-- The state once a lossy block that fits has landed, whole or, its tag failed, as zeros. -/
def State.blockLanded (s : State) (e : LossyEntry) (k : Packet) (j : Nat) : State :=
  if k.etag = etagOf k then ((s.regionPut e j k.data).setMaskBit e 1 j).setMaskBit e 0 j
  else ((((s.regionPut e j (zeros 256)).setMaskBit e 1 j).addLost e 256).fperr fpTAGFAIL)

theorem doLossy_lands {s : State} {e : LossyEntry} {k : Packet} (hu : Unrecorded s) (port : Nat)
    (hfind : s.fabric.lossy.find? (fun x => decide (x.region ≤ k.addr) && decide (k.addr < x.region + x.size)) = some e)
    (hgen : bitsAt k.aux 16 8 = s.awField e.loc 2 % 256) (hbit : s.maskBit e 1 ((k.addr - e.region) / 256) = false)
    (hu' : Unrecorded ((s.blockLanded e k ((k.addr - e.region) / 256)).credit e.loc 256).1) :
    s.doLossy port k = ((s.blockLanded e k ((k.addr - e.region) / 256)).credit e.loc 256).1 := by
  by_cases he : k.etag = etagOf k
  · rw [State.blockLanded, if_pos he] at hu' ⊢
    simp only [State.doLossy, hfind, hgen, hbit, capArrival_unrecorded hu, he, beq_self_eq_true, ne_eq, not_true_eq_false, Bool.false_eq_true,
      or_self, if_false, if_true, capRecord_unrecorded hu']
  · rw [State.blockLanded, if_neg he] at hu' ⊢
    simp only [State.doLossy, hfind, hgen, hbit, capArrival_unrecorded hu, beq_eq_false_iff_ne.2 he, ne_eq, not_true_eq_false,
      Bool.false_eq_true, or_self, if_false, capRecord_unrecorded hu']
theorem doLossy_discards {s : State} {e : LossyEntry} {k : Packet} (port : Nat)
    (hfind : s.fabric.lossy.find? (fun x => decide (x.region ≤ k.addr) && decide (k.addr < x.region + x.size)) = some e)
    (h : bitsAt k.aux 16 8 ≠ s.awField e.loc 2 % 256 ∨ s.maskBit e 1 ((k.addr - e.region) / 256) = true) :
    s.doLossy port k = s.fperr fpDISCARD := by
  simp only [State.doLossy, hfind, if_pos h]

theorem exec_lossyWriteReceive {s : State} {port : Nat} {k : Packet} (h : Arrives s port k) (ht : k.typ = 0x03) (hcls : k.cls = 1) :
    exec (.lossyWriteReceive port k) s = .next (if s.permits k 3 then (s.release port k).doLossy port k else (s.release port k).fperr fpDISCARD) := by
  have hexec := receive_of_arrives h (mine := k.typ == 0x03 && k.cls == 1) (by simp [ht, hcls]) fun s =>
    if (s.hotSample port k).permits k 3 then (s.hotSample port k).doLossy port k else (s.hotSample port k).fperr fpDISCARD
  rw [hotSample_cold (show Cold (s.release port k) k from h.cold), release_permits] at hexec
  exact hexec

/-- A lossy block's data is 256 bytes. -/
theorem lossy_length {s : State} {port : Nat} {k : Packet} (h : Arrives s port k) (ht : k.typ = 0x03) (hcls : k.cls = 1) : k.data.length = 256 := by
  have hform := h.formed
  have hok := h.fields
  simp only [malformed, ht, hcls, Bool.or_eq_false_iff, beq_self_eq_true, Bool.true_and, Bool.and_eq_false_iff, Bool.not_eq_false',
    Bool.and_eq_true, beq_iff_eq] at hform
  simp only [Packet.ok, Bool.and_eq_true, decide_eq_true_eq] at hok
  have hlen : k.len = 8 := by tauto
  rw [hok.2, hlen]

end Sys2Proof.Machine
end

section
namespace Sys2Proof.Machine
open Sys2Proof.Claim

theorem zeros_getD (n i : Nat) : (zeros n).getD i 0#8 = 0#8 := by
  rw [zeros, List.getD_eq_getElem?_getD, List.getElem?_replicate]; split <;> rfl

section
variable {z s : State} {e : LossyEntry} {team o R M : Nat} {f : Nat → Nat} {b : Nat → Nat → Bool} {d : Nat → Nat → Byte}

theorem LossyView.unrecorded (h : LossyView z s e team o R M f b d) (hz : Unrecorded z) : Unrecorded s :=
  unrecorded_of_grids hz (congrArg State.grids h.rest :)
@[simp] theorem offScr_mem (s : State) : s.offScr.mem = s.mem := rfl
@[simp] theorem offScr_sys (s : State) : s.offScr.sys = s.sys := rfl
theorem LossyView.mem (h : LossyView z s e team o R M f b d) : s.mem = z.mem := (congrArg State.mem h.rest :)
theorem LossyView.sys (h : LossyView z s e team o R M f b d) : s.sys = z.sys := (congrArg State.sys h.rest :)

/-- The other blocks of a region where one has been written. -/
theorem LossyView.block_kept {m : Memory} {j : Nat} {g : Nat → Byte}
    (h : LossyView z s e team o R M f b (Function.update (fun j i => memGet m (R + 256 * j + i)) j g)) {i : Nat} (hi : i < e.size / 256) (hne : i ≠ j)
    (x : Nat) (hlow : R + 256 * i ≤ x) (hhigh : x < R + 256 * i + 256) : memGet (s.team team).scr x = memGet m x := by
  obtain ⟨t, rfl⟩ := Nat.exists_eq_add_of_le hlow
  rw [h.blocks i hi t (by omega), Function.update_of_ne hne]

/-- A block that fits lands: its data and both its bits where its tag is good, else zeros, its landed bit, and 256 bytes LOST. -/
theorem LossyView.blockLanded (h : LossyView z s e team o R M f b d) {k : Packet} {j : Nat} (hj : j < e.size / 256) (hl : k.data.length = 256) :
    (k.etag = etagOf k → LossyView z (s.blockLanded e k j) e team o R M f (bitSet (bitSet b 1 j) 0 j) (Function.update d j fun i => k.data.getD i 0#8)) ∧
    (k.etag ≠ etagOf k → LossyView (z.fperr fpTAGFAIL) (s.blockLanded e k j) e team o R M (Function.update f 7 ((f 7 + 256) % 2 ^ 32))
      (bitSet b 1 j) (Function.update d j fun _ => 0#8)) := by
  refine ⟨fun he => ?_, fun he => ?_⟩
  · rw [State.blockLanded, if_pos he]
    exact ((h.regionPut hj k.data hl).setMaskBit (by omega) hj).setMaskBit (by omega) hj
  · rw [State.blockLanded, if_neg he]
    have hput := h.regionPut hj (zeros 256) (by rw [zeros, List.length_replicate])
    rw [show (fun i => (zeros 256).getD i 0#8) = fun _ => 0#8 from funext fun i => zeros_getD 256 i] at hput
    exact ((hput.setMaskBit (by omega) hj).addLost 256).fperr fpTAGFAIL

/-- Blocks that have not landed are filled with zeros, and their landed bits set. -/
theorem LossyView.fillBlocks (hz : Unrecorded z) : ∀ (l : List Nat) {s : State} {b : Nat → Nat → Bool} {d : Nat → Nat → Byte},
    LossyView z s e team o R M f b d → (∀ j ∈ l, j < e.size / 256) →
    LossyView z (l.foldl (fun s j => s.fillBlock e j) s) e team o R M f (fun map j => (decide (map = 1 ∧ j ∈ l) || b map j))
      fun j i => if j ∈ l then 0#8 else d j i
  | [], _, _, _, h, _ => h.congr (fun _ _ => rfl) (by simp) (by simp)
  | j :: l, s, b, d, h, hl => by
    have hj := hl j List.mem_cons_self
    have h1 := (h.regionPut hj (zeros 256) (by rw [zeros, List.length_replicate])).setMaskBit (map := 1) (by omega) hj
    have hstep : s.fillBlock e j = (s.regionPut e j (zeros 256)).setMaskBit e 1 j := capRecord_unrecorded (h1.unrecorded hz) ..
    rw [List.foldl_cons, hstep]
    refine (LossyView.fillBlocks hz l h1 fun i hi => hl i (List.mem_cons_of_mem _ hi)).congr (fun _ _ => rfl) (fun map _ i _ => ?_) fun i _ t _ => ?_
    · by_cases hm : map = 1 <;> by_cases hi : i = j <;> simp [bitSet, hm, hi]
    · by_cases hi : i = j
      · subst hi; simp only [Function.update_self, zeros_getD, List.mem_cons, true_or, if_true, ite_self]
      · simp [hi]

end

section
variable {s : State} {e : LossyEntry} {team o R M : Nat} (hword : LossyWord s e team o R M)
include hword

/-! #### An arriving block -/

section
variable {port : Nat} {k : Packet} (harr : Arrives s port k) (ht : k.typ = 0x03) (hcls : k.cls = 1)
  (hfind : s.fabric.lossy.find? (fun x => decide (x.region ≤ k.addr) && decide (k.addr < x.region + x.size)) = some e)

/-- A packet taken in leaves a lossy word as it is. -/
theorem view_release : LossyView s.offScr (s.release port k) e team o R M (fun k => number (s.team team).scr (o + 4 * k) 4) (maskBitAt s team M e.size)
    fun j i => memGet (s.team team).scr (R + 256 * j + i) :=
  ⟨⟨hword.loc, hword.resident, hword.form, hword.intact, hword.region, hword.mask, hword.range, hword.blocks, hword.apart1, hword.apart2,
    hword.apart3⟩, rfl, fun _ _ => rfl, fun _ _ _ _ => rfl, fun _ _ _ _ => rfl⟩

include hfind in
theorem block_lt : (k.addr - e.region) / 256 < e.size / 256 := by
  have hin := List.find?_some hfind
  have := hword.blocks
  simp only [Bool.and_eq_true, decide_eq_true_eq] at hin
  omega

include harr ht hcls hfind

theorem lossyWrite_discarded
    (h : s.permits k 3 = false ∨ ¬(k.aux / 2 ^ 16 % 256 = number (s.team team).scr (o + 4 * 2) 4 % 256 ∧
      maskBitAt s team M e.size 1 ((k.addr - e.region) / 256) = false)) :
    ∃ s', exec (.lossyWriteReceive port k) s = .next s' ∧ bits s'.sys.fperr 16 16 = min 0xFFFF (bits s.sys.fperr 16 16 + 1) ∧
      s' = { s with sys := { s.sys with fperr := s'.sys.fperr }, fabric := { s.fabric with releases := s'.fabric.releases } } := by
  have hview := view_release hword (port := port) (k := k)
  have hdiscard : exec (.lossyWriteReceive port k) s = .next ((s.release port k).fperr fpDISCARD) := by
    rw [exec_lossyWriteReceive harr ht hcls]
    split
    · next hp =>
      rw [doLossy_discards (s := s.release port k) port hfind]
      rw [hview.awField (by omega), hview.maskBit]
      by_contra hno
      push Not at hno
      exact h.elim (fun hp' => by rw [hp] at hp'; cases hp') fun hfit => hfit ⟨hno.1, Bool.eq_false_iff.2 hno.2⟩
    · rfl
  refine ⟨_, hdiscard, ?_, rfl⟩
  rw [fpDISCARD, fperr_counts _ 16 (by omega), release_sys]

/-- The exec of a block that lands. -/
theorem exec_lossyWrite_lands (hu : Unrecorded s) (hp : s.permits k 3 = true)
    (hgen : k.aux / 2 ^ 16 % 256 = number (s.team team).scr (o + 4 * 2) 4 % 256)
    (hbit : maskBitAt s team M e.size 1 ((k.addr - e.region) / 256) = false)
    (hu' : Unrecorded (((s.release port k).blockLanded e k ((k.addr - e.region) / 256)).credit e.loc 256).1) :
    exec (.lossyWriteReceive port k) s = .next (((s.release port k).blockLanded e k ((k.addr - e.region) / 256)).credit e.loc 256).1 := by
  have hview := view_release hword (port := port) (k := k)
  have hgen' : bitsAt k.aux 16 8 = (s.release port k).awField e.loc 2 % 256 := by rw [hview.awField (by omega)]; exact hgen
  have hbit' : (s.release port k).maskBit e 1 ((k.addr - e.region) / 256) = false := by rw [hview.maskBit]; exact hbit
  rw [exec_lossyWriteReceive harr ht hcls, if_pos hp,
    doLossy_lands (s := s.release port k) (unrecorded_release hu port k) port hfind hgen' hbit' hu']

theorem lossyWrite_lands (hu : Unrecorded s) (hp : s.permits k 3 = true) (hgen : k.aux / 2 ^ 16 % 256 = number (s.team team).scr (o + 4 * 2) 4 % 256)
    (hbit : maskBitAt s team M e.size 1 ((k.addr - e.region) / 256) = false) :
    let scr := (s.team team).scr
    let fields := fun (x : State) (i : Nat) => number (x.team team).scr (o + 4 * i) 4
    let j := (k.addr - e.region) / 256
    ∃ s', exec (.lossyWriteReceive port k) s = .next s' ∧ maskBitAt s' team M e.size 1 j = true ∧
      Advanced (fields s) (fields s') 256 ∧
      (k.etag = etagOf k → maskBitAt s' team M e.size 0 j = true ∧ fields s' 7 = fields s 7 ∧
        ∀ i, i < 256 → memGet (s'.team team).scr (R + 256 * j + i) = k.data.getD i 0#8) ∧
      (k.etag ≠ etagOf k → maskBitAt s' team M e.size 0 j = maskBitAt s team M e.size 0 j ∧
        fields s' 7 = (fields s 7 + 256) % 2 ^ 32 ∧ (∀ i, i < 256 → memGet (s'.team team).scr (R + 256 * j + i) = 0#8) ∧
        bits s'.sys.fperr 48 16 = min 0xFFFF (bits s.sys.fperr 48 16 + 1)) ∧
      (∀ i, i < e.size / 256 → i ≠ j → maskBitAt s' team M e.size 1 i = maskBitAt s team M e.size 1 i ∧
        ∀ x, R + 256 * i ≤ x → x < R + 256 * i + 256 → memGet (s'.team team).scr x = memGet scr x) ∧
      (∀ x, memGet s'.mem x = memGet s.mem x) := by
  intro scr fields j
  have hj : j < e.size / 256 := block_lt hword hfind
  have hview := view_release hword (port := port) (k := k)
  have hu' : Unrecorded s.offScr := unrecorded_of_grids hu (offScr_grids s)
  obtain ⟨hgood, hbad⟩ := hview.blockLanded hj (lossy_length harr ht hcls)
  by_cases he : k.etag = etagOf k
  · obtain ⟨f', hv, hadv, h7⟩ := (hgood he).credit 256
    refine ⟨_, exec_lossyWrite_lands hword harr ht hcls hfind hu hp hgen hbit (hv.unrecorded hu'), (hv.bits 1 (by omega) j hj).trans ?_,
      advanced_congr hadv (fun _ _ => rfl) fun i hi => (hv.fields i (by omega)).symm, fun _ => ⟨(hv.bits 0 (by omega) j hj).trans ?_,
      (hv.fields 7 (by omega)).trans h7, fun i hi => (hv.blocks j hj i hi).trans ?_⟩, fun hne => absurd he hne,
      fun i hi hne => ⟨(hv.bits 1 (by omega) i hi).trans ?_, hv.block_kept hi hne⟩, fun x => by rw [hv.mem, offScr_mem]⟩
    · simp [bitSet]
    · simp [bitSet]
    · rw [Function.update_self]
    · simp only [bitSet, hne, and_false, if_false]
  · obtain ⟨f', hv, hadv, h7⟩ := (hbad he).credit 256
    refine ⟨_, exec_lossyWrite_lands hword harr ht hcls hfind hu hp hgen hbit (hv.unrecorded (unrecorded_of_grids hu' (fperr_grids ..))), (hv.bits 1 (by omega) j hj).trans ?_,
      advanced_congr hadv (fun i hi => Function.update_of_ne (by omega) _ _) fun i hi => (hv.fields i (by omega)).symm,
      fun hgood => absurd hgood he, fun _ => ⟨(hv.bits 0 (by omega) j hj).trans ?_, (hv.fields 7 (by omega)).trans (h7.trans ?_),
        fun i hi => (hv.blocks j hj i hi).trans ?_, ?_⟩, fun i hi hne => ⟨(hv.bits 1 (by omega) i hi).trans ?_, hv.block_kept hi hne⟩,
      fun x => by rw [hv.mem, fperr_mem, offScr_mem]⟩
    · simp [bitSet]
    · simp only [bitSet, zero_ne_one, false_and, if_false]
    · rw [Function.update_self]
    · rw [Function.update_self]
    · rw [hv.sys, fpTAGFAIL, fperr_counts _ 48 (by omega), offScr_sys]
    · simp only [bitSet, hne, and_false, if_false]

end

/-! #### The deadline -/

omit hword in
theorem lossyDeadline_early (hfind : s.fabric.lossy.find? (fun x => x.region == e.region) = some e) (h : s.time.ns < e.expiry) :
    exec (.lossyDeadline e.region) s = .next s := by
  have hdue : s.deadlineDue e = false := by rw [State.deadlineDue, decide_eq_false (Nat.not_le.2 h), Bool.false_and]
  simp only [exec, execLossyDeadline, hfind, hdue, Bool.false_eq_true, if_false]

theorem lossyDeadline_due (hu : Unrecorded s) (hfind : s.fabric.lossy.find? (fun x => x.region == e.region) = some e) (h : e.expiry ≤ s.time.ns)
    (hopen : number (s.team team).scr (o + 4 * 1) 4 < number (s.team team).scr (o + 4 * 0) 4) :
    let scr := (s.team team).scr
    let fields := fun (x : State) (i : Nat) => number (x.team team).scr (o + 4 * i) 4
    let missing := (List.range (e.size / 256)).filter fun j => !maskBitAt s team M e.size 1 j
    ∃ s', exec (.lossyDeadline e.region) s = .next s' ∧ (∀ x ∈ s'.fabric.lossy, x.loc ≠ .scr team o) ∧
      (∀ j, j < e.size / 256 → maskBitAt s' team M e.size 1 j = true ∧
        maskBitAt s' team M e.size 0 j = maskBitAt s team M e.size 0 j ∧
        ∀ i, i < 256 → memGet (s'.team team).scr (R + 256 * j + i) =
          if maskBitAt s team M e.size 1 j = true then memGet scr (R + 256 * j + i) else 0#8) ∧
      fields s' 7 = (fields s 7 + 256 * missing.length) % 2 ^ 32 ∧ Advanced (fields s) (fields s') (256 * missing.length) := by
  intro scr fields missing
  have hview := view_self hword
  have hdue : s.deadlineDue e = true := by
    rw [State.deadlineDue, hview.awField (by omega), hview.awField (by omega), decide_eq_true h, decide_eq_true hopen]; rfl
  have hmissing : ((List.range (e.size / 256)).filter fun j => !s.maskBit e 1 j) = missing := by simp only [hview.maskBit, missing]
  have hmem : ∀ j, j < e.size / 256 → (j ∈ missing ↔ maskBitAt s team M e.size 1 j = false) := fun j hj => by simp [missing, hj]
  have hfill := (LossyView.fillBlocks (unrecorded_of_grids hu (offScr_grids s)) missing hview fun j hj => List.mem_range.1 (List.mem_filter.1 hj).1).addLost (256 * missing.length)
  obtain ⟨f', hcredit, hadv, h7⟩ := hfill.credit (256 * missing.length)
  have hv := hcredit.dropLossy e.loc
  refine ⟨_, ?_, ?_, fun j hj => ⟨(hv.bits 1 (by omega) j hj).trans ?_, (hv.bits 0 (by omega) j hj).trans ?_,
    fun i hi => (hv.blocks j hj i hi).trans ?_⟩, (hv.fields 7 (by omega)).trans (h7.trans (Function.update_self ..)),
    advanced_congr hadv (fun i hi => Function.update_of_ne (by omega) _ _) fun i hi => (hv.fields i (by omega)).symm⟩
  · simp only [exec, execLossyDeadline, hfind, hdue, if_true, hmissing]
  · intro x hx
    simp only [State.dropLossy, dropBy, List.mem_filter, Bool.not_eq_true', beq_eq_false_iff_ne] at hx
    rw [← hword.loc]
    exact hx.2
  · by_cases hb : maskBitAt s team M e.size 1 j = true
    · simp [hb]
    · simp [hmem j hj, hb]
  · simp
  · by_cases hb : maskBitAt s team M e.size 1 j = true
    · simp [hmem j hj, hb, scr]
    · simp [hmem j hj, hb]

end

end Sys2Proof.Machine

namespace Sys2Proof.Claim
open Sys2Proof.Machine

/-- Settles O45: a block that fits lands, another is discarded, and the deadline fills what is missing; `LossyView` carries the word, its
masks and its region through each of the writes that a step makes. -/
theorem lossyBlocks : Obligations.LossyBlocks := by
  intro s e team o R M hword hu scr fields
  refine ⟨fun port k harr ht hcls hfind => ⟨fun hp hfit => ?lands, fun h => lossyWrite_discarded hword harr ht hcls hfind h⟩,
    fun hfind => ⟨fun hdue hopen => lossyDeadline_due hword hu hfind hdue hopen, fun hearly => lossyDeadline_early hfind hearly⟩⟩
  case lands => exact lossyWrite_lands hword harr ht hcls hfind hu hp hfit.1 hfit.2

end Sys2Proof.Claim
end

section
namespace Sys2Proof.Machine
open Sys2Proof.Claim

/-! ### Requests after their fifth sending (02/R45, R48) -/

/-- A store's WRITE to node 6 that has been sent five times with TAG 77, and that is listed under the key 0. -/
def staleWrite : Req :=
  { dst := 6, tag := 0, pkt := { writePkt 6 0x10000 0 allBytes false (zeros 32) with src := 5, tag := 77 }, sentAt := 0, sends := 5
    why := .store 1 0 }

/-- The line of that WRITE in the L1 of core 0, with a byte that a later store has put there. -/
def staleLine : L1Line :=
  { core := 0, ctx := 0, line := 0x200, pa := 0x10000, node := 6, apt := 1, w := true, comp := false, hot := false, valid := 1, dirty := 1
    data := 9, level := 1, leaf := 0#64, prio := 1, used := 0, bad := false, stored := [] }

/-- Node 5, with a route to node 6 by port 0, 20 µs after the fifth sending of its one request. -/
def staleState : State :=
  { State.reset with
    sys := { SysRegs.reset with nodeid := 5#64, fpstat := 1#64, fprtab := 0x10001#64 }
    mem := [(0x10030, 1#8)], time := { ns := 20000, cyc := 0, frac := 0 }, l1 := [staleLine]
    fabric := { Fabric.reset with reqs := [staleWrite] } }

/-- A request listed alone that has had no answer for 20 µs since its fifth sending is over (02/R45). -/
theorem exec_requestTimeout_fifth (s : State) (r : Req) (hr : s.fabric.reqs = [r]) (hlate : r.sentAt + 20000 ≤ s.time.ns) (h5 : 5 ≤ r.sends) :
    exec (.requestTimeout r.dst r.tag) s = .next ((s.fperr fpTIMEOUT).complete r stTIMEOUT []) := by
  have hfind : (s.fabric.reqs.find? fun x => x.dst == r.dst && x.tag == r.tag) = some r := by simp [hr]
  have hdue : s.timedOut r = true := by simp [State.timedOut, hlate]; omega
  simp only [exec, execRequestTimeout, hfind, hdue, if_true, State.again, if_pos h5]

/-- When the request is over, the dirty byte of its line is written to node 6 by a new request, and key 0 is free. -/
theorem staleState_asksAgain :
    (((staleState.fperr fpTIMEOUT).complete staleWrite stTIMEOUT []).fabric.reqs.any fun x => x.dst == 6 && x.tag == 0) = true := by
  decide +kernel

/-- Refutes O46: nothing in its hypotheses says that the request is listed under its own TAG. The WRITE of the counterexample is
listed under key 0 and has TAG 77; at its TIMEOUT only TAG 77 rests, so the WRITE that its line's later bytes then need (05/R118) takes
TAG 0, and a request of node 6 with that key is out again. For a request listed under its TAG the key rests, and is not given. -/
theorem not_fabricResponses : ¬ Obligations.FabricResponses := by
  intro h
  obtain ⟨-, -, -, timers, -⟩ := h staleState 0 staleWrite.pkt staleWrite
  obtain ⟨due, -⟩ := timers rfl (by decide) (by decide)
  obtain ⟨-, fifth⟩ := due (by decide) (by decide)
  obtain ⟨s', hs, -, hover, -⟩ := fifth (by decide)
  obtain rfl := Host.Outcome.next.inj ((exec_requestTimeout_fifth staleState staleWrite rfl (by decide) (by decide)).symm.trans hs)
  obtain ⟨x, hx, hkey⟩ := List.any_eq_true.1 staleState_asksAgain
  obtain ⟨hdst, htag⟩ : x.dst = 6 ∧ x.tag = 0 := by simpa using hkey
  exact (hover ⟨1, 0, rfl⟩).1 x hx ⟨hdst, htag⟩

end Sys2Proof.Machine
end

section
namespace Sys2Proof.Machine
open Sys2Proof.Claim

/-! ### CAPMARK (03/R73; 19/R428) in a lane that is no lane of a group -/

theorem strayThread_unmoved : ((strayState.settle strayState.issue).thread strayThread.id).pc = strayThread.pc := by decide +kernel

/-- Refutes O53: nothing in its hypotheses bounds a thread's lane, and the lanes of a CAPMARK act in turn, lanes 0 to 31 only; so a thread
in lane 32 does not pass its CAPMARK. The clause fails for want of a bound on the lane, as that of O52 does, not for what a CAPMARK does in
a lane of a group. -/
theorem not_captureAndReplay : ¬ Obligations.CaptureAndReplay := by
  intro h
  obtain ⟨marks, -⟩ := h strayState
  obtain ⟨unrecorded, -⟩ := marks plainPre 0 strayThread strayThread_alone (by decide)
  obtain ⟨s', hs, hpassed, -⟩ := unrecorded (by decide +kernel) (.inl (by decide +kernel))
  have hexec : exec (.capmark plainPre 0) strayState = .next (strayState.settle strayState.issue) :=
    congrArg Host.Outcome.next (foldLanes_of_lanes_ge strayState plainPre _ rfl (by decide +kernel))
  rw [hexec] at hs
  obtain rfl := Host.Outcome.next.inj hs
  have hpc := hpassed.pc
  rw [strayThread_unmoved] at hpc
  exact absurd hpc (by decide)

end Sys2Proof.Machine
end

section
namespace Sys2Proof.Machine
open Sys2Proof.Claim

/-! ### The threads that a placed team starts (04/R84, R86; 12/R278) -/

/-- An element that meets a test is found where no other does. -/
theorem find?_of_unique {α : Type} {p : α → Bool} {x : α} {l : List α} (hx : x ∈ l) (hp : p x = true)
    (h : ∀ y ∈ l, p y = true → y = x) :
    l.find? p = some x := by
  obtain ⟨y, hy⟩ := Option.isSome_iff_exists.1 (List.find?_isSome.2 ⟨x, hx, hp⟩)
  rw [hy, h y (List.mem_of_find?_eq_some hy) (List.find?_some hy)]

section Start
variable (tm : Team) (width cyc : Nat)

@[simp] theorem startThread_id (gi slot lane : Nat) :
    (startThread tm width cyc gi slot lane).id = { core := tm.core, slot := slot, lane := lane } := by
  simp only [startThread]; split <;> rfl

theorem mem_startThreads (t : Thread) : t ∈ startThreads tm width cyc ↔
    ∃ gi slot lane, tm.slots[gi]? = some slot ∧ lane < 32 ∧ t = startThread tm width cyc gi slot lane := by
  simp only [startThreads, List.mem_flatten, List.mem_mapIdx, List.getElem?_eq_some_iff]
  constructor
  · rintro ⟨_, ⟨gi, hgi, rfl⟩, ht⟩
    obtain ⟨lane, hl, rfl⟩ := List.mem_map.1 ht
    exact ⟨gi, _, lane, ⟨hgi, rfl⟩, List.mem_range.1 hl, rfl⟩
  · rintro ⟨gi, _, lane, ⟨hgi, rfl⟩, hl, rfl⟩
    exact ⟨_, ⟨gi, hgi, rfl⟩, List.mem_map.2 ⟨lane, List.mem_range.2 hl, rfl⟩⟩

/-- In the lowest slots, a group stands in the slot of its number. -/
theorem find?_startThreads {n : Nat} (hs : tm.slots = List.range n) {gi lane : Nat} (hgi : gi < n) (hl : lane < 32) :
    (startThreads tm width cyc).find? (fun t => t.id == { core := tm.core, slot := gi, lane := lane }) =
      some (startThread tm width cyc gi gi lane) := by
  have hslot : ∀ {i k : Nat}, tm.slots[i]? = some k → i = k := by
    intro i k h
    rw [hs] at h
    obtain ⟨_, h⟩ := List.getElem?_eq_some_iff.1 h
    simpa using h
  refine find?_of_unique ((mem_startThreads tm width cyc _).2 ⟨gi, gi, lane, ?_, hl, rfl⟩) (by simp) fun y hy hp => ?_
  · simp [hs, hgi]
  · obtain ⟨i, slot, lane', hi, -, rfl⟩ := (mem_startThreads tm width cyc _).1 hy
    obtain rfl := hslot hi
    obtain ⟨rfl, rfl⟩ : i = gi ∧ lane' = lane := by simpa using hp
    rfl

theorem startThread_exited (gi slot lane : Nat) (hw : width = 16) (hl : 16 ≤ lane) :
    startThread tm width cyc gi slot lane =
      { Thread.blank { core := tm.core, slot := slot, lane := lane } with team := tm.id, pc := tm.entry } := by
  have : ¬lane < 16 := by omega
  simp [startThread, hw, this]

/-- A thread of a launched grid's team that begins. -/
theorem startThread_ready (gi slot lane : Nat) (hs : tm.spawner = none) (h : width ≠ 16 ∨ lane < 16) :
    startThread tm width cyc gi slot lane =
      { Thread.blank { core := tm.core, slot := slot, lane := lane } with
        team := tm.id, pc := tm.entry, run := .ready, regs := startRegs (((tm.groups[gi]?).map fun g => g.role.nr).getD 255) tm.arg
        lastIssue := cyc, readySince := cyc } := by
  have hthere : (width != 16 || decide (lane < 16)) = true := by simpa using h
  simp [startThread, hs, hthere]

/-- The registers of a thread that begins. -/
theorem regGet_startRegs (nr : Nat) (arg : DWord) (n : Nat) : regGet (startRegs nr arg) n =
    if n = 0 then (loWord arg, .n64) else if n = 1 ∧ 1 < nr then (hiWord arg, .n64) else (0#32, .raw) := by
  have hnil : regsRise 0 [] = true := rfl
  have h0 : regGet (regSet [] 0 (loWord arg) .n64) n = if n = 0 then (loWord arg, .n64) else (0#32, .raw) := by
    by_cases hn : n = 0
    · rw [hn, regGet_regSet_eq _ _ _ _ _ hnil, if_pos rfl]
    · rw [regGet_regSet_ne _ _ _ _ _ hn, if_neg hn, regGet]
  rw [startRegs]
  split
  next hnr => rw [h0, if_neg (c := n = 1 ∧ 1 < nr) (by omega)]
  next hnr =>
    by_cases h1 : n = 1
    · rw [h1, regGet_regSet_eq _ _ _ _ _ (regSet_rises _ _ _ _ _ hnil (Nat.zero_le 0)), if_neg (by omega), if_pos (by omega)]
    · rw [regGet_regSet_ne _ _ _ _ _ h1, h0, if_neg (c := n = 1 ∧ 1 < nr) (by omega)]

end Start

/-! ### Placement on an empty core (03/R63; 04/R76 to R78) -/

theorem inPart_eq (mask core : Nat) : inPart mask core = mask.testBit (core / 4) := bitsAt_one mask (core / 4)

/-- The grid's next team is the only candidate for a panel, and a core of the panel is the first of its partition. -/
structure Turn (s : State) (panel core : Nat) (g : Grid) : Prop where
  grids : s.grids = [g]
  teams : s.teams = []
  live : g.status = none
  noPriv : g.privWords = 0
  unplaced : g.nextTeam = 0
  more : 0 < g.teams
  here : core / 128 = panel
  inside : g.clusters.testBit (core / 4) = true
  first : ∀ j, j / 128 = panel → j < core → g.clusters.testBit (j / 4) = false
  fromStart : (s.panel panel).lastPlaced = none
  unsaved : s.sys.savepool.toNat.testBit 0 = false
  fits : (footprint g.roles g.scratch).fits g.partword = true

/-- The team as it starts. -/
def State.firstTeam (s : State) (g : Grid) : Team := gridTeam g s.fresh 0

theorem firstTeam_groups (s : State) (g : Grid) : (s.firstTeam g).groups = g.roles.map Group.fresh := by
  simp [State.firstTeam, gridTeam, Team.start, Function.comp_def, Group.fresh]

theorem firstTeam_foot (s : State) (g : Grid) : (s.firstTeam g).foot = footprint g.roles g.scratch := by
  rw [Team.foot, firstTeam_groups, List.map_map]
  exact congrArg (footprint · g.scratch) (List.map_id g.roles)

/-- The state once a number has been taken for the team. -/
def State.firstTaken (s : State) (g : Grid) : State :=
  ({ s with fresh := s.fresh + 1 } : State).editGrid g.id fun x => { x with nextTeam := x.nextTeam + 1 }

section Turn
variable {s : State} {panel core : Nat} {g : Grid} (h : Turn s panel core g)
include h

theorem Turn.grid : s.grid g.id = g := by simp [State.grid, h.grids]

theorem Turn.privRetry : s.privRetry = s := by
  have hgrid : s.privGrid g.id = s := by simp [State.privGrid, h.grid, h.noPriv]
  simp [State.privRetry, h.grids, h.live, hgrid, h.teams]

theorem Turn.nextOfGrid : s.nextOfGrid g = some (s.firstTeam g) := by
  have hback : s.returning g.id = none := by simp [State.returning, h.teams]
  simp only [State.nextOfGrid, hback, h.live, h.noPriv, h.unplaced, h.more, Option.isSome_none, Bool.false_eq_true, ne_eq, not_true_eq_false,
    false_and, or_self, if_false, if_true, State.firstTeam]

theorem Turn.cands : s.cands panel = [{ prio := g.prio, order := g.id, team := s.firstTeam g }] := by
  have hany : ((List.range 32).any fun i => bitsAt g.clusters (32 * panel + i) 1 == 1) = true := by
    have := h.here
    refine List.any_eq_true.2 ⟨core / 4 - 32 * panel, List.mem_range.2 (by omega), ?_⟩
    rw [bitsAt_one, show 32 * panel + (core / 4 - 32 * panel) = core / 4 by omega, h.inside]
  simp [State.cands, h.grids, h.teams, hany, h.nextOfGrid]

theorem Turn.roomOn (k : Nat) : s.roomOn k (s.firstTeam g) = some (List.range g.roles.length, 0) := by
  have hempty : s.placedOn k = [] := by simp [State.placedOn, h.teams]
  have hfits : (footprint g.roles g.scratch).fits (s.firstTeam g).partword = true := h.fits
  simp only [State.roomOn, hempty, List.isEmpty_nil, if_true, firstTeam_foot, hfits]
  rfl

/-- The first core that is tried is the first of the partition. -/
theorem Turn.scanCores : (s.scanCores panel (s.firstTeam g)).head? = some core := by
  have hgrid : s.grid (s.firstTeam g).grid = g := h.grid
  have hspawn : (s.firstTeam g).spawner = none := rfl
  have hfrom : s.scanCores panel (s.firstTeam g) = ((List.range 128).map (128 * panel + ·)).filter (inPart g.clusters) := by
    simp only [State.scanCores, hgrid, hspawn, h.fromStart, ite_self]
  have := h.here
  have hfind : (List.range 128).find? (inPart g.clusters ∘ (128 * panel + ·)) = some (core % 128) := by
    simp only [List.find?_range_eq_some, Function.comp_apply, inPart_eq, List.mem_range]
    refine ⟨?_, by omega, fun j hj => ?_⟩
    · rw [show 128 * panel + core % 128 = core by omega, h.inside]
    · rw [h.first (128 * panel + j) (by omega) (by omega)]; rfl
  rw [hfrom, List.head?_filter, List.find?_map, hfind, Option.map_some, show 128 * panel + core % 128 = core by omega]

theorem Turn.placeable : s.placeable panel = some (s.firstTeam g, core, List.range g.roles.length, 0, none) := by
  have hsave : s.takeSave panel (s.firstTeam g) = some none := by
    rw [State.takeSave, if_pos]
    exact (bitsAt_one_eq_zero _ 0).2 h.unsaved
  obtain ⟨rest, hrest⟩ := List.head?_eq_some_iff.1 h.scanCores
  simp [State.placeable, h.cands, firstCand, hrest, h.roomOn, hsave]

theorem Turn.exec : exec (.teamPlacement panel) s =
    .next ((s.firstTaken g).place (s.firstTeam g) core (List.range g.roles.length) 0 none) := by
  have hnew : (s.teams.any fun t => t.id == (s.firstTeam g).id) = false := by simp [h.teams]
  simp only [Machine.exec, execTeamPlacement, h.privRetry, h.placeable, hnew, Bool.not_false, if_true]
  rfl

end Turn

end Sys2Proof.Machine
end

section
namespace Sys2Proof.Machine
open Sys2Proof.Claim

/-! ### What a placement changes (03/R63; 04/R76, R86) -/

/-- A team resident on a core. -/
def State.seated (s : State) (tm : Team) (core : Nat) (slots : List Nat) (gran : Nat) (save : Option (Nat × Nat)) : Team :=
  { tm with state := .resident, core := core, slots := slots, gran := gran, save := save, disabled := s.disableMap }

/-- A core after a team has been placed on it. -/
def Core.takes (c : Core) (tm : Team) (slots : List Nat) (empty : Bool) (cyc : Nat) : Core :=
  let r := if empty then (0, 0, 0) else c.reserve
  { c.addSlow slots cyc with
    partword := some tm.partword, reserve := (max r.1 tm.foot.kib, max r.2.1 tm.foot.gran, max r.2.2 tm.foot.slots) }

theorem core_num (s : State) (n : Nat) : (s.core n).num = n := by
  rw [State.core]
  cases h : s.cores.find? fun x => x.num == n with
  | none => rfl
  | some c => simpa using List.find?_some h

theorem panel_num (s : State) (n : Nat) : (s.panel n).num = n := by
  rw [State.panel]
  cases h : s.panels.find? fun x => x.num == n with
  | none => rfl
  | some c => simpa using List.find?_some h

section Placed
variable (s : State) (tm : Team) (core : Nat) (slots : List Nat) (gran : Nat) (save : Option (Nat × Nat))

@[simp] theorem place_teams :
    (s.place tm core slots gran save).teams = putBy (fun t => t.id == tm.id) (s.seated tm core slots gran save) s.teams := rfl
@[simp] theorem place_threads : (s.place tm core slots gran save).threads =
    s.threads ++ startThreads (s.seated tm core slots gran save) (widthOf (s.grid tm.grid).width) s.time.cyc := rfl
@[simp] theorem place_mem : (s.place tm core slots gran save).mem = s.mem := rfl

/-- The panel notes the core it has placed on. -/
theorem place_lastPlaced : ((s.place tm core slots gran save).panel (core / 128)).lastPlaced = some core := by
  have hpanels : (s.place tm core slots gran save).panels =
      putBy (fun x => x.num == core / 128) { num := (s.panel (core / 128)).num, lastPlaced := some core } s.panels := rfl
  have hfind := find?_putBy_same Panel.num { num := (s.panel (core / 128)).num, lastPlaced := some core } s.panels
  rw [panel_num] at hpanels hfind
  rw [State.panel, hpanels, hfind, Option.getD_some]

/-- The core takes the team's PARTWORD. -/
theorem place_partword : ((s.place tm core slots gran save).core core).partword = some tm.partword := by
  have hcores : (s.place tm core slots gran save).cores =
      putBy (fun x => x.num == core) ((s.core core).takes tm slots (s.placedOn core).isEmpty s.time.cyc) s.cores := rfl
  have hfind := find?_putBy_same Core.num ((s.core core).takes tm slots (s.placedOn core).isEmpty s.time.cyc) s.cores
  rw [show ((s.core core).takes tm slots (s.placedOn core).isEmpty s.time.cyc).num = core from core_num s core] at hfind
  rw [State.core, hcores, hfind, Option.getD_some, Core.takes]

theorem place_team (h : s.teams = []) : (s.place tm core slots gran save).team tm.id = s.seated tm core slots gran save := by
  simp [State.team, h, putBy, State.seated]

theorem place_thread (h : s.threads = []) {n : Nat} (hs : slots = List.range n) {gi lane : Nat} (hgi : gi < n) (hl : lane < 32) :
    (s.place tm core slots gran save).thread { core := core, slot := gi, lane := lane } =
      startThread (s.seated tm core slots gran save) (widthOf (s.grid tm.grid).width) s.time.cyc gi gi lane := by
  have hfind := find?_startThreads (s.seated tm core slots gran save) (widthOf (s.grid tm.grid).width) s.time.cyc hs hgi hl
  rw [State.thread, place_threads, h, List.nil_append]
  exact congrArg (fun x => x.getD (Thread.blank { core := core, slot := gi, lane := lane })) hfind

end Placed

theorem widthOf_eq_16 (w : Nat) : widthOf w = 16 ↔ w = 1 := by
  rw [widthOf]
  split
  · simp_all
  · split <;> simp_all

/-- How a thread of a team of a grid begins (04/R86). -/
theorem startThread_begins (tm : Team) (w cyc gi lane : Nat) (hs : tm.spawner = none) {roles : List Role} (hg : tm.groups = roles.map Group.fresh) :
    let t := startThread tm (widthOf w) cyc gi gi lane
    let nr := (roles.getD gi { kind := 4, nr := 255 }).nr
    t.team = tm.id ∧ t.depth = 0 ∧ t.clause = none ∧ t.astat = 0#6 ∧
    (w = 1 ∧ 16 ≤ lane → t.run = .exited) ∧
    (w ≠ 1 ∨ lane < 16 → t.run = .ready ∧ t.pc = tm.entry ∧
      ∀ n, t.reg n = if n = 0 then (BitVec.ofNat 32 (tm.arg.toNat % 2 ^ 32), .n64)
        else if n = 1 ∧ 1 < nr then (BitVec.ofNat 32 (tm.arg.toNat / 2 ^ 32), .n64) else (0#32, .raw)) := by
  intro t nr
  have hreg : ∀ n, regGet (startRegs nr tm.arg) n = if n = 0 then (BitVec.ofNat 32 (tm.arg.toNat % 2 ^ 32), .n64)
      else if n = 1 ∧ 1 < nr then (BitVec.ofNat 32 (tm.arg.toNat / 2 ^ 32), .n64) else (0#32, .raw) := fun n => by
    have hlow : loWord tm.arg = BitVec.ofNat 32 (tm.arg.toNat % 2 ^ 32) := BitVec.eq_of_toNat_eq (by simp [loWord])
    rw [regGet_startRegs, hlow]; rfl
  by_cases hw : w = 1 ∧ 16 ≤ lane
  · have ht := startThread_exited tm (widthOf w) cyc gi gi lane ((widthOf_eq_16 w).2 hw.1) hw.2
    rw [show t = _ from ht]
    exact ⟨rfl, rfl, rfl, rfl, fun _ => rfl, fun h => by omega⟩
  · have ht := startThread_ready tm (widthOf w) cyc gi gi lane hs (by rw [ne_eq, widthOf_eq_16]; omega)
    have hnr : ((tm.groups[gi]?).map fun g => g.role.nr).getD 255 = nr := by
      simp only [hg, List.getElem?_map, Option.map_map, nr, List.getD_eq_getElem?_getD]
      cases roles[gi]? <;> rfl
    rw [show t = _ from hnr ▸ ht]
    refine ⟨rfl, rfl, rfl, rfl, fun h => absurd h hw, fun _ => ⟨rfl, rfl, fun n => ?_⟩⟩
    rw [Thread.reg]
    split
    next hn => simp [hn]
    next => exact hreg n

/-! ### Bobbins (04/R84) -/

/-- A state keeps its bobbins, and its teams but for the base of a region of their own (05/R114). -/
def KeepsTeams (s s' : State) : Prop := s'.bobbins = s.bobbins ∧ ∀ tm ∈ s.teams, ∃ x, { tm with privBase := x } ∈ s'.teams

theorem KeepsTeams.refl (s : State) : KeepsTeams s s := ⟨rfl, fun tm h => ⟨tm.privBase, h⟩⟩
theorem KeepsTeams.trans {s s' s'' : State} (h : KeepsTeams s s') (h' : KeepsTeams s' s'') : KeepsTeams s s'' := by
  refine ⟨h'.1.trans h.1, fun tm htm => ?_⟩
  obtain ⟨x, hx⟩ := h.2 tm htm
  obtain ⟨y, hy⟩ := h'.2 _ hx
  exact ⟨y, hy⟩
theorem KeepsTeams.of_eq {s s' : State} (hb : s'.bobbins = s.bobbins) (ht : s'.teams = s.teams) : KeepsTeams s s' :=
  ⟨hb, fun tm h => ⟨tm.privBase, ht ▸ h⟩⟩
theorem keepsTeams_foldl {α : Type} (f : State → α → State) (h : ∀ s x, KeepsTeams s (f s x)) :
    ∀ (l : List α) (s : State), KeepsTeams s (l.foldl f s)
  | [], s => .refl s
  | x :: l, s => (h s x).trans (keepsTeams_foldl f h l _)

theorem takePriv_eq (s : State) (ctx grid : Nat) (team : Option Nat) (size : Nat) :
    (s.takePriv ctx grid team size).1 = { s with privs := (s.takePriv ctx grid team size).1.privs } := by
  simp only [State.takePriv]; split <;> rfl

theorem keepsTeams_takePriv (s : State) (ctx grid : Nat) (team : Option Nat) (size : Nat) : KeepsTeams s (s.takePriv ctx grid team size).1 := by
  rw [takePriv_eq]; exact .of_eq rfl rfl

theorem keepsTeams_privGrid (s : State) (gid : Nat) : KeepsTeams s (s.privGrid gid) := by
  simp only [State.privGrid]
  split
  · exact .refl s
  · split
    · exact .refl s
    · exact (keepsTeams_takePriv s _ _ _ _).trans (.of_eq rfl rfl)

theorem keepsTeams_privBase (s : State) (i b : Nat) : KeepsTeams s (s.editTeam i fun x => { x with privBase := b }) := by
  refine ⟨rfl, fun tm htm => ?_⟩
  by_cases hi : tm.id = i
  · exact ⟨b, List.mem_map.2 ⟨tm, htm, by simp [hi]⟩⟩
  · exact ⟨tm.privBase, List.mem_map.2 ⟨tm, htm, by simp [hi]⟩⟩

theorem keepsTeams_privRetry (s : State) : KeepsTeams s s.privRetry := by
  refine (keepsTeams_foldl _ (fun s g => ?_) s.grids s).trans (keepsTeams_foldl _ (fun s t => ?_) _ _)
  · split
    · exact keepsTeams_privGrid s g.id
    · exact .refl s
  · dsimp only
    split
    · exact .refl s
    · exact (keepsTeams_takePriv s _ _ _ _).trans (keepsTeams_privBase _ _ _)

/-- The team that a bobbin forms. -/
def State.bobbinTeam (s : State) (cluster : Nat) (b : Bobbin) : Team :=
  ({ Team.blank s.fresh with
     grid := (s.grid b.grid).id, num := (s.grid b.grid).teams + (s.grid b.grid).spawned, state := .pending, spawner := some cluster
     groups := List.replicate ((b.kids.length + 31) / 32) (Group.fresh { kind := 4, nr := b.nr }), entry := b.entry, args := b.kids
     scratch := b.scratch, privWords := b.privWords, prio := b.prio, idem := b.idem, partword := b.partword, featmask := b.featmask } : Team).start

theorem grid_id (s : State) (i : Nat) : (s.grid i).id = i := by
  rw [State.grid]
  cases h : s.grids.find? fun x => x.id == i with
  | none => rfl
  | some g => simpa using List.find?_some h

theorem formBobbin_forms (s : State) (cluster : Nat) (b : Bobbin) :
    (s.formBobbin cluster b).bobbins = dropBy (fun x => x.1 == cluster && x.2.index == b.index) s.bobbins ∧
      ∃ x, { s.bobbinTeam cluster b with privBase := x } ∈ (s.formBobbin cluster b).teams := by
  obtain ⟨hb, ht⟩ := keepsTeams_privRetry (({ s with
    fresh := s.fresh + 1, teams := s.teams ++ [s.bobbinTeam cluster b]
    bobbins := dropBy (fun x => x.1 == cluster && x.2.index == b.index) s.bobbins } : State).editGrid (s.grid b.grid).id fun x =>
      { x with spawned := x.spawned + 1 })
  exact ⟨hb, ht _ (List.mem_append_right _ (List.mem_singleton.2 rfl))⟩

section Timer
variable {s : State} {cluster : Nat} {b : Bobbin} (hb : s.bobbins = [(cluster, b)]) (hd : (s.grid b.grid).determ = false)
include hb hd

/-- In a grid that is neither recorded nor replayed, a bobbin forms its team when its timer has run out. -/
theorem exec_bobbinTimer (hc : (s.grid b.grid).capture = false) :
    exec (.bobbinTimer cluster b.index) s = .next (if b.opened + b.timer ≤ s.time.cyc then s.formBobbin cluster b else s) := by
  have hfind : (s.bobbins.find? fun x => x.1 == cluster && x.2.index == b.index) = some (cluster, b) := by simp [hb]
  have hreplay : s.replays b.grid = false := by simp [State.replays, hd]
  have hrecord : s.capRecord b.grid 4 (4 * cluster) b.index 0 [] = s := by simp [State.capRecord, hc]
  simp only [exec, execBobbinTimer, hfind, hreplay, hrecord, State.bobbinDue, hd, Bool.false_eq_true, if_false, decide_eq_true_eq]
  split <;> rfl

theorem bobbinTimer_forms (hc : (s.grid b.grid).capture = false) (hdue : b.opened + b.timer ≤ s.time.cyc) :
    ∃ s' tm, exec (.bobbinTimer cluster b.index) s = .next s' ∧ s'.bobbins = [] ∧ tm ∈ s'.teams ∧ tm.state = .pending ∧
      tm.grid = b.grid ∧ tm.args = b.kids ∧ tm.entry = b.entry ∧ tm.spawner = some cluster ∧
      tm.groups.length = (b.kids.length + 31) / 32 := by
  obtain ⟨hgone, x, htm⟩ := formBobbin_forms s cluster b
  refine ⟨_, _, by rw [exec_bobbinTimer hb hd hc, if_pos hdue], by rw [hgone, hb]; simp [dropBy], htm, rfl, grid_id s b.grid, rfl, rfl, rfl, ?_⟩
  simp [State.bobbinTeam, Team.start]

end Timer

/-- Settles O50: the team whose turn it is takes the first core of its partition and its threads begin; a bobbin forms its team when its
timer has run out, and a region that is then taken for it (05/R114) leaves that team else as it is. -/
theorem placement : Obligations.Placement := by
  intro s
  refine ⟨fun panel core g hg hteams hthreads hlive hpriv hnext hmore hpanel hhere hin hfirst hlast hpool hfits => ?_,
    fun cluster b hb hd hc => ⟨bobbinTimer_forms hb hd hc, fun hearly => ?_⟩⟩
  · have h : Turn s panel core g := ⟨hg, hteams, hlive, hpriv, hnext, hmore, hhere, hin, hfirst, hlast, hpool, hfits⟩
    have hteam : ((s.firstTaken g).place (s.firstTeam g) core (List.range g.roles.length) 0 none).team s.fresh = _ :=
      place_team (s.firstTaken g) (s.firstTeam g) core (List.range g.roles.length) 0 none hteams
    have hgrid : (s.firstTaken g).grid g.id = { g with nextTeam := 1 } := by
      simp [State.firstTaken, State.grid, State.editGrid, hg, editBy, hnext]
    refine ⟨_, h.exec, ?_⟩
    rw [hteam]
    refine ⟨rfl, rfl, rfl, rfl, rfl, place_partword .., congrArg Grid.nextTeam hgrid, hhere ▸ place_lastPlaced .., ?_,
      fun x => by rw [place_mem]; rfl⟩
    intro gi lane hgi hl
    rw [place_thread (s.firstTaken g) (s.firstTeam g) core _ 0 none hthreads rfl hgi hl, show (s.firstTeam g).grid = g.id from rfl, hgrid]
    exact startThread_begins _ g.width _ gi lane rfl (firstTeam_groups s g)
  · rw [exec_bobbinTimer hb hd hc, if_neg (by omega)]

end Sys2Proof.Machine
end

section
namespace Sys2Proof.Machine
open Sys2Proof.Claim

/-! ### Caches that hold nothing to write (05/R117 to R120) -/

section Clean
variable {s : State}

theorem mergeAll_none (h : s.upd = []) (p : UpdLine → Bool) : s.mergeAll p = s := by
  rw [State.mergeAll, h]
  show ({ s with upd := [] } : State) = s
  rw [← h]

theorem writeBackAll_none (h : s.l1 = []) (p : L1Line → Bool) (who : Option (Nat × Nat)) : s.writeBackAll p who = s := by
  rw [State.writeBackAll, h]; rfl

variable (hl1 : s.l1 = []) (hupd : s.upd = [])
include hl1 hupd

theorem flushCtx_clean (ctx : Nat) : s.flushCtx ctx = s := by rw [State.flushCtx, writeBackAll_none hl1, mergeAll_none hupd]
theorem flushCore_clean (core ctx : Nat) : s.flushCore core ctx = s := by rw [State.flushCore, writeBackAll_none hl1, mergeAll_none hupd]

end Clean

/-! ### A grid whose teams are over (03/R64) -/

theorem grid_only {s : State} {g : Grid} (h : s.grids = [g]) : s.grid g.id = g := by simp [State.grid, h]

theorem editGrid_only {s : State} {g : Grid} (h : s.grids = [g]) (f : Grid → Grid) : s.editGrid g.id f = { s with grids := [f g] } := by
  simp [State.editGrid, h, editBy]

theorem exec_gridComplete_over {s : State} {g : Grid} (hg : s.grids = [g]) (hlive : g.status = none) (hopen : g.finished = false)
    (hdone : s.teamsDone g = true) (hl1 : s.l1 = []) (hupd : s.upd = []) :
    exec (.gridComplete g.id) s = .next { s with grids := [{ g with status := some 0 }] } := by
  simp only [exec, execGridComplete, grid_only hg, hopen, hlive, hdone, flushCtx_clean hl1 hupd, editGrid_only hg, Option.isNone_none,
    Bool.false_eq_true, if_false, if_true]

theorem teamsDone_iff (s : State) (g : Grid) : s.teamsDone g = true ↔
    g.teams ≤ g.nextTeam ∧ (∀ t ∈ s.teams, t.grid = g.id → t.state = .gone) ∧ (∀ b ∈ s.bobbins, b.2.grid ≠ g.id) ∧
      ∀ c ∈ s.cmds, (s.team c.team).grid ≠ g.id := by
  simp [State.teamsDone, and_assoc]

/-! ### A grid over: its requester is told (03/R64) -/

section Finish
variable (s : State) (g : Grid)

theorem notify_eq_fabric : s.notify g = { s with fabric := (s.notify g).fabric } := by
  rw [State.notify]
  split
  · rfl
  · split
    · rfl
    · exact sendResponse_eq_fabric ..

/-- A requester that asked for it is sent the grid's status. -/
theorem leaves_notify {port src tag : Nat} (hr : g.requester = some (port, src, tag)) (hn : g.notify = true) :
    ∃ r, Leaves (s.notify g) r ∧ r.typ = 0x11 ∧ r.aux = 0x80 + g.status.getD 0 ∧ r.dst = src ∧ r.tag = tag ∧ r.etag = etagOf r := by
  simp only [State.notify, hr, hn, Bool.not_true, Bool.false_eq_true, if_false]
  exact ⟨_, leaves_sendResponse .., rfl, rfl, rfl, rfl, etagOf_sealPkt _⟩

theorem finishGrid_eq (i : Nat) : s.finishGrid i =
    { s with privs := dropBy (fun p => p.grid == i) s.privs, teams := dropBy (fun t => t.grid == i) s.teams
             grids := editBy (fun x => x.id == i) (fun x => { x with finished := true }) s.grids, fabric := (s.finishGrid i).fabric } :=
  notify_eq_fabric _ _

@[simp] theorem finishGrid_mem (i : Nat) : (s.finishGrid i).mem = s.mem := by rw [finishGrid_eq]
@[simp] theorem finishGrid_reports (i : Nat) : (s.finishGrid i).reports = s.reports := by rw [finishGrid_eq]
@[simp] theorem finishGrid_log (i : Nat) : (s.finishGrid i).log = s.log := by rw [finishGrid_eq]

variable {s g}

theorem finished_finishGrid {st : Nat} (hg : s.grids = [g]) (hst : g.status = some st) : Finished (s.finishGrid g.id) g st := by
  have hgrids : (s.finishGrid g.id).grid g.id = { g with finished := true } := by
    rw [finishGrid_eq, State.grid]; simp [hg, editBy]
  refine ⟨by rw [hgrids], by rw [hgrids, hst], ?_, ?_, fun port src tag hr hn => ?_⟩
  · rw [finishGrid_eq]; simp [dropBy]
  · rw [finishGrid_eq]; simp [dropBy]
  · have := leaves_notify (({ s with
      privs := dropBy (fun p => p.grid == g.id) s.privs, teams := dropBy (fun t => t.grid == g.id) s.teams
      fabric := { s.fabric with lossy := dropBy (fun e => e.grid == g.id) s.fabric.lossy } } : State).editGrid g.id fun x =>
        { x with finished := true }) g hr hn
    rw [hst] at this
    rw [State.finishGrid, grid_only hg]
    exact this

end Finish

/-! ### Walks where nothing is held back (06/R133) -/

/-- No contribution to memory is held in an update line or a determinism buffer. -/
def Settled (s : State) : Prop := s.upd = [] ∧ s.l2.det = []

/-- Only the slices' books have changed, and no line has become good or bad. -/
structure Booked (s s' : State) : Prop where
  rest : s' = { s with l2 := s'.l2 }
  det : s'.l2.det = s.l2.det
  bad : s'.l2.bad = s.l2.bad

namespace Booked
variable {s s' s'' : State}

theorem refl (s : State) : Booked s s := ⟨rfl, rfl, rfl⟩
theorem trans (h : Booked s s') (h' : Booked s' s'') : Booked s s'' :=
  ⟨by rw [h'.rest, h.rest], h'.det.trans h.det, h'.bad.trans h.bad⟩
theorem mem (h : Booked s s') : s'.mem = s.mem := by rw [h.rest]
theorem lineBad (h : Booked s s') (line : Nat) : s'.lineBad line = s.lineBad line := by
  rw [State.lineBad, h.bad, h.rest]; rfl
theorem settled (h : Booked s s') (hs : Settled s) : Settled s' := ⟨by rw [h.rest]; exact hs.1, h.det.trans hs.2⟩
theorem wrote (h : Booked s s') (hq : Quiet s) : HomeWrote s s' noBytes where
  rest := by rw [h.rest]; rfl
  quiet := ⟨(h.settled ⟨hq.upd, hq.det⟩).1, (h.settled ⟨hq.upd, hq.det⟩).2, by rw [h.mem]; exact hq.form⟩
  good line hl := (h.lineBad line).trans hl
  bytes x := by rw [h.mem]; rfl

end Booked

section Walk
variable {s : State}

theorem recall_booked (h : Settled s) (line : Nat) : Booked s (s.recall line) := by
  have heq : s.recall line = { s with l2 := { s.l2 with holders := dropBy (fun h => h.1 == line) s.l2.holders } } := by
    obtain ⟨hupd, hdet⟩ := h
    simp only [State.recall, hupd, List.filter_nil, dropBy, List.length_nil, State.shuffled, State.applyUpds, State.flushDet, hdet, detSort,
      State.applyDet]
  rw [heq]; exact ⟨rfl, rfl, rfl⟩

theorem noteLine_booked (s : State) (line : Nat) (comp written : Bool) : Booked s (s.noteLine line comp written) := by
  simp only [State.noteLine]; split <;> exact ⟨rfl, rfl, rfl⟩

theorem homeRead_booked (h : Settled s) (pa n : Nat) (comp : Bool) : ∃ s', Booked s s' ∧
    s.homeRead pa n comp = (s', if s.lineBad (pa / 128) then none else some (memRead s.mem pa n)) := by
  have hb := (recall_booked h (pa / 128)).trans (noteLine_booked _ (pa / 128) comp false)
  exact ⟨_, hb, by simp only [State.homeRead, hb.lineBad, hb.mem]⟩

/-- A walk changes the slices' books alone, and finds the same in any state with the same memory and bad lines. -/
theorem walkGo_booked (va : Nat) : ∀ (n level table : Nat) {s z : State}, Settled s → Settled z → z.mem = s.mem →
    (∀ line, z.lineBad line = s.lineBad line) →
    Booked s (s.walkGo va n level table).1 ∧ (z.walkGo va n level table).2 = (s.walkGo va n level table).2
  | 0, _, _, s, _, _, _, _, _ => ⟨.refl s, rfl⟩
  | n + 1, level, table, s, z, hs, hz, hmem, hbad => by
    obtain ⟨s1, hs1, hsr⟩ := homeRead_booked hs (table + 8 * bitsAt va (pageBits level) 13) 8 false
    obtain ⟨z1, hz1, hzr⟩ := homeRead_booked hz (table + 8 * bitsAt va (pageBits level) 13) 8 false
    rw [hmem, hbad] at hzr
    have hnext := fun t => walkGo_booked va n (level + 1) t (hs1.settled hs) (hz1.settled hz) (by rw [hz1.mem, hs1.mem, hmem])
      fun line => by rw [hz1.lineBad, hs1.lineBad, hbad]
    simp only [State.walkGo, hsr, hzr]
    split
    · exact ⟨hs1, rfl⟩
    · split
      · exact ⟨hs1, rfl⟩
      · split
        · exact ⟨hs1, rfl⟩
        · split
          · exact ⟨hs1, rfl⟩
          · exact ⟨hs1.trans (hnext _).1, (hnext _).2⟩

theorem walk_booked {z : State} (hs : Settled s) (hz : Settled z) (hsys : z.sys = s.sys) (hmem : z.mem = s.mem)
    (hbad : ∀ line, z.lineBad line = s.lineBad line) (ctx va : Nat) : Booked s (s.walk ctx va).1 ∧ (z.walk ctx va).2 = (s.walk ctx va).2 := by
  obtain ⟨s1, hs1, hsr⟩ := homeRead_booked hs (fld s.sys.ctxtab 15 37 * 32768 + 8 * ctx) 8 false
  obtain ⟨z1, hz1, hzr⟩ := homeRead_booked hz (fld s.sys.ctxtab 15 37 * 32768 + 8 * ctx) 8 false
  rw [hmem, hbad] at hzr
  have hgo := fun t => walkGo_booked va 3 1 t (hs1.settled hs) (hz1.settled hz) (by rw [hz1.mem, hs1.mem, hmem])
    fun line => by rw [hz1.lineBad, hs1.lineBad, hbad]
  simp only [State.walk, hsys, hsr, hzr]
  split
  · exact ⟨.refl s, rfl⟩
  · split
    · exact ⟨hs1, rfl⟩
    · split
      · exact ⟨hs1, rfl⟩
      · split
        · exact ⟨hs1, rfl⟩
        · exact ⟨hs1.trans (hgo _).1, (hgo _).2⟩

end Walk

/-! ### The completion word (03/R64) -/

/-- The eight bytes of a completion word. -/
def Grid.word (g : Grid) : List Byte := leBytes 4 (g.status.getD 0) ++ leBytes 4 g.cookie

theorem word_length (g : Grid) : g.word.length = 8 := by simp [Grid.word]

section Word
variable {s : State} {g : Grid}

theorem writeWord_none (h : g.done = 0) : s.writeWord g = s.finishGrid g.id := by simp [State.writeWord, h]

theorem writeWord_fault {c : Nat} (h0 : g.done ≠ 0) (hlt : g.done < 2 ^ 55) (hw : (s.walk g.ctx g.done).2 = .fault c) :
    s.writeWord g = (s.walk g.ctx g.done).1.wordFault g c := by
  simp only [State.writeWord, if_neg h0, if_neg (Nat.not_le.2 hlt), hw]

/-- A word in a writable LOCAL page is written, and the grid is over. -/
theorem writeWord_local {pa : Nat} (h : WordAt s g pa) : ∃ s1, s.writeWord g = s1.finishGrid g.id ∧ HomeWrote s s1 (bytesAt pa g.word) := by
  obtain ⟨h0, hlt, hp, halign, lvl, leaf, hw, hpa, hwr, hapt⟩ := h
  have hq : Quiet s := ⟨hp.upd, hp.det, hp.form⟩
  have hbook := ((walk_booked ⟨hp.upd, hp.det⟩ ⟨hp.upd, hp.det⟩ rfl rfl (fun _ => rfl) g.ctx g.done).1).wrote hq
  obtain ⟨s1, hs1, h1⟩ := homeWrite_quiet hbook.quiet g.ctx pa g.word (leafXlat lvl leaf g.done).comp
    (by rw [word_length]; omega) (hbook.good _ (hp.good 0 (by omega)))
  refine ⟨s1, ?_, hbook.after h1⟩
  rw [Grid.word] at hs1
  simp only [State.writeWord, if_neg h0, if_neg (Nat.not_le.2 hlt), hw, hwr, hapt, hpa, hs1, Bool.not_true, Bool.false_eq_true, if_false, if_true]

/-- A word that has been written reads as the status and the cookie, and no other byte has changed. -/
theorem wrote_word {s1 : State} {pa st : Nat} (h : HomeWrote s s1 (bytesAt pa g.word)) (hst : g.status = some st) (hlt : st < 2 ^ 32)
    (hc : g.cookie < 2 ^ 32) : number s1.mem pa 4 = st ∧ number s1.mem (pa + 4) 4 = g.cookie ∧
      ∀ x, (x < pa ∨ pa + 8 ≤ x) → memGet s1.mem x = memGet s.mem x := by
  have hbyte : ∀ i, i < 8 → memGet s1.mem (pa + i) = g.word.getD i 0#8 := fun i hi => by
    rw [h.bytes, bytesAt_inside _ _ _ (by rwa [word_length]), Option.getD_some]
  have hnum : ∀ (l : List Byte) (a : Nat), l.length = 4 → (∀ i, i < 4 → memGet s1.mem (a + i) = l.getD i 0#8) →
      number s1.mem a 4 = leNat l :=
    fun l a hl hm => hl ▸ number_of_bytes l a (hl ▸ hm)
  refine ⟨?_, ?_, fun x hx => by rw [h.bytes, bytesAt_outside _ _ _ (by rwa [word_length]), Option.getD_none]⟩
  · rw [hnum (leBytes 4 st) pa (leBytes_length 4 st) fun i hi => ?_, leNat_leBytes, Nat.mod_eq_of_lt hlt]
    rw [hbyte i (by omega), Grid.word, hst, Option.getD_some, List.getD_append _ _ _ _ (by rwa [leBytes_length])]
  · rw [hnum (leBytes 4 g.cookie) (pa + 4) (leBytes_length 4 _) fun i hi => ?_, leNat_leBytes, Nat.mod_eq_of_lt hc]
    rw [Nat.add_assoc, hbyte (4 + i) (by omega), Grid.word, List.getD_append_right _ _ _ _ (by rw [leBytes_length]; omega), leBytes_length,
      Nat.add_sub_cancel_left]

end Word

end Sys2Proof.Machine
end

section
namespace Sys2Proof.Machine
open Sys2Proof.Claim

/-! ### GRID_COMPLETE and COMPLETION_WORD_ANSWER (03/R64) -/

section Due
variable {s : State} {g : Grid} {st : Nat} (h : WordDue s g st)
include h

theorem gridQuiet_of_due : s.gridQuiet g = true := by
  simpa [State.gridQuiet, h.reqs, h.cmds] using ⟨h.acks, fun c hc x hx => h.cores c hc _ hx rfl⟩

/-- With its writes wordAnswered and no report of it open, a grid that is over writes its word. -/
theorem exec_gridComplete_due (hr : s.reports = []) : exec (.gridComplete g.id) s = .next (s.writeWord g) := by
  have hout : s.wordOut g = false := by simp [State.wordOut, h.reqs, hr]
  simp only [exec, execGridComplete, grid_only h.grids, h.open_, h.status, gridQuiet_of_due h, hout, Option.isNone_some, Bool.false_eq_true,
    if_false, Bool.not_false, Bool.and_self, if_true]

theorem gridComplete_noWord (hr : s.reports = []) (h0 : g.done = 0) :
    ∃ s', exec (.gridComplete g.id) s = .next s' ∧ Finished s' g st ∧ (∀ x, memGet s'.mem x = memGet s.mem x) :=
  ⟨_, exec_gridComplete_due h hr, writeWord_none (s := s) h0 ▸ finished_finishGrid h.grids h.status, fun x => by
    rw [writeWord_none h0, finishGrid_mem]⟩

theorem gridComplete_word (hr : s.reports = []) {pa : Nat} (hw : WordAt s g pa) (hlt : st < 2 ^ 32) (hc : g.cookie < 2 ^ 32) :
    ∃ s', exec (.gridComplete g.id) s = .next s' ∧ Finished s' g st ∧ number s'.mem pa 4 = st ∧ number s'.mem (pa + 4) 4 = g.cookie ∧
      (∀ x, (x < pa ∨ pa + 8 ≤ x) → memGet s'.mem x = memGet s.mem x) := by
  obtain ⟨s1, heq, h1⟩ := writeWord_local hw
  refine ⟨_, (exec_gridComplete_due h hr).trans (congrArg _ heq), finished_finishGrid ?_ h.status, ?_⟩
  · exact (congrArg State.grids h1.rest).trans h.grids
  · rw [finishGrid_mem]
    exact wrote_word h1 h.status hlt hc

/-- The report of a word that cannot be written. -/
def Grid.report (g : Grid) (cause : Nat) : Report :=
  { key := { cluster := ((List.range Config.clusters).find? fun c => bitsAt g.clusters c 1 == 1).getD 0, ctx := g.ctx
             page := g.done / 65536, cause := cause }
    cmds := [], tids := [], grids := [g.id] }

omit h in
theorem wordFault_reports (z : State) (hr : z.reports = []) (c : Nat) : z.wordFault g c =
    ({ z with reports := [g.report c] } : State).post (.doneFault g.id g.done c) := by
  simp only [State.wordFault, State.openReport, hr, List.find?_nil, Option.getD_none, putBy, List.nil_append, Grid.report]

theorem gridComplete_fault (hr : s.reports = []) {c : Nat} (h0 : g.done ≠ 0) (hlt : g.done < 2 ^ 55) (hw : (s.walk g.ctx g.done).2 = .fault c)
    (hupd : s.upd = []) (hdet : s.l2.det = []) :
    ∃ s' rep, exec (.gridComplete g.id) s = .next s' ∧ s'.reports = [rep] ∧ rep.grids = [g.id] ∧ rep.key.cause = c ∧
      rep.key.ctx = g.ctx ∧ rep.key.page = g.done / 65536 ∧ s'.board.events = s.board.events ++ [.doneFault g.id g.done c] ∧
      (s'.grid g.id).finished = false := by
  have hb := (walk_booked ⟨hupd, hdet⟩ ⟨hupd, hdet⟩ rfl rfl (fun _ => rfl) g.ctx g.done).1
  have heq := writeWord_fault h0 hlt hw
  rw [wordFault_reports _ (by rw [hb.rest]; exact hr)] at heq
  refine ⟨_, g.report c, (exec_gridComplete_due h hr).trans (congrArg _ heq), rfl, rfl, rfl, rfl, rfl, ?_, ?_⟩
  · rw [hb.rest]; rfl
  · rw [hb.rest]
    exact (congrArg Grid.finished (grid_only (s := s) h.grids)).trans h.open_

end Due

/-! #### The runtime's answer -/

section Answer
variable {s : State} {g : Grid} {st : Nat} {rep : Report}

/-- The report no longer waits for the grid. -/
def State.wordAnswered (s : State) (rep : Report) : State := { s with reports := [{ rep with grids := [] }] }

/-- A report that nothing else waits for is closed. -/
theorem pruneReports_wordAnswered {z : State} (hz : z.reports = (s.wordAnswered rep).reports) (hlog : z.log = [])
    (hcmds : rep.cmds = []) (htids : rep.tids = []) :
    z.pruneReports.reports = [] := by
  simp [State.pruneReports, hz, State.wordAnswered, hlog, hcmds, htids]

theorem finished_pruneReports (h : Finished s g st) : Finished s.pruneReports g st := h

variable (h : WordDue s g st) (hr : s.reports = [rep]) (hrg : rep.grids = [g.id])
include h hr hrg

theorem exec_answer (ans : Answer) : exec (.completionWordAnswer g.id ans) s =
    .next (if ans = .replay then (s.wordAnswered rep).writeWord g else (s.wordAnswered rep).finishGrid g.id).pruneReports := by
  have hany : (s.reports.any fun r => r.grids.contains g.id) = true := by simp [hr, hrg]
  have hmap : ({ s with reports := s.reports.map fun r => { r with grids := dropBy (· == g.id) r.grids } } : State) = s.wordAnswered rep := by
    simp [State.wordAnswered, hr, hrg, dropBy]
  have hgrid : (s.wordAnswered rep).grid g.id = g := grid_only h.grids
  simp only [exec, execCompletionWordAnswer, hany, if_true, hmap, hgrid]
  cases ans <;> rfl

variable (hrc : rep.cmds = []) (hrt : rep.tids = []) (hlog : s.log = [])
include hrc hrt hlog

/-- FORWARD and END leave the word unwritten. -/
theorem answer_leaves (ans : Answer) (hans : ans ≠ .replay) : ∃ s', exec (.completionWordAnswer g.id ans) s = .next s' ∧ Finished s' g st ∧
    s'.reports = [] ∧ (∀ x, memGet s'.mem x = memGet s.mem x) := by
  have hexec := exec_answer h hr hrg ans
  rw [if_neg hans] at hexec
  refine ⟨_, hexec, finished_pruneReports (finished_finishGrid h.grids h.status), ?_, fun x => ?_⟩
  · exact pruneReports_wordAnswered (finishGrid_reports ..) ((finishGrid_log ..).trans hlog) hrc hrt
  · exact congrArg (memGet · x) (finishGrid_mem (s.wordAnswered rep) g.id)

omit h hr hrg hrc hrt hlog in
/-- A walk finds the word's page whatever reports are open. -/
theorem wordAt_answered {pa : Nat} (hw : WordAt s g pa) : WordAt (s.wordAnswered rep) g pa := by
  obtain ⟨h0, hlt, hp, halign, lvl, leaf, hwalk, hleaf⟩ := hw
  have hsame := (walk_booked (s := s) (z := s.wordAnswered rep) ⟨hp.upd, hp.det⟩ ⟨hp.upd, hp.det⟩ rfl rfl (fun _ => rfl) g.ctx g.done).2
  exact ⟨h0, hlt, ⟨hp.upd, hp.det, hp.good, hp.ready, hp.form⟩, halign, lvl, leaf, hsame.trans hwalk, hleaf⟩

/-- REPLAY writes the word. -/
theorem answer_replays {pa : Nat} (hw : WordAt s g pa) (hlt : st < 2 ^ 32) (hc : g.cookie < 2 ^ 32) :
    ∃ s', exec (.completionWordAnswer g.id .replay) s = .next s' ∧ Finished s' g st ∧ s'.reports = [] ∧
      number s'.mem pa 4 = st ∧ number s'.mem (pa + 4) 4 = g.cookie := by
  obtain ⟨s1, heq, h1⟩ := writeWord_local (wordAt_answered hw)
  obtain ⟨hst, hcookie, -⟩ := wrote_word h1 h.status hlt hc
  have hexec := exec_answer h hr hrg .replay
  rw [if_pos rfl, heq] at hexec
  have hgrids : s1.grids = [g] := (congrArg State.grids h1.rest :).trans h.grids
  have hlog1 : s1.log = [] := (congrArg State.log h1.rest :).trans hlog
  have hreports : s1.reports = (s.wordAnswered rep).reports := (congrArg State.reports h1.rest :)
  refine ⟨_, hexec, finished_pruneReports (finished_finishGrid hgrids h.status), ?_, ?_⟩
  · exact pruneReports_wordAnswered ((finishGrid_reports ..).trans hreports) ((finishGrid_log ..).trans hlog1) hrc hrt
  · rw [show (s1.finishGrid g.id).pruneReports.mem = s1.mem from finishGrid_mem ..]
    exact ⟨hst, hcookie⟩

end Answer

end Sys2Proof.Machine
end

section
namespace Sys2Proof.Machine
open Sys2Proof.Claim

/-! ### The downstream order of a stop (03/R65) -/

/-- Two live jobs of a context, the second a consumer of the first. -/
structure Chain (s : State) (g h : Grid) : Prop where
  grids : s.grids = [g, h]
  ctx : g.ctx = h.ctx
  first : g.status = none
  second : h.status = none
  jobs : g.job ≠ h.job
  source : g.edges = []
  edge : h.edges = [g.job]

section Chain
variable {s : State} {g h : Grid} (c : Chain s g h)
include c

theorem Chain.liveJobs : s.liveJobs g.ctx = [g.job, h.job] := by
  simp [State.liveJobs, c.grids, Grid.alive, c.first, c.second, ← c.ctx, List.eraseDups_cons, c.jobs.symm]

theorem Chain.consumers_first : s.consumers g.ctx g.job = [h.job] := by
  simp [State.consumers, c.liveJobs, c.grids, Grid.alive, c.second, ← c.ctx, c.source, c.edge, List.eraseDups_cons]

theorem Chain.consumers_second : s.consumers g.ctx h.job = [] := by
  simp [State.consumers, c.grids, c.source, c.edge, c.jobs.symm]

theorem Chain.downstream_second : s.downstream g.ctx h.job = [h.job] := by
  simp [State.downstream, State.reach, c.consumers_second]

theorem Chain.downstream_first : s.downstream g.ctx g.job = [g.job, h.job] := by
  simp [State.downstream, State.reach, c.consumers_first, c.consumers_second, c.grids, List.eraseDups_cons, c.jobs.symm]

theorem Chain.stopSets_second : s.stopSets g.ctx 1 [h.job] = [[h.job]] := by
  simp [State.stopSets, c.downstream_second, sortNat, insertNat]

/-- In either order of their numbers the producer comes first: no other job reaches it. -/
theorem Chain.stopSets : s.stopSets g.ctx 2 [g.job, h.job] = [[g.job], [h.job]] := by
  have hsort : sortNat [g.job, h.job] = [g.job, h.job] ∨ sortNat [g.job, h.job] = [h.job, g.job] := by
    simp only [sortNat, insertNat]; split <;> simp
  rw [State.stopSets]
  rcases hsort with hs | hs <;>
    simp [hs, c.downstream_first, c.downstream_second, c.jobs, c.jobs.symm, c.stopSets_second]

/-- A stop that begins lists the jobs downstream, each in a set of its own, the producer first. -/
theorem Chain.jobStop_begins (hs : s.stops = []) : ∃ x, exec (.jobStop g.ctx g.job) s = .next { s with stops := [x] } ∧ x.ctx = g.ctx ∧
    x.sets = [[g.job], [h.job]] ∧ x.jobs = [g.job, h.job] ∧ x.began = s.time.ns := by
  refine ⟨{ ctx := g.ctx, sets := [[g.job], [h.job]], jobs := [g.job, h.job], began := s.time.ns, head := true }, ?_, rfl, rfl, rfl, rfl⟩
  have hnone : s.stopOf g.ctx g.job = none := by simp [State.stopOf, hs]
  simp [exec, execJobStop, hnone, c.downstream_first, c.stopSets, State.setStop, hs, dropBy]

end Chain

/-! ### A grid ended (03/R64, R65) -/

@[simp] theorem emptyCore_grids (s : State) (core : Nat) : (s.emptyCore core).grids = s.grids := by rw [State.emptyCore]; split <;> rfl
@[simp] theorem emptyCore_stops (s : State) (core : Nat) : (s.emptyCore core).stops = s.stops := by rw [State.emptyCore]; split <;> rfl

@[simp] theorem orphan_grids (s : State) (i : Nat) : (s.orphan i).grids = s.grids := rfl
@[simp] theorem orphan_stops (s : State) (i : Nat) : (s.orphan i).stops = s.stops := rfl
@[simp] theorem cancel_grids (s : State) (i : Nat) : (s.cancel i).grids = s.grids := rfl
@[simp] theorem cancel_stops (s : State) (i : Nat) : (s.cancel i).stops = s.stops := rfl

/-! A team that is freed leaves the grids and the stops as they are. -/

theorem freeTeam_grids (s : State) (i : Nat) : (s.freeTeam i).grids = s.grids := by
  rw [State.freeTeam]
  split <;> simp only [emptyCore_grids, State.editCore_grids, State.editTeam_grids, cancel_grids, orphan_grids]
theorem freeTeam_stops (s : State) (i : Nat) : (s.freeTeam i).stops = s.stops := by
  rw [State.freeTeam]
  split <;> simp only [emptyCore_stops, State.editCore_stops, State.editTeam_stops, cancel_stops, orphan_stops]

theorem foldl_freeTeam_jobs : ∀ (l : List Team) (s : State), (l.foldl (fun s t => s.freeTeam t.id) s).grids = s.grids ∧
    (l.foldl (fun s t => s.freeTeam t.id) s).stops = s.stops
  | [], _ => ⟨rfl, rfl⟩
  | t :: l, s => by
    rw [List.foldl_cons, (foldl_freeTeam_jobs l _).1, (foldl_freeTeam_jobs l _).2]
    exact ⟨freeTeam_grids s t.id, freeTeam_stops s t.id⟩

theorem saveClean_eq (s : State) (gid : Nat) : s.saveClean gid = { s with mem := (s.saveClean gid).mem } := by
  rw [State.saveClean]
  induction s.teams.filter (fun t => t.grid == gid && t.state == .resident && s.cleanTeam t) using List.reverseRecOn with
  | nil => rfl
  | append_singleton l t ih =>
    rw [List.foldl_append, List.foldl_cons, List.foldl_nil]
    split
    · rw [ih]
    · exact ih

/-- A live grid, the only one, ends with the status given, and no stop is touched. -/
theorem endGrid_only {s : State} {g : Grid} (hg : s.grids = [g]) (hlive : g.status = none) (hl1 : s.l1 = []) (hupd : s.upd = []) (st : Nat) :
    ((s.endGrid g.id st).grid g.id).status = some st ∧ (s.endGrid g.id st).stops = s.stops := by
  have hflush : ∀ l : List Team, l.foldl (fun s t => if t.state ≠ .pending then s.flushCore t.core g.ctx else s) s = s := by
    intro l
    induction l with
    | nil => rfl
    | cons t l ih => rw [List.foldl_cons, flushCore_clean hl1 hupd, ite_self, ih]
  obtain ⟨hgrids, hstops⟩ := foldl_freeTeam_jobs ((s.teams.filter fun t => t.grid == g.id).filter fun t => t.state != .gone) s
  rw [State.endGrid, grid_only hg]
  simp only [hlive, Option.isSome_none, Bool.false_eq_true, if_false, hflush]
  refine ⟨?_, hstops⟩
  rw [State.grid, State.editGrid, hgrids, hg]
  simp [editBy]

/-! ### The turn of a stop (03/R65, R66) -/

/-- The one stop's turn is that of the one grid, which is live. -/
structure Turning (s : State) (x : Stop) (g : Grid) : Prop where
  stops : s.stops = [x]
  grids : s.grids = [g]
  ctx : g.ctx = x.ctx
  jobs : x.jobs = [g.job]
  sets : x.sets = [[g.job]]
  live : g.status = none
  l1 : s.l1 = []
  upd : s.upd = []

section Turning
variable {s : State} {x : Stop} {g : Grid} (t : Turning s x g)
include t

theorem Turning.stopOf : s.stopOf x.ctx g.job = some x := by simp [State.stopOf, t.stops, t.jobs]

theorem Turning.gridsOf : s.gridsOf x.ctx [g.job] = [g] := by
  simp [State.gridsOf, sortNat, insertNat, t.grids, Grid.alive, t.ctx, t.live]

theorem Turning.exec_clean (hc : s.cleanSet x.ctx [g.job] = true) :
    exec (.jobStop x.ctx g.job) s = .next ((s.stopGrid g).setStop x.ctx g.job none) := by
  simp [exec, execJobStop, t.stopOf, t.sets, hc, t.gridsOf]

theorem Turning.exec_unclean (hc : s.cleanSet x.ctx [g.job] = false) : exec (.jobStop x.ctx g.job) s = .next s := by
  simp [exec, execJobStop, t.stopOf, t.sets, hc]

/-- A stop saves what is clean, so that the grid still ends as it would. -/
theorem Turning.ends (st : Nat) : (((s.saveClean g.id).endGrid g.id st).grid g.id).status = some st ∧
    ((s.saveClean g.id).endGrid g.id st).stops = [x] := by
  have hsave := saveClean_eq s g.id
  have := endGrid_only (s := s.saveClean g.id) (g := g) (by rw [hsave]; exact t.grids) t.live (by rw [hsave]; exact t.l1)
    (by rw [hsave]; exact t.upd) st
  rwa [show (s.saveClean g.id).stops = [x] by rw [hsave]; exact t.stops] at this

theorem Turning.jobStop_ends (hc : s.cleanSet x.ctx [g.job] = true) :
    ∃ s', exec (.jobStop x.ctx g.job) s = .next s' ∧ s'.stops = [] ∧
      ((∃ t ∈ s.teams, t.grid = g.id ∧ t.state = .resident ∧ t.save = none) → (s'.grid g.id).status = some 2) ∧
      ((∀ t ∈ s.teams, t.grid = g.id → t.state = .resident → t.save ≠ none) → (s'.grid g.id).status = some 1) := by
  refine ⟨_, t.exec_clean hc, ?_, fun hbare => ?_, fun hsaved => ?_⟩
  · simp [State.setStop, State.stopGrid, (t.ends _).2, dropBy, t.jobs]
  · have : (s.teams.any fun t => t.grid == g.id && t.state == .resident && t.save.isNone) = true := by simpa [and_assoc] using hbare
    simp only [State.stopGrid, this, if_true]
    exact (t.ends 2).1
  · have : (s.teams.any fun t => t.grid == g.id && t.state == .resident && t.save.isNone) = false := by
      simpa [Option.isNone_iff_eq_none] using hsaved
    simp only [State.stopGrid, this, Bool.false_eq_true, if_false]
    exact (t.ends 1).1

theorem Turning.stopLate_iff (hc : s.cleanSet x.ctx [g.job] = false) :
    s.stopLate x = true ↔ bits s.sys.stoplim 0 32 ≠ 0 ∧ x.began + 1000 * bits s.sys.stoplim 0 32 ≤ s.time.ns := by
  have h : s.stopLate x = true ↔ fld s.sys.stoplim 0 32 ≠ 0 ∧ x.began + 1000 * fld s.sys.stoplim 0 32 ≤ s.time.ns := by
    simp [State.stopLate, t.sets, hc]
  exact h

/-- A set that is not clean has a team of the grid that is not. -/
theorem Turning.bad (hc : s.cleanSet x.ctx [g.job] = false) : (s.teams.any fun y => y.grid == g.id && !s.cleanTeam y) = true := by
  simp only [State.cleanSet, t.gridsOf, List.map_cons, List.map_nil] at hc
  simpa using hc

theorem Turning.stopLimit_ends (hc : s.cleanSet x.ctx [g.job] = false) (h0 : bits s.sys.stoplim 0 32 ≠ 0)
    (hlate : x.began + 1000 * bits s.sys.stoplim 0 32 ≤ s.time.ns) :
    ∃ s', exec (.stopLimit x.ctx g.job) s = .next s' ∧ (s'.grid g.id).status = some 2 := by
  have hl : s.stopLate x = true := (t.stopLate_iff hc).2 ⟨h0, hlate⟩
  refine ⟨_, ?_, (t.ends 2).1⟩
  simp [exec, execStopLimit, t.stopOf, hl, t.sets, t.gridsOf, t.bad hc]

theorem Turning.stopLimit_waits (hc : s.cleanSet x.ctx [g.job] = false)
    (h : bits s.sys.stoplim 0 32 = 0 ∨ s.time.ns < x.began + 1000 * bits s.sys.stoplim 0 32) : exec (.stopLimit x.ctx g.job) s = .next s := by
  have hl : s.stopLate x = false := by
    rw [Bool.eq_false_iff, ne_eq, t.stopLate_iff hc]
    omega
  simp [exec, execStopLimit, t.stopOf, hl]

end Turning

/-- Settles O54: each unit by its own lemmas; the completion word by what a walk and a write at the home do where nothing is held back. -/
theorem gridEnds : Obligations.GridEnds := by
  intro s g
  refine ⟨fun hg hlive hopen hteams hover hbobbins hcmds hl1 hupd => ?_,
    fun st h hr => ⟨gridComplete_noWord h hr, fun pa hw hlt hc => ?_, fun c => ?_⟩,
    fun st rep h hr hrg hrc hrt hlog => ⟨fun ans hans => ?_, fun pa hw hlt hc => ?_⟩, fun h hg hctx hfirst hsecond hjobs hsource hedge hs => ?_,
    fun x hx hg hctx hjobs hsets hlive hl1 hupd => ?_⟩
  · exact exec_gridComplete_over hg hlive hopen ((teamsDone_iff s g).2 ⟨hteams, hover, hbobbins, by simp [hcmds]⟩) hl1 hupd
  · exact gridComplete_word h hr hw hlt hc
  · exact gridComplete_fault h hr
  · exact answer_leaves h hr hrg hrc hrt hlog ans hans
  · exact answer_replays h hr hrg hrc hrt hlog hw hlt hc
  · exact (Chain.mk hg hctx hfirst hsecond hjobs hsource hedge).jobStop_begins hs
  · have t : Turning s x g := ⟨hx, hg, hctx, hjobs, hsets, hlive, hl1, hupd⟩
    exact ⟨t.jobStop_ends, fun hc => ⟨t.exec_unclean hc, t.stopLimit_ends hc, t.stopLimit_waits hc⟩⟩

end Sys2Proof.Machine
end

section
namespace Sys2Proof.Machine
open Sys2Proof.Claim

/-! ### A load of a line that the L1 holds (05/R116, 17/R368), in a lane that is no lane of a group -/

/-- The line at address 0, all of its bytes valid. -/
def lineAtZero : L1Line :=
  { core := 0, ctx := 0, line := 0, pa := 0, node := 0, apt := 0, w := true, comp := false, hot := false, valid := 2 ^ 128 - 1, dirty := 0
    data := 0, level := 3, leaf := 0#64, prio := 0, used := 0, bad := false, stored := [] }

/-- The stray thread alone issues, on a core whose L1 holds the line at address 0. -/
def strayCached : State := { strayState with ops := [], l1 := [lineAtZero] }

theorem strayCached_alone : Alone strayCached plainPre strayThread where
  listed := by decide +kernel
  issued := by decide +kernel
  form := by decide +kernel
  passes := by decide +kernel
  alone := by decide +kernel
  ready := by decide +kernel
  stands := fun h => absurd h (by decide)

theorem strayCached_unlogged : Unlogged strayCached strayThread where
  none := fun _ h => absurd h List.not_mem_nil
  late := fun _ h => absurd h List.not_mem_nil
  free := by decide +kernel

theorem strayCached_unmoved : ((strayCached.settle strayCached.issue).thread strayThread.id).pc = strayThread.pc := by decide +kernel

/-- Refutes O18: nothing in its hypotheses bounds a thread's lane, and the lanes of a load act in turn, lanes 0 to 31 only; so a thread in
lane 32 does not pass its load of a good line with every byte valid. The clause fails for want of a bound on the lane, as those of O52 and
O53 do, not for what a load does in a lane of a group. -/
theorem not_cachedAccesses : ¬ Obligations.CachedAccesses := by
  intro h
  obtain ⟨load, -⟩ := h plainPre .s32 .th .none false 254 255 0 0 strayCached strayThread lineAtZero strayCached_alone strayCached_unlogged
    (by decide +kernel) (by decide +kernel) (by decide +kernel) (by decide +kernel) rfl (fun _ hu => absurd hu List.not_mem_nil)
  obtain ⟨s', hs, hpassed, -⟩ := load (by decide) (by decide +kernel) (by decide +kernel)
  have hexec : exec (.ld plainPre .g .s32 .none .th .none false 254 255 0) strayCached = .next (strayCached.settle strayCached.issue) :=
    congrArg Host.Outcome.next (foldLanes_of_lanes_ge strayCached plainPre _ rfl (by decide +kernel))
  rw [hexec] at hs
  obtain rfl := Host.Outcome.next.inj hs
  have hpc := hpassed.pc
  rw [strayCached_unmoved] at hpc
  exact absurd hpc (by decide)

end Sys2Proof.Machine
end

section
namespace Sys2Proof.Machine
open Sys2Proof.Claim

/-! ### Fields of little-endian numbers -/

theorem leNat_take : ∀ (l : List Byte) (k : Nat), leNat (l.take k) = leNat l % 2 ^ (8 * k)
  | [], k => by simp [leNat]
  | b :: l, 0 => by simp [leNat, Nat.mod_one]
  | b :: l, k + 1 => by
    have hb : (b.toNat + 256 * leNat l) % 256 = b.toNat ∧ (b.toNat + 256 * leNat l) / 256 = leNat l := by have := b.isLt; omega
    rw [List.take_succ_cons, leNat, leNat, leNat_take l k, Nat.mul_succ, Nat.add_comm (8 * k), pow_add, Nat.mod_mul, show 2 ^ 8 = 256 from rfl, hb.1,
      hb.2]

theorem leNat_drop : ∀ (l : List Byte) (i : Nat), leNat (l.drop i) = leNat l / 2 ^ (8 * i)
  | [], i => by simp [leNat]
  | b :: l, 0 => by simp
  | b :: l, i + 1 => by
    have hb : (b.toNat + 256 * leNat l) / 256 = leNat l := by have := b.isLt; omega
    rw [List.drop_succ_cons, leNat, leNat_drop l i, Nat.mul_succ, Nat.add_comm (8 * i), pow_add, ← Nat.div_div_eq_div_mul, show 2 ^ 8 = 256 from rfl, hb]

/-- A field of whole bytes of a little-endian number is the number of those bytes. -/
theorem bitsAt_leNat (l : List Byte) (i k : Nat) : bitsAt (leNat l) (8 * i) (8 * k) = leNat ((l.drop i).take k) := by
  rw [leNat_take, leNat_drop, bitsAt]

theorem memRead_drop (m : Memory) : ∀ (n a i : Nat), (memRead m a n).drop i = memRead m (a + i) (n - i)
  | n, a, 0 => rfl
  | 0, a, i + 1 => by simp [memRead]
  | n + 1, a, i + 1 => by rw [memRead, List.drop_succ_cons, memRead_drop m n (a + 1) i, Nat.add_sub_add_right, Nat.add_assoc, Nat.add_comm 1]
theorem memRead_take (m : Memory) : ∀ (n a k : Nat), k ≤ n → (memRead m a n).take k = memRead m a k
  | n, a, 0, _ => rfl
  | n + 1, a, k + 1, h => by rw [memRead, List.take_succ_cons, memRead_take m n (a + 1) k (by omega), memRead]

/-- A field of whole bytes of a line is the number that memory holds there. -/
theorem bitsAt_memRead (m : Memory) (a n i k : Nat) (h : i + k ≤ n) : bitsAt (leNat (memRead m a n)) (8 * i) (8 * k) = number m (a + i) k := by
  rw [bitsAt_leNat, memRead_drop, memRead_take _ _ _ _ (by omega), leNat_memRead]

theorem lineGet_toNat (d i : Nat) : (lineGet d i).toNat = bitsAt d (8 * i) 8 := by
  rw [lineGet, BitVec.toNat_ofNat]; exact Nat.mod_mod ..

/-- The bytes of a line read from it are a field of it. -/
theorem leNat_lineRead (d : Nat) : ∀ n i, leNat (lineRead d i n) = bitsAt d (8 * i) (8 * n)
  | 0, i => by simp [lineRead, leNat, bitsAt, Nat.mod_one]
  | n + 1, i => by
    rw [lineRead, leNat, leNat_lineRead d n, lineGet_toNat]
    simp only [bitsAt]
    rw [Nat.mul_succ, Nat.mul_succ, Nat.add_comm (8 * n), pow_add 2 8, Nat.mod_mul, Nat.div_div_eq_div_mul, ← pow_add]
    rfl

/-- A number is made of its elements. -/
theorem sum_elements (w d : Nat) : ∀ n, ((List.range n).map fun k => bitsAt d (w * k) w * 2 ^ (w * k)).sum = d % 2 ^ (w * n)
  | 0 => by simp [Nat.mod_one]
  | n + 1 => by
    rw [List.range_succ, List.map_append, List.sum_append, sum_elements w d n, List.map_singleton, List.sum_singleton, bitsAt, Nat.mul_succ, pow_add,
      Nat.mod_mul, Nat.mul_comm (2 ^ (w * n))]

/-! ### Signed numbers of w bits -/

theorem toInt_wrapTo (w : Nat) (hw : 0 < w) (y : Int) : toInt true w (wrapTo w y) = y.bmod (2 ^ w) := by
  obtain ⟨k, rfl⟩ : ∃ k, w = k + 1 := ⟨w - 1, by omega⟩
  have hpow : (2 : Int) ^ (k + 1) = 2 * 2 ^ k := by rw [pow_succ, Int.mul_comm]
  have h0 : 0 ≤ y % (2 ^ (k + 1) : Nat) := Int.emod_nonneg _ (by positivity)
  have hlt : y % (2 ^ (k + 1) : Nat) < (2 ^ (k + 1) : Nat) := Int.emod_lt_of_pos _ (by positivity)
  have hself : wrapTo (k + 1) y % 2 ^ (k + 1) = wrapTo (k + 1) y := Nat.mod_eq_of_lt (by rw [wrapTo]; omega)
  have hval : (wrapTo (k + 1) y : Int) = y % (2 ^ (k + 1) : Nat) := Int.toNat_of_nonneg h0
  rw [toInt, hself, Int.bmod_def, ← hval, Nat.add_sub_cancel]
  push_cast
  simp only [Bool.true_and, decide_eq_true_eq, ← Int.ofNat_le, Nat.cast_pow, Nat.cast_ofNat]
  rw [hpow]
  split <;> split <;> omega

theorem wrapTo_lt (w : Nat) (y : Int) : wrapTo w y < 2 ^ w := by
  have h0 : 0 ≤ y % (2 ^ w : Nat) := Int.emod_nonneg _ (by positivity)
  have hlt : y % (2 ^ w : Nat) < (2 ^ w : Nat) := Int.emod_lt_of_pos _ (by positivity)
  rw [wrapTo]; omega

/-- A number and the difference from it to another, taken as a signed number of b bits where it fits them, give the other back. -/
theorem wrapTo_add_delta (w b x y : Nat) (hb : 0 < b) (hbw : b ≤ w) (hy : y < 2 ^ w)
    (hlow : -(2 ^ (b - 1) : Int) ≤ toInt true w (wrapTo w ((y : Int) - x))) (hhigh : toInt true w (wrapTo w ((y : Int) - x)) < 2 ^ (b - 1)) :
    wrapTo w ((x : Int) + toInt true b (wrapTo b ((y : Int) - x))) = y := by
  rw [toInt_wrapTo w (by omega)] at hlow hhigh
  obtain ⟨c, rfl⟩ : ∃ c, b = c + 1 := ⟨b - 1, by omega⟩
  have hpow : (2 : Int) ^ (c + 1) = 2 ^ c * 2 := pow_succ ..
  have hsame : ((y : Int) - x).bmod (2 ^ (c + 1)) = ((y : Int) - x).bmod (2 ^ w) := by
    rw [← Int.bmod_bmod_of_dvd (pow_dvd_pow 2 hbw)]
    refine Int.bmod_eq_of_le_mul_two ?_ ?_ <;> push_cast <;> rw [Nat.add_sub_cancel] at * <;> omega
  rw [toInt_wrapTo _ hb, hsame, wrapTo, Int.add_emod, Int.bmod_emod, ← Int.add_emod, add_sub_cancel, Int.emod_eq_of_lt (by omega) (by exact_mod_cast hy),
    Int.toNat_natCast]

/-! ### The encodings of a line (05/R129, R130) -/

theorem lineElem_lt (w d k : Nat) : lineElem w d k < 2 ^ w := Nat.mod_lt _ (Nat.two_pow_pos w)

/-- The base of a line and its deltas, as an encoding stores them. -/
def deltaBytes (w b d : Nat) : List Byte :=
  leBytes (w / 8) (lineElem w d 0) ++ (List.range (1024 / w)).flatMap fun k => leBytes (b / 8) (wrapTo b ((lineElem w d k : Int) - lineElem w d 0))

/-- Element k of a line rebuilt from a base and deltas. -/
def deltaElem (w b : Nat) (l : List Byte) (k : Nat) : Nat :=
  wrapTo w ((recField l 0 (w / 8) : Int) + toInt true b (recField l (w / 8 + b / 8 * k) (b / 8)))

/-- The list of the elements of w bits of a line, packed. -/
def lineFrom (w : Nat) (f : Nat → Nat) : Nat := ((List.range (1024 / w)).map fun k => f k * 2 ^ (w * k)).sum

theorem lineFrom_eq {w d : Nat} {f : Nat → Nat} (hw : w * (1024 / w) = 1024) (hd : d < 2 ^ 1024) (h : ∀ k, k < 1024 / w → f k = lineElem w d k) :
    lineFrom w f = d := by
  rw [lineFrom, List.map_congr_left fun k hk => by rw [h k (List.mem_range.1 hk), lineElem], sum_elements, hw, Nat.mod_eq_of_lt hd]

/-- Chunks of one length: the list without the first of them. -/
theorem drop_flatMap_of_length {α : Type} (f : α → List Byte) (n : Nat) (hf : ∀ x, (f x).length = n) :
    ∀ (l : List α) (k : Nat), (l.flatMap f).drop (n * k) = (l.drop k).flatMap f
  | l, 0 => rfl
  | [], k + 1 => by simp
  | x :: l, k + 1 => by
    rw [List.flatMap_cons, Nat.mul_succ, Nat.add_comm, ← List.drop_drop, List.drop_left' (hf x), drop_flatMap_of_length f n hf l k, List.drop_succ_cons]

theorem take_drop_flatMap_range (f : Nat → List Byte) (n m k : Nat) (hf : ∀ x, (f x).length = n) (hk : k < m) :
    (((List.range m).flatMap f).drop (n * k)).take n = f k := by
  rw [drop_flatMap_of_length f n hf, List.drop_eq_getElem_cons (by simpa using hk), List.getElem_range, List.flatMap_cons, List.take_left' (hf k)]

section Deltas
variable {w b d : Nat}

theorem deltaBytes_length : (deltaBytes w b d).length = w / 8 + 1024 / w * (b / 8) := by
  simp [deltaBytes, List.length_flatMap, List.map_const']

theorem recField_base (hw : 8 * (w / 8) = w) : recField (deltaBytes w b d) 0 (w / 8) = lineElem w d 0 := by
  rw [recField, List.drop_zero, deltaBytes, List.take_left' (leBytes_length ..), leNat_leBytes, hw, Nat.mod_eq_of_lt (lineElem_lt ..)]

theorem recField_delta (hb : 8 * (b / 8) = b) {k : Nat} (hk : k < 1024 / w) :
    recField (deltaBytes w b d) (w / 8 + b / 8 * k) (b / 8) = wrapTo b ((lineElem w d k : Int) - lineElem w d 0) := by
  rw [recField, deltaBytes, ← List.drop_drop, List.drop_left' (leBytes_length ..), take_drop_flatMap_range _ _ _ _ (fun _ => leBytes_length ..) hk,
    leNat_leBytes, hb, Nat.mod_eq_of_lt (wrapTo_lt ..)]

/-- A line whose elements differ from the first by deltas that fit is rebuilt from them. -/
theorem deltaElem_deltaBytes (hw : 8 * (w / 8) = w) (hb : 8 * (b / 8) = b) (h0 : 0 < b) (hbw : b ≤ w) (h : lineDelta w b d = true) {k : Nat}
    (hk : k < 1024 / w) : deltaElem w b (deltaBytes w b d) k = lineElem w d k := by
  have hfits := List.all_eq_true.1 h k (List.mem_range.2 hk)
  simp only [Bool.and_eq_true, decide_eq_true_eq] at hfits
  rw [deltaElem, recField_base hw, recField_delta hb hk]
  exact wrapTo_add_delta w b _ _ h0 hbw (lineElem_lt ..) hfits.1 hfits.2

end Deltas

theorem lineElem_of_rep {w d k : Nat} (h : lineRep w d = true) (hk : k < 1024 / w) : lineElem w d k = lineElem w d 0 :=
  eq_of_beq (List.all_eq_true.1 h k (List.mem_range.2 hk))

/-- An encoding that fits a line. -/
def EncodingFits (e d : Nat) : Prop :=
  match e with
  | 0 => d = 0
  | 1 => lineRep 32 d = true
  | 2 => lineRep 64 d = true
  | 3 => lineDelta 64 8 d = true
  | 4 => lineDelta 32 8 d = true
  | 5 => lineDelta 64 16 d = true
  | _ => True

theorem lineEncoding_fits (d : Nat) : EncodingFits (lineEncoding d) d := by
  rw [lineEncoding]
  split; · assumption
  split; · assumption
  split; · assumption
  split; · assumption
  split; · assumption
  split; · assumption
  trivial

/-- An encoding stores as many bytes as its size. -/
theorem encodeLine_length (e d : Nat) : (encodeLine e d).length = encodingSize e := by
  match e with
  | 0 => rfl
  | 1 => exact leBytes_length ..
  | 2 => exact leBytes_length ..
  | 3 => exact deltaBytes_length (w := 64) (b := 8)
  | 4 => exact deltaBytes_length (w := 32) (b := 8)
  | 5 => exact deltaBytes_length (w := 64) (b := 16)
  | e + 6 => exact lineRead_length ..

/-- An encoding that fits a line gives it back. -/
theorem decodeLine_encodeLine {e d : Nat} (hd : d < 2 ^ 1024) (h : EncodingFits e d) : decodeLine e (encodeLine e d) = d := by
  match e with
  | 0 => exact h.symm
  | 1 =>
    have hbase : leNat (leBytes 4 (lineElem 32 d 0)) = lineElem 32 d 0 := by rw [leNat_leBytes, Nat.mod_eq_of_lt (lineElem_lt ..)]
    exact lineFrom_eq rfl hd fun k hk => hbase.trans (lineElem_of_rep h hk).symm
  | 2 =>
    have hbase : leNat (leBytes 8 (lineElem 64 d 0)) = lineElem 64 d 0 := by rw [leNat_leBytes, Nat.mod_eq_of_lt (lineElem_lt ..)]
    exact lineFrom_eq rfl hd fun k hk => hbase.trans (lineElem_of_rep h hk).symm
  | 3 => exact lineFrom_eq rfl hd fun k hk => deltaElem_deltaBytes rfl rfl (by decide) (by decide) h hk
  | 4 => exact lineFrom_eq rfl hd fun k hk => deltaElem_deltaBytes rfl rfl (by decide) (by decide) h hk
  | 5 => exact lineFrom_eq rfl hd fun k hk => deltaElem_deltaBytes rfl rfl (by decide) (by decide) h hk
  | e + 6 =>
    have hraw : leNat (lineRead d 0 128) = d := by
      rw [leNat_lineRead, bitsAt, Nat.mul_zero, pow_zero, Nat.div_one, Nat.mod_eq_of_lt hd]
    exact hraw

end Sys2Proof.Machine
end

section
namespace Sys2Proof.Machine
open Sys2Proof.Claim

/-! ### Lists without the elements that meet a test -/

theorem mem_dropBy {α : Type} (p : α → Bool) (l : List α) (x : α) : x ∈ dropBy p l ↔ x ∈ l ∧ ¬p x = true := by
  rw [dropBy, List.mem_filter, Bool.not_eq_true', Bool.not_eq_true]
theorem find?_dropBy {α : Type} (p : α → Bool) (l : List α) : (dropBy p l).find? p = none :=
  List.find?_eq_none.2 fun x hx => ((mem_dropBy p l x).1 hx).2

/-! ### Lines of the L1s by their names (05/R116) -/

/-- What names a line of an L1. -/
def L1Line.name (l : L1Line) : Nat × Nat × Nat := (l.core, l.ctx, l.line)

theorem name_beq (l : L1Line) (core ctx line : Nat) : (l.core == core && l.ctx == ctx && l.line == line) = (l.name == (core, ctx, line)) :=
  Bool.and_assoc ..
theorem line?_eq (s : State) (core ctx line : Nat) : s.line? core ctx line = s.l1.find? fun l => l.name == (core, ctx, line) := by
  simp only [State.line?, name_beq]
theorem setLine_l1 (s : State) (l : L1Line) : (s.setLine l).l1 = putBy (fun x => x.name == l.name) l s.l1 := by
  simp only [State.setLine, name_beq]; rfl
theorem dropLine_l1 (s : State) (core ctx line : Nat) : (s.dropLine core ctx line).l1 = dropBy (fun x => x.name == (core, ctx, line)) s.l1 := by
  simp only [State.dropLine, name_beq]
theorem name_of_line? {s : State} {core ctx line : Nat} {l : L1Line} (h : s.line? core ctx line = some l) : l.name = (core, ctx, line) :=
  eq_of_beq (List.find?_some (line?_eq .. ▸ h) :)

theorem line?_dropLine_same (s : State) (core ctx line : Nat) : (s.dropLine core ctx line).line? core ctx line = none := by
  rw [line?_eq, dropLine_l1, find?_dropBy]
theorem line?_dropLine_ne (s : State) {core ctx line a b c : Nat} (h : (a, b, c) ≠ (core, ctx, line)) :
    (s.dropLine core ctx line).line? a b c = s.line? a b c := by
  rw [line?_eq, line?_eq, dropLine_l1, dropBy, List.find?_filter]
  congr 1
  funext x
  by_cases hx : x.name = (a, b, c) <;> simp [hx, h]
theorem line?_setLine_ne (s : State) {l : L1Line} {a b c : Nat} (h : (a, b, c) ≠ l.name) : (s.setLine l).line? a b c = s.line? a b c := by
  rw [line?_eq, line?_eq, setLine_l1, find?_putBy_ne L1Line.name l _ (Ne.symm h)]

/-! ### L1_EVICTION (05/R116, R118) -/

theorem lineByte_eq_lineGet (d i : Nat) : lineByte d i = lineGet d i := by
  rw [lineByte, lineGet, bitsAt, pow_mul]; rfl

theorem writeBack_clean {s : State} {l : L1Line} (h : l.dirty = 0) (who : Option (Nat × Nat)) : s.writeBack l who = s := if_pos h

section Eviction
variable {s : State} {core ctx line : Nat} {l : L1Line} (h : s.line? core ctx line = some l)
include h

theorem exec_l1Eviction : exec (.l1Eviction core ctx line) s =
    .next (if !s.lineBusy l && !s.lineFilling l then (s.writeBack l none).dropLine core ctx line else s) := by
  obtain ⟨rfl, rfl, rfl⟩ : l.core = core ∧ l.ctx = ctx ∧ l.line = line := by simpa [L1Line.name] using name_of_line? h
  simp only [exec, execL1Eviction, h, State.evictLine]

theorem l1Eviction_stays (hb : s.lineBusy l = true ∨ s.lineFilling l = true) : exec (.l1Eviction core ctx line) s = .next s := by
  rw [exec_l1Eviction h]
  rcases hb with hb | hb <;> simp [hb]

theorem exec_l1Eviction_leaves (hbusy : s.lineBusy l = false) (hfill : s.lineFilling l = false) :
    exec (.l1Eviction core ctx line) s = .next ((s.writeBack l none).dropLine core ctx line) := by
  rw [exec_l1Eviction h, hbusy, hfill]; rfl

theorem l1Eviction_clean (hbusy : s.lineBusy l = false) (hfill : s.lineFilling l = false) (hd : l.dirty = 0) :
    ∃ s', exec (.l1Eviction core ctx line) s = .next s' ∧ SameBytes s s' ∧ s'.line? core ctx line = none ∧
      ∀ a b c, (a, b, c) ≠ (core, ctx, line) → s'.line? a b c = s.line? a b c := by
  refine ⟨s.dropLine core ctx line, ?_, ⟨fun _ => rfl, rfl, rfl⟩, line?_dropLine_same .., fun a b c => line?_dropLine_ne s⟩
  rw [exec_l1Eviction_leaves h hbusy hfill, writeBack_clean hd]

omit h in
/-- The dirty bytes of a good line of a LOCAL page reach its home, and no other line changes. -/
theorem writeBack_local (who : Option (Nat × Nat)) (hd : l.dirty ≠ 0) (hgood : l.bad = false) (hapt : l.apt = 0)
    (hp : Plain s l.pa 128) : (∀ x, memGet (s.writeBack l who).mem x = (lineBytes (l.pa / 128) l.data l.dirty x).getD (memGet s.mem x)) ∧
      ∀ a b c, (a, b, c) ≠ l.name → (s.writeBack l who).line? a b c = s.line? a b c := by
  have hq : Quiet ((s.setSfx l.stored).setLine { l with dirty := 0, stored := [] }) := ⟨hp.upd, hp.det, hp.form⟩
  obtain ⟨s', heq, hw⟩ := homeWriteLine_quiet hq l.ctx (l.pa / 128) l.data l.dirty l.comp (hp.good 0 (by decide))
  have hback : s.writeBack l who = s' := by
    simp only [State.writeBack, if_neg hd, if_neg (Bool.eq_false_iff.1 hgood), if_pos hapt, heq]
  have hl1 : s'.l1 = ((s.setSfx l.stored).setLine { l with dirty := 0, stored := [] }).l1 := (congrArg State.l1 hw.rest :)
  rw [hback]
  refine ⟨hw.bytes, fun a b c hne => ?_⟩
  rw [line?_eq, hl1, ← line?_eq, line?_setLine_ne _ (by exact hne)]
  rfl

theorem l1Eviction_dirty (hbusy : s.lineBusy l = false) (hfill : s.lineFilling l = false) (hd : l.dirty ≠ 0) (hgood : l.bad = false)
    (hapt : l.apt = 0) (hal : l.pa % 128 = 0) (hp : Plain s l.pa 128) :
    ∃ s', exec (.l1Eviction core ctx line) s = .next s' ∧ s'.line? core ctx line = none ∧
      (∀ i, i < 128 → memGet s'.mem (l.pa + i) = if l.dirty.testBit i = true then lineByte l.data i else memGet s.mem (l.pa + i)) ∧
      (∀ x, (x < l.pa ∨ l.pa + 128 ≤ x) → memGet s'.mem x = memGet s.mem x) ∧
      ∀ a b c, (a, b, c) ≠ (core, ctx, line) → s'.line? a b c = s.line? a b c := by
  obtain ⟨hmem, hlines⟩ := writeBack_local none hd hgood hapt hp
  refine ⟨_, exec_l1Eviction_leaves h hbusy hfill, line?_dropLine_same .., fun i hi => ?_, fun x hx => ?_, fun a b c hne => ?_⟩
  · refine (hmem _).trans ?_
    rw [lineBytes, lineByte_eq_lineGet, show (l.pa + i) / 128 = l.pa / 128 by omega, show (l.pa + i) % 128 = i by omega]
    by_cases hb : l.dirty.testBit i = true <;> simp [hb]
  · refine (hmem _).trans ?_
    rw [lineBytes, if_neg (by omega)]; rfl
  · rw [line?_dropLine_ne _ hne, hlines a b c (name_of_line? h ▸ hne)]

end Eviction

/-! ### UPDATE_LINE_MERGE (05/R119, R120) -/

/-- A number with one of its fields replaced. -/
theorem testBit_replace (x lo n v t : Nat) (hv : v < 2 ^ n) :
    (x - bitsAt x lo n * 2 ^ lo + v * 2 ^ lo).testBit t = if lo ≤ t ∧ t < lo + n then v.testBit (t - lo) else x.testBit t := by
  have hx := split_field x lo n
  have hr : x % 2 ^ lo < 2 ^ lo := Nat.mod_lt _ (Nat.two_pow_pos lo)
  have hnew : x - bitsAt x lo n * 2 ^ lo + v * 2 ^ lo = 2 ^ lo * (2 ^ n * (x / 2 ^ (lo + n)) + v) + x % 2 ^ lo := by
    rw [Nat.mul_add] at hx ⊢; rw [Nat.mul_comm (bitsAt _ _ _), Nat.mul_comm v]; omega
  rw [hnew, Nat.testBit_two_pow_mul_add _ hr]
  by_cases h1 : t < lo
  · simp [h1, Nat.testBit_mod_two_pow]
  · rw [if_neg h1, Nat.testBit_two_pow_mul_add _ hv]
    by_cases h2 : t - lo < n
    · rw [if_pos h2, if_pos (by omega)]
    · rw [if_neg h2, if_neg (by omega), Nat.testBit_div_two_pow]; congr 1; omega

theorem testBit_bitsAt (x lo n t : Nat) : (bitsAt x lo n).testBit t = (decide (t < n) && x.testBit (lo + t)) := by
  rw [bitsAt, Nat.testBit_mod_two_pow, Nat.testBit_div_two_pow, Nat.add_comm]

/-- Element j of a number with element k replaced. -/
theorem elemAt_replace (w j k x v : Nat) (hv : v < 2 ^ w) :
    elemAt w j (x - elemAt w k x * 2 ^ (w * k) + v * 2 ^ (w * k)) = if j = k then v else elemAt w j x := by
  refine Nat.eq_of_testBit_eq fun t => ?_
  rw [elemAt, elemAt, testBit_bitsAt, testBit_replace _ _ _ _ _ hv]
  by_cases ht : t < w
  · by_cases hj : j = k
    · subst hj; simp [ht]
    · have hout : ¬(w * k ≤ w * j + t ∧ w * j + t < w * k + w) := by
        rintro ⟨hlow, hhigh⟩
        have h1 : k < j + 1 := Nat.lt_of_mul_lt_mul_left (a := w) (by rw [Nat.mul_succ]; omega)
        have h2 : j < k + 1 := Nat.lt_of_mul_lt_mul_left (a := w) (by rw [Nat.mul_succ]; omega)
        omega
      rw [if_neg hout, if_neg hj, elemAt, testBit_bitsAt]
  · by_cases hj : j = k
    · rw [if_pos hj, decide_eq_false ht, Bool.false_and]
      exact (Nat.testBit_lt_two_pow (hv.trans_le (Nat.pow_le_pow_right (by decide) (by omega)))).symm
    · rw [if_neg hj, elemAt, testBit_bitsAt, decide_eq_false ht, Bool.false_and, Bool.false_and]

theorem elemAt_lt (w j x : Nat) : elemAt w j x < 2 ^ w := Nat.mod_lt _ (Nat.two_pow_pos w)

/-- The elements of a line to which a contribution has been applied: those of its mask are combined, the others are as they were. -/
theorem elemAt_combineGo (op : AtOp) (ty : Tag) (hty : Tag.isAtom ty = true) (mask upd old : Nat) : ∀ n j,
    elemAt (atWidth ty) j (combineGo op ty mask upd (atWidth ty) n old) =
      if j < n ∧ mask.testBit (j * (atWidth ty / 8)) = true then combined op ty (elemAt (atWidth ty) j old) (elemAt (atWidth ty) j upd) 0
      else elemAt (atWidth ty) j old
  | 0, j => by simp [combineGo]
  | n + 1, j => by
    have ih := elemAt_combineGo op ty hty mask upd old n
    have hbit : (bitsAt mask (n * (atWidth ty / 8)) 1 = 1) ↔ mask.testBit (n * (atWidth ty / 8)) = true := by rw [← beq_iff_eq, bitsAt_one]
    have hnew := fun r => atomNew_eq_combined op ty hty (elemAt (atWidth ty) n r) (elemAt (atWidth ty) n upd) 0 (elemAt_lt ..) (elemAt_lt ..)
      (Nat.two_pow_pos _)
    simp only [combineGo, hbit]
    by_cases hj : j = n
    · subst hj
      have hold : elemAt (atWidth ty) j (combineGo op ty mask upd (atWidth ty) j old) = elemAt (atWidth ty) j old := by
        rw [ih, if_neg fun h => Nat.lt_irrefl _ h.1]
      by_cases hb : mask.testBit (j * (atWidth ty / 8)) = true
      · rw [if_pos hb, if_pos ⟨Nat.lt_succ_self j, hb⟩, elemAt_replace _ _ _ _ _ (hnew _).2, if_pos rfl, (hnew _).1, hold]
      · rw [if_neg hb, if_neg fun h => hb h.2, hold]
    · simp only [show j < n + 1 ↔ j < n by omega]
      split
      · rw [elemAt_replace _ _ _ _ _ (hnew _).2, if_neg hj, ih]
      · rw [ih]

theorem bitsAt_mod_two_pow (x lo n top : Nat) (h : lo + n ≤ top) : bitsAt (x % 2 ^ top) lo n = bitsAt x lo n := by
  refine Nat.eq_of_testBit_eq fun t => ?_
  rw [testBit_bitsAt, testBit_bitsAt, Nat.testBit_mod_two_pow]
  by_cases ht : t < n
  · rw [decide_eq_true (show lo + t < top by omega), Bool.true_and]
  · rw [decide_eq_false ht, Bool.false_and, Bool.false_and]

/-- The elements of a line of memory. -/
theorem elemAt_line (m : Memory) (a n j : Nat) (h : n * j + n ≤ 128) : elemAt (8 * n) j (lineOf (memRead m a 128)) = number m (a + n * j) n := by
  rw [elemAt, Nat.mul_assoc, lineOf, bitsAt_memRead m a 128 _ _ h]
theorem number_lineWritten (m : Memory) (a d n j : Nat) (hm : Memory.wf m = true) (h : n * j + n ≤ 128) :
    number (memWrite m a (lineRead d 0 128)) (a + n * j) n = elemAt (8 * n) j d := by
  have hread : memRead (memWrite m a (lineRead d 0 128)) a 128 = lineRead d 0 128 := by
    have := memRead_memWrite (lineRead d 0 128) m a hm
    rwa [lineRead_length] at this
  have hline : leNat (lineRead d 0 128) = d % 2 ^ (8 * 128) := by rw [leNat_lineRead, bitsAt, Nat.mul_zero, pow_zero, Nat.div_one]
  rw [← elemAt_line _ _ _ _ h, hread, lineOf, hline, elemAt, elemAt, bitsAt_mod_two_pow _ _ _ _ (by rw [Nat.mul_assoc]; omega)]

theorem combined_lt (op : AtOp) (ty : Tag) (hty : Tag.isAtom ty = true) (old b : Nat) (ho : old < 2 ^ atWidth ty) (hb : b < 2 ^ atWidth ty) :
    combined op ty old b 0 < 2 ^ atWidth ty := by
  obtain ⟨heq, hlt⟩ := atomNew_eq_combined op ty hty old b 0 ho hb (Nat.two_pow_pos _)
  exact heq ▸ hlt

/-- The line of a contribution's home once it has been applied. -/
def UpdLine.applied (u : UpdLine) (m : Memory) : Nat :=
  combineGo u.op u.ty u.mask u.data (atWidth u.ty) (1024 / atWidth u.ty) (lineOf (memRead m (128 * (u.pa / 128)) 128))

/-- The elements of the line of a contribution's home once it has been applied. -/
theorem number_applied (u : UpdLine) (hty : Tag.isAtom u.ty = true) {m : Memory} (hm : Memory.wf m = true) {n : Nat} (hw : atWidth u.ty = 8 * n)
    (hn : n = 8 ∨ n = 4) {j : Nat} (hj : j < 128 / n) :
    number (memWrite m (128 * (u.pa / 128)) (lineRead (u.applied m) 0 128)) (128 * (u.pa / 128) + n * j) n =
      if u.mask.testBit (n * j) = true then
        combined u.op u.ty (number m (128 * (u.pa / 128) + n * j) n) (u.data / 2 ^ (8 * n * j) % 2 ^ (8 * n)) 0 % 2 ^ (8 * n)
      else number m (128 * (u.pa / 128) + n * j) n := by
  have hfit : n * j + n ≤ 128 ∧ j < 1024 / (8 * n) := by rcases hn with rfl | rfl <;> omega
  have hnew := elemAt_combineGo u.op u.ty hty u.mask u.data (lineOf (memRead m (128 * (u.pa / 128)) 128)) (1024 / (8 * n)) j
  have hlt := combined_lt u.op u.ty hty (number m (128 * (u.pa / 128) + n * j) n) (elemAt (8 * n) j u.data) (hw ▸ number_lt ..) (hw ▸ elemAt_lt ..)
  rw [hw, Nat.mul_div_cancel_left _ (by decide), Nat.mul_comm j, elemAt_line _ _ _ _ hfit.1] at hnew
  rw [hw] at hlt
  rw [number_lineWritten _ _ _ _ _ hm hfit.1, UpdLine.applied, hw, hnew]
  exact if_congr (and_iff_right hfit.2) (Nat.mod_eq_of_lt hlt).symm rfl

/-- The state with an update line's contribution applied at its home. -/
def State.merged (s : State) (u : UpdLine) : State :=
  { s with upd := [], mem := memWrite s.mem (128 * (u.pa / 128)) (lineRead (u.applied s.mem) 0 128) }

theorem merged_mem (s : State) (u : UpdLine) : (s.merged u).mem = memWrite s.mem (128 * (u.pa / 128)) (lineRead (u.applied s.mem) 0 128) := by
  rw [State.merged]

section Merge
variable {s : State} {u : UpdLine} (hu : s.upd = [u]) (hgood : s.lineBad (u.pa / 128) = false)
include hu hgood

theorem updateLineMerge_applies : ∃ s', exec (.updateLineMerge u.core u.ctx u.line) s = .next s' ∧ s'.upd = [] ∧
    s'.mem = memWrite s.mem (128 * (u.pa / 128)) (lineRead (u.applied s.mem) 0 128) := by
  have hgood' : ({ s with upd := [] } : State).lineBad (u.pa / 128) = false := hgood
  have hbook := noteLine_booked (s.merged u) (u.pa / 128) u.comp true
  refine ⟨((s.merged u).noteLine (u.pa / 128) u.comp true).latchWaits, ?_, (congrArg State.upd hbook.rest :), ?_⟩
  · simp only [exec, execUpdateLineMerge, State.mergeOwn, State.mergeAll, hu, dropBy, List.filter, beq_self_eq_true, Bool.and_self, Bool.not_true,
      State.applyUpds, State.applyUpd, hgood', Bool.false_eq_true, if_false, UpdLine.applied, State.merged]
  · rw [State.latchWaits, hbook.mem, merged_mem]

theorem updateLineMerge_combines (hm : Memory.wf s.mem = true) (hty : Tag.isAtom u.ty = true) {n : Nat} (hn : n = if u.ty.is64 then 8 else 4) :
    ∃ s', exec (.updateLineMerge u.core u.ctx u.line) s = .next s' ∧ s'.upd = [] ∧
      (∀ j, j < 128 / n → number s'.mem (u.pa / 128 * 128 + n * j) n =
        if u.mask.testBit (n * j) = true then
          combined u.op u.ty (number s.mem (u.pa / 128 * 128 + n * j) n) (u.data / 2 ^ (8 * n * j) % 2 ^ (8 * n)) 0 % 2 ^ (8 * n)
        else number s.mem (u.pa / 128 * 128 + n * j) n) ∧
      ∀ x, (x < u.pa / 128 * 128 ∨ u.pa / 128 * 128 + 128 ≤ x) → memGet s'.mem x = memGet s.mem x := by
  obtain ⟨s', hs, hupd, hmem⟩ := updateLineMerge_applies hu hgood
  have hw : atWidth u.ty = 8 * n := hn ▸ atWidth_eq u.ty
  have h84 : n = 8 ∨ n = 4 := by rw [hn]; split <;> simp
  refine ⟨s', hs, hupd, fun j hj => ?_, fun x hx => ?_⟩
  · rw [hmem, Nat.mul_comm (u.pa / 128), number_applied u hty hm hw h84 hj]
  · rw [hmem, memGet_memWrite_ne _ _ _ _ (by rw [lineRead_length]; omega)]

end Merge

theorem linesLeave : LinesLeave := by
  intro s core ctx line
  refine ⟨fun l h => ⟨l1Eviction_stays h, l1Eviction_clean h, fun hb hf hd _ hg ha hal hp => l1Eviction_dirty h hb hf hd hg ha hal hp⟩, ?_⟩
  rintro u hu rfl rfl rfl hgood hm hty
  refine updateLineMerge_combines hu hgood hm ?_ rfl
  simp only [List.mem_cons, List.not_mem_nil, or_false] at hty
  rcases hty with h | h | h | h | h <;> rw [h] <;> rfl

end Sys2Proof.Machine
end

section
namespace Sys2Proof.Machine
open Sys2Proof.Claim

/-! ### The encoding of a line as memory holds it (05/R128 to R130) -/

/-- A line of memory. -/
def State.lineNow (s : State) (line : Nat) : Nat := lineOf (memRead s.mem (128 * line) 128)

theorem lineNow_lt (s : State) (line : Nat) : s.lineNow line < 2 ^ 1024 := by
  rw [State.lineNow, lineOf, show 1024 = 8 * 128 from rfl]
  exact (leNat_lt _).trans_eq (by rw [memRead_length])

theorem lineRead_lineNow (s : State) (line : Nat) : lineRead (s.lineNow line) 0 128 = memRead s.mem (128 * line) 128 := by
  refine List.ext_getElem? fun i => ?_
  by_cases hi : i < 128
  · rw [lineRead_getElem? _ _ _ _ hi, memRead_getElem? _ _ _ _ hi, Nat.zero_add, State.lineNow, lineGet_lineOf _ _ _ hi]
  · rw [List.getElem?_eq_none (by rw [lineRead_length]; omega), List.getElem?_eq_none (by rw [memRead_length]; omega)]

theorem encodingNow_raw (s : State) (line : Nat) : s.encodingNow line false = 6 := if_neg Bool.false_ne_true
theorem encodingNow_comp (s : State) (line : Nat) : s.encodingNow line true = lineEncoding (s.lineNow line) := by
  rw [State.encodingNow, if_pos rfl, State.lineNow]
theorem stored_raw (s : State) (line : Nat) : s.stored line 6 = memRead s.mem (128 * line) 128 := by
  rw [← lineRead_lineNow, State.stored, State.lineNow, encodeLine] <;> decide
theorem stored_zero (s : State) (line : Nat) : s.stored line 0 = [] := by rw [State.stored, encodeLine]

section Repeats
variable {s : State} {line v : Nat} (h : repeats s line v)
include h

theorem lineElem_of_repeats {j : Nat} (hj : j < 32) : lineElem 32 (s.lineNow line) j = v :=
  (elemAt_line s.mem (128 * line) 4 j (by omega)).trans (h j hj)

/-- A line of zeros is of encoding 0, and one that repeats another number in every 4 bytes of encoding 1. -/
theorem encodingNow_of_repeats : s.encodingNow line true = if v = 0 then 0 else 1 := by
  rw [encodingNow_comp, lineEncoding]
  by_cases hv : v = 0
  · subst hv
    have hzero : s.lineNow line = 0 := by
      rw [← lineFrom_eq (w := 32) (f := fun _ => 0) rfl (lineNow_lt s line) fun j hj => (lineElem_of_repeats h hj).symm]
      simp [lineFrom]
    rw [if_pos hzero, if_pos rfl]
  · have hne : s.lineNow line ≠ 0 := fun h0 => hv (by
      rw [← lineElem_of_repeats h (j := 0) (by decide), h0, lineElem, bitsAt, Nat.zero_div, Nat.zero_mod])
    have hrep : lineRep 32 (s.lineNow line) = true := List.all_eq_true.2 fun k hk => beq_iff_eq.2 <|
      (lineElem_of_repeats h (List.mem_range.1 hk)).trans (lineElem_of_repeats h (by decide)).symm
    rw [if_neg hne, if_pos hrep, if_neg hv]

end Repeats

/-! ### L2_MISS (05/R126, R127) -/

theorem placeFor_nil (raw : Bool) : placeFor [] raw = some (0, if raw then 2 else 0) := by cases raw <;> decide

/-- A line as it comes into an empty set of its slice. -/
def State.l2Entry (s : State) (line : Nat) (comp written : Bool) : L2Line :=
  let e := s.encodingNow line comp
  { slice := sliceOf (128 * line), set := l2Set line, way := 0, half := if e == 6 then 2 else 0, line := line, enc := e, store := s.stored line e
    dirty := written, comp := comp, prio := 1, used := s.time.cyc }

theorem l2Entry_enc (s : State) (line : Nat) (comp written : Bool) : (s.l2Entry line comp written).enc = s.encodingNow line comp := by
  rw [State.l2Entry]

section Misses
variable {s : State} (line : Nat)

theorem linkBusy_none (h : s.board.mlRetry = []) : s.linkBusy line = false := by simp [State.linkBusy, h]
theorem linkGood_none (h : s.board.mlRetry = []) : s.linkGood line = s := by
  rw [State.linkGood, h]
  show ({ s with board := { s.board with mlRetry := [] } } : State) = s
  rw [← h]

theorem l2Fill_empty (h : s.l2.lines = []) (comp written : Bool) :
    s.l2Fill line comp written = { s with l2 := { s.l2 with lines := [s.l2Entry line comp written] } } := by
  have hset : s.l2.setOf line = [] := by rw [L2.setOf, h, List.filter_nil]
  simp only [State.l2Fill, State.l2Room, hset, placeFor_nil, h, List.nil_append, State.l2Entry]

variable {c w : Bool} (hw : s.l2.want = [(line, c, w)]) (hr : s.board.mlRetry = [])
include hw hr

theorem exec_l2Miss_takes (hm : s.l2.miss = []) :
    exec (.l2Miss line) s = .next { s with l2 := { s.l2 with miss := [(sliceOf (128 * line), line)] } } := by
  simp [exec, execL2Miss, hw, hm, linkBusy_none line hr]

theorem exec_l2Miss_fills (hm : s.l2.miss = [(sliceOf (128 * line), line)]) (hl : s.l2.lines = []) :
    exec (.l2Miss line) s = .next { s with l2 := { s.l2 with want := [], miss := [], lines := [s.l2Entry line c w] } } := by
  have hdone : s.l2Done line = { s with l2 := { s.l2 with want := [], miss := [] } } := by simp [State.l2Done, hw, hm, dropBy]
  have hfill := l2Fill_empty (s := { s with l2 := { s.l2 with want := [], miss := [] } }) line hl c w
  simp only [exec, execL2Miss, hw, hm, linkBusy_none line hr, linkGood_none line hr, hdone, hfill, List.find?_cons, beq_self_eq_true, List.any_cons,
    Bool.true_or, Bool.false_eq_true, if_false, if_true]
  rfl

end Misses

/-! ### L2_LINE_MOVE (05/R128, R131) -/

section Move
variable {s : State} {x : L2Line} (hl : s.l2.lines = [x])
include hl

theorem setL2_only (y : L2Line) (hy : y.line = x.line) : s.setL2 y = { s with l2 := { s.l2 with lines := [y] } } := by
  simp [State.setL2, hl, editBy, hy]

theorem exec_l2LineMove_raw (hc : x.comp = false) (he : x.enc ≠ 6) : exec (.l2LineMove x.line) s =
    .next { s with l2 := { s.l2 with lines := [{ x with enc := 6, half := 2, store := memRead s.mem (128 * x.line) 128 }] } } := by
  have hnone : ((s.l2.setOf x.line).find? fun y => y.way == x.way && y.line != x.line) = none := by
    rw [List.find?_eq_none]
    intro y hy
    rw [L2.setOf, hl] at hy
    rw [List.mem_singleton.1 (List.mem_of_mem_filter hy)]
    simp
  have hset := setL2_only hl { x with enc := 6, half := 2, store := memRead s.mem (128 * x.line) 128 } rfl
  have hnow : s.encodingNow x.line x.comp = 6 := by rw [hc, encodingNow_raw]
  simp only [exec, execL2LineMove, hl, List.find?_cons, beq_self_eq_true, hnow, stored_raw, hnone, if_neg (Ne.symm he), if_true, hset]

theorem exec_l2LineMove_zeros (hc : x.comp = true) (he : x.enc = 6) (hz : repeats s x.line 0) : exec (.l2LineMove x.line) s =
    .next { s with l2 := { s.l2 with lines := [{ x with enc := 0, half := 0, store := [] }] } } := by
  have hset := setL2_only hl { x with enc := 0, half := 0, store := [] } rfl
  have hnow : s.encodingNow x.line x.comp = 0 := by rw [hc, encodingNow_of_repeats hz, if_pos rfl]
  simp only [exec, execL2LineMove, hl, List.find?_cons, beq_self_eq_true, hnow, stored_zero, if_neg (show ¬0 = x.enc by omega),
    if_neg (show ¬0 = 6 by decide), if_pos he, hset]

end Move

/-! ### DDR_WRITE_ACK (05/R127) -/

theorem memGet_memWrite_line (m : Memory) (line d : Nat) (hm : Memory.wf m = true) :
    (∀ i, i < 128 → memGet (memWrite m (128 * line) (lineRead d 0 128)) (128 * line + i) = lineByte d i) ∧
      ∀ x, (x < 128 * line ∨ 128 * line + 128 ≤ x) → memGet (memWrite m (128 * line) (lineRead d 0 128)) x = memGet m x := by
  refine ⟨fun i hi => ?_, fun x hx => memGet_memWrite_ne _ _ _ _ (by rw [lineRead_length]; exact hx)⟩
  rw [memGet_memWrite_bytesAt _ _ _ _ hm, bytesAt, if_pos (Nat.le_add_right ..), Nat.add_sub_cancel_left, lineRead_getElem? _ _ _ _ hi, Nat.zero_add,
    Option.getD_some, lineByte_eq_lineGet]

theorem ddrWriteAck_written {s : State} {w : DdrWrite} (hw : s.l2.writes = [w]) (hm : Memory.wf s.ddr = true) :
    ∃ s', exec (.ddrWriteAck w.line) s = .next s' ∧ SameBytes s s' ∧ s'.l2.writes = [] ∧ s'.l2.lines = s.l2.lines ∧
      (∀ i, i < 128 → memGet s'.ddr (128 * w.line + i) = lineByte w.data i) ∧
      ∀ x, (x < 128 * w.line ∨ 128 * w.line + 128 ≤ x) → memGet s'.ddr x = memGet s.ddr x := by
  obtain ⟨hin, hout⟩ := memGet_memWrite_line s.ddr w.line w.data hm
  have hfind : s.l2.writes.find? (fun y => y.line == w.line) = some w := by rw [hw]; simp
  have hexec : ∃ s', exec (.ddrWriteAck w.line) s = .next s' ∧ SameBytes s s' ∧ s'.l2.writes = s.l2.writes.erase w ∧ s'.l2.lines = s.l2.lines ∧
      s'.ddr = memWrite s.ddr (128 * w.line) (lineRead w.data 0 128) := by
    simp only [exec, execDdrWriteAck, hfind]
    generalize memWrite s.ddr (128 * w.line) (lineRead w.data 0 128) = d
    exact ⟨_, rfl, ⟨fun _ => rfl, rfl, rfl⟩, rfl, rfl, rfl⟩
  obtain ⟨s', hs, hsame, hwrites, hlines, hddr⟩ := hexec
  refine ⟨s', hs, hsame, by rw [hwrites, hw]; simp, hlines, fun i hi => ?_, fun x hx => ?_⟩
  · rw [hddr, hin i hi]
  · rw [hddr, hout x hx]

theorem slicesWork : SlicesWork := by
  intro s line
  refine ⟨fun c w hw hr => ⟨fun hm => ?_, fun hm hl => ?_⟩, fun x hl hx => ?_, fun d hd => ?_, ?_⟩
  · exact ⟨_, exec_l2Miss_takes line hw hr hm, ⟨⟨fun _ => rfl, rfl, rfl⟩, rfl⟩, rfl, rfl, rfl⟩
  · refine ⟨_, _, exec_l2Miss_fills line hw hr hm hl, ⟨⟨fun _ => rfl, rfl, rfl⟩, rfl⟩, rfl, rfl, rfl, rfl, rfl, rfl, rfl, rfl, ?_, ?_, ?_⟩
    · rintro rfl; rw [l2Entry_enc, encodingNow_raw]
    · rintro rfl hz; rw [l2Entry_enc, encodingNow_of_repeats hz, if_pos rfl]
    · rintro v rfl hv hrep; rw [l2Entry_enc, encodingNow_of_repeats hrep, if_neg hv]
  · subst hx
    exact ⟨fun hc he => ⟨_, exec_l2LineMove_raw hl hc he, ⟨⟨fun _ => rfl, rfl, rfl⟩, rfl⟩, rfl⟩,
      fun hc he hz => ⟨_, exec_l2LineMove_zeros hl hc he hz, ⟨⟨fun _ => rfl, rfl, rfl⟩, rfl⟩, rfl⟩⟩
  · exact ⟨encodeLine_length .., decodeLine_encodeLine hd (lineEncoding_fits d)⟩
  · rintro w hw rfl hm
    exact ddrWriteAck_written hw hm

end Sys2Proof.Machine
end

section
namespace Sys2Proof.Machine
open Sys2Proof.Claim

/-! ### TABLE_WALK (06/R133, R139) -/

theorem tlb?_putBy_new (l : List TlbEntry) (p q : TlbEntry → Bool) (e : TlbEntry) (hq : q e = true) (hnone : l.find? q = none)
    (hp : ∀ x, p x = true → q x = true) : (putBy p e l).find? q = some e := by
  induction l with
  | nil => simp [putBy, hq]
  | cons x l ih =>
    have hx : ¬q x = true := List.find?_eq_none.1 hnone x List.mem_cons_self
    have hl : l.find? q = none := List.find?_eq_none.2 fun y hy => List.find?_eq_none.1 hnone y (List.mem_cons_of_mem _ hy)
    rw [putBy, if_neg fun h => hx (hp x h), List.find?_cons_of_neg hx, ih hl]

section Walks
variable {s : State} {cluster ctx va : Nat}

/-- A leaf entered in a TLB that has room for it is found there. -/
theorem tlb?_tlbFill (h : s.tlb? cluster ctx va = none) (hroom : s.tlb.length < 4096) (level : Nat) (leaf : DWord) :
    ∃ e, (s.tlbFill cluster ctx va level leaf).tlb? cluster ctx va = some e ∧ e.level = level ∧ e.leaf = leaf := by
  have hmine : (s.tlb.filter fun x => x.cluster == cluster).length < 4096 := (List.length_filter_le ..).trans_lt hroom
  refine ⟨{ cluster := cluster, ctx := ctx, level := level, vpn := va / 2 ^ pageBits level, leaf := leaf, used := s.time.cyc }, ?_, rfl, rfl⟩
  simp only [State.tlbFill, if_pos hmine, State.tlb?]
  refine tlb?_putBy_new _ _ _ _ (by simp) h fun x hx => ?_
  simp only [Bool.and_eq_true, beq_iff_eq] at hx ⊢
  obtain ⟨⟨⟨hcl, hctx⟩, hlevel⟩, hvpn⟩ := hx
  exact ⟨⟨hcl, hctx⟩, by rw [hvpn, hlevel]⟩

/-- Where no cache of a core holds anything to write, the reverse map alone is changed by its use. -/
theorem revTouch_clean (hupd : s.upd = []) (hl1 : s.l1 = []) (x : Xlat) :
    s.revTouch cluster ctx va x = { s with rev := (s.revTouch cluster ctx va x).rev } := by
  have hdrop : ∀ c p, s.dropAlias cluster c p = s := fun c p => by
    simp only [State.dropAlias, mergeAll_none hupd, State.evictAll, hl1, List.filter_nil, List.foldl_nil]
  have huse : s.revUse cluster ctx va x = { s with rev := (s.revUse cluster ctx va x).rev } := by
    simp only [State.revUse, hdrop, ite_self]
    split
    · rfl
    · split
      · rfl
      · split <;> rfl
  rw [State.revTouch]
  split
  · rfl
  · split
    · exact huse
    · rfl

theorem exec_tableWalk_fault (hva : va < 2 ^ 55) (h : s.tlb? cluster ctx va = none) {c : Nat} (hw : (s.walk ctx va).2 = .fault c) :
    exec (.tableWalk cluster ctx va) s = .next (s.walk ctx va).1 := by
  simp only [exec, execTableWalk, State.translate, if_neg (Nat.not_le.2 hva), h, hw]

theorem exec_tableWalk_leaf (hva : va < 2 ^ 55) (h : s.tlb? cluster ctx va = none) {level : Nat} {leaf : DWord}
    (hw : (s.walk ctx va).2 = .leaf level leaf) : exec (.tableWalk cluster ctx va) s =
      .next (((s.walk ctx va).1.tlbFill cluster ctx va level leaf).revTouch cluster ctx va (leafXlat level leaf va)) := by
  simp only [exec, execTableWalk, State.translate, if_neg (Nat.not_le.2 hva), h, hw]

theorem tableWalk_fills (hs : Settled s) (hl1 : s.l1 = []) (hva : va < 2 ^ 55) (h : s.tlb? cluster ctx va = none) (hroom : s.tlb.length < 4096) :
    ∃ s', exec (.tableWalk cluster ctx va) s = .next s' ∧ (∀ x, memGet s'.mem x = memGet s.mem x) ∧
      (∀ lvl leaf, (s.walk ctx va).2 = .leaf lvl leaf → ∃ e, s'.tlb? cluster ctx va = some e ∧ e.level = lvl ∧ e.leaf = leaf) ∧
      (∀ c, (s.walk ctx va).2 = .fault c → s'.tlb = s.tlb) := by
  have hbook := (walk_booked hs hs rfl rfl (fun _ => rfl) ctx va).1
  have hrest : (s.walk ctx va).1.upd = s.upd ∧ (s.walk ctx va).1.l1 = s.l1 ∧ (s.walk ctx va).1.tlb = s.tlb := by
    rw [hbook.rest]; exact ⟨rfl, rfl, rfl⟩
  obtain ⟨hupd', hl1', htlb'⟩ := hrest
  cases hw : (s.walk ctx va).2 with
  | fault c => exact ⟨_, exec_tableWalk_fault hva h hw, fun x => by rw [hbook.mem], fun _ _ h => (nomatch h), fun _ _ => htlb'⟩
  | leaf level leaf =>
    have hclean := revTouch_clean (s := (s.walk ctx va).1.tlbFill cluster ctx va level leaf) (cluster := cluster) (ctx := ctx) (va := va)
      (hupd'.trans hs.1) (hl1'.trans hl1) (leafXlat level leaf va)
    have hfill := tlb?_tlbFill (s := (s.walk ctx va).1) (cluster := cluster) (ctx := ctx) (va := va) (by rw [State.tlb?, htlb']; exact h)
      (htlb' ▸ hroom) level leaf
    rw [exec_tableWalk_leaf hva h hw, hclean]
    refine ⟨_, rfl, fun x => congrArg (memGet · x) hbook.mem, fun lvl lf heq => ?_, fun _ h => (nomatch h)⟩
    obtain ⟨rfl, rfl⟩ := Walk.leaf.inj heq
    exact hfill

end Walks

/-! ### Invalidations begun (06/R140) -/

theorem evictLine_clean {s : State} {l : L1Line} (h : l.dirty = 0) (who : Option (Nat × Nat)) :
    s.evictLine l who = { s with l1 := s.l1.filter fun x => !(x.name == l.name) } := by
  rw [State.evictLine, writeBack_clean h, State.dropLine]
  simp only [name_beq]
  rfl

/-- Clean lines that leave are dropped. -/
theorem foldl_evictLine_clean (who : Option (Nat × Nat)) : ∀ (d : List L1Line) (s : State), (∀ l ∈ d, l.dirty = 0) →
    d.foldl (fun s l => s.evictLine l who) s = { s with l1 := s.l1.filter fun x => !(d.any fun l => x.name == l.name) }
  | [], s, _ => by simp
  | l :: d, s, h => by
    rw [List.foldl_cons, evictLine_clean (h l List.mem_cons_self), foldl_evictLine_clean who d _ fun x hx => h x (List.mem_cons_of_mem _ hx)]
    simp only [List.filter_filter, List.any_cons, Bool.not_or, Bool.and_comm]

theorem evictAll_clean {s : State} (h : CleanL1 s) (p : Nat → Nat → Bool) (who : Option (Nat × Nat)) :
    s.evictAll (fun l => p l.ctx l.line) who = { s with l1 := dropBy (fun l => p l.ctx l.line) s.l1 } := by
  rw [State.evictAll, foldl_evictLine_clean who _ _ fun l hl => h l (List.mem_of_mem_filter hl), dropBy]
  congr 1
  refine List.filter_congr fun x hx => ?_
  have hany : ((s.l1.filter fun l => p l.ctx l.line).any fun l => x.name == l.name) = p x.ctx x.line := by
    rw [Bool.eq_iff_iff, List.any_eq_true]
    constructor
    · rintro ⟨l, hl, hname⟩
      obtain ⟨-, hctx, hline⟩ : x.core = l.core ∧ x.ctx = l.ctx ∧ x.line = l.line := by simpa [L1Line.name] using hname
      rw [hctx, hline]
      exact (List.mem_filter.1 hl).2
    · exact fun hp => ⟨x, List.mem_filter.2 ⟨hx, hp⟩, by simp⟩
  rw [hany]

/-- What every invalidation does: it drops entries and lines, and stands under a number of its own. -/
def Begun (s s' : State) (mode ctx : Nat) : Prop :=
  SameBytes s s' ∧ (∃ i, s'.invs = s.invs ++ [i] ∧ i.id = s.fresh ∧ i.mode = mode ∧ i.move = none ∧ (mode ≠ 2 → i.ctx = ctx)) ∧
    s' = { s with tlb := s'.tlb, rev := s'.rev, l1 := s'.l1, invs := s'.invs, fresh := s.fresh + 1 }

section Invalidate
variable {s : State} (hupd : s.upd = []) (hclean : CleanL1 s)
include hupd hclean

/-- An invalidation begun where no L1 holds a dirty byte drops what it names, and stands. -/
theorem beginInval_clean (mode size ctx vpn : Nat) :
    let i : Inval := { id := s.fresh, mode := mode, size := size, ctx := ctx, vpn := vpn, move := none }
    let lines := fun (c l : Nat) => i.names c && (mode != 0 || lineIn size vpn l)
    s.beginInval mode size ctx vpn none =
      { s with tlb := dropBy (fun e => i.names e.ctx && (mode != 0 || entryIn size vpn e)) s.tlb
               rev := dropBy (fun r => lines r.ctx (r.page * 512)) s.rev, l1 := dropBy (fun l => lines l.ctx l.line) s.l1
               invs := s.invs ++ [i], fresh := s.fresh + 1 } := by
  intro i lines
  have hev := evictAll_clean hclean lines none
  simp only [State.beginInval, State.invalidateFor, State.invalidate, mergeAll_none hupd]
  rw [hev]

theorem beginInval_spec (mode size ctx vpn : Nat) : ∃ s', s.beginInval mode size ctx vpn none = s' ∧ Begun s s' mode ctx ∧
    (∀ e, e ∈ s'.tlb ↔ e ∈ s.tlb ∧ ¬((mode = 2 ∨ e.ctx = ctx) ∧ (mode ≠ 0 ∨ entryIn size vpn e = true))) ∧
    (∀ l, l ∈ s'.l1 ↔ l ∈ s.l1 ∧ ¬((mode = 2 ∨ l.ctx = ctx) ∧ (mode ≠ 0 ∨ lineIn size vpn l.line = true))) := by
  refine ⟨_, beginInval_clean hupd hclean mode size ctx vpn,
    ⟨⟨fun _ => rfl, rfl, rfl⟩, ⟨_, rfl, rfl, rfl, rfl, fun _ => rfl⟩, rfl⟩, fun e => ?_, fun l => ?_⟩
  · simp only [mem_dropBy, Inval.names, eq_comm (a := ctx), Bool.and_eq_true, Bool.or_eq_true, beq_iff_eq, bne_iff_ne]
  · simp only [mem_dropBy, Inval.names, eq_comm (a := ctx), Bool.and_eq_true, Bool.or_eq_true, beq_iff_eq, bne_iff_ne]

end Invalidate

/-! #### Entries and lines of a page -/

/-- The address bits of a page of a size (06/R133). -/
theorem pageBits_cases (level : Nat) : (if level = 1 then 42 else if level = 2 then 29 else 16) = pageBits level := rfl

/-- Two blocks of addresses, each aligned to its size, meet where the larger contains the start of the smaller. -/
theorem blocks_meet (p b e v : Nat) : (∃ va, va / 2 ^ p = e ∧ va / 2 ^ b = v / 2 ^ b) ↔ e * 2 ^ p / 2 ^ max b p = v / 2 ^ max b p := by
  have hsplit : ∀ {x y : Nat}, y ≤ x → 2 ^ x = 2 ^ y * 2 ^ (x - y) := fun h => by rw [← pow_add, Nat.add_sub_cancel' h]
  rcases Nat.le_total b p with h | h
  · rw [Nat.max_eq_right h, Nat.mul_div_cancel _ (Nat.two_pow_pos p)]
    constructor
    · rintro ⟨va, rfl, hb⟩
      rw [hsplit h, ← Nat.div_div_eq_div_mul, ← Nat.div_div_eq_div_mul, hb]
    · rintro rfl; exact ⟨v, rfl, rfl⟩
  · rw [Nat.max_eq_left h]
    have hdiv : ∀ va, va / 2 ^ p * 2 ^ p / 2 ^ b = va / 2 ^ b := fun va => by
      rw [hsplit h, ← Nat.div_div_eq_div_mul, Nat.mul_div_cancel _ (Nat.two_pow_pos p), Nat.div_div_eq_div_mul]
    constructor
    · rintro ⟨va, rfl, hb⟩; rw [hdiv, hb]
    · intro hb; exact ⟨e * 2 ^ p, Nat.mul_div_cancel _ (Nat.two_pow_pos p), hb⟩

/-- The bits of a page of a size, as an invalidation names it. -/
theorem sizeBits_eq {size : Nat} (h : size < 3) : (if size = 0 then 16 else if size = 1 then 29 else 42) = [16, 29, 42].getD size 0 := by
  interval_cases size <;> rfl

theorem entryIn_iff_covers {size : Nat} (h : size < 3) (vpn : Nat) (e : TlbEntry) :
    entryIn size vpn e = true ↔ covers e ([16, 29, 42].getD size 0) vpn := by
  rw [covers, pageBits_cases, blocks_meet, entryIn, sizeBits_eq h, beq_iff_eq]

theorem lineIn_iff {size : Nat} (h : size < 3) (vpn line : Nat) :
    lineIn size vpn line = true ↔ line * 128 / 2 ^ [16, 29, 42].getD size 0 = vpn * 65536 / 2 ^ [16, 29, 42].getD size 0 := by
  rw [lineIn, sizeBits_eq h, beq_iff_eq]

/-! ### TLBINV_RETIRE (06/R140) -/

theorem invReady_iff (s : State) (i : Inval) : s.invReady i = true ↔ ¬commandOut s i := by
  rw [State.invReady, Bool.not_eq_true', ← Bool.not_eq_true, not_iff_not, List.any_eq_true, commandOut]
  refine exists_congr fun r => and_congr_right fun _ => ?_
  cases hr : r.why with
  | cmd k => simp [Inval.names, eq_comm (a := k)]
  | credit k => simp [Inval.names, eq_comm (a := k)]
  | _ => simp

theorem tlbinvRetire_waits {s : State} {i : Inval} (hi : s.invs = [i]) (h : commandOut s i) : exec .tlbinvRetire s = .next s := by
  have hready : ¬s.invReady i = true := fun hr => (invReady_iff s i).1 hr h
  simp only [exec, execTlbinvRetire, hi, List.find?_cons_of_neg hready, List.find?_nil]

theorem tlbinvRetire_retires {s : State} {i : Inval} (hi : s.invs = [i]) (hm : i.move = none) (h : ¬commandOut s i) :
    exec .tlbinvRetire s = .next { s with invs := [] } := by
  have hready : s.invReady i = true := (invReady_iff s i).2 h
  simp [exec, execTlbinvRetire, hi, hready, State.endMigration, hm, dropBy]

theorem tablesFollow : TablesFollow := by
  intro s cluster ctx va vpn
  refine ⟨fun hupd hdet hl1 hva h hroom => tableWalk_fills ⟨hupd, hdet⟩ hl1 hva h hroom, fun hupd hclean => ?_,
    fun i hi hm => ⟨tlbinvRetire_waits hi, tlbinvRetire_retires hi hm⟩, fun h => ?_⟩
  · have hspec := beginInval_spec hupd hclean
    refine ⟨?_, ?_, fun size hsize => ?_, rfl⟩
    · obtain ⟨s', hs, hbegun, htlb, hl1⟩ := hspec 1 0 ctx 0
      exact ⟨s', congrArg Host.Outcome.next hs, hbegun, fun e => by rw [htlb]; simp, fun l => by rw [hl1]; simp⟩
    · obtain ⟨s', hs, ⟨hsame, ⟨i, hi, hid, hmode, hmove, -⟩, hrest⟩, htlb, hl1⟩ := hspec 2 0 0 0
      exact ⟨s', congrArg Host.Outcome.next hs, ⟨hsame, ⟨i, hi, hid, hmode, hmove, fun h => absurd rfl h⟩, hrest⟩,
        List.eq_nil_iff_forall_not_mem.2 fun e => by rw [htlb]; simp, List.eq_nil_iff_forall_not_mem.2 fun l => by rw [hl1]; simp⟩
    · obtain ⟨s', hs, hbegun, htlb, hl1⟩ := hspec 0 size ctx vpn
      have hexec : exec (.tlbinvPage size ctx vpn) s = .next s' := (if_pos hsize).trans (congrArg Host.Outcome.next hs)
      exact ⟨s', hexec, hbegun, fun e => by rw [htlb, ← entryIn_iff_covers hsize]; simp, fun l => by rw [hl1, ← lineIn_iff hsize]; simp⟩
  · simp only [exec, execTlbinvRetire, h, List.find?_nil]

end Sys2Proof.Machine
end

section
namespace Sys2Proof.Machine
open Sys2Proof.Claim

/-! ### Bits of a register that a write sets or clears (19/R416) -/

theorem testBit_masked (mask : Nat) (old v : DWord) (i : Nat) (hi : i < 64) :
    (masked mask old v).toNat.testBit i = if mask.testBit i = true then v.getLsbD i else old.toNat.testBit i := by
  rw [← BitVec.getLsbD, ← BitVec.getLsbD, masked]
  simp only [BitVec.getLsbD_or, BitVec.getLsbD_and, BitVec.getLsbD_not, BitVec.getLsbD_ofNat, hi, decide_true, Bool.true_and]
  cases mask.testBit i <;> simp

theorem getLsbD_w1c (mask : Nat) (old v : DWord) (i : Nat) (hi : i < 64) :
    (w1c mask old v).getLsbD i = (old.getLsbD i && !(mask.testBit i && v.getLsbD i)) := by
  simp only [w1c, BitVec.getLsbD_and, BitVec.getLsbD_not, BitVec.getLsbD_ofNat, hi, decide_true, Bool.true_and, Bool.and_comm (mask.testBit i)]

theorem bits_zeroClears_same (lo n : Nat) (old v : DWord) (h : lo + n ≤ 64) :
    bits (zeroClears lo n old v) lo n = if bits v lo n = 0 then 0 else bits old lo n := by
  rw [zeroClears, fld_eq_bits]
  split
  · rw [bits_setFld_same _ _ _ _ h, Nat.zero_mod]
  · rfl
theorem bits_zeroClears_ne (lo n : Nat) (old v : DWord) (k m : Nat) (h : lo + n ≤ 64) (hd : k + m ≤ lo ∨ lo + n ≤ k) :
    bits (zeroClears lo n old v) k m = bits old k m := by
  rw [zeroClears]
  split
  · exact bits_setFld_ne _ _ _ _ _ _ h hd
  · rfl

/-- The mask of a register's writable bits, as the model writes it. -/
def regMask (n : Nat) : Nat :=
  match n with
  | 0x025 | 0x045 | 0x050 => fieldMask 0 32
  | 0x030 => fieldMask 0 16
  | 0x031 | 0x032 => fieldMask 16 36 + 1
  | 0x033 => fieldMask 16 16 + fieldMask 8 4 + 1
  | 0x042 => fieldMask 13 39 + fieldMask 0 8
  | 0x043 | 0x044 => fieldMask 6 46 + 1
  | 0x047 => fieldMask 12 52 + 3
  | 0x052 | 0x062 => fieldMask 30 34 + 1
  | 0x060 => fieldMask 32 23 + 1
  | 0x070 => fieldMask 15 37 + 1
  | 0x090 | 0x091 => fieldMask 5 50
  | 0x092 => fieldMask 30 25 + 1
  | 0x093 => fieldMask 7 45 + 1
  | _ => 0

/-- The registers that hold one value for the device and have writable bits but for CAPCFG, and those kept per context. -/
def deviceRegs : List Nat := [0x025, 0x030, 0x031, 0x032, 0x033, 0x042, 0x043, 0x044, 0x045, 0x052, 0x070, 0x093]
def contextRegs : List Nat := [0x050, 0x060, 0x062, 0x090, 0x091, 0x092]

theorem testBit_regMask : ∀ n ∈ 0x047 :: deviceRegs ++ contextRegs, ∀ i < 64, (regMask n).testBit i = writable n i := by decide +kernel

theorem beq_capcfg : ∀ n ∈ deviceRegs ++ contextRegs, (n == 0x047) = false := by decide
theorem perContext_device : ∀ n ∈ 0x047 :: deviceRegs, perContext n = false := by decide

/-! ### What the S view shows after a write -/

/-- The S view shows a context's registers from what the context holds, and the others from what the device holds. -/
theorem viewS_congr {s s' : State} {c : Nat} (hsys : s'.sys = s.sys) (hctx : s'.ctx c = s.ctx c) (hcharges : s'.charges = s.charges)
    (hcores : s'.cores = s.cores) (hlog : s'.log = s.log) (m : Nat) : s'.viewS m c = s.viewS m c := by
  simp only [State.viewS, State.buduse, State.chargesOf, State.core, State.logUsed, hsys, hctx, hcharges, hcores, hlog]

theorem ctx_id (s : State) (n : Nat) : (s.ctx n).id = n := by
  rw [State.ctx]
  cases h : s.ctxs.find? fun x => x.id == n with
  | none => rfl
  | some x => exact eq_of_beq (List.find?_some h :)

theorem ctx_editCtx_same (s : State) (n : Nat) (f : Ctx → Ctx) (h : (f (s.ctx n)).id = n) : (s.editCtx n f).ctx n = f (s.ctx n) := by
  have := find?_putBy_same Ctx.id (f (s.ctx n)) s.ctxs
  rw [h] at this
  rw [State.ctx, State.editCtx, this, Option.getD_some]
theorem ctx_editCtx_ne (s : State) {n c : Nat} (f : Ctx → Ctx) (h : (f (s.ctx n)).id = n) (hc : c ≠ n) : (s.editCtx n f).ctx c = s.ctx c := by
  have := find?_putBy_ne Ctx.id (f (s.ctx n)) c (by rw [h]; exact hc.symm) s.ctxs
  rw [h] at this
  rw [State.ctx, State.editCtx, this, State.ctx]

theorem write_id (c : Ctx) (n : Nat) (v : DWord) : (c.write n v).id = c.id := by unfold Ctx.write; split <;> rfl

/-- A write of a device's register shows in no other register. -/
theorem viewS_write_ne (s : State) {n m : Nat} (h : m ≠ n) (c : Nat) (v : DWord) (k : Capture) :
    ({ s with sys := s.sys.write n v, capture := k } : State).viewS m c = s.viewS m c := by
  revert h
  unfold SysRegs.write
  split
  all_goals
    unfold State.viewS
    split <;> simp only [ne_eq, not_true_eq_false, false_implies, implies_true, State.buduse, State.chargesOf, State.core, State.logUsed, State.ctx]

/-- A write of a context's register shows in no other register of any context, and in none of another context. -/
theorem viewS_editCtx_ne (s : State) {n m : Nat} (h : m ≠ n) (ctx c : Nat) (v : DWord) :
    (s.editCtx ctx fun x => x.write n v).viewS m c = s.viewS m c := by
  by_cases hc : c = ctx
  · subst hc
    have hsame := ctx_editCtx_same s c (fun x => x.write n v) ((write_id ..).trans (ctx_id ..))
    revert h
    unfold Ctx.write at hsame ⊢
    split at hsame
    all_goals
      unfold State.viewS
      split <;> simp only [ne_eq, not_true_eq_false, false_implies, implies_true, hsame, State.editCtx_sys, State.buduse, State.chargesOf,
        State.core, State.logUsed, State.editCtx_charges, State.editCtx_cores, State.editCtx_log]
  · exact viewS_congr (s := s) (s' := s.editCtx ctx fun x => x.write n v) (c := c) rfl
      (ctx_editCtx_ne s _ ((write_id ..).trans (ctx_id ..)) hc) rfl rfl rfl m

/-! ### REGISTER_WRITE (19/R416) -/

section Write
variable (s : State) (ctx : Nat) (v : DWord)

/-- The state after a write of a device's register: CAPCFG begins its region anew. -/
def State.wrote (s : State) (n : Nat) (v : DWord) : State :=
  { s with sys := s.sys.write n v, capture := if n = 0x047 then { pos := 0, next := 0, used := [] } else s.capture }

theorem exec_registerWrite_device {n : Nat} (h : n ∈ 0x024 :: 0x036 :: 0x061 :: 0x047 :: deviceRegs) :
    exec (.registerWrite n ctx v) s = .next (s.wrote n v) := by
  have hother : n ≠ 0x026 ∧ n ≠ 0x034 ∧ n ≠ 0x071 ∧ n ≠ 0x072 ∧
      ¬(n = 0x050 ∨ n = 0x060 ∨ n = 0x062 ∨ n = 0x090 ∨ n = 0x091 ∨ n = 0x092) := by
    revert n; decide
  obtain ⟨h26, h34, h71, h72, hctx⟩ := hother
  simp only [exec, execRegisterWrite, if_neg h26, if_neg h34, if_neg h71, if_neg h72, if_neg hctx, State.wrote]

theorem exec_registerWrite_context {n : Nat} (h : n ∈ contextRegs) :
    exec (.registerWrite n ctx v) s = .next (s.editCtx ctx fun c => c.write n v) := by
  have hother : n ≠ 0x026 ∧ n ≠ 0x034 ∧ n ≠ 0x071 ∧ n ≠ 0x072 ∧
      (n = 0x050 ∨ n = 0x060 ∨ n = 0x062 ∨ n = 0x090 ∨ n = 0x091 ∨ n = 0x092) := by
    revert n; decide
  obtain ⟨h26, h34, h71, h72, hctx⟩ := hother
  simp only [exec, execRegisterWrite, if_neg h26, if_neg h34, if_neg h71, if_neg h72, if_pos hctx]

/-- A register that shows its writable bits as they were written shows the others as they were. -/
def Shows (s s' : State) (n c : Nat) (v : DWord) : Prop := ∃ old : DWord, s.viewS n c = old.toNat ∧ s'.viewS n c = (masked (regMask n) old v).toNat

theorem shows_device {n : Nat} (h : n ∈ deviceRegs) : Shows s (s.wrote n v) n ctx v := by
  simp only [deviceRegs, List.mem_cons, List.not_mem_nil, or_false] at h
  rcases h with rfl | rfl | rfl | rfl | rfl | rfl | rfl | rfl | rfl | rfl | rfl | rfl <;> exact ⟨_, rfl, rfl⟩

theorem shows_context {n : Nat} (h : n ∈ contextRegs) : Shows s (s.editCtx ctx fun c => c.write n v) n ctx v := by
  have hsame := ctx_editCtx_same s ctx (fun x => x.write n v) ((write_id ..).trans (ctx_id ..))
  simp only [contextRegs, List.mem_cons, List.not_mem_nil, or_false] at h
  rcases h with rfl | rfl | rfl | rfl | rfl | rfl <;> exact ⟨_, rfl, by rw [State.viewS, hsame]; rfl⟩

variable {s ctx v}

/-- The bits that a write of a register leaves, where none is cleared by writing 1. -/
theorem testBit_of_shows {s' : State} {n : Nat} (h : Shows s s' n ctx v) (hn : n ∈ deviceRegs ++ contextRegs) (i : Nat) (hi : i < 64) :
    (s'.viewS n ctx).testBit i =
      if writable n i = true then v.getLsbD i else (s.viewS n ctx).testBit i && !(n == 0x047 && i == 2 && v.getLsbD 2) := by
  obtain ⟨old, hold, hnew⟩ := h
  rw [hold, hnew, testBit_masked _ _ _ _ hi, testBit_regMask n (List.mem_cons_of_mem _ hn) i hi, beq_capcfg n hn, Bool.false_and, Bool.false_and,
    Bool.not_false, Bool.and_true]

variable (s ctx v)

/-- CAPCFG: a write of 1 to bit 2 clears it (03/R73). -/
theorem testBit_capcfg (i : Nat) (hi : i < 64) : ((s.wrote 0x047 v).viewS 0x047 ctx).testBit i =
    if writable 0x047 i = true then v.getLsbD i else (s.viewS 0x047 ctx).testBit i && !(i == 2 && v.getLsbD 2) := by
  have hview : ((s.wrote 0x047 v).viewS 0x047 ctx).testBit i = (w1c 4 (masked (regMask 0x047) s.sys.capcfg v) v).getLsbD i := rfl
  have hold : s.viewS 0x047 ctx = s.sys.capcfg.toNat := rfl
  have hfour : (4 : Nat).testBit i = decide (i = 2) := by
    rw [show 4 = 2 ^ 2 from rfl, Nat.testBit_two_pow]; exact decide_eq_decide.2 eq_comm
  rw [hview, getLsbD_w1c _ _ _ _ hi, BitVec.getLsbD, testBit_masked _ _ _ _ hi, testBit_regMask 0x047 (by decide) i hi, hfour]
  by_cases h2 : i = 2
  · subst h2; rfl
  · rw [hold, beq_false_of_ne h2, decide_eq_false h2, Bool.false_and, Bool.false_and, Bool.not_false, Bool.and_true, Bool.and_true]

end Write

/-- The registers that a write in the S view sets bits of. -/
theorem registerWrite_sets (s : State) (n ctx : Nat) (v : DWord) (hn : n ∈ deviceRegs ∨ n = 0x047 ∨ n ∈ contextRegs) :
    ∃ s', exec (.registerWrite n ctx v) s = .next s' ∧
      (∀ i, i < 64 → (s'.viewS n ctx).testBit i =
        if writable n i = true then v.getLsbD i else (s.viewS n ctx).testBit i && !(n == 0x047 && i == 2 && v.getLsbD 2)) ∧
      (∀ m c, m ≠ n ∨ (perContext n = true ∧ c ≠ ctx) → s'.viewS m c = s.viewS m c) ∧
      s' = { s with sys := s'.sys, ctxs := s'.ctxs, capture := s'.capture } := by
  have honce : n ∈ 0x047 :: deviceRegs → ¬perContext n = true := fun h => by rw [perContext_device n h]; decide
  rcases hn with hn | rfl | hn
  · refine ⟨s.wrote n v, exec_registerWrite_device s ctx v (by simp [hn]), testBit_of_shows (shows_device s ctx v hn) (by simp [hn]),
      fun m c h => viewS_write_ne s (h.resolve_right fun h => honce (List.mem_cons_of_mem _ hn) h.1) c v _, rfl⟩
  · exact ⟨s.wrote 0x047 v, exec_registerWrite_device s ctx v (by decide), testBit_capcfg s ctx v,
      fun m c h => viewS_write_ne s (h.resolve_right fun h => honce List.mem_cons_self h.1) c v _, rfl⟩
  · refine ⟨s.editCtx ctx fun c => c.write n v, exec_registerWrite_context s ctx v hn, testBit_of_shows (shows_context s ctx v hn) (by simp [hn]),
      fun m c h => ?_, rfl⟩
    rcases h with h | ⟨-, hc⟩
    · exact viewS_editCtx_ne s h ctx c v
    · exact viewS_congr (s := s) (s' := s.editCtx ctx fun x => x.write n v) (c := c) rfl
        (ctx_editCtx_ne s _ ((write_id ..).trans (ctx_id ..)) hc) rfl rfl rfl m

section Cleared
variable (s : State) (ctx : Nat) (v : DWord)

theorem registerWrite_thermstat : ∃ s', exec (.registerWrite 0x024 ctx v) s = .next s' ∧
    s' = { s with sys := { s.sys with thermstat := s'.sys.thermstat } } ∧
    ∀ i, i < 64 → s'.sys.thermstat.getLsbD i = (s.sys.thermstat.getLsbD i && !((i == 32 || i == 33) && v.getLsbD i)) := by
  refine ⟨_, exec_registerWrite_device s ctx v (by decide), rfl, fun i hi => ?_⟩
  have hmask : ∀ i < 64, (fieldMask 32 2).testBit i = (i == 32 || i == 33) := by decide
  exact (getLsbD_w1c (fieldMask 32 2) _ _ i hi).trans (by rw [hmask i hi])

theorem registerWrite_fperr : ∃ s', exec (.registerWrite 0x036 ctx v) s = .next s' ∧
    s' = { s with sys := { s.sys with fperr := s'.sys.fperr } } ∧
    ∀ k, k < 4 → bits s'.sys.fperr (16 * k) 16 = if bits v (16 * k) 16 = 0 then 0 else bits s.sys.fperr (16 * k) 16 := by
  refine ⟨_, exec_registerWrite_device s ctx v (by decide), rfl, fun k hk => ?_⟩
  show bits (zeroClears 0 16 (zeroClears 16 16 (zeroClears 32 16 (zeroClears 48 16 s.sys.fperr v) v) v) v) (16 * k) 16 = _
  interval_cases k <;> simp [bits_zeroClears_same, bits_zeroClears_ne]

theorem registerWrite_detstat : ∃ s', exec (.registerWrite 0x061 ctx v) s = .next s' ∧
    s' = { s with sys := { s.sys with detstat := s'.sys.detstat } } ∧
    bits s'.sys.detstat 0 32 = if bits v 0 32 = 0 then 0 else bits s.sys.detstat 0 32 :=
  ⟨_, exec_registerWrite_device s ctx v (by decide), rfl, bits_zeroClears_same 0 32 s.sys.detstat v (by decide)⟩

end Cleared

/-! ### HOTSEL (02/R57) and OPLOGSTAT (06/R145) -/

/-- The fields of HOTDAT. -/
theorem bits_hotdatOf (e : HotEntry) : bits (hotdatOf (some e)) 28 36 = e.page % 2 ^ 36 ∧ bits (hotdatOf (some e)) 12 16 = e.src % 2 ^ 16 ∧
    bits (hotdatOf (some e)) 0 12 = e.count % 2 ^ 12 := by
  simp only [bits, hotdatOf, BitVec.toNat_ofNat]
  omega

theorem hotsel_toNat (v : DWord) : (BitVec.ofNat 64 (bits v 0 16)).toNat = bits v 0 16 := by
  have := bits_lt v 0 16
  rw [BitVec.toNat_ofNat, Nat.mod_eq_of_lt (by omega)]

/-- HOTSEL written: the selection and what HOTDAT shows of it, with these counters. -/
def State.hotSelected (s : State) (v : DWord) (dat : DWord) (hot : List HotEntry) : State :=
  { s with sys := { s.sys with hotsel := BitVec.ofNat 64 (bits v 0 16), hotdat := dat }, fabric := { s.fabric with hot := hot } }

theorem exec_hotselWrite_clears (s : State) (v : DWord) (h : bits v 31 1 = 1 ∧ bits v 10 6 < 48) : exec (.hotselWrite v) s =
    .next (s.hotSelected v 0#64 (dropBy (fun e => e.port == bits v 10 6 && e.index == bits v 0 10) s.fabric.hot)) := by
  have hgone : (dropBy (fun e : HotEntry => e.port == bits v 10 6 && e.index == bits v 0 10) s.fabric.hot).find?
      (fun e => e.port == bits v 10 6 && e.index == bits v 0 10) = none := find?_dropBy ..
  have hfld : fld v 31 1 = 1 ∧ fld v 10 6 < Config.ports := h
  simp only [exec, execHotselWrite, if_pos hfld, if_pos hfld.2, State.hotEntry, State.hotSelected]
  simp only [fld_eq_bits, hgone, hotdatOf]

theorem exec_hotselWrite_keeps (s : State) (v : DWord) (h : ¬(bits v 31 1 = 1 ∧ bits v 10 6 < 48)) : exec (.hotselWrite v) s =
    .next (s.hotSelected v (hotdatOf (if bits v 10 6 < 48 then s.hotEntry (bits v 10 6) (bits v 0 10) else none)) s.fabric.hot) := by
  have hfld : ¬(fld v 31 1 = 1 ∧ fld v 10 6 < Config.ports) := h
  simp only [exec, execHotselWrite, if_neg hfld, State.hotSelected]
  rfl

theorem hotselWrite_spec (s : State) (ctx : Nat) (v : DWord) :
    ∃ s', exec (.hotselWrite v) s = .next s' ∧ exec (.registerWrite 0x034 ctx v) s = .next s' ∧ s'.sys.hotsel.toNat = bits v 0 16 ∧
      s' = { s with sys := { s.sys with hotsel := s'.sys.hotsel, hotdat := s'.sys.hotdat }, fabric := { s.fabric with hot := s'.fabric.hot } } ∧
      (bits v 10 6 < 48 → bits v 31 1 = 1 → s'.sys.hotdat = 0#64 ∧
        ∀ e, e ∈ s'.fabric.hot ↔ e ∈ s.fabric.hot ∧ ¬(e.port = bits v 10 6 ∧ e.index = bits v 0 10)) ∧
      (¬bits v 31 1 = 1 → s'.fabric.hot = s.fabric.hot ∧ ∀ e, bits v 10 6 < 48 → s.hotEntry (bits v 10 6) (bits v 0 10) = some e →
        bits s'.sys.hotdat 28 36 = e.page % 2 ^ 36 ∧ bits s'.sys.hotdat 12 16 = e.src % 2 ^ 16 ∧ bits s'.sys.hotdat 0 12 = e.count % 2 ^ 12) := by
  by_cases h : bits v 31 1 = 1 ∧ bits v 10 6 < 48
  · have hexec := exec_hotselWrite_clears s v h
    refine ⟨_, hexec, hexec, hotsel_toNat v, rfl, fun _ _ => ⟨rfl, fun e => ?_⟩, fun hn => absurd h.1 hn⟩
    rw [State.hotSelected, mem_dropBy, Bool.and_eq_true, beq_iff_eq, beq_iff_eq]
  · have hexec := exec_hotselWrite_keeps s v h
    refine ⟨_, hexec, hexec, hotsel_toNat v, rfl, fun hp hc => absurd ⟨hc, hp⟩ h, fun _ => ⟨rfl, fun e hport he => ?_⟩⟩
    rw [State.hotSelected, if_pos hport, he]
    exact bits_hotdatOf e

theorem core_editCore_same (s : State) (n : Nat) (f : Core → Core) (h : (f (s.core n)).num = n) : (s.editCore n f).core n = f (s.core n) := by
  have := find?_putBy_same Core.num (f (s.core n)) s.cores
  rw [h] at this
  rw [State.core, State.editCore, this, Option.getD_some]
theorem core_editCore_ne (s : State) {n k : Nat} (f : Core → Core) (h : (f (s.core n)).num = n) (hk : k ≠ n) : (s.editCore n f).core k = s.core k := by
  have := find?_putBy_ne Core.num (f (s.core n)) k (by rw [h]; exact hk.symm) s.cores
  rw [h] at this
  rw [State.core, State.editCore, this, State.core]

/-- A core's log counters where OPLOGSTAT selects it, n entries of its log being in use. -/
def Core.logWritten (c : Core) (v : DWord) (n : Nat) : Core :=
  { c with logFull := if bits v 32 32 = 0 then 0 else c.logFull, logPeak := if bits v 8 8 = 0 then n else c.logPeak }

/-- OPLOGSTAT written. -/
def State.logSelected (s : State) (v : DWord) : State :=
  ({ s with sys := { s.sys with oplogCore := bits v 16 10 } } : State).editCore (bits v 16 10) fun c => c.logWritten v (s.logUsed (bits v 16 10))

theorem exec_oplogstatWrite (s : State) (v : DWord) : exec (.oplogstatWrite v) s = .next (s.logSelected v) := rfl
theorem logSelected_core (s : State) (v : DWord) :
    (s.logSelected v).core (bits v 16 10) = (s.core (bits v 16 10)).logWritten v (s.logUsed (bits v 16 10)) :=
  core_editCore_same _ _ _ (core_num s _)

theorem oplogstatWrite_spec (s : State) (ctx : Nat) (v : DWord) :
    ∃ s', exec (.oplogstatWrite v) s = .next s' ∧ exec (.registerWrite 0x072 ctx v) s = .next s' ∧ s'.sys.oplogCore = bits v 16 10 ∧
      (s'.core (bits v 16 10)).logFull = (if bits v 32 32 = 0 then 0 else (s.core (bits v 16 10)).logFull) ∧
      (bits v 8 8 ≠ 0 → (s'.core (bits v 16 10)).logPeak = (s.core (bits v 16 10)).logPeak) ∧
      s' = { s with sys := { s.sys with oplogCore := bits v 16 10 }, cores := s'.cores } ∧ ∀ k, k ≠ bits v 16 10 → s'.core k = s.core k := by
  refine ⟨_, exec_oplogstatWrite s v, exec_oplogstatWrite s v, rfl, ?_, fun hp => ?_, rfl, fun k hk => core_editCore_ne _ _ (core_num s _) hk⟩
  · rw [logSelected_core, Core.logWritten]
  · rw [logSelected_core, Core.logWritten, if_neg hp]

theorem registersWritten : RegistersWritten := by
  intro s n ctx v
  refine ⟨fun hn => registerWrite_sets s n ctx v ?_, registerWrite_thermstat s ctx v, registerWrite_fperr s ctx v, registerWrite_detstat s ctx v,
    hotselWrite_spec s ctx v, oplogstatWrite_spec s ctx v⟩
  revert n; decide

/-- Settles O55: lines that leave the L1s take their dirty bytes home, the slices store lines so that they can be rebuilt, walks and
invalidations keep the TLBs, and a write sets what its register lets it. -/
theorem memoryAndRegisters : Obligations.MemoryAndRegisters := ⟨linesLeave, slicesWork, tablesFollow, registersWritten⟩

end Sys2Proof.Machine
end


section
namespace Sys2Proof.Machine
open Sys2Proof.Claim

/-! ### A logged store replayed while an earlier access of its thread to the line is put off (06/R146, 11/R246) -/

/-- The state in which one element of an access is put off: an operation of the thread holds it. -/
def State.putOff (s : State) (t : Thread) (flag : Option Nat) (a : Acc) (i va : Nat) : State :=
  { s with
    fresh := s.fresh + 1
    ops := s.ops ++ [{ id := s.fresh, tid := t.id, depth := t.depth, flag := flag, writes := a.pending i, astat := 0#6, src := .late
                       acc := some { a with elems := [(i, va)] }, dead := false }] }

/-- A plain aligned store of one element in `G`. -/
structure Acc.OneStore (a : Acc) (i va : Nat) : Prop where
  elems : a.elems = [(i, va)]
  kind : a.kind = .store
  space : a.sp = .g
  order : a.ord = .none
  formed : a.mis = false
  aligned : va % a.elem = 0

section PutOff
variable {s : State} {t : Thread} {a : Acc} {i va : Nat} {flag : Option Nat}

/-- An element waits behind an access to its line that has been put off (11/R246). -/
theorem runElems_putOff (hlog : s.log = []) (hlate : s.lateLine t a.age a.sp va = true) :
    runElems t a flag { s := s, writes := [], bad := [], late := [], overran := false } [(i, va)] =
      { s := s.putOff t flag a i va, writes := [], bad := [], late := [], overran := false } := by
  have hnone : s.loggedLine t a.age (lineKey a.sp va) = none := by rw [State.loggedLine, hlog]; rfl
  simp only [runElems, hnone, hlate, if_true, State.putOff]

theorem access_putOff (ha : a.OneStore i va) (base : Nat) (hlog : s.log = []) (hlate : s.lateLine t a.age a.sp va = true) :
    s.access base t flag a a.elem va = (s.putOff t flag a i va, false) := by
  simp [State.access, ha.formed, ha.aligned, ha.elems, runElems_putOff hlog hlate, ha.kind, ha.order, State.logFaults]

/-- A store replayed from the log waits as one at issue does. -/
theorem replayLane_putOff (ha : a.OneStore i va) (base : Nat) (hlog : s.log = []) (hthread : s.thread t.id = t)
    (hlate : s.lateLine t a.age a.sp va = true) :
    s.replayLane base { tid := t.id, depth := t.depth, flag := flag, acc := a } = s.putOff t flag a i va := by
  simp [State.replayLane, State.replayOne, State.performLane, ha.order, ha.kind, ha.space, hthread, ha.elems,
    access_putOff (flag := flag) ha base hlog hlate]

/-- The flags of a thread's own level stand nowhere else while its team is not evicted (12/R269, 06/R147). -/
theorem frameFlags_ownLevel (hthread : s.thread t.id = t) (himage : (s.team t.team).image = none) : s.frameFlags t.id t.depth = s := by
  simp [State.frameFlags, hthread, himage]

/-- The state without its log and its reports. -/
def State.unreported (s : State) : State := { s with log := [], reports := [] }

theorem replayEntry_putOff {e : LogEntry} (ha : a.OneStore i va) (hlog : s.log = [e])
    (hlanes : e.lanes = [{ tid := t.id, depth := t.depth, flag := flag, acc := a }]) (hthread : s.thread t.id = t)
    (himage : (s.team t.team).image = none) (hreports : s.reports = []) (hlate : s.unreported.lateLine t a.age a.sp va = true) :
    s.replayEntry e = s.unreported.putOff t flag a i va := by
  have hdrop : ({ s with log := dropBy (fun x => x.id == e.id) s.log } : State) = s.unreported := by
    simp [State.unreported, hlog, dropBy, ← hreports]
  have hlane := replayLane_putOff (s := s.unreported) (flag := flag) ha s.fresh rfl hthread hlate
  rw [State.replayEntry, hdrop, hlanes, List.foldl_cons, List.foldl_nil]
  exact (congrArg (State.frameFlags · t.id t.depth) hlane).trans (frameFlags_ownLevel hthread himage)

/-- REPORT_REPLAY of a report that one entry alone joined: its store is put off anew. -/
theorem exec_reportReplay_putOff {k : ReportKey} {e : LogEntry} (ha : a.OneStore i va)
    (hreports : s.reports = [{ key := k, cmds := [], tids := [], grids := [] }]) (hcause : neverReplayed k.cause = false)
    (hlog : s.log = [e]) (hentry : e.key = k ∧ e.forward = false)
    (hlanes : e.lanes = [{ tid := t.id, depth := t.depth, flag := flag, acc := a }]) (hthread : s.thread t.id = t)
    (himage : (s.team t.team).image = none) (hlate : s.unreported.lateLine t a.age a.sp va = true) :
    exec (.reportReplay k) s = .next ((s.unreported.putOff t flag a i va).offerAgain []).unparkLog.pruneReports := by
  have hreport : s.report? k = some { key := k, cmds := [], tids := [], grids := [] } := by simp [State.report?, hreports]
  have hdropped : (s.dropReport k).reports = [] := by simp [State.dropReport, hreports, dropBy]
  have hreplay : (s.dropReport k).replayEntry e = s.unreported.putOff t flag a i va :=
    replayEntry_putOff (s := s.dropReport k) ha hlog hlanes hthread himage hdropped hlate
  simp [exec, execReportReplay, hreport, hcause, hlog, hentry, hreplay]

end PutOff

/-! #### A frame with two virtual addresses -/

/-- The second virtual address of the word at 0x10008: one page of level 1 higher. -/
def aliasVa : Nat := 2 ^ 42 + 0x10008

/-- A load of the word by its first address, which the device has put off, as 11/R247 lets it. -/
def earlierLoad : Acc :=
  { sp := .g, elems := [(0, 0x10008)], elem := 4, kind := .load false, ty := .n32, ord := .none, sc := .th, hint := .none, d := 1, data := []
    team := 1, pc := 0x10000, words := [], len := .l64, clause := none, size := 4, age := 0 }

/-- A store of 7 by the second address, issued after that load. -/
def laterStore : Acc :=
  { sp := .g, elems := [(0, aliasVa)], elem := 4, kind := .store, ty := .n32, ord := .none, sc := .th, hint := .none, d := 0
    data := leBytes 4 7, team := 1, pc := 0x10008, words := [], len := .l64, clause := none, size := 4, age := 1 }

/-- The report that the store joined: the page of its address was not mapped. -/
def aliasKey : ReportKey := { cluster := 0, ctx := 0, page := aliasVa / 65536, cause := 0x10 }

/-- The thread, at a header that waits for the store's flag. -/
def waitingThread : Thread := { placedThread 1 0 0 with clause := none, run := .logWait }

/-- The store's entry in the log. -/
def aliasEntry : LogEntry :=
  { id := 2, core := 0, ctx := 0, team := 1, slot := 0, pc := 0x10008, cause := 0x10, target := 0
    lanes := [{ tid := placedTid, depth := 0, flag := some 3, acc := laterStore }], key := aliasKey, forward := false, behind := false }

/-- The runtime has mapped the page: context 0's table has two pages of level 1, both of the frames from address 0 on, and the cluster's
TLB holds the second. The load is still put off. -/
def aliasState : State :=
  { State.reset with
    sys := { SysRegs.reset with ctxtab := 0x40001#64 }
    mem := [(0x40000, 0x01#8), (0x40001, 0x50#8), (0x50000, 0x0F#8), (0x50001, 0x04#8), (0x50008, 0x0F#8), (0x50009, 0x04#8)]
    grids := [placedGrid 1], teams := [placedTeam 1 1], threads := [waitingThread]
    ops := [{ id := 1, tid := placedTid, depth := 0, flag := some 2, writes := earlierLoad.pending 0, astat := 0#6, src := .late
              acc := some earlierLoad, dead := false }]
    log := [aliasEntry], reports := [{ key := aliasKey, cmds := [], tids := [], grids := [] }]
    tlb := [{ cluster := 0, ctx := 0, level := 1, vpn := 1, leaf := 0x40F#64, used := 0 }], fresh := 3 }

/-- Both addresses lead to one line, so the store waits for the load. -/
theorem aliasState_lateLine :
    aliasState.unreported.lateLine waitingThread laterStore.age laterStore.sp aliasVa = true := by decide +kernel

theorem laterStore_oneStore : laterStore.OneStore 0 aliasVa where
  elems := rfl
  kind := rfl
  space := rfl
  order := rfl
  formed := rfl
  aligned := by decide

theorem aliasState_replayed : exec (.reportReplay aliasKey) aliasState =
    .next ((aliasState.unreported.putOff waitingThread (some 3) laterStore 0 aliasVa).offerAgain []).unparkLog.pruneReports :=
  exec_reportReplay_putOff laterStore_oneStore rfl (by decide) rfl ⟨rfl, rfl⟩ rfl rfl (by decide +kernel) aliasState_lateLine

theorem aliasState_listed : Listed aliasState waitingThread := ⟨by decide +kernel, by decide +kernel⟩

theorem aliasState_through : Through aliasState 0 0 aliasVa 0x10008 true where
  low := by decide
  hit := ⟨{ cluster := 0, ctx := 0, level := 1, vpn := 1, leaf := 0x40F#64, used := 0 }, by decide +kernel, by decide +kernel, by decide +kernel,
    by decide +kernel, fun _ => by decide +kernel, fun _ h => absurd h List.not_mem_nil⟩

theorem aliasState_homeFree : HomeFree aliasState 0x10008 4 where
  inLine := by decide
  upd := fun _ h => absurd h List.not_mem_nil
  det := fun _ h => absurd h List.not_mem_nil
  good := by decide +kernel
  ready := by decide +kernel

/-- Refutes O41: nothing in its hypotheses says that the thread has no access put off. In the counterexample a load of the word by another
virtual address of its frame is put off (11/R247); the store that is replayed comes after it in program order, so it is put off behind it
(11/R246), and memory does not yet hold its value. The clause fails for want of that hypothesis, not for what a replay does where nothing
is put off. -/
theorem not_faultReports : ¬ Obligations.FaultReports := by
  intro h
  obtain ⟨-, -, logged, -⟩ := h aliasState aliasKey
  obtain ⟨replay, -⟩ := logged waitingThread aliasEntry laterStore aliasVa 0x10008 (some 3) aliasState_listed rfl rfl rfl rfl rfl rfl
    (by decide +kernel) rfl rfl rfl rfl rfl rfl (by decide) (by decide)
  obtain ⟨s', hs, -, -, -, hvalue, -⟩ := replay (by decide) (by decide) (by decide) rfl rfl (by decide +kernel) aliasState_through
    aliasState_homeFree
  obtain rfl := Host.Outcome.next.inj (aliasState_replayed.symm.trans hs)
  have hzero : number aliasState.mem 0x10008 4 = 0 := by decide +kernel
  have hseven : leNat laterStore.data = 7 := by decide
  exact absurd (hzero.symm.trans (hvalue.trans hseven)) (by decide)

end Sys2Proof.Machine
end

section
namespace Sys2Proof.Machine
open Sys2Proof.Claim

/-! ### RECUTQ (07/R171; 18/R396) in a lane that is no lane of a group -/

theorem strayThread_resident : Resident strayState strayThread := ⟨by decide +kernel, by decide +kernel⟩

/-- The stray thread's tensor state 0 names no memory: its class is 0. -/
theorem strayState_onChip : OnChip (tsOf (strayState.tsBytes strayThread.team 0)) (tsOf (strayState.tsBytes strayThread.team 0)) :=
  ⟨by decide +kernel, by decide +kernel⟩

/-- Refutes O27: nothing in its hypotheses bounds a thread's lane, and the lanes of a RECUTQ act in turn, lanes 0 to 31 only; so a thread
in lane 32 does not pass its RECUTQ, and no operation stands that would deliver the word. The clause fails for want of a bound on the lane,
as those of O18, O52 and O53 do, not for what a RECUTQ does in a lane of a group. -/
theorem not_recuts : ¬ Obligations.Recuts := by
  intro h
  obtain ⟨-, query, -⟩ := h plainPre false false none 252 0 0 0 0 strayState strayThread
  obtain ⟨s', -, hs, hpassed, -⟩ := query strayThread_alone strayThread_resident (by decide) (by decide +kernel) strayState_onChip
  have hexec : exec (.recutq plainPre false 252 0 0) strayState = .next (strayState.settle strayState.issue) :=
    congrArg Host.Outcome.next (foldLanes_of_lanes_ge strayState plainPre _ rfl (by decide +kernel))
  rw [hexec] at hs
  obtain rfl := Host.Outcome.next.inj hs
  have hpc := hpassed.pc
  rw [strayThread_unmoved] at hpc
  exact absurd hpc (by decide)

end Sys2Proof.Machine
end

section
namespace Sys2Proof.Machine
open Sys2Proof.Claim

/-! ### Lists of 64 by 64 elements (09/R204, R206) -/

theorem getD_map_of_getElem? {α β : Type} {l : List α} {k : Nat} {x : α} (h : l[k]? = some x) (f : α → β) (y : β) :
    (l.map f).getD k y = f x := by
  rw [List.getD_eq_getElem?_getD, List.getElem?_map, h, Option.map_some, Option.getD_some]
theorem getElem?_map_range {α : Type} (f : Nat → α) {n i : Nat} (hi : i < n) : ((List.range n).map f)[i]? = some (f i) := by
  rw [List.getElem?_map, List.getElem?_range hi, Option.map_some]

/-- Entry (i, j) of rows of equal length, one after the other. -/
theorem getElem?_flatten_of_length {α : Type} {n j : Nat} (hj : j < n) : ∀ (rows : List (List α)) (i : Nat), (∀ r ∈ rows, r.length = n) →
    rows.flatten[n * i + j]? = rows[i]?.bind (·[j]?)
  | [], _, _ => rfl
  | r :: rows, 0, h => by
    have hr : r.length = n := h r (List.mem_cons_self ..)
    rw [List.flatten_cons, Nat.mul_zero, Nat.zero_add, List.getElem?_append_left (hr ▸ hj), List.getElem?_cons_zero, Option.bind_some]
  | r :: rows, i + 1, h => by
    have hr : r.length = n := h r (List.mem_cons_self ..)
    rw [List.flatten_cons, Nat.mul_succ, Nat.add_right_comm, List.getElem?_append_right (by omega), hr, Nat.add_sub_cancel,
      getElem?_flatten_of_length hj rows i fun r hr => h r (List.mem_cons_of_mem _ hr), List.getElem?_cons_succ]

/-- The values of a table: its entry for a row, a column and what stood there, row by row. -/
def tableOf {α β γ : Type} (f : Nat → α → β → γ) (rows : List α) (cols : List β) (prior : List (List Nat)) : List γ :=
  (rows.zip prior).flatMap fun r => (cols.zip r.2).map fun c => f c.2 r.1 c.1

theorem getElem?_tableOf {α β γ : Type} (f : Nat → α → β → γ) {rows : List α} {cols : List β} {prior : List (List Nat)} {i j x : Nat}
    {r : α} {c : β} {p : List Nat} (hcols : cols.length = 64) (hprior : ∀ p ∈ prior, p.length = 64)
    (hr : rows[i]? = some r) (hc : cols[j]? = some c) (hp : prior[i]? = some p) (hx : p[j]? = some x) :
    (tableOf f rows cols prior)[64 * i + j]? = some (f x r c) := by
  have hj : j < 64 := hcols ▸ (List.getElem?_eq_some_iff.1 hc).1
  have hlength : ∀ l ∈ (rows.zip prior).map (fun r => (cols.zip r.2).map fun c => f c.2 r.1 c.1), l.length = 64 := fun l hl => by
    obtain ⟨⟨a, q⟩, hq, rfl⟩ := List.mem_map.1 hl
    rw [List.length_map, List.length_zip, hcols, hprior q (List.of_mem_zip hq).2, Nat.min_self]
  have hrow : (rows.zip prior)[i]? = some (r, p) := List.getElem?_zip_eq_some.2 ⟨hr, hp⟩
  have hcol : (cols.zip p)[j]? = some (c, x) := List.getElem?_zip_eq_some.2 ⟨hc, hx⟩
  rw [tableOf, List.flatMap_def, getElem?_flatten_of_length hj _ _ hlength, List.getElem?_map, hrow, Option.map_some, Option.bind_some,
    List.getElem?_map, hcol, Option.map_some]

theorem tileBy_fst (f : Nat → List Nat → List Nat → Nat × Status) (prior rows cols : List (List Nat)) :
    (tileBy f prior rows cols).1 = (tableOf f rows cols prior).map (·.1) := rfl

theorem getElem?_turn64 (l : List (List Nat)) {i : Nat} (hi : i < 64) : (turn64 l)[i]? = some (l.map fun c => c.getD i 0) :=
  getElem?_map_range _ hi
theorem turn64_length (l : List (List Nat)) : (turn64 l).length = 64 := by rw [turn64, List.length_map, List.length_range]
theorem getElem?_rows64 (l : List Nat) {i : Nat} (hi : i < 64) : (rows64 l)[i]? = some ((l.drop (64 * i)).take 64) :=
  getElem?_map_range _ hi
theorem getElem?_row64 (l : List Nat) (i : Nat) {j : Nat} (hj : j < 64) : ((l.drop (64 * i)).take 64)[j]? = l[64 * i + j]? := by
  rw [List.getElem?_take_of_lt hj, List.getElem?_drop]
theorem rows64_rows {l : List Nat} (hl : l.length = 4096) : ∀ r ∈ rows64 l, r.length = 64 := fun r hr => by
  obtain ⟨i, hi, rfl⟩ := List.mem_map.1 hr
  rw [List.mem_range] at hi
  rw [List.length_take, List.length_drop, hl]; omega

/-- A list in terms of its elements by index. -/
theorem eq_map_range_getD {α : Type} {n : Nat} (d : α) {l : List α} (h : l.length = n) : l = (List.range n).map fun i => l.getD i d := by
  refine List.ext_getElem? fun i => ?_
  by_cases hi : i < n
  · rw [getElem?_map_range _ hi, List.getElem?_eq_getElem (h ▸ hi), List.getD_eq_getElem]
  · rw [List.getElem?_eq_none (by omega), List.getElem?_eq_none (by simpa using hi)]

theorem natsOf_getD (l : List Word) (i : Nat) : (natsOf l).getD i 0 = (l.getD i 0#32).toNat :=
  List.getD_map (l := l) (d := 0#32) BitVec.toNat

/-! ### The elements of a dense tile, of which the nonzero ones are listedElem (09/R204) -/

theorem expand_length : ∀ (n i : Nat) (l : List (Nat × Word)), (expand n i l).length = n
  | 0, _, _ => rfl
  | n + 1, i, [] => by rw [expand, List.length_cons, expand_length]
  | n + 1, i, (k, v) :: l => by rw [expand]; split <;> rw [List.length_cons, expand_length]

/-- The element listed under an index, or 0. -/
def listedElem (l : List (Nat × Word)) (e : Nat) : Nat := ((l.find? fun x => x.1 == e).map (·.2.toNat)).getD 0

theorem listedElem_eq_zero {l : List (Nat × Word)} {e : Nat} (h : ∀ x ∈ l, e < x.1) : listedElem l e = 0 := by
  rw [listedElem, List.find?_eq_none.2 fun x hx => by simpa using (h x hx).ne']; rfl
theorem listedElem_cons_same (e : Nat) (v : Word) (l : List (Nat × Word)) : listedElem ((e, v) :: l) e = v.toNat := by simp [listedElem]
theorem listedElem_cons_ne {k e : Nat} (h : k ≠ e) (v : Word) (l : List (Nat × Word)) : listedElem ((k, v) :: l) e = listedElem l e := by
  simp [listedElem, h]

/-- Elements listed in rising order of index, spread over the places from i on. -/
theorem expand_getD : ∀ (n i k : Nat) (l : List (Nat × Word)), (l.map (·.1)).Pairwise (· < ·) → (∀ x ∈ l, i ≤ x.1) → k < n →
    (expand n i l).getD k 0 = listedElem l (i + k)
  | 0, _, _, _, _, _, hk => absurd hk (Nat.not_lt_zero _)
  | n + 1, i, 0, [], _, _, _ => rfl
  | n + 1, i, k + 1, [], _, _, hk => by
    rw [expand, List.getD_cons_succ, expand_getD n (i + 1) k [] List.Pairwise.nil nofun (by omega)]; rfl
  | n + 1, i, k, (e, v) :: l, hl, hi, hk => by
    obtain ⟨hrest, hl'⟩ := List.pairwise_cons.1 hl
    have hrest : ∀ x ∈ l, e < x.1 := fun x hx => hrest x.1 (List.mem_map_of_mem hx)
    have he : i ≤ e := hi _ (List.mem_cons_self ..)
    rw [expand]
    split
    · next heq =>
      subst heq
      cases k with
      | zero => rw [List.getD_cons_zero, Nat.add_zero, listedElem_cons_same]
      | succ k =>
        rw [List.getD_cons_succ, expand_getD n (e + 1) k l hl' hrest (by omega), listedElem_cons_ne (by omega), Nat.add_right_comm, Nat.add_assoc]
    · next hne =>
      have habove : ∀ x ∈ (e, v) :: l, i + 1 ≤ x.1 := List.forall_mem_cons.2 ⟨by dsimp only; omega, fun x hx => by
        have := hrest x hx
        omega⟩
      cases k with
      | zero => rw [List.getD_cons_zero, Nat.add_zero i, listedElem_eq_zero habove]
      | succ k => rw [List.getD_cons_succ, expand_getD n (i + 1) k _ hl habove (by omega), Nat.add_right_comm, Nat.add_assoc]

theorem le_of_mem_sparse {x : Nat × Word} : ∀ {l : List Nat} {i : Nat}, x ∈ sparse i l → i ≤ x.1
  | y :: l, i, h => by
    rw [sparse] at h
    split at h
    · exact Nat.le_of_succ_le (le_of_mem_sparse h)
    · rcases List.mem_cons.1 h with rfl | h
      · exact Nat.le_refl i
      · exact Nat.le_of_succ_le (le_of_mem_sparse h)

theorem listedElem_sparse : ∀ (l : List Nat) (i k : Nat), listedElem (sparse i l) (i + k) = l.getD k 0 % 2 ^ 32
  | [], _, _ => rfl
  | x :: l, i, 0 => by
    rw [sparse, List.getD_cons_zero, Nat.add_zero i]
    split
    · next hx => rw [hx, listedElem_eq_zero fun _ hy => le_of_mem_sparse hy]
    · rw [listedElem_cons_same, BitVec.toNat_ofNat]
  | x :: l, i, k + 1 => by
    rw [sparse, List.getD_cons_succ, ← listedElem_sparse l (i + 1) k, Nat.add_right_comm, ← Nat.add_assoc]
    split
    · rfl
    · rw [listedElem_cons_ne (by omega)]

theorem tileAt_eq (m : MReg) (i j : Nat) : tileAt m i j = listedElem m.dense (64 * i + j) := rfl

theorem tileAt_putDense (m : MReg) (tag : Tag) (l : List Nat) (i j : Nat) : tileAt (m.putDense tag l) i j = l.getD (64 * i + j) 0 % 2 ^ 32 := by
  rw [tileAt_eq, ← listedElem_sparse l 0 (64 * i + j), Nat.zero_add]; rfl

theorem tile_dense {m : MReg} (h : m.form = .dense) : m.tile = (expand 4096 0 m.dense, 0#6) := by rw [MReg.tile, h]
theorem tile_length {m : MReg} (h : m.form = .dense) : m.tile.1.length = 4096 := by rw [tile_dense h, expand_length]

/-- A dense register's tile has its elements row by row. -/
theorem getElem?_tile {m : MReg} (hok : MatOk m) (hform : m.form = .dense) {i j : Nat} (hi : i < 64) (hj : j < 64) :
    m.tile.1[64 * i + j]? = some (tileAt m i j) := by
  rw [MatOk, hform] at hok
  have hlt : 64 * i + j < 4096 := by omega
  have hget := expand_getD 4096 0 (64 * i + j) m.dense hok.1 (fun _ _ => Nat.zero_le _) hlt
  rw [Nat.zero_add, ← tileAt_eq, List.getD_eq_getElem _ _ (by rwa [expand_length])] at hget
  rw [tile_dense hform, List.getElem?_eq_getElem (by rwa [expand_length]), hget]

theorem tileAt_lt (m : MReg) (i j : Nat) : tileAt m i j < 2 ^ 32 := by
  rw [tileAt]
  cases m.dense.find? fun x => x.1 == 64 * i + j with
  | none => exact Nat.two_pow_pos 32
  | some x => exact x.2.isLt

@[simp] theorem tileAt_orStat (m : MReg) (st : Status) (b : Bool) (i j : Nat) : tileAt (m.orStat st b) i j = tileAt m i j := rfl

/-! ### Dot products by fma from +0 (08/R201) -/

theorem ffmaVal_f32_lt (rnd : Rnd) (r16 : Nat) (a b c : FVal) : (ffmaVal f32 rnd r16 a b c).1 < 2 ^ 32 := by
  have hnan : f32.nan < 2 ^ 32 := by decide
  simp only [ffmaVal]
  split
  · exact hnan
  · split
    · exact hnan
    · exact faddVal_f32_lt ..

/-- The value of a dot product: fma, pair by pair, from a pattern on. -/
def fmaFrom (z : Nat) (l : List (Nat × Nat)) : Nat :=
  l.foldl (fun z x => (ffmaVal f32 .rne 0 (fdecode f32 x.1) (fdecode f32 x.2) (fdecode f32 z)).1) z

theorem dotF_value (a b : List Nat) : (dotF a b).1 = fmaFrom 0 (a.zip b) := by
  rw [dotF, fmaFrom]
  exact (List.foldl_hom Prod.fst fun _ _ => rfl).symm

theorem fmaFrom_lt : ∀ (l : List (Nat × Nat)) {z : Nat}, z < 2 ^ 32 → fmaFrom z l < 2 ^ 32
  | [], _, h => h
  | _ :: l, _, _ => fmaFrom_lt l (ffmaVal_f32_lt ..)

theorem dotF_lt (a b : List Nat) : (dotF a b).1 < 2 ^ 32 := dotF_value a b ▸ fmaFrom_lt _ (Nat.two_pow_pos 32)

end Sys2Proof.Machine
end

section
namespace Sys2Proof.Machine
open Sys2Proof.Claim

/-! ### What each operation makes of its destination (09/R209, R210, R212) -/

/-- Row i of a list of columns, or column j of a list of rows. -/
def acrossAt (l : List (List Word)) (i : Nat) : List Nat := l.map fun u => (u.getD i 0#32).toNat

theorem getElem?_turn64_natsOf (l : List (List Word)) {i : Nat} (hi : i < 64) : (turn64 (l.map natsOf))[i]? = some (acrossAt l i) := by
  rw [getElem?_turn64 _ hi, List.map_map]
  exact congrArg some (List.map_congr_left fun u _ => natsOf_getD u i)

theorem zeroTile_row {i : Nat} (hi : i < 64) : zeroTile[i]? = some (List.replicate 64 0) := List.getElem?_replicate_of_lt hi
theorem zeroTile_rows : ∀ p ∈ zeroTile, p.length = 64 := fun p hp => by rw [List.eq_of_mem_replicate hp, List.length_replicate]

/-- A factored register's tile is the product of its columns and rows. -/
theorem tile_factor {m : MReg} (h : m.form = .factor) {i j : Nat} (hi : i < 64) (hj : j < 64) :
    m.tile.1.getD (64 * i + j) 0 = (dotF (acrossAt m.us i) (acrossAt m.vs j)).1 := by
  have hzero : (List.replicate 64 0)[j]? = some 0 := List.getElem?_replicate_of_lt hj
  have hentry := getElem?_tableOf (fun _ r c => dotF r c) (turn64_length _) zeroTile_rows (getElem?_turn64_natsOf m.us hi)
    (getElem?_turn64_natsOf m.vs hj) (zeroTile_row hi) hzero
  have htile : m.tile = tileBy (fun _ r c => dotF r c) zeroTile (turn64 (m.us.map natsOf)) (turn64 (m.vs.map natsOf)) := by rw [MReg.tile, h]
  rw [htile, tileBy_fst, getD_map_of_getElem? hentry]

theorem densify_of_factor {m : MReg} (h : m.form = .factor) (b : Bool) :
    (m.densify b).1 = { (m.putDense .f32 m.tile.1).orStat m.tile.2 true with rko := m.rko || b } := by rw [MReg.densify, h]
theorem densify_of_dense {m : MReg} (h : m.form = .dense) (b : Bool) : m.densify b = (m, false) := by rw [MReg.densify, h]

theorem densify_factor {m : MReg} (h : m.form = .factor) : (m.densify false).1.form = .dense ∧ (m.densify false).1.tag = .f32 ∧
    ∀ i j, i < 64 → j < 64 → tileAt (m.densify false).1 i j = (dotF (acrossAt m.us i) (acrossAt m.vs j)).1 := by
  rw [densify_of_factor h]
  refine ⟨rfl, rfl, fun i j hi hj => ?_⟩
  have hput : tileAt (m.putDense .f32 m.tile.1) i j = _ := tileAt_putDense ..
  rw [tile_factor h hi hj, Nat.mod_eq_of_lt (dotF_lt ..)] at hput
  exact hput

/-- The ranks of one factored register appended to those of another (09/R209). -/
theorem mlradd_factors {m a : MReg} (hm : m.form = .factor) (ha : a.form = .factor) (hrank : m.us.length + a.us.length ≤ 32) :
    (m.mlradd a).1 = m.putFactor (m.us ++ a.us) (m.vs ++ a.vs) := by
  have hplan : m.shape.mlradd a.shape = .ok .append := by
    simp only [MShape.mlradd, MReg.shape, hm, ha, MShape.grow, if_true, if_pos hrank]
  simp only [MReg.mlradd, hm, ha, hplan, reduceCtorEq, if_false]

/-- Integer tiles add modulo 2^32, with no status (09/R209). -/
theorem mlradd_integers {m a : MReg} (hm : m.form = .dense) (ha : a.form = .dense) (hmt : m.tag = .s32) (hat : a.tag = .s32) :
    (m.mlradd a).1 = m.putDense .s32 ((m.tile.1.zip a.tile.1).map fun x => (x.1 + x.2) % 2 ^ 32) := by
  have hplan : m.shape.mlradd a.shape = .ok (.dense false) := by
    simp only [MShape.mlradd, MReg.shape, hm, ha, hmt, hat, BEq.rfl, if_true]
  simp only [MReg.mlradd, hm, ha, hplan, densify_of_dense hm, hmt, reduceCtorEq, if_false, if_true]

theorem tileAt_sums {m a : MReg} (hmok : MatOk m) (haok : MatOk a) (hm : m.form = .dense) (ha : a.form = .dense) (n : MReg) (tag : Tag)
    {i j : Nat} (hi : i < 64) (hj : j < 64) :
    tileAt (n.putDense tag ((m.tile.1.zip a.tile.1).map fun x => (x.1 + x.2) % 2 ^ 32)) i j = (tileAt m i j + tileAt a i j) % 2 ^ 32 := by
  have hpair : (m.tile.1.zip a.tile.1)[64 * i + j]? = some (tileAt m i j, tileAt a i j) :=
    List.getElem?_zip_eq_some.2 ⟨getElem?_tile hmok hm hi hj, getElem?_tile haok ha hi hj⟩
  rw [tileAt_putDense, getD_map_of_getElem? hpair, Nat.mod_mod]

/-- Column j of a dense tile, from row 0 on. -/
theorem column_of_tile {b : MReg} (hok : MatOk b) (hb : b.form = .dense) {j : Nat} (hj : j < 64) :
    (turn64 (rows64 b.tile.1))[j]? = some ((List.range 64).map fun i => tileAt b i j) := by
  rw [getElem?_turn64 _ hj, rows64, List.map_map]
  refine congrArg some (List.map_congr_left fun i hi => ?_)
  rw [List.mem_range] at hi
  rw [Function.comp_apply, List.getD_eq_getElem?_getD, getElem?_row64 _ _ hj, getElem?_tile hok hb hi hj, Option.getD_some]

/-- A factored register times a dense one: its columns stay, each of its rows is multiplied (09/R210). -/
theorem mlrmul_factor (m b : MReg) {a : MReg} (ha : a.form = .factor) : ∃ st, (m.mlrmul a b).1 = (m.putFactor a.us
    ((a.vs.map natsOf).map fun v => (turn64 (rows64 b.tile.1)).map fun c => BitVec.ofNat 32 (dotF v c).1)).orStat st false := by
  simp only [MReg.mlrmul, ha]
  refine ⟨_, congrArg (MReg.orStat · _ false) (congrArg (m.putFactor a.us) ?_)⟩
  rw [List.map_map]
  exact List.map_congr_left fun v _ => List.map_map

theorem product_row {b : MReg} (hok : MatOk b) (hb : b.form = .dense) {vs : List (List Word)} (hvs : ∀ v ∈ vs, v.length = 64)
    {k j : Nat} (hk : k < vs.length) (hj : j < 64) :
    ((((vs.map natsOf).map fun v => (turn64 (rows64 b.tile.1)).map fun c => BitVec.ofNat 32 (dotF v c).1).getD k []).getD j 0#32).toNat =
      (dotF ((List.range 64).map fun i => ((vs.getD k []).getD i 0#32).toNat) ((List.range 64).map fun i => tileAt b i j)).1 := by
  have hlen : (natsOf (vs.getD k [])).length = 64 := by
    rw [natsOf, List.length_map, List.getD_eq_getElem _ _ hk]; exact hvs _ (List.getElem_mem hk)
  have hrow : natsOf (vs.getD k []) = (List.range 64).map fun i => ((vs.getD k []).getD i 0#32).toNat := by
    rw [eq_map_range_getD 0 hlen]
    exact List.map_congr_left fun i _ => natsOf_getD _ i
  rw [← hrow, List.getD_eq_getElem (l := (vs.map natsOf).map _) [] (by simpa using hk), List.getElem_map, List.getElem_map,
    getD_map_of_getElem? (column_of_tile hok hb hj), BitVec.toNat_ofNat, Nat.mod_eq_of_lt (dotF_lt ..), List.getD_eq_getElem _ _ hk]

/-- Pairs of values by index, multiplied and added. -/
theorem fmaFrom_range (f g : Nat → Nat) (n z : Nat) : fmaFrom z (((List.range n).map f).zip ((List.range n).map g)) =
    (List.range n).foldl (fun z i => (ffmaVal f32 .rne 0 (fdecode f32 (f i)) (fdecode f32 (g i)) (fdecode f32 z)).1) z := by
  rw [List.zip_map', fmaFrom, List.foldl_map]

/-- The vector that the members' register k captured, 0 where a member tacked nothing. -/
def capturedVec (caps : List TackCap) (k : Nat) : List Word :=
  (List.range 64).map fun i => ((caps.find? fun c => c.m == i).map fun c => c.regs.getD k 0#32).getD 0#32

theorem capturedVec_getD (caps : List TackCap) (k : Nat) {i : Nat} (hi : i < 64) : (capturedVec caps k).getD i 0#32 =
    ((caps.find? fun c => c.m == i).map fun c => c.regs.getD k 0#32).getD 0#32 := by
  rw [capturedVec, List.getD_eq_getElem?_getD, getElem?_map_range _ hi, Option.getD_some]

theorem mlru_appends {m : MReg} (caps : List TackCap) (h : m.form ≠ .dense) (hrank : m.us.length < 32) :
    (m.mlru caps).1 = m.putFactor (m.us ++ [capturedVec caps 0]) (m.vs ++ [capturedVec caps 1]) := by
  have hplan : m.shape.mlru = .ok .append := by
    have hform : m.shape.form = m.form := rfl
    have hgrow : m.shape.rank + 1 ≤ 32 := by
      simp only [MReg.shape]; split <;> omega
    have hforeign : m.shape.foreign = false := by rw [MShape.foreign, hform, beq_false_of_ne h, Bool.false_and]
    rw [MShape.mlru, hforeign, if_neg (by decide), hform]
    cases hf : m.form with
    | dense => exact absurd hf h
    | empty => exact if_pos hgrow
    | factor => exact if_pos hgrow
  rw [MReg.mlru, hplan]; rfl

/-! ### An integer product of captured bytes (08/R197) -/

/-- Byte k of the row (0) or column (1) that member m captured, 0 where it tacked nothing. -/
def capturedByte (caps : List TackCap) (col m k : Nat) : Int :=
  match caps.find? fun c => c.m == m with
  | none => 0
  | some c => element .s8 (k % 4) (c.regs.getD (8 * col + k / 4) 0#32).toNat

theorem toInt_s8 (x : Nat) (j : Nat) : toInt true 8 (elemAt 8 j x) = element .s8 j x := by
  have hself : elemAt 8 j x % 2 ^ 8 = elemAt 8 j x := Nat.mod_eq_of_lt (elemAt_lt ..)
  have hbyte : x / 2 ^ (Tag.width .s8 * j) % 2 ^ Tag.width .s8 = elemAt 8 j x := rfl
  have hhighest : highest .s8 = 127 := rfl
  rw [toInt, element, hself, hbyte]
  by_cases h : 2 ^ (8 - 1) ≤ elemAt 8 j x
  · rw [if_pos (by simpa using h), if_pos (by rw [hhighest]; omega)]; rfl
  · rw [if_neg (by simpa using h), if_neg (by rw [hhighest]; omega)]

/-- Byte k of packed registers is byte k mod 4 of register k / 4. -/
theorem elemAt_byte_packed (l : List Word) (k : Nat) :
    elemAt 8 k (packElems 32 (natsOf l)) = elemAt 8 (k % 4) (l.getD (k / 4) 0#32).toNat := by
  have hword : elemAt 32 (k / 4) (packElems 32 (natsOf l)) = (l.getD (k / 4) 0#32).toNat := by
    rw [elemAt_packElems, natsOf_getD, Nat.mod_eq_of_lt (BitVec.isLt _)]
  rw [← hword]
  have hplace : 8 * k = 32 * (k / 4) + 8 * (k % 4) := by omega
  rw [elemAt, elemAt, elemAt, bitsAt, bitsAt.eq_def _ (32 * (k / 4)), bitsAt_mod_two_pow _ _ _ _ (by omega), bitsAt,
    Nat.div_div_eq_div_mul, ← pow_add, ← hplace]

theorem atExp_integer (i : Int) : (FVal.num (decide (i < 0)) i.natAbs 0).atExp 0 = i := by
  simp only [FVal.atExp, decide_eq_true_eq, Int.sub_self, Int.toNat_zero, pow_zero, Nat.mul_one]
  split <;> omega

theorem memberVals_s8 (col : Bool) (caps : List TackCap) (m : Nat) :
    (memberVals .s8 col caps m).map (·.atExp 0) = (List.range 32).map (capturedByte caps (if col then 1 else 0) m) := by
  cases hc : caps.find? fun c => c.m == m with
  | none =>
    have hvals : memberVals .s8 col caps m = List.replicate 32 (.num false 0 0) := by rw [memberVals, hc]; rfl
    have hbyte : ∀ k ∈ List.range 32, capturedByte caps (if col then 1 else 0) m k = 0 := fun k _ => by rw [capturedByte, hc]
    rw [hvals, List.map_congr_left hbyte]; rfl
  | some c =>
    have hvals : ∃ scales, memberVals .s8 col caps m = fragVals .s8 ((c.regs.drop (if col then 8 else 0)).take 8) scales := by
      rw [memberVals, hc]; exact ⟨_, rfl⟩
    obtain ⟨scales, hvals⟩ := hvals
    rw [hvals, fragVals, List.map_map]
    refine List.map_congr_left fun k hk => ?_
    have hreg : ((c.regs.drop (if col then 8 else 0)).take 8).getD (k / 4) 0#32 = c.regs.getD (8 * (if col then 1 else 0) + k / 4) 0#32 := by
      have hk8 : k / 4 < 8 := by have : k < 32 := List.mem_range.1 hk; omega
      rw [List.getD_eq_getElem?_getD, List.getElem?_take_of_lt hk8, List.getElem?_drop, ← List.getD_eq_getElem?_getD]
      cases col <;> rfl
    have hbyte : capturedByte caps (if col then 1 else 0) m k =
        element .s8 (k % 4) (c.regs.getD (8 * (if col then 1 else 0) + k / 4) 0#32).toNat := by
      rw [capturedByte, hc]
    rw [hbyte, ← hreg, ← toInt_s8, ← elemAt_byte_packed]
    exact atExp_integer _

/-- The products of two members' bytes, in order. -/
theorem products_s8 (caps : List TackCap) (i j : Nat) :
    ((memberVals .s8 false caps i).zip (memberVals .s8 true caps j)).map (fun x => x.1.atExp 0 * x.2.atExp 0) =
      (List.range 32).map fun k => capturedByte caps 0 i k * capturedByte caps 1 j k := by
  have hzip := congrArg₂ List.zip (memberVals_s8 false caps i) (memberVals_s8 true caps j)
  have hmul := congrArg (List.map fun x : Int × Int => x.1 * x.2) hzip
  rw [List.zip_map, List.zip_map', List.map_map, List.map_map] at hmul
  exact hmul

theorem mma_integer {m : MReg} (caps : List TackCap) (h : m.form = .dense) (ht : m.tag = .s32) :
    ∃ st, (m.mma false .s8 false caps).1 = (m.putDense .s32 (mmaDense .s8 false caps m.tile.1).1).orStat st false := by
  have hplan : m.shape.mma false .s8 = .ok (.dense false) := by
    simp only [MShape.mma, MReg.shape, MShape.foreign, h, ht]; rfl
  simp only [MReg.mma, hplan, h]
  exact ⟨_, rfl⟩

/-- The integer accumulation of one element: its prior value and the products of two members' bytes. -/
def accumulated (caps : List TackCap) (x i j : Nat) : Int :=
  (x : Int) + ((List.range 32).map fun k => capturedByte caps 0 i k * capturedByte caps 1 j k).sum

theorem dotInt_value (x : Nat) (hx : x < 2 ^ 32) (l : List Int) : ((dotInt false (toInt true 32 x) l).1 : Int) = ((x : Int) + l.sum) % 2 ^ 32 := by
  have hmod : (toInt true 32 x + l.sum) % (2 ^ 32 : Nat) = ((x : Int) + l.sum) % (2 ^ 32 : Nat) := by
    rw [toInt, Nat.mod_eq_of_lt hx]; split <;> omega
  have hvalue : (dotInt false (toInt true 32 x) l).1 = wrapTo 32 (toInt true 32 x + l.sum) := rfl
  rw [hvalue, wrapTo, hmod, Int.toNat_of_nonneg (Int.emod_nonneg _ (by norm_num))]
  rfl

theorem mmaDense_entry {m : MReg} (hok : MatOk m) (hform : m.form = .dense) (caps : List TackCap) {i j : Nat} (hi : i < 64) (hj : j < 64) :
    ((mmaDense .s8 false caps m.tile.1).1.getD (64 * i + j) 0 : Int) =
      (accumulated caps (tileAt m i j) i j) % 2 ^ 32 := by
  have hmember : ∀ col {k : Nat}, k < 64 → ((List.range 64).map (memberVals .s8 col caps))[k]? = some (memberVals .s8 col caps k) :=
    fun _ _ hk => getElem?_map_range _ hk
  have hx : ((m.tile.1.drop (64 * i)).take 64)[j]? = some (tileAt m i j) := by rw [getElem?_row64 _ _ hj, getElem?_tile hok hform hi hj]
  have hentry := getElem?_tableOf (fun p r c => dotInt false (toInt true 32 p) ((r.zip c).map fun x => x.1.atExp 0 * x.2.atExp 0))
    (by rw [List.length_map, List.length_range]) (rows64_rows (tile_length hform)) (hmember false hi) (hmember true hj) (getElem?_rows64 _ hi) hx
  have hdense : (mmaDense .s8 false caps m.tile.1).1 = (tableOf (fun p r c => dotInt false (toInt true 32 p)
    ((r.zip c).map fun x => x.1.atExp 0 * x.2.atExp 0)) ((List.range 64).map (memberVals .s8 false caps))
      ((List.range 64).map (memberVals .s8 true caps)) (rows64 m.tile.1)).map (·.1) := rfl
  rw [hdense, getD_map_of_getElem? hentry, dotInt_value _ (tileAt_lt ..), products_s8]
  rfl

theorem mma_element {m : MReg} (hok : MatOk m) (hform : m.form = .dense) (caps : List TackCap) {i j : Nat} (hi : i < 64) (hj : j < 64)
    (st : Status) : (tileAt ((m.putDense .s32 (mmaDense .s8 false caps m.tile.1).1).orStat st false) i j : Int) =
      accumulated caps (tileAt m i j) i j % 2 ^ 32 := by
  rw [tileAt_orStat, tileAt_putDense, Int.natCast_mod, mmaDense_entry hok hform caps hi hj]
  exact Int.emod_emod_of_dvd _ (by norm_num)

end Sys2Proof.Machine
end

section
namespace Sys2Proof.Machine
open Sys2Proof.Claim

/-! ### The turn of a matrix operation that moves no memory (09/R217, R218) -/

/-- The operation stands for a command that drains, fills or spills the register (09/R219, R220). -/
def MOpKind.moves : MOpKind → Bool
  | .drain _ _ | .fill _ _ _ | .spill _ _ => true
  | _ => false

/-- A team's matrix registers, a core's queue and memory hold these values, and the team is listed and has a live thread, for which
`State.reap` keeps it. What follows an operation's effect in its turn keeps all of this. -/
structure Holding (s : State) (team core : Nat) (regs : List MReg) (queue : List MOp) (mem : Memory) : Prop where
  regs : (s.team team).mregs = regs
  listed : (s.teams.find? fun x => x.id == team).isSome = true
  live : ∃ t ∈ s.threads, t.team = team ∧ t.live = true
  queue : (s.core core).mqueue = queue
  mem : s.mem = mem

theorem listed_editTeam {s : State} {i : Nat} (h : (s.teams.find? fun x => x.id == i).isSome = true) (f : Team → Team)
    (hid : ∀ t, (f t).id = t.id) : ((s.editTeam i f).teams.find? fun x => x.id == i).isSome = true := by
  have hkey : ∀ x : Team, (if x.id == i then f x else x).id = x.id := fun x => by split <;> simp [hid]
  rw [State.editTeam, editBy, find_map_id Team.id _ hkey, Option.isSome_map]
  exact h

theorem latchCounters_live {s : State} {team : Nat} (h : ∃ t ∈ s.threads, t.team = team ∧ t.live = true) :
    ∃ t ∈ s.latchCounters.threads, t.team = team ∧ t.live = true := by
  obtain ⟨t, ht, hteam, hlive⟩ := h
  refine ⟨_, List.mem_map_of_mem ht, ?_⟩
  split
  · split
    · exact ⟨hteam, rfl⟩
    · exact ⟨hteam, hlive⟩
  · exact ⟨hteam, hlive⟩

section
variable {s : State} {team core : Nat} {regs : List MReg} {queue : List MOp} {mem : Memory}

theorem Holding.editTeam (h : Holding s team core regs queue mem) (f : Team → Team) (hid : ∀ t, (f t).id = t.id) {regs' : List MReg}
    (hregs : (f (s.team team)).mregs = regs') : Holding (s.editTeam team f) team core regs' queue mem where
  regs := by rw [team_editTeam_listed h.listed f hid, hregs]
  listed := listed_editTeam h.listed f hid
  live := h.live
  queue := h.queue
  mem := h.mem

theorem Holding.editGroup (h : Holding s team core regs queue mem) (gi : Nat) (f : Group → Group) :
    Holding (s.editGroup team gi f) team core regs queue mem := by
  refine h.editTeam _ ?_ ?_
  · exact fun _ => rfl
  · exact h.regs

theorem Holding.latchCounters (h : Holding s team core regs queue mem) : Holding s.latchCounters team core regs queue mem :=
  ⟨h.regs, h.listed, latchCounters_live h.live, h.queue, h.mem⟩

theorem Holding.matDone (h : Holding s team core regs queue mem) (nv : Bool) (x : Nat × Nat) :
    Holding (s.matDone team nv x) team core regs queue mem :=
  (h.editGroup x.1 _).latchCounters

theorem Holding.falls (nv : Bool) : ∀ (l : List (Nat × Nat)) {s : State}, Holding s team core regs queue mem →
    Holding (l.foldl (fun s x => s.matDone team nv x) s) team core regs queue mem
  | [], _, h => h
  | x :: l, _, h => Holding.falls nv l (h.matDone nv x)

theorem Holding.mpop (h : Holding s team core regs queue mem) (id : Nat) :
    Holding (s.mpop core id) team core regs (dropBy (fun o => o.id == id) queue) mem where
  regs := h.regs
  listed := h.listed
  live := h.live
  queue := by rw [State.mpop, core_editCore_same _ _ _ (core_num ..), h.queue]
  mem := h.mem

theorem Holding.reap (h : Holding s team core regs queue mem) : Holding (s.reap team) team core regs queue mem := by
  obtain ⟨t, ht, hteam, hlive⟩ := h.live
  have hbusy : s.threads.any (fun t => t.team == team && t.live) = true := List.any_eq_true.2 ⟨t, ht, by simp [hteam, hlive]⟩
  rwa [State.reap, hbusy, if_neg (by simp)]

end

/-- The registers of the team after the operation whose turn it is, the queue without it, memory as it was. -/
theorem matrixOp_performed {core : Nat} {s : State} {q : MOp} (hnext : s.mNext core = some q) (hmoves : q.kind.moves = false)
    (hlisted : (s.teams.find? fun x => x.id == q.team).isSome = true) (hlive : ∃ t ∈ s.threads, t.team = q.team ∧ t.live = true) :
    ∃ s', exec (.matrixOpComplete core) s = .next s' ∧ Holding s' q.team core (q.kind.run (s.team q.team).mregs).1
      (dropBy (fun o => o.id == q.id) (s.core core).mqueue) s.mem := by
  have hlatched : Holding (s.latchMstat core q) q.team core (s.team q.team).mregs (s.core core).mqueue s.mem :=
    ⟨rfl, hlisted, hlive, rfl, rfl⟩
  have hexec : exec (.matrixOpComplete core) s = execMatrixOpComplete core s := rfl
  rw [hexec, execMatrixOpComplete, hnext]
  dsimp only
  split
  next hk => simp [hk, MOpKind.moves] at hmoves
  next hk => simp [hk, MOpKind.moves] at hmoves
  next hk => simp [hk, MOpKind.moves] at hmoves
  next =>
    refine ⟨_, rfl, (((hlatched.editTeam _ ?_ ?_).mpop q.id).falls _ _).reap⟩
    · exact fun _ => rfl
    · rfl

end Sys2Proof.Machine
end

section
namespace Sys2Proof.Machine
open Sys2Proof.Claim

/-! ### The registers of the team after an operation -/

theorem getD_set_self {α : Type} {l : List α} {d : Nat} (h : d < l.length) (x y : α) : (l.set d x).getD d y = x := by
  rw [List.getD_eq_getElem?_getD, List.getElem?_set_self h, Option.getD_some]
theorem getD_set_ne {α : Type} (l : List α) {d m : Nat} (h : d ≠ m) (x y : α) : (l.set d x).getD m y = l.getD m y := by
  rw [List.getD_eq_getElem?_getD, List.getElem?_set_ne h, ← List.getD_eq_getElem?_getD]

/-- A register that an operation does not name stays as it is. -/
theorem run_getD_of_not_mem (k : MOpKind) (l : List MReg) {m : Nat} (h : m ∉ k.regs) (y : MReg) : (k.run l).1.getD m y = l.getD m y := by
  cases k with
  | mswap d a =>
    obtain ⟨hd, ha⟩ : m ≠ d ∧ m ≠ a := by simpa [MOpKind.regs] using h
    exact (getD_set_ne _ ha.symm _ _).trans (getD_set_ne _ hd.symm _ _)
  | drain c d => rfl
  | fill c d ty => rfl
  | spill c d => rfl
  | _ => exact getD_set_ne l (List.ne_of_not_mem_cons h).symm _ _

theorem moves_eq_false {k : MOpKind} (hdrain : ∀ c d, k ≠ .drain c d) (hspill : ∀ c d, k ≠ .spill c d)
    (hfill : ∀ c d ty, k ≠ .fill c d ty) : k.moves = false := by
  cases k with
  | drain c d => exact absurd rfl (hdrain c d)
  | spill c d => exact absurd rfl (hspill c d)
  | fill c d ty => exact absurd rfl (hfill c d ty)
  | _ => rfl

theorem clear_eq (m : MReg) (mask : Nat) : m.clear mask = { m with
    inx := m.inx && !mask.testBit 4, rko := m.rko && !mask.testBit 3, nv := m.nv && !mask.testBit 2,
    sat := m.sat && !mask.testBit 1, ov := m.ov && !mask.testBit 0 } := by
  have hbit : ∀ k, (bitsAt mask k 1 == 0) = !mask.testBit k := fun k => by
    rw [Bool.eq_iff_iff, beq_iff_eq, bitsAt_one_eq_zero, Bool.not_eq_true']
  simp only [MReg.clear, hbit]

/-! ### The operations as the obligation states them -/

theorem rows_of_matOk {m : MReg} (h : MatOk m) (hform : m.form = .factor) : m.us.length = m.vs.length ∧ ∀ v ∈ m.vs, v.length = 64 := by
  rw [MatOk, hform] at h
  obtain ⟨hranks, -, -, -, hrows⟩ := h
  exact ⟨hranks, hrows⟩

theorem ranks_eq_of_matOk {m : MReg} (h : MatOk m) (hform : m.form ≠ .dense) : m.us.length = m.vs.length := by
  cases hf : m.form with
  | dense => exact absurd hf hform
  | empty =>
    rw [MatOk, hf] at h
    obtain ⟨hus, hvs, -⟩ := h
    rw [hus, hvs]
  | factor => exact (rows_of_matOk h hf).1

theorem mlru_spec {m : MReg} (hok : MatOk m) (caps : List TackCap) (h : m.form ≠ .dense) (hrank : m.us.length < 32) :
    (m.mlru caps).1.form = .factor ∧ (m.mlru caps).1.us.length = m.us.length + 1 ∧ SameStatus m (m.mlru caps).1 ∧
    (∀ k, k < m.us.length → (m.mlru caps).1.us.getD k [] = m.us.getD k [] ∧ (m.mlru caps).1.vs.getD k [] = m.vs.getD k []) ∧
    ∀ i, i < 64 → ((m.mlru caps).1.us.getD m.us.length []).getD i 0#32 =
      ((caps.find? fun c => c.m == i).map fun c => c.regs.getD 0 0#32).getD 0#32 := by
  have hlast : (m.us ++ [capturedVec caps 0]).getD m.us.length [] = capturedVec caps 0 := by simp
  rw [mlru_appends caps h hrank]
  exact ⟨rfl, List.length_append, ⟨rfl, rfl, rfl, rfl, rfl⟩,
    fun k hk => ⟨List.getD_append _ _ _ _ hk, List.getD_append _ _ _ _ (ranks_eq_of_matOk hok h ▸ hk)⟩,
    fun i hi => (congrArg (List.getD · i 0#32) hlast).trans (capturedVec_getD caps 0 hi)⟩

theorem mlrmul_spec {m a b : MReg} (haok : MatOk a) (hbok : MatOk b) (ha : a.form = .factor) (hb : b.form = .dense) :
    (m.mlrmul a b).1.form = .factor ∧ (m.mlrmul a b).1.us = a.us ∧
    ∀ k j, k < a.us.length → j < 64 → (((m.mlrmul a b).1.vs.getD k []).getD j 0#32).toNat =
      (List.range 64).foldl (fun z i => (ffmaVal f32 .rne 0 (fdecode f32 ((a.vs.getD k []).getD i 0#32).toNat)
        (fdecode f32 (tileAt b i j)) (fdecode f32 z)).1) 0 := by
  obtain ⟨hranks, hrows⟩ := rows_of_matOk haok ha
  obtain ⟨st, hmul⟩ := mlrmul_factor m b ha
  rw [hmul]
  exact ⟨rfl, rfl, fun k j hk hj =>
    (product_row hbok hb hrows (hranks ▸ hk) hj).trans ((dotF_value _ _).trans (fmaFrom_range _ _ _ _))⟩

theorem mma_spec {m : MReg} (hok : MatOk m) (caps : List TackCap) (h : m.form = .dense) (ht : m.tag = .s32) :
    (m.mma false .s8 false caps).1.form = .dense ∧ (m.mma false .s8 false caps).1.tag = .s32 ∧
    ∀ i j, i < 64 → j < 64 → (tileAt (m.mma false .s8 false caps).1 i j : Int) = accumulated caps (tileAt m i j) i j % 2 ^ 32 := by
  obtain ⟨st, hmma⟩ := mma_integer caps h ht
  rw [hmma]
  exact ⟨rfl, rfl, fun i j hi hj => mma_element hok h caps hi hj st⟩

/-- Settles O33: the turn of an operation by `matrixOp_performed`, and what the operation makes of its destination by a lemma for each. -/
theorem matrixResults : Obligations.MatrixResults := by
  unfold Obligations.MatrixResults
  intro core s q R hnext hlen hlisted hlive hok hdrain hspill hfill
  obtain ⟨s', hexec, h⟩ := matrixOp_performed hnext (moves_eq_false hdrain hspill hfill) hlisted hlive
  have hR : ∀ m, R s' m = (q.kind.run (s.team q.team).mregs).1.getD m MReg.reset := fun m => congrArg (List.getD · m MReg.reset) h.regs
  have hdest : ∀ {k : MOpKind} {d : Nat} {x : MReg}, d < 16 → q.kind = k → (k.run (s.team q.team).mregs).1 = (s.team q.team).mregs.set d x →
      R s' d = x := fun hd hk hrun => by rw [hR, hk, hrun, getD_set_self (hlen ▸ hd)]
  refine ⟨s', hexec, fun x => ?queue, fun m hm => (hR m).trans (run_getD_of_not_mem _ _ hm _), fun a => by rw [h.mem], ?zeroed, ?copied, ?swapped,
    ?cleared, ?policy, ?densified, ?appended, ?added, ?multiplied, ?extended, ?accumulated⟩
  case queue => rw [h.queue, mem_dropBy, beq_iff_eq]
  case zeroed =>
    intro d hd hk
    rw [hdest hd hk rfl]
    exact ⟨rfl, rfl, rfl, rfl, rfl, rfl⟩
  case copied =>
    intro d a hd hk
    exact hdest hd hk rfl
  case swapped =>
    intro d a hd ha hne hk
    have hlast : ∀ x : MReg, ((s.team q.team).mregs.set d x).length = 16 := fun x => by rw [List.length_set, hlen]
    rw [hR, hR, hk]
    exact ⟨(getD_set_ne _ hne.symm _ _).trans (getD_set_self (hlen ▸ hd) _ _), getD_set_self (hlast _ ▸ ha) _ _⟩
  case cleared =>
    intro d mask hd hk
    rw [hdest hd hk rfl, clear_eq]
  case policy =>
    intro d x y hd hk
    exact hdest hd hk rfl
  case densified =>
    intro d hd hk hform
    obtain ⟨hdense, htag, helem⟩ := densify_factor hform
    rw [hdest hd hk rfl]
    exact ⟨hdense, htag, fun i j hi hj => (helem i j hi hj).trans (dotF_value _ _)⟩
  case appended =>
    intro d a hd hk hform ha hrank
    rw [hdest hd hk rfl, mlradd_factors hform ha hrank]
    exact ⟨rfl, rfl, rfl, rfl, rfl, rfl, rfl, rfl⟩
  case added =>
    intro d a hd hk hform ha ht hat
    rw [hdest hd hk rfl, mlradd_integers hform ha ht hat]
    exact ⟨rfl, rfl, ⟨rfl, rfl, rfl, rfl, rfl⟩, fun i j hi hj => tileAt_sums (hok d) (hok a) hform ha _ _ hi hj⟩
  case multiplied =>
    intro d a b hd hk ha hb _
    rw [hdest hd hk rfl]
    exact mlrmul_spec (hok a) (hok b) ha hb
  case extended =>
    intro d caps hd hk hform hrank
    rw [hdest hd hk rfl]
    exact mlru_spec (hok d) caps hform hrank
  case accumulated =>
    intro d sat caps hd hk hform ht hsat
    subst hsat
    rw [hdest hd hk rfl]
    exact mma_spec (hok d) caps hform ht

end Sys2Proof.Machine
end

section
namespace Sys2Proof.Machine
open Sys2Proof.Claim

/-! ### The matrix unit's instructions (09/R203, R209, R214) in a lane that is no lane of a group -/

/-- An instruction whose lanes act in turn does not take the stray thread past it. -/
theorem strayThread_not_passed {g : State → Thread → State × Lane} {s' : State}
    (h : (.next (strayState.foldLanes plainPre g) : Out) = .next s') : ¬ Passed s' plainPre strayThread := fun hpassed => by
  have hsettled : strayState.foldLanes plainPre g = strayState.settle strayState.issue :=
    foldLanes_of_lanes_ge strayState plainPre g rfl (by decide +kernel)
  obtain rfl := Host.Outcome.next.inj h
  have hpc : strayThread.pc = strayThread.pc + plainPre.len.bytes := by
    rw [← hpassed.pc, hsettled, strayThread_unmoved]
  exact absurd hpc (by decide)

/-- The stray thread's team has a group for it, with a counter of each class, and no line of the L1 is dirty. -/
theorem strayState_engines : Engines strayState strayThread where
  toResident := strayThread_resident
  listed := strayThread_alone.listed
  group := by decide +kernel
  six := by decide +kernel
  clean := fun _ h => absurd h List.not_mem_nil

theorem strayState_matFree : strayState.engineFull strayThread .mat 0 = false := by decide +kernel

/-- Refutes O31: nothing in its hypotheses bounds a thread's lane, and the lanes of a matrix operation act in turn, lanes 0 to 31 only;
so a thread in lane 32 does not pass its MZERO, which the entry check lets through. A thread that a team starts has a lane below 32: the
clause fails for want of a bound on the lane, as those of O18, O27, O52 and O53 do. -/
theorem not_matrixQueue : ¬ Obligations.MatrixQueue := by
  intro h
  obtain ⟨queued, -⟩ := h (.mzero 0) plainPre false 0 0 strayState strayThread strayThread_alone strayState_engines strayState_matFree
  obtain ⟨enters, -⟩ := queued (by decide) (by decide +kernel) (by decide +kernel)
  obtain ⟨s', hs, hpassed, -⟩ := enters (by decide +kernel)
  exact strayThread_not_passed hs hpassed

/-- Refutes O32: nothing in its hypotheses bounds a thread's lane, and the lanes of a TKSET act in turn, lanes 0 to 31 only; so a thread in
lane 32 does not pass a TKSET of no members, which needs no group. The clause fails for want of a bound on the lane, as that of O31 does. -/
theorem not_tacks : ¬ Obligations.Tacks := by
  intro h
  obtain ⟨configures, -⟩ := h plainPre false false .bf16 0 0 0 0 0 0 0 0 0 strayState strayThread strayThread_alone strayState_engines
    strayState_matFree (by decide +kernel)
  obtain ⟨s', hs, hpassed, -⟩ := configures (by decide) (by decide +kernel) (.inl rfl)
  exact strayThread_not_passed hs hpassed

/-- Refutes O34: nothing in its hypotheses bounds a thread's lane, and the lanes of an MSTAT act in turn, lanes 0 to 31 only; so a thread in
lane 32 does not pass its MSTAT, and no operation stands that would deliver the word. The clause fails for want of a bound on the lane, as
that of O31 does. -/
theorem not_matrixTransfers : ¬ Obligations.MatrixTransfers := by
  intro h
  obtain ⟨issues, -⟩ := h plainPre false false .f32 none 252 0 0 0 strayState strayThread
  obtain ⟨status, -⟩ := issues strayThread_alone
  obtain ⟨s', -, hs, hpassed, -⟩ := status (by decide) (by decide +kernel)
  exact strayThread_not_passed hs hpassed

end Sys2Proof.Machine
end

section
namespace Sys2Proof.Machine
open Sys2Proof.Claim

/-! ### Arrival words, stage rings and engine counters (10/R222 to R233) in a lane that is no lane of a group -/

/-- The stray thread of lane 32 alone is there and issues. -/
structure Stray (s : State) : Prop where
  threads : s.threads = [strayThread]
  issue : s.issue = [strayThread.id]

section Stray
variable {s s' : State} {p : Pre} {g : State → Thread → State × Lane}

/-- An instruction whose lanes act in turn leaves the stray thread as it is. -/
theorem Stray.unmoved (h : Stray s) (hp : permuted p = false) (hs : (.next (s.foldLanes p g) : Out) = .next s') :
    s'.thread strayThread.id = strayThread := by
  have hlane : ∀ i ∈ s.issue, 32 ≤ i.lane := by
    rw [h.issue]
    exact List.forall_mem_singleton.2 le_rfl
  obtain rfl := Host.Outcome.next.inj hs
  rw [foldLanes_of_lanes_ge s p g hp hlane]
  refine State.thread_of_find _ strayThread ?_
  rw [State.settle, h.threads, List.map_singleton, Thread.sealed_ready strayThread s s.issue fun _ hr => nomatch hr]
  rfl

theorem Stray.not_passed (h : Stray s) (hp : permuted p = false) (hs : (.next (s.foldLanes p g) : Out) = .next s') :
    ¬ Passed s' p strayThread := fun hpassed => by
  have hpc := hpassed.pc
  have hlen : 0 < p.len.bytes := by cases p.len <;> decide
  rw [h.unmoved hp hs] at hpc
  omega

theorem Stray.not_trapped {cause : Nat} (h : Stray s) (hp : permuted p = false) (hs : (.next (s.foldLanes p g) : Out) = .next s') :
    ¬ Trapped s' strayThread cause := fun htrapped => by
  obtain ⟨_, hparked, -⟩ := htrapped.run
  rw [h.unmoved hp hs] at hparked
  exact nomatch hparked

theorem Stray.not_waits {w : Wait} {got : Option DWord} (h : Stray s) (hp : permuted p = false)
    (hs : (.next (s.foldLanes p g) : Out) = .next s') : ¬ Waits s' p strayThread w got := fun hwaits => by
  have hblocked := hwaits.run
  rw [h.unmoved hp hs] at hblocked
  exact nomatch hblocked

end Stray

theorem strayCached_stray : Stray strayCached := ⟨rfl, rfl⟩

/-- The header of a 128-bit instruction, whose immediate can name any offset of a scratchpad. -/
def longPre : Pre := { plainPre with len := .l128 }

theorem strayCached_waitIssues {p : Pre} (hguard : p.ge = false) (hp : permuted p = false) : WaitIssues strayCached p strayThread where
  listed := strayCached_alone.listed
  issued := strayCached_alone.issued
  form := strayCached_alone.form
  passes := by rw [State.guard, hguard]; rfl
  alone := by rw [State.actors, hp]; rfl
  ready := strayCached_alone.ready
  stands := fun h => absurd (hp.symm.trans h) (by decide)
  unlogged := strayCached_unlogged

/-- The word at the first offset of the scratchpad that a program may use. -/
theorem strayCached_inScratch : InScratch strayCached longPre strayThread 255 16384 16 16384 where
  formed := by decide +kernel
  above := le_rfl
  fits := by decide +kernel
  aligned := by decide
  resident := by decide +kernel
  good := fun _ h => absurd h List.not_mem_nil
  form := by decide +kernel

/-- Refutes O22: nothing in its hypotheses bounds a thread's lane, and the lanes of an AWSET act in turn, lanes 0 to 31 only; so a thread
in lane 32 does not pass an AWSET of a word in its team's scratchpad. A thread that a team starts has a lane below 32: the clause fails for
want of a bound on the lane, as that of O31 does, not for what an AWSET does in a lane of a group. -/
theorem not_arrivalWords : ¬ Obligations.ArrivalWords := by
  intro h
  obtain ⟨issues, -⟩ := h longPre .th 254 255 255 255 16384 16384 strayCached strayThread
  obtain ⟨awset, -⟩ := issues (strayCached_waitIssues rfl rfl)
  obtain ⟨s', _, hs, hpassed, -⟩ := awset (by decide) (by decide +kernel) (by decide +kernel) strayCached_inScratch
  exact strayCached_stray.not_passed rfl hs hpassed

/-- Refutes O23: nothing in its hypotheses bounds a thread's lane, and the lanes of an SRINIT act in turn, lanes 0 to 31 only; so a thread
in lane 32 does not trap at an SRINIT of a ring at offset 0, which breaks a limit. The clause fails for want of a bound on the lane, as
that of O22 does. -/
theorem not_stageRings : ¬ Obligations.StageRings := by
  intro h
  obtain ⟨issues, -⟩ := h plainPre false 255 255 255 strayCached strayThread
  obtain ⟨srinit, -⟩ := issues (strayCached_waitIssues rfl rfl)
  obtain ⟨breaks, -⟩ := srinit (by decide) (by decide +kernel)
  have hlow : ¬ 16384 ≤ strayCached.srcVal strayThread plainPre (srcR 1 255 noPerm) := by decide +kernel
  obtain ⟨s', hs, htrapped, -⟩ := breaks fun ⟨_, habove, _⟩ => hlow habove
  exact strayCached_stray.not_trapped rfl hs htrapped

/-- Refutes O24: nothing in its hypotheses bounds a thread's lane, and the lanes of a WAITC act in turn, lanes 0 to 31 only; so a thread in
lane 32 does not come to wait at its WAITC. The clause fails for want of a bound on the lane, as that of O22 does. -/
theorem not_engineCounters : ¬ Obligations.EngineCounters := by
  intro h
  obtain ⟨waitc, -⟩ := h plainPre .copy 255 (.imm 0) strayCached strayThread
  obtain ⟨s', _, hs, -, -, hwaits⟩ := waitc strayCached_alone (by decide) (by decide +kernel)
  exact strayCached_stray.not_waits rfl hs hwaits

end Sys2Proof.Machine
end

section
namespace Sys2Proof.Machine
open Sys2Proof.Claim

/-! ### Engine commands whose record the L1 holds (10/R235 to R244, 18/R387), in a lane that is no lane of a group -/

/-- The stray thread, on a core whose L1 holds a line of these bits at address 0; its team's scratchpad holds `scr`. -/
def strayRecord (bits : Nat) (scr : Memory) : State :=
  { strayCached with l1 := [{ lineAtZero with data := bits }], teams := [{ placedTeam 1 1 with scr := scr }] }

theorem strayRecord_stray (bits : Nat) (scr : Memory) : Stray (strayRecord bits scr) := ⟨rfl, rfl⟩

theorem strayRecord_alone (bits : Nat) (scr : Memory) : Alone (strayRecord bits scr) plainPre strayThread where
  listed := strayCached_alone.listed
  issued := strayCached_alone.issued
  form := strayCached_alone.form
  passes := rfl
  alone := rfl
  ready := rfl
  stands := fun h => absurd h (by decide)

/-- A gather of one element of one byte from a table at address 0, with its index and its dense side in scratchpad (10/R238). -/
def gatherRecord : Nat := 3 * 2 ^ 16 + 2 ^ 32 + 2 ^ 128 + 16384 * 2 ^ 192 + 16384 * 2 ^ 256

/-- A stream of one byte with one frame of two by two samples, its luminance plane output in BF16 by tensor state 0, and a word at the first
offset of the scratchpad that a program may use (10/R241). -/
def decodeRecord : Nat := 2 ^ 64 + 2 ^ 128 + 2 ^ 168 + 2 * 2 ^ 224 + 2 * 2 ^ 240 + 16384 * 2 ^ 512

/-- A tensor state of that plane: two by two by one elements of BF16 in scratchpad, in order (07/R155, R156). -/
def planeState : Memory :=
  memWrite (memWrite (memWrite [] 0 (leBytes 8 (2 + 3 * 2 ^ 4 + 3 * 2 ^ 8 + 2 * 2 ^ 16) ++ leBytes 8 16384)) 32
    (leBytes 8 (1 + 2 * 2 ^ 8) ++ leBytes 8 (1 + 2 * 2 ^ 8) ++ leBytes 8 (2 ^ 8))) 128 (leBytes 8 1 ++ leBytes 8 2)

/-- The state after the stray thread's read of `gatherRecord`, and after that of `decodeRecord`. -/
def gatherRead : State := ((strayRecord gatherRecord []).recordG plainPre strayThread 0 8 64).1
def decodeRead : State := ((strayRecord decodeRecord planeState).recordG plainPre strayThread 0 16 128).1

theorem recordG_gatherRecord :
    (strayRecord gatherRecord []).recordG plainPre strayThread 0 8 64 = (gatherRead, .ok (leBytes 64 gatherRecord)) :=
  Prod.ext rfl (by decide +kernel)

theorem recordG_decodeRecord :
    (strayRecord decodeRecord planeState).recordG plainPre strayThread 0 16 128 = (decodeRead, .ok (leBytes 128 decodeRecord)) :=
  Prod.ext rfl (by decide +kernel)

theorem recordG_zeros : (strayRecord 0 []).recordG plainPre strayThread 0 16 128 =
    (((strayRecord 0 []).recordG plainPre strayThread 0 16 128).1, .ok (leBytes 128 0)) :=
  Prod.ext rfl (by decide +kernel)

theorem gatherRead_engines : Engines gatherRead strayThread where
  resident := by decide +kernel
  form := by decide +kernel
  listed := by decide +kernel
  group := by decide +kernel
  six := by decide +kernel
  clean := by decide +kernel

theorem decodeRead_engines : Engines decodeRead strayThread where
  resident := by decide +kernel
  form := by decide +kernel
  listed := by decide +kernel
  group := by decide +kernel
  six := by decide +kernel
  clean := by decide +kernel

theorem decodeRead_wordFine : WordFine decodeRead strayThread (some { scr := true, addr := recField (leBytes 128 decodeRecord) 64 8 }) := by
  rintro _ ⟨⟩
  exact ⟨rfl, by decide +kernel, by decide +kernel, by decide +kernel⟩

/-- Refutes O28: nothing in its hypotheses bounds a thread's lane, and the lanes of a GATHER act in turn, lanes 0 to 31 only; so a thread
in lane 32 does not pass its GATHER, whose record is within R238's limits, and issues no command. The clause fails for want of a bound on
the lane, as that of O22 does, not for what a GATHER does in a lane of a group. -/
theorem not_gathersAndScatters : ¬ Obligations.GathersAndScatters := by
  intro h
  have noWord : recField (leBytes 64 gatherRecord) 40 8 = 0 := by decide +kernel
  obtain ⟨issues, -⟩ := h plainPre false none 255 (strayRecord gatherRecord []) gatherRead strayThread (leBytes 64 gatherRecord)
  obtain ⟨gather, -⟩ := issues (strayRecord_alone _ _) (by decide +kernel) recordG_gatherRecord (by decide +kernel) gatherRead_engines
    (by decide +kernel) fun _ hw => nomatch (if_pos noWord).symm.trans hw
  obtain ⟨s', hs, hpassed, -⟩ := gather (by decide)
  exact (strayRecord_stray _ _).not_passed rfl hs hpassed

/-- Refutes O29: nothing in its hypotheses bounds a thread's lane, and the lanes of a COLL act in turn, lanes 0 to 31 only; so a thread in
lane 32 does not trap at a COLL of a record of zeros, whose operation is none of R235's. The clause fails for want of a bound on the lane,
as that of O22 does. -/
theorem not_collectives : ¬ Obligations.Collectives := by
  intro h
  obtain ⟨issues, -⟩ := h plainPre none 255 (strayRecord 0 []) _ strayThread (leBytes 128 0)
  obtain ⟨breaks, -⟩ := issues (strayRecord_alone _ _) (by decide) (by decide +kernel) recordG_zeros
  obtain ⟨s', hs, htrapped, -⟩ := breaks (by decide +kernel) (by decide +kernel)
  exact (strayRecord_stray _ _).not_trapped rfl hs htrapped

/-- Refutes O30: nothing in its hypotheses bounds a thread's lane, and the lanes of a DECODE act in turn, lanes 0 to 31 only; so a thread in
lane 32 does not pass its DECODE, whose record is within R241's limits, though both queues of its panel have room. The clause fails for want
of a bound on the lane, as that of O22 does, not for what a DECODE does in a lane of a group. -/
theorem not_decoding : ¬ Obligations.Decoding := by
  intro h
  obtain ⟨decode, -⟩ := h plainPre none 252 255 (strayRecord decodeRecord planeState) decodeRead strayThread (leBytes 128 decodeRecord)
  obtain ⟨s', hs, hpassed, -⟩ := decode (strayRecord_alone _ _) (by decide) (by decide +kernel) recordG_decodeRecord (by decide +kernel)
    (by decide +kernel) (by decide +kernel) (by decide +kernel) decodeRead_engines (by decide +kernel) (.inl (by decide +kernel))
    decodeRead_wordFine
  exact (strayRecord_stray _ _).not_passed rfl hs hpassed

end Sys2Proof.Machine
end
